-- ==== Sys2Proof/Word.lean ====
section
/-! DEFINITION. The word types of Shotis (10 R243, 02 R39) and the plainest tables over them. -/
namespace Sys2Proof

/-- A byte of any address space (00 R6). -/
abbrev Byte := BitVec 8
/-- A 16-bit half. -/
abbrev Half := BitVec 16
/-- A 32-bit word: an instruction word, a lane register (01 R15). -/
abbrev Word := BitVec 32
/-- A 64-bit word: a uniform register (01 R15). -/
abbrev DWord := BitVec 64
/-- One bit for each of the 32 lanes of a troupe (01 R9). -/
abbrev Mask := BitVec 32

end Sys2Proof
end

