-- ==== Sys2Proof/Machine/Tab.lean ====
section
/-! DEFINITION. Sparse tables in rising key order, and 32-lane columns. Memory, register files and the tables of
blocks, troupes and splits are all held in these, so that equal contents are equal data. -/
namespace Sys2Proof

/-- A table from natural keys to values: pairs in strictly rising key order. -/
abbrev Tab (α : Type) := List (Nat × α)

/-- The value at a key, or `d` where the key is not listed. -/
def Tab.get {α : Type} (d : α) : Tab α → Nat → α
  | [], _ => d
  | (k, v) :: r, i => if i = k then v else Tab.get d r i

/-- The value at a key, if listed. -/
def Tab.find {α : Type} : Tab α → Nat → Option α
  | [], _ => none
  | (k, v) :: r, i => if i = k then some v else Tab.find r i

/-- Lists `v` at key `i`, in its place. -/
def Tab.put {α : Type} : Tab α → Nat → α → Tab α
  | [], i, v => [(i, v)]
  | (k, w) :: r, i, v =>
    if i < k then (i, v) :: (k, w) :: r
    else if i = k then (i, v) :: r
    else (k, w) :: Tab.put r i v

/-- Removes key `i`. -/
def Tab.del {α : Type} (t : Tab α) (i : Nat) : Tab α := t.filter fun p => !(p.1 == i)

/-- Writes `v` at `i`, keeping the canonical form: a key whose value is the default is not listed. -/
def Tab.set {α : Type} [DecidableEq α] (d : α) (t : Tab α) (i : Nat) (v : α) : Tab α :=
  if v = d then Tab.del t i else Tab.put t i v

/-- Changes the value at a listed key; an unlisted key stays unlisted. -/
def Tab.mod {α : Type} (t : Tab α) (i : Nat) (f : α → α) : Tab α :=
  t.map fun p => if p.1 = i then (p.1, f p.2) else p

/-- The listed keys. -/
def Tab.keys {α : Type} (t : Tab α) : List Nat := t.map Prod.fst

/-- The canonical form: keys strictly rising, no listed value equal to the default. -/
def Tab.wf {α : Type} [DecidableEq α] (d : α) : Tab α → Bool
  | [] => true
  | [(_, v)] => decide (v ≠ d)
  | (k, v) :: (k', v') :: r => decide (k < k') && decide (v ≠ d) && Tab.wf d ((k', v') :: r)

/-- The first free key of a table of structures. -/
def Tab.fresh {α : Type} (t : Tab α) : Nat := t.foldl (fun n p => max n (p.1 + 1)) 0

/-- A column: one value for each of the 32 lanes. -/
abbrev Lanes (α : Type) := List α

/-- The lane numbers in ascending order. -/
def lanes32 : List Nat := List.range 32

/-- The column whose lane `l` holds `f l`. -/
def Lanes.of {α : Type} (f : Nat → α) : Lanes α := lanes32.map f

/-- Lane `l` of a column; `d` where the column is the empty one of reset. -/
def Lanes.get {α : Type} (d : α) (c : Lanes α) (l : Nat) : α := c.getD l d

/-- The lanes a mask names, in ascending order. -/
def lanesOf (m : Mask) : List Nat := lanes32.filter fun l => m.getLsbD l

/-- The mask of the lanes that satisfy `p`. -/
def maskOf (p : Nat → Bool) : Mask :=
  lanes32.foldl (fun m l => if p l then m ||| (1#32 <<< l) else m) 0#32

/-- The lowest lane of a mask (0 for the empty mask). -/
def lowLane (m : Mask) : Nat := (lanesOf m).headD 0

/-- The number of set bits. -/
def popcount {w : Nat} (x : BitVec w) : Nat := (List.range w).countP fun i => x.getLsbD i

/-- The number of leading zero bits; `w` for zero. -/
def clz {w : Nat} (x : BitVec w) : Nat :=
  if x.toNat = 0 then w else w - 1 - Nat.log2 x.toNat

/-- Bits [hi:lo] of a natural number. -/
def bits (x hi lo : Nat) : Nat := (x / 2 ^ lo) % 2 ^ (hi + 1 - lo)

/-- One bit of a natural number. -/
def bit (x i : Nat) : Bool := (x / 2 ^ i) % 2 = 1

/-- A natural number of `w` bits read as two's complement. -/
def sextN (w x : Nat) : Int := if x % 2 ^ w < 2 ^ (w - 1) then (x % 2 ^ w : Int) else (x % 2 ^ w : Int) - 2 ^ w

/-- The low `w` bits of an integer, as a natural number. -/
def wrapN (w : Nat) (x : Int) : Nat := (x % (2 ^ w : Int)).toNat

/-- Little-endian: the value of a list of bytes, lowest address first (00 R6). -/
def leNat : List Byte → Nat
  | [] => 0
  | b :: r => b.toNat + 256 * leNat r

/-- The `n` little-endian bytes of a value (00 R6). -/
def leBytes : Nat → Nat → List Byte
  | 0, _ => []
  | n + 1, x => BitVec.ofNat 8 x :: leBytes n (x / 256)

/-- A number rounded up to a multiple of `a`. -/
def roundUp (x a : Nat) : Nat := (x + a - 1) / a * a

end Sys2Proof
end

