-- ==== Sys2Proof/Syntax.lean ====
section
/-! DEFINITION. The steps of Shotis: one constructor of `Instr` for each row of the table of operations and events.
Instruction words are held as their fields (10 Tables 10.1, 10.3, 10.5); chain entries as the fields of 04 Table 4.7;
events as the names of what they act on. -/
namespace Sys2Proof

/-- The fields of a one-word lane instruction (10 Table 10.1): H, N, destination, operand codes a and b. -/
structure LR where
  h : Bool
  n : Bool
  d : BitVec 7
  a : BitVec 8
  b : BitVec 8
  deriving DecidableEq, Repr

/-- The fields of a two-word lane instruction (10 Tables 10.1 and 10.3). -/
structure LW where
  h : Bool
  n : Bool
  d : BitVec 7
  a : BitVec 8
  b : BitVec 8
  c : BitVec 8
  t : BitVec 4
  gs : Bool
  gp : BitVec 3
  m : BitVec 8
  deriving DecidableEq, Repr

/-- The fields of a LIMM instruction (10 R248); the selector a is the constructor. -/
structure LI where
  h : Bool
  n : Bool
  d : BitVec 7
  b : BitVec 8
  imm : Word
  deriving DecidableEq, Repr

/-- The fields of a UR word (10 Table 10.5). -/
structure UR where
  h : Bool
  n : Bool
  d : BitVec 6
  a : BitVec 6
  b : BitVec 6
  x : BitVec 5
  deriving DecidableEq, Repr

/-- The fields of a UI word (10 Table 10.5). -/
structure UI where
  h : Bool
  n : Bool
  d : BitVec 6
  a : BitVec 6
  imm : BitVec 11
  deriving DecidableEq, Repr

/-- The fields of a UB word (01 R26). -/
structure UB where
  h : Bool
  n : Bool
  sel : BitVec 3
  sense : Bool
  off : BitVec 19
  deriving DecidableEq, Repr

/-- The fields of a two-word uniform instruction (10 R259): a UR first word, and `w`, the second word whose [31:24] is
the fn that the constructor stands for. SMOVI uses all of `w` as its constant (10 R259); every other entry uses [23:0]. -/
structure UW where
  h : Bool
  n : Bool
  d : BitVec 6
  a : BitVec 6
  b : BitVec 6
  x : BitVec 5
  w : Word
  deriving DecidableEq, Repr

/-- A chain entry, the fields of 04 Table 4.7 other than the op, which is the constructor. `ctl` is [31:8] of the
control word. -/
structure Entry where
  ctl : BitVec 24
  caps : Word
  src : DWord
  dst : DWord
  aux : DWord
  len : Word
  count : Word
  sstride : Word
  dstride : Word
  param : Word
  group : Word
  link : DWord
  deriving DecidableEq, Repr

/-- A message in flight (07 R208, R209; 14 R356): the channel, who sent it (core, package, block, task, and the tag of the
capability it was sent through), and its payload. -/
structure Msg where
  part : Nat
  obj : Nat
  gen : Nat
  core : Nat
  pkg : Nat
  block : Nat
  task : Nat
  tag : Option Nat
  data : List Byte
  deriving DecidableEq, Repr

/-- Where an atomic or a reduction acts: a slice address, or an offset in a bulk object of a partition, in its front or back
copy (04 R125). -/
inductive FabPlace where
  | slice (addr : Nat)
  | bulk (part obj off : Nat) (back : Bool)
  deriving DecidableEq, Repr

/-- What comes back with the acknowledgement of an operation: whether a guarded granule refused it (04 R111), whether a guard
or chain could not do it (04 R118, 13 R345, 14 R359), whether it met poison (08 R216), and the flags a reduction raised (02
R67); of a PUB, the packages that are still to be told (04 R126). -/
structure FabReply where
  denied : Bool := false
  geom : Bool := false
  poison : Bool := false
  flags : Nat := 0
  tell : List Nat := []
  deriving DecidableEq, Repr

/-- Which of the operations sent to a package: the guard of a remote arrival, which has numbers of its own, and the number (04
R115, 05 R158). -/
structure FabId where
  guard : Option Nat
  seq : Nat
  deriving DecidableEq, Repr

/-- An acknowledgement: the operation it names, and what comes back. -/
structure FabAck extends FabId where
  reply : FabReply
  deriving DecidableEq, Repr

/-- What packages tell each other about a gang launch (06 R178), named by its graph and node on the package that runs the
node. -/
inductive GangMsg where
  /-- place the share a launch descriptor describes, in a partition, for a completion guard; privileged or not -/
  | ask (g n part guard : Nat) (super : Bool) (image : List Byte)
  /-- every block of the share is resident, at a pod time -/
  | ready (g n tick : Nat)
  /-- the share can never be held -/
  | refuse (g n : Nat)
  /-- the start tick -/
  | start (g n tick : Nat)
  /-- the node has failed: the share is released without issuing -/
  | release (g n : Nat)
  /-- every block of the share has ended, with the task error word -/
  | done (g n err : Nat)
  /-- the graph has completed: the guard bits of its shares are cleared (04 R111) -/
  | clear (g : Nat)
  deriving DecidableEq, Repr

/-- What a sequenced operation from another package does here (04 R115, 05 R158). Addresses are slice addresses of this
package, or an object id and byte offset. -/
inductive FabOp where
  /-- a store or landing of bytes in a slice -/
  | store (addr : Nat) (data : List Byte)
  /-- a store or landing of bytes in a bulk object of a partition, in its front or back copy -/
  | bulk (part obj off : Nat) (back : Bool) (data : List Byte)
  /-- the combined atomic of one instruction on one address (04 R129): compare-and-swap or not, operation and type code,
  and the operands with the expected values, in lane order -/
  | atomic (at' : FabPlace) (cas : Bool) (op t : Nat) (xs : List (Nat × Nat))
  /-- a landing of SCATADD: elements reduced into their places (04 R131) -/
  | reduce (at' : FabPlace) (op t : Nat) (data : List Byte)
  /-- a landing with K in a slice: bytes stored, or reduced by an operation and type code, and then the sums made of the tiles
  that it fills (03 R96, 04 Table 4.7) -/
  | remade (addr : Nat) (red : Option (Nat × Nat)) (data : List Byte) (tiles : List Nat)
  /-- n arrivals on a guard, with flags merged first -/
  | arrive (guard n flags : Nat)
  /-- n bytes landed, counted on a guard -/
  | landed (guard n flags : Nat)
  /-- EXPECT of n bytes -/
  | expect (guard n : Nat)
  /-- a troupe of the sender begins or ends its wait on a guard (04 R114, Table 4.3 w7) -/
  | wait (guard : Nat) (up : Bool)
  /-- a block of the task that has this completion guard was relaunched: its attempt rises (08 R218) -/
  | attempt (guard : Nat)
  /-- the copies of an object of package `home` have changed places (04 R126) -/
  | swapped (home part obj : Nat)
  /-- GINIT by a task of the sender, with the expected arrivals and bytes -/
  | ginit (guard expected expBytes task : Nat)
  /-- a launch of a task of the sender through `.guard`: the guard's bits are set (04 R111) -/
  | guardBits (guard task : Nat)
  /-- a task's graph has completed: the guard bits set on its behalf are cleared (04 R111) -/
  | cleared (task : Nat)
  /-- PUB on an object of the receiver: its copies change places (04 R126) -/
  | pub (part obj : Nat)
  /-- GBIND of a binding entry -/
  | gbind (guard entry : Nat)
  /-- GUNB of a binding entry, or of all -/
  | gunb (guard : Nat) (entry : Option Nat)
  /-- a message for a channel, and the refusal of one sent from here -/
  | message (m : Msg)
  | refusal (m : Msg)
  /-- EAPP of the entry at a slice address to a chain, by a block of a task of the sender with the chain capability's tag, and
  EADV -/
  | append (ch entry b task : Nat) (tag : Option Nat)
  | advance (ch n : Nat)
  /-- a relaunched block of the sender withdraws what it appended beyond `advanced` (08 R217) -/
  | unlink (ch b : Nat)
  /-- an entry that a block of the receiver appended has stopped its chain (04 R127): block, task, tag, code -/
  | stopped (b task : Nat) (tag : Option Nat) (code : Nat)
  /-- an entry an ENGINE node copies into a chain, eligible at once (06 Table 6.3) -/
  | copied (ch : Nat) (data : List Byte)
  /-- the abort token of a collective, for a die's engine (08 R223) -/
  | abort (die group attempt : Nat)
  /-- a gang launch (06 R178) -/
  | gang (m : GangMsg)
  deriving DecidableEq, Repr

/-- Population and cross-lane scope: one troupe of the block, or the whole block (01 R21). -/
inductive Scope where
  | troupe (t : Nat)
  | block
  deriving DecidableEq, Repr

/-- What PARTITION assigns (09 R239, Table 9.3; 07 R192). Addresses: `objtab` a device address, `chain` a slice address,
rings, event ring, directory and group table word addresses (06 R165); `status` the device address of the status page,
0 for none (09 R241). -/
structure PartCfg where
  part : Nat
  quads : List Nat
  slots : List Nat
  objtab : Nat
  events : Nat
  eventCap : Nat
  user : Nat
  super : Nat
  /-- the lengths of the two rings (09 R234) -/
  lenU : Nat
  lenS : Nat
  chain : Nat
  channels : Nat
  groups : Nat
  peers : List Nat
  plaintext : Bool
  status : Nat
  deriving DecidableEq, Repr

/-- What a DEBUG command does (08 R229 to R231). -/
inductive DebugOp where
  | gate (isOpen : Bool)
  | stop (b t : Nat)
  | go (b t : Nat)
  | blockStop (b : Nat) (on : Bool)
  deriving DecidableEq, Repr

/-- The levels of the security alarm (07 Table 7.9). -/
inductive AlarmLevel where
  | note
  | halt
  | erase
  deriving DecidableEq, Repr

/-- One constructor for each row of spec/opcode_table.json. -/
inductive Instr where
  /-- IADD (R297): Lane integer add modulo 2^32 in every active lane. -/
  | iadd (f : LR)
  /-- ISUB (R297): Lane integer subtract modulo 2^32. -/
  | isub (f : LR)
  /-- IMUL (R297): Lane integer multiply, low 32 bits. -/
  | imul (f : LR)
  /-- IMULH (R297): Lane signed multiply, high 32 bits, one-word form. -/
  | imulh (f : LR)
  /-- IMIN (R297): Lane signed minimum, one-word form. -/
  | imin (f : LR)
  /-- IMAX (R297): Lane signed maximum, one-word form. -/
  | imax (f : LR)
  /-- AND (R297): Lane bitwise AND. -/
  | and (f : LR)
  /-- OR (R297): Lane bitwise OR. -/
  | or (f : LR)
  /-- XOR (R297): Lane bitwise XOR. -/
  | xor (f : LR)
  /-- ANDN (R297): Lane a AND NOT b. -/
  | andn (f : LR)
  /-- SHL (R297): Lane shift left, 0 for counts of 32 or more. -/
  | shl (f : LR)
  /-- SHR (R297): Lane logical shift right. -/
  | shr (f : LR)
  /-- SAR (R297): Lane arithmetic shift right. -/
  | sar (f : LR)
  /-- POPC (R297): Lane population count of a plus b. -/
  | popc (f : LR)
  /-- CLZ (R297): Lane count of leading zero bits. -/
  | clz (f : LR)
  /-- BREV (R297): Lane bit reversal. -/
  | brev (f : LR)
  /-- MOV (R297): Lane move of an operand to a register. -/
  | mov (f : LR)
  /-- FADD_F32 (R298): One-word f32 add with rne. -/
  | faddF32 (f : LR)
  /-- FMUL_F32 (R298): One-word f32 multiply with rne. -/
  | fmulF32 (f : LR)
  /-- FMIN_F32 (R298): One-word f32 minimumNumber. -/
  | fminF32 (f : LR)
  /-- FMAX_F32 (R298): One-word f32 maximumNumber. -/
  | fmaxF32 (f : LR)
  /-- SWIZ_SEL (R324): One-word swizzle selecting one source lane, all lanes members. -/
  | swizSel (f : LR)
  /-- QPUSH (R328): Push a value into the partner troupe's inbound queue per lane. -/
  | qpush (f : LR)
  /-- IMULH_TYPED (R299): Typed high multiply, signed or unsigned. -/
  | imulhTyped (f : LW)
  /-- IMIN_TYPED (R299): Typed and packed integer minimum. -/
  | iminTyped (f : LW)
  /-- IMAX_TYPED (R299): Typed and packed integer maximum. -/
  | imaxTyped (f : LW)
  /-- IMAD (R299): Integer multiply-add, optionally saturating. -/
  | imad (f : LW)
  /-- IABS (R299): Integer absolute value, optionally saturating. -/
  | iabs (f : LW)
  /-- ICMP (R300): Integer compare writing a predicate. -/
  | icmp (f : LW)
  /-- SEL (R301): Select one of two operands by a predicate. -/
  | sel (f : LW)
  /-- LUT3 (R302): Bitwise three-input function from an 8-bit truth table. -/
  | lut3 (f : LW)
  /-- BFE (R303): Extract a bit field, zero- or sign-extended. -/
  | bfe (f : LW)
  /-- BFI (R304): Insert a bit field. -/
  | bfi (f : LW)
  /-- BSEL (R305): Build a word from chosen, constant and sign-fill bytes. -/
  | bsel (f : LW)
  /-- MOVI (R306): Move a 32-bit immediate into a lane register. -/
  | movi (f : LI)
  /-- IADDI (R306): Add a 32-bit immediate. -/
  | iaddi (f : LI)
  /-- ANDI (R306): AND with a 32-bit immediate. -/
  | andi (f : LI)
  /-- ORI (R306): OR with a 32-bit immediate. -/
  | ori (f : LI)
  /-- XORI (R306): XOR with a 32-bit immediate. -/
  | xori (f : LI)
  /-- FADDI (R306): f32 add of an immediate with rne. -/
  | faddi (f : LI)
  /-- FMULI (R306): f32 multiply by an immediate with rne. -/
  | fmuli (f : LI)
  /-- FADD (R308): Typed floating add with rounding mode and modifiers. -/
  | fadd (f : LW)
  /-- FMUL (R308): Typed floating multiply. -/
  | fmul (f : LW)
  /-- FFMA (R308): Fused multiply-add rounded once. -/
  | ffma (f : LW)
  /-- FMIN (R308): Typed floating minimumNumber. -/
  | fmin (f : LW)
  /-- FMAX (R308): Typed floating maximumNumber. -/
  | fmax (f : LW)
  /-- FCMP (R309): Quiet floating compare writing a predicate. -/
  | fcmp (f : LW)
  /-- FRND (R310): Round to an integral value in the same format. -/
  | frnd (f : LW)
  /-- FSCL (R311): Multiply by a power of two, rounded once. -/
  | fscl (f : LW)
  /-- FCLS (R312): Classify a floating value into a one-hot mask. -/
  | fcls (f : LW)
  /-- FRCP (R313): Correctly rounded reciprocal. -/
  | frcp (f : LW)
  /-- FRSQ (R313): Correctly rounded reciprocal square root. -/
  | frsq (f : LW)
  /-- FSQRT (R313): Correctly rounded square root. -/
  | fsqrt (f : LW)
  /-- FEXP2 (R313): Correctly rounded base-2 exponential. -/
  | fexp2 (f : LW)
  /-- FLOG2 (R313): Correctly rounded base-2 logarithm. -/
  | flog2 (f : LW)
  /-- CVT (R314): Convert between types of equal element count. -/
  | cvt (f : LW)
  /-- PACK (R315): Convert two scalars into a pair of packed elements. -/
  | pack (f : LW)
  /-- UNPK (R316): Widen one element of a packed value exactly. -/
  | unpk (f : LW)
  /-- CBDEC (R317): Decode cb8 codebook weights through a slice table read. -/
  | cbdec (f : LW)
  /-- QSCL (R318): Compute a power-of-two bf16 block scale. -/
  | qscl (f : LW)
  /-- QNT (R319): Quantise a value by a scale into a packed element. -/
  | qnt (f : LW)
  /-- SALSEL (R320): Return the residual left by quantisation. -/
  | salsel (f : LW)
  /-- SWIZ (R324): Cross-lane swizzle by sel, rot, mir or xor within segments. -/
  | swiz (f : LW)
  /-- SHX (R325): Masked butterfly bit exchange between lane pairs. -/
  | shx (f : LW)
  /-- AGREE (R326): Vote all, any, same or most over members into a predicate. -/
  | agree (f : LW)
  /-- BALLOT (R326): Gather a predicate mask of members into a uniform register. -/
  | ballot (f : LW)
  /-- ELECT (R326): Set a predicate in the lowest-positioned active member. -/
  | elect (f : LW)
  /-- RANK (R326): Count lower-positioned members with the predicate set. -/
  | rank (f : LW)
  /-- PEERS (R326): Find lanes holding equal values: mask, lead, rank or same. -/
  | peers (f : LW)
  /-- RED (R327): Reduce over members in a fixed pairwise tree. -/
  | red (f : LW)
  /-- SCAN (R327): Sequential inclusive or exclusive scan over members. -/
  | scan (f : LW)
  /-- LDL (R339): Load from lane-private space. -/
  | ldl (f : LW)
  /-- STL (R339): Store to lane-private space, unbuffered. -/
  | stl (f : LW)
  /-- LDS (R339): Load from slice space through a capability. -/
  | lds (f : LW)
  /-- STS (R339): Buffered store to slice space. -/
  | sts (f : LW)
  /-- LDB (R339): Load from bulk space through the bulk cache. -/
  | ldb (f : LW)
  /-- STB (R339): Buffered store to bulk space, translated at issue. -/
  | stb (f : LW)
  /-- LDK (R339): Load from argument space. -/
  | ldk (f : LW)
  /-- LDF (R340): 16-byte slice load, optionally transposed across lane groups. -/
  | ldf (f : LW)
  /-- STF (R340): 16-byte slice store, optionally transposed. -/
  | stf (f : LW)
  /-- PFB (R341): Prefetch bulk lines into the bulk cache. -/
  | pfb (f : LW)
  /-- ATS (R342): Fetching atomic on slice space. -/
  | ats (f : LW)
  /-- ATB (R342): Fetching atomic on bulk space; a commit point. -/
  | atb (f : LW)
  /-- CASS (R342): Compare-and-swap on slice space. -/
  | cass (f : LW)
  /-- CASB (R342): Compare-and-swap on bulk space. -/
  | casb (f : LW)
  /-- REDS (R342): Non-returning reduction at the slice port. -/
  | reds (f : LW)
  /-- REDB (R342): Non-returning reduction at the bulk point of coherence. -/
  | redb (f : LW)
  /-- SADD (R270): Uniform 64-bit add. -/
  | sadd (f : UR)
  /-- SSUB (R270): Uniform 64-bit subtract. -/
  | ssub (f : UR)
  /-- SMUL (R270): Uniform 64-bit multiply, low half. -/
  | smul (f : UR)
  /-- SMULH (R270): Uniform multiply, high half, signed or unsigned. -/
  | smulh (f : UR)
  /-- SAND (R270): Uniform bitwise AND. -/
  | sand (f : UR)
  /-- SOR (R270): Uniform bitwise OR. -/
  | sor (f : UR)
  /-- SXOR (R270): Uniform bitwise XOR. -/
  | sxor (f : UR)
  /-- SSHL (R270): Uniform shift left by a register. -/
  | sshl (f : UR)
  /-- SSHR (R270): Uniform logical shift right by a register. -/
  | sshr (f : UR)
  /-- SSAR (R270): Uniform arithmetic shift right. -/
  | ssar (f : UR)
  /-- SMIN (R270): Uniform minimum, signed or unsigned. -/
  | smin (f : UR)
  /-- SMAX (R270): Uniform maximum, signed or unsigned. -/
  | smax (f : UR)
  /-- SCMP (R271): Compare uniform registers into a gate. -/
  | scmp (f : UR)
  /-- SSEL (R272): Select a uniform register by a gate. -/
  | ssel (f : UR)
  /-- SMOV (R270): Uniform register move. -/
  | smov (f : UR)
  /-- SPOPC (R270): Uniform population count. -/
  | spopc (f : UR)
  /-- SCLZ (R270): Uniform count of leading zeros. -/
  | sclz (f : UR)
  /-- SADD_I (R273): Uniform add of a sign-extended 11-bit immediate. -/
  | saddI (f : UI)
  /-- SAND_I (R273): Uniform AND with a sign-extended immediate. -/
  | sandI (f : UI)
  /-- SSHL_I (R273): Uniform shift left by an immediate. -/
  | sshlI (f : UI)
  /-- SSHR_I (R273): Uniform logical shift right by an immediate. -/
  | sshrI (f : UI)
  /-- SMOV_I (R273): Uniform move of a sign-extended immediate. -/
  | smovI (f : UI)
  /-- SMOVI (R274): Load a 32-bit constant into a uniform register, zero- or sign-extended. -/
  | smovi (f : UW)
  /-- SBFE (R275): Extract a bit field from a uniform register. -/
  | sbfe (f : UW)
  /-- VGET (R276): Read one lane's register into a uniform register. -/
  | vget (f : UW)
  /-- VPUT (R277): Write a uniform value into one active lane's register. -/
  | vput (f : UW)
  /-- BRA (R278): Branch a whole split on a gate. -/
  | bra (f : UB)
  /-- BRD (R28): Divide a split by a lane predicate, spawning or stacking a split. -/
  | brd (f : UB)
  /-- TOK (R29): Arm a reconvergence token with target and enrolled lanes. -/
  | tok (f : UB)
  /-- MEET (R30): Park a split at a token; completes and merges when all enrolled lanes arrive. -/
  | meet (f : UB)
  /-- CALL (R282): Push return points for owned lanes and branch on a gate. -/
  | call (f : UB)
  /-- RET (R283): Return each owned lane to its return point, splitting where they differ. -/
  | ret (f : UR)
  /-- JMPX (R284): Jump to a computed word index, optionally as a call. -/
  | jmpx (f : UR)
  /-- DBNZ (R280): Decrement a counter and branch while non-zero. -/
  | dbnz (f : UB)
  /-- EXIT (R32): Retire the active lanes of the split. -/
  | exit (f : UR)
  /-- YIELD (R285): Withdraw the troupe from issue for n + 1 cycles. -/
  | yield (f : UR)
  /-- NOP (R286): Do nothing for one uniform-slot cycle. -/
  | nop (f : UR)
  /-- TRAP (R287): Raise a TRAP program fault with a code in the detail. -/
  | trap (f : UR)
  /-- BRK (R288): Breakpoint: stop the troupe with the debug gate open, else a program fault. -/
  | brk (f : UR)
  /-- ERET (R289): End a trap handler, resuming by retry or skip, and deliver the next held fault. -/
  | eret (f : UR)
  /-- SRD (R290): Read a special register into a uniform register. -/
  | srd (f : UR)
  /-- SWR (R291): Write a special register from a uniform register. -/
  | swr (f : UR)
  /-- POST (R175): Post one record per active lane to a bin; commit and release. -/
  | post (f : UW)
  /-- BINTAKE (R177): Take bin records into free lanes of the troupe. -/
  | bintake (f : UW)
  /-- CLKRD (R294): Read pod time once earlier work has settled. -/
  | clkrd (f : UW)
  /-- OTINV (R295): Revoke an object's generation or shoot down a page range's translations. -/
  | otinv (f : UW)
  /-- GINIT (R345): Initialise a guard object and set its guard bits. -/
  | ginit (f : UW)
  /-- ARRIVE (R346): Make arrivals on a guard, optionally with a release. -/
  | arrive (f : UW)
  /-- WAIT (R347): Wait for a guard phase and acquire. -/
  | wait (f : UW)
  /-- TRYW (R347): Wait for a guard phase up to a timeout, writing a gate. -/
  | tryw (f : UW)
  /-- EXPECT (R348): Add bytes to a guard's pending bytes. -/
  | expect (f : UW)
  /-- GBIND (R348): Bind a region to a guard. -/
  | gbind (f : UW)
  /-- GUNB (R348): Unbind one or all regions from a guard. -/
  | gunb (f : UW)
  /-- GFLG (R348): Merge numeric flags into a guard. -/
  | gflg (f : UW)
  /-- FENCE (R147): Order the troupe's accesses and place a store-buffer separator. -/
  | fence (f : UW)
  /-- COMMIT (R349): Drain the block's store buffer and hold until accepted. -/
  | commit (f : UW)
  /-- GROUP (R332): Merge every class of equal keys into one surviving row. -/
  | group (f : UW)
  /-- BUILD (R333): Insert rows into a relation object. -/
  | build (f : UW)
  /-- JOIN (R334): Spawn one row per key match against a relation object. -/
  | join (f : UW)
  /-- EXPAND (R335): Replace each row by n copies. -/
  | expand (f : UW)
  /-- REPACK (R336): Compact rows to the lowest lanes and renumber rid. -/
  | repack (f : UW)
  /-- RCOUNT (R337): Count the live rows of the scope. -/
  | rcount (f : UW)
  /-- CLD (R352): Load a capability register from the task's table. -/
  | cld (f : UW)
  /-- CNAR (R353): Derive a narrower capability. -/
  | cnar (f : UW)
  /-- CINF (R354): Read a capability field into a uniform register. -/
  | cinf (f : UW)
  /-- CCLR (R354): Clear a capability register to null. -/
  | cclr (f : UW)
  /-- SEND (R356): Send a message through a channel; commit and release. -/
  | send (f : UW)
  /-- RECV (R357): Receive the oldest message of a channel, optionally waiting. -/
  | recv (f : UW)
  /-- EAPP (R358): Append an entry to a command chain. -/
  | eapp (f : UW)
  /-- EADV (R359): Make appended chain entries eligible. -/
  | eadv (f : UW)
  /-- ESEQ (R360): Read a chain's sequence or status word. -/
  | eseq (f : UW)
  /-- PUB (R361): Swap front and back copies of a shadowed destination. -/
  | pub (f : UW)
  /-- WPRD (R362): Read a copy channel's write pointer. -/
  | wprd (f : UW)
  /-- MACQ (R365): Request the core's (or quad's) matrix unit for the block. -/
  | macq (f : UW)
  /-- MREL (R365): Release the matrix unit after queued work completes. -/
  | mrel (f : UW)
  /-- MLDB (R367): Load B into the loading banks. -/
  | mldb (f : UW)
  /-- MBSW (R367): Swap active and loading banks. -/
  | mbsw (f : UW)
  /-- MLDA (R368): Load A rows into the row buffer. -/
  | mlda (f : UW)
  /-- MMA (R369): Checked matrix product into labelled slots or the partial file. -/
  | mma (f : UW)
  /-- QMMA (R369): Joint quad matrix product. -/
  | qmma (f : UW)
  /-- MMAS (R369): Matrix product with a sparse A tile. -/
  | mmas (f : UW)
  /-- SCACC (R370): Scale and fold block partials into a labelled slot. -/
  | scacc (f : UW)
  /-- MRD (R371): Read one tile column of a label into lanes. -/
  | mrd (f : UW)
  /-- MWR (R371): Write one tile column of a label from lanes. -/
  | mwr (f : UW)
  /-- MCLR (R371): Clear a tile to its MACQ state. -/
  | mclr (f : UW)
  /-- BIND (R372): Write the coefficient mix of a tile's labels into a tile region. -/
  | bind (f : UW)
  /-- SLRD (R373): Read a tile's label map. -/
  | slrd (f : UW)
  /-- SLFL (R373): Flush one label to a region and free its slot. -/
  | slfl (f : UW)
  /-- CKGEN (R374): Recompute the sidecars of a tile region. -/
  | ckgen (f : UW)
  /-- CKVER (R374): Verify every tile of a region. -/
  | ckver (f : UW)
  /-- CKRD (R374): Read one sidecar sum. -/
  | ckrd (f : UW)
  /-- SQCFG (R375): Load and check a solver configuration. -/
  | sqcfg (f : UW)
  /-- SQLOAD (R378): Bind a solver region and start named samples. -/
  | sqload (f : UW)
  /-- SQSTG (R379): Form a stage input for each running sample. -/
  | sqstg (f : UW)
  /-- SQDEC (R380): Accept or reject each running sample's step and resize it. -/
  | sqdec (f : UW)
  /-- SQHIS (R381): Push to or mix from a sample's history ring. -/
  | sqhis (f : UW)
  /-- ENTRY_NOP (R120): Chain entry that moves nothing but arrives and records its sequence. -/
  | entryNop (ch : Nat) (e : Entry)
  /-- COPY (R120): Copy-channel entry moving len bytes. -/
  | copy (ch : Nat) (e : Entry)
  /-- COPY2D (R120): Copy-channel entry moving strided rows. -/
  | copy2d (ch : Nat) (e : Entry)
  /-- FILL (R120): Copy-channel entry filling rows with a pattern. -/
  | fill (ch : Nat) (e : Entry)
  /-- GATHER (R120): Gather-engine entry copying indexed rows. -/
  | gather (ch : Nat) (e : Entry)
  /-- GATHERM (R133): Gather by Morton codes through a tile directory. -/
  | gatherm (ch : Nat) (e : Entry)
  /-- SCATADD (R120): Reduce source rows into indexed destination rows. -/
  | scatadd (ch : Nat) (e : Entry)
  /-- ALLRED (R121): Collective all-reduce across a group. -/
  | allred (ch : Nat) (e : Entry)
  /-- RSCAT (R121): Collective reduce-scatter. -/
  | rscat (ch : Nat) (e : Entry)
  /-- ALLGATH (R121): Collective all-gather. -/
  | allgath (ch : Nat) (e : Entry)
  /-- BCAST (R121): Collective broadcast of rank 0's elements. -/
  | bcast (ch : Nat) (e : Entry)
  /-- SUBMIT (R164): Parser chain entry that submits a task graph. -/
  | submit (ch : Nat) (e : Entry)
  /-- ENGINE_LANDING (R123): A run of destination bytes is accepted, counted on the guard and cwp, sidecars kept. -/
  | engineLanding (ch seq : Nat)
  /-- ENTRY_COMPLETION (R123): After the last landing the entry arrives and the sequence word is written. -/
  | entryCompletion (ch seq : Nat)
  /-- ABORT_TOKEN (R223): A collective abort token arrives and stops a matching entry. -/
  | abortToken (die group attempt : Nat)
  /-- STORE_ENTRY_DRAIN (R137): A store-buffer entry drains to and is accepted at its home. -/
  | storeEntryDrain (b id : Nat)
  /-- RELEASE_ARRIVAL (R141): A release's arrival is applied once its drain and write-backs are acknowledged. -/
  | releaseArrival (b id : Nat)
  /-- LOAD_RETURN (R339): A load's data returns and its register becomes readable. -/
  | loadReturn (b t id : Nat)
  /-- GUARD_WAKE (R114): A waiting troupe is returned to the ready set after phase completion. -/
  | guardWake (b t e : Nat)
  /-- TRYW_TIMEOUT (R347): A TRYW deadline expires and writes its gate 0. -/
  | trywTimeout (b t e : Nat)
  /-- REMOTE_ARRIVAL (R116): A sequenced remote arrival reaches a guard and is applied, dropped or held. -/
  | remoteArrival (src seq : Nat) (o : FabOp)
  /-- FABRIC_OPERATION (R158): A sequenced cross-fabric store, atomic or landing is applied at its destination. -/
  | fabricOperation (src seq : Nat) (o : FabOp)
  /-- FABRIC_ACKNOWLEDGEMENT (R158): An acknowledgement releases a held cross-fabric operation at its sender. -/
  | fabricAcknowledgement (dst : Nat) (seq : FabAck)
  /-- LINK_FAILURE (R224): A link is declared failed and traffic fails over with re-sends. -/
  | linkFailure (link : Nat)
  /-- OPERATION_ABANDONED (R224): An unacknowledged operation to an unreachable package is abandoned after 1 ms. -/
  | operationAbandoned (dst : Nat) (seq : FabId)
  /-- PATROL_SCRUB (R214): Periodic scrub of a slice every 10 ms. -/
  | patrolScrub (core : Nat)
  /-- PAGE_REPLAY (R205): Parked lanes replay once a page entry is made usable. -/
  | pageReplay (b t e : Nat)
  /-- SHOOTDOWN (R206): A die or package drops a translation and acknowledges. -/
  | shootdown (id target : Nat)
  /-- OTINV_COMPLETION (R201): OTINV completes when every holder has acknowledged. -/
  | otinvCompletion (id : Nat)
  /-- PUB_SWAP (R126): Front and back copies swap once landing entries complete. -/
  | pubSwap (b t e : Nat)
  /-- MESSAGE_ARRIVAL (R209): A message reaches its channel home and is queued or refused. -/
  | messageArrival (m : Msg)
  /-- MESSAGE_REFUSAL (R209): A refusal returns to the sender and marks its table entry faulted. -/
  | messageRefusal (m : Msg)
  /-- POST_COMPLETION (R175): All records of a POST are accepted and the split resumes. -/
  | postCompletion (b t e : Nat)
  /-- BIN_TIMER (R176): A bin's timer expires and triggers a launch. -/
  | binTimer (core bin : Nat)
  /-- BIN_DRAIN (R392): A bin with records and no posting task left makes a drain launch. -/
  | binDrain (core bin : Nat)
  /-- BLOCK_PLACEMENT (R170): A held block is placed on a core that has freed room. -/
  | blockPlacement (task : Nat)
  /-- BLOCK_END (R156): A block ends: drain, write-back, completion arrival with flags. -/
  | blockEnd (b : Nat)
  /-- TROUPE_PROMOTION (R180): A troupe passed over 64 consecutive cycles is promoted. -/
  | troupePromotion (b t : Nat)
  /-- YIELD_END (R285): A yielded troupe becomes ready again. -/
  | yieldEnd (b t : Nat)
  /-- QUEUE_WAKE (R185): A waiting queue pop or push proceeds after the partner frees a slot or entry. -/
  | queueWake (b t e : Nat)
  /-- QDRY_DEADLOCK (R186): A shadow pair that cannot move faults QDRY. -/
  | qdryDeadlock (b t : Nat)
  /-- POPULATION_EXECUTE (R187): A population instance whose members have all arrived starts executing. -/
  | populationExecute (b : Nat) (sc : Scope)
  /-- POPULATION_COMPLETE (R34): An instance finishes; arrived splits merge and spawned rows are born. -/
  | populationComplete (b : Nat) (sc : Scope)
  /-- COLLSTALL_CLOSE (R188): A stalled instance closes without effect and faults COLLSTALL. -/
  | collstallClose (b : Nat) (sc : Scope)
  /-- MACQ_GRANT (R184): The matrix unit is granted to a waiting request. -/
  | macqGrant (core : Nat)
  /-- MATRIX_COMPLETION (R366): A queued matrix instruction completes, ORs flags and makes its G arrival. -/
  | matrixCompletion (core : Nat)
  /-- MLDB_REPLAY (R228): Recorded MLDBs are replayed on swap-in. -/
  | mldbReplay (core : Nat)
  /-- GRAPH_START (R163): A submitted graph is read and started in append order. -/
  | graphStart (part : Nat)
  /-- GRAPH_COMPLETION (R167): A graph completes, clears its guard bits and writes its status. -/
  | graphCompletion (g : Nat)
  /-- KERNEL_NODE (R166): A ready KERNEL node starts a task. -/
  | kernelNode (g n : Nat)
  /-- COND_NODE (R168): A COND node reads its condition word and takes next or alt. -/
  | condNode (g n : Nat)
  /-- WHILE_NODE (R169): A WHILE node reads its condition and runs the body or exits. -/
  | whileNode (g n : Nat)
  /-- WHILE_ITERATION (R169): A WHILE re-reads its word after an iteration's body finishes. -/
  | whileIteration (g n : Nat)
  /-- ENGINE_NODE (R166): An ENGINE node copies entries into a chain. -/
  | engineNode (g n : Nat)
  /-- GANG_NODE (R178): A GANG node asks every member package to place its share. -/
  | gangNode (g n : Nat)
  /-- GANG_READY (R178): A member's ready reply arrives; the start tick is fixed when all have replied. -/
  | gangReady (g n pkg tick : Nat)
  /-- GANG_START_TICK (R178): clk reaches the start tick and troupes are released. -/
  | gangStartTick (g n : Nat)
  /-- GANG_TIMEOUT (R178): A member fails to reply within 1 ms and the node ends ABORTED. -/
  | gangTimeout (g n pkg : Nat)
  /-- BIN_NODE (R172): A BIN node arms a bin for its task. -/
  | binNode (g n : Nat)
  /-- EVENT_RECORD (R213): The event arbiter sequences an event and writes its record to a ring. -/
  | eventRecord (src : Nat)
  /-- PREEMPT_HALT_COMPLETE (R225): Every core of the partition has halted. -/
  | preemptHaltComplete (part : Nat)
  /-- LINK_FLIT_ERROR (R224): A Zaern Link flit fails its CRC and is retried. -/
  | linkFlitError (link : Nat)
  /-- MESH_BEAT_ERROR (R214): A mesh beat fails CRC and is retried, mapping out the hop after 16 retries. -/
  | meshBeatError (core dir : Nat)
  /-- DOORBELL_WRITE (R234): A submission ring doorbell is written, accepted or rejected. -/
  | doorbellWrite (part : Nat) (sup : Bool) (v : DWord)
  /-- PARTITION (R239): Assign quads, key slots and tables to partitions. -/
  | partition (ses : Bool) (c : PartCfg)
  /-- KEYSET (R239): Load or zeroise a key slot. -/
  | keyset (ses : Bool) (part slot : Nat) (key : Option Nat)
  /-- PREEMPT (R225): Halt a partition at instruction boundaries. -/
  | preempt (ses : Bool) (part : Nat)
  /-- SWAP (R227): Exchange the active and inactive contexts of a halted partition. -/
  | swap (ses : Bool) (part : Nat)
  /-- RESUME (R239): Return halted cores to issue. -/
  | resume (ses : Bool) (part : Nat)
  /-- CAP (R239): Set the package power cap. -/
  | capCmd (ses : Bool) (watts : Nat)
  /-- DEBUG (R229): Open or close a debug gate, set stop and block-stop. -/
  | debugCmd (ses : Bool) (part : Nat) (o : DebugOp)
  /-- STEP_COMMAND (R231): Let one split of a stopped troupe issue one instruction or run. -/
  | stepCommand (ses : Bool) (b t e : Nat)
  /-- LINK (R239): Retrain a failed link. -/
  | linkCmd (ses : Bool) (link : Nat)
  /-- GET_VERSION (R238): SPDM version request. -/
  | getVersion (ok : Bool)
  /-- GET_CAPABILITIES (R238): SPDM capabilities request. -/
  | getCapabilities (ok : Bool)
  /-- NEGOTIATE_ALGORITHMS (R238): SPDM algorithm negotiation. -/
  | negotiateAlgorithms (ok : Bool)
  /-- GET_DIGESTS (R238): SPDM certificate digests request. -/
  | getDigests (ok : Bool)
  /-- GET_CERTIFICATE (R238): SPDM certificate request. -/
  | getCertificate (ok : Bool)
  /-- CHALLENGE (R238): SPDM challenge. -/
  | challenge (ok : Bool)
  /-- GET_MEASUREMENTS (R238): SPDM measurements request. -/
  | getMeasurements (ok : Bool)
  /-- KEY_EXCHANGE (R238): SPDM session key exchange. -/
  | keyExchange (ok : Bool)
  /-- FINISH (R238): SPDM session finish. -/
  | finish (ok : Bool)
  /-- SECURITY_ALARM (R212): Dycor raises a NOTE, HALT or ERASE alarm. -/
  | securityAlarm (level : AlarmLevel) (part : Nat)
  /-- CLOCK_SYNC (R237): Periodic timing exchange with the time master and slew correction. -/
  | clockSync (offset : Int)
  /-- TIME_MASTER_TAKEOVER (R237): The next package takes over as time master after failure. -/
  | timeMasterTakeover (pkg : Nat)
  /-- POWER_STEP (R240): Dycor chooses a clock step from measured power. -/
  | powerStep (n watts : Nat)
  /-- POWER_GOOD (R242): Power is good and bring-up begins. -/
  | powerGood
  /-- BRINGUP_STAGE_END (R242): A bring-up stage ends and the next begins, or bring-up stops. -/
  | bringupStageEnd (cause : Nat)
  deriving DecidableEq, Repr

end Sys2Proof
end

