-- ==== Sys2Proof/Decode.lean ====
section
/-! DEFINITION. From instruction words to instructions and back (10 R243 to R263), and the static rules a word must
keep, by the causes of 10 Table 10.8. -/
namespace Sys2Proof

/-- An instruction by its place in the opcode map: format, major opcode, fn, fields. -/
inductive Form where
  | lr (op : Nat) (f : LR)
  | lw (op fn : Nat) (f : LW)
  | li (sel : Nat) (f : LI)
  | ur (op : Nat) (f : UR)
  | ui (op : Nat) (f : UI)
  | ub (op : Nat) (f : UB)
  | uw (op fn : Nat) (f : UW)
  | us (f : UW)
  /-- a step that is no instruction word -/
  | event
  deriving DecidableEq, Repr

/-- The place of each instruction in the opcode map (10 Tables 10.6, 10.7). -/
def Instr.form : Instr → Form
  | .iadd f => .lr 0x00 f
  | .isub f => .lr 0x01 f
  | .imul f => .lr 0x02 f
  | .imulh f => .lr 0x03 f
  | .imin f => .lr 0x04 f
  | .imax f => .lr 0x05 f
  | .and f => .lr 0x06 f
  | .or f => .lr 0x07 f
  | .xor f => .lr 0x08 f
  | .andn f => .lr 0x09 f
  | .shl f => .lr 0x0A f
  | .shr f => .lr 0x0B f
  | .sar f => .lr 0x0C f
  | .popc f => .lr 0x0D f
  | .clz f => .lr 0x0E f
  | .brev f => .lr 0x0F f
  | .mov f => .lr 0x10 f
  | .faddF32 f => .lr 0x11 f
  | .fmulF32 f => .lr 0x12 f
  | .fminF32 f => .lr 0x13 f
  | .fmaxF32 f => .lr 0x14 f
  | .swizSel f => .lr 0x15 f
  | .qpush f => .lr 0x16 f
  | .imulhTyped f => .lw 0x30 0x00 f
  | .iminTyped f => .lw 0x30 0x01 f
  | .imaxTyped f => .lw 0x30 0x02 f
  | .imad f => .lw 0x30 0x03 f
  | .iabs f => .lw 0x30 0x04 f
  | .icmp f => .lw 0x30 0x05 f
  | .sel f => .lw 0x30 0x06 f
  | .lut3 f => .lw 0x30 0x07 f
  | .bfe f => .lw 0x30 0x08 f
  | .bfi f => .lw 0x30 0x09 f
  | .bsel f => .lw 0x30 0x0A f
  | .fadd f => .lw 0x31 0x00 f
  | .fmul f => .lw 0x31 0x01 f
  | .ffma f => .lw 0x31 0x02 f
  | .fmin f => .lw 0x31 0x03 f
  | .fmax f => .lw 0x31 0x04 f
  | .fcmp f => .lw 0x31 0x05 f
  | .frnd f => .lw 0x31 0x06 f
  | .fscl f => .lw 0x31 0x07 f
  | .fcls f => .lw 0x31 0x08 f
  | .frcp f => .lw 0x32 0x00 f
  | .frsq f => .lw 0x32 0x01 f
  | .fsqrt f => .lw 0x32 0x02 f
  | .fexp2 f => .lw 0x32 0x03 f
  | .flog2 f => .lw 0x32 0x04 f
  | .cvt f => .lw 0x33 0x00 f
  | .pack f => .lw 0x33 0x01 f
  | .unpk f => .lw 0x33 0x02 f
  | .cbdec f => .lw 0x33 0x03 f
  | .qscl f => .lw 0x33 0x04 f
  | .qnt f => .lw 0x33 0x05 f
  | .salsel f => .lw 0x33 0x06 f
  | .swiz f => .lw 0x34 0x00 f
  | .shx f => .lw 0x34 0x01 f
  | .agree f => .lw 0x34 0x02 f
  | .ballot f => .lw 0x34 0x03 f
  | .elect f => .lw 0x34 0x07 f
  | .rank f => .lw 0x34 0x08 f
  | .peers f => .lw 0x34 0x04 f
  | .red f => .lw 0x34 0x05 f
  | .scan f => .lw 0x34 0x06 f
  | .ldl f => .lw 0x35 0x00 f
  | .stl f => .lw 0x35 0x01 f
  | .lds f => .lw 0x35 0x02 f
  | .sts f => .lw 0x35 0x03 f
  | .ldb f => .lw 0x35 0x04 f
  | .stb f => .lw 0x35 0x05 f
  | .ldk f => .lw 0x35 0x06 f
  | .ldf f => .lw 0x35 0x07 f
  | .stf f => .lw 0x35 0x08 f
  | .pfb f => .lw 0x35 0x09 f
  | .ats f => .lw 0x36 0x00 f
  | .atb f => .lw 0x36 0x01 f
  | .cass f => .lw 0x36 0x02 f
  | .casb f => .lw 0x36 0x03 f
  | .reds f => .lw 0x36 0x04 f
  | .redb f => .lw 0x36 0x05 f
  | .movi f => .li 0x00 f
  | .iaddi f => .li 0x01 f
  | .andi f => .li 0x02 f
  | .ori f => .li 0x03 f
  | .xori f => .li 0x04 f
  | .faddi f => .li 0x05 f
  | .fmuli f => .li 0x06 f
  | .sadd f => .ur 0x00 f
  | .ssub f => .ur 0x01 f
  | .smul f => .ur 0x02 f
  | .smulh f => .ur 0x03 f
  | .sand f => .ur 0x04 f
  | .sor f => .ur 0x05 f
  | .sxor f => .ur 0x06 f
  | .sshl f => .ur 0x07 f
  | .sshr f => .ur 0x08 f
  | .ssar f => .ur 0x09 f
  | .smin f => .ur 0x0A f
  | .smax f => .ur 0x0B f
  | .scmp f => .ur 0x0C f
  | .ssel f => .ur 0x0D f
  | .smov f => .ur 0x0E f
  | .spopc f => .ur 0x0F f
  | .sclz f => .ur 0x10 f
  | .ret f => .ur 0x1D f
  | .jmpx f => .ur 0x1E f
  | .exit f => .ur 0x20 f
  | .yield f => .ur 0x21 f
  | .nop f => .ur 0x22 f
  | .trap f => .ur 0x23 f
  | .brk f => .ur 0x24 f
  | .eret f => .ur 0x25 f
  | .srd f => .ur 0x26 f
  | .swr f => .ur 0x27 f
  | .saddI f => .ui 0x12 f
  | .sandI f => .ui 0x13 f
  | .sshlI f => .ui 0x14 f
  | .sshrI f => .ui 0x15 f
  | .smovI f => .ui 0x16 f
  | .bra f => .ub 0x18 f
  | .brd f => .ub 0x19 f
  | .tok f => .ub 0x1A f
  | .meet f => .ub 0x1B f
  | .call f => .ub 0x1C f
  | .dbnz f => .ub 0x1F f
  | .smovi f => .us f
  | .sbfe f => .uw 0x30 0x00 f
  | .vget f => .uw 0x30 0x01 f
  | .vput f => .uw 0x30 0x02 f
  | .post f => .uw 0x35 0x00 f
  | .bintake f => .uw 0x35 0x01 f
  | .clkrd f => .uw 0x35 0x02 f
  | .otinv f => .uw 0x35 0x03 f
  | .ginit f => .uw 0x31 0x00 f
  | .arrive f => .uw 0x31 0x01 f
  | .wait f => .uw 0x31 0x02 f
  | .tryw f => .uw 0x31 0x03 f
  | .expect f => .uw 0x31 0x04 f
  | .gbind f => .uw 0x31 0x05 f
  | .gunb f => .uw 0x31 0x06 f
  | .gflg f => .uw 0x31 0x07 f
  | .fence f => .uw 0x31 0x08 f
  | .commit f => .uw 0x31 0x09 f
  | .group f => .uw 0x32 0x00 f
  | .build f => .uw 0x32 0x01 f
  | .join f => .uw 0x32 0x02 f
  | .expand f => .uw 0x32 0x03 f
  | .repack f => .uw 0x32 0x04 f
  | .rcount f => .uw 0x32 0x05 f
  | .cld f => .uw 0x33 0x00 f
  | .cnar f => .uw 0x33 0x01 f
  | .cinf f => .uw 0x33 0x02 f
  | .cclr f => .uw 0x33 0x03 f
  | .send f => .uw 0x33 0x04 f
  | .recv f => .uw 0x33 0x05 f
  | .eapp f => .uw 0x34 0x00 f
  | .eadv f => .uw 0x34 0x01 f
  | .eseq f => .uw 0x34 0x02 f
  | .pub f => .uw 0x34 0x03 f
  | .wprd f => .uw 0x34 0x04 f
  | .macq f => .uw 0x36 0x00 f
  | .mrel f => .uw 0x36 0x01 f
  | .mldb f => .uw 0x36 0x02 f
  | .mbsw f => .uw 0x36 0x03 f
  | .mlda f => .uw 0x36 0x04 f
  | .mma f => .uw 0x36 0x05 f
  | .qmma f => .uw 0x36 0x06 f
  | .mmas f => .uw 0x36 0x07 f
  | .scacc f => .uw 0x36 0x08 f
  | .mrd f => .uw 0x36 0x09 f
  | .mwr f => .uw 0x36 0x0A f
  | .mclr f => .uw 0x36 0x0B f
  | .bind f => .uw 0x37 0x00 f
  | .slrd f => .uw 0x37 0x01 f
  | .slfl f => .uw 0x37 0x02 f
  | .ckgen f => .uw 0x37 0x03 f
  | .ckver f => .uw 0x37 0x04 f
  | .ckrd f => .uw 0x37 0x05 f
  | .sqcfg f => .uw 0x38 0x00 f
  | .sqload f => .uw 0x38 0x01 f
  | .sqstg f => .uw 0x38 0x02 f
  | .sqdec f => .uw 0x38 0x03 f
  | .sqhis f => .uw 0x38 0x04 f
  | _ => .event

/-- Whether the step is an instruction word. -/
def Instr.isWord (i : Instr) : Bool := i.form != .event

/-- How many words the instruction takes (10 R249, R259). -/
def Instr.size (i : Instr) : Nat :=
  match i.form with
  | .lw _ _ _ | .li _ _ | .uw _ _ _ | .us _ => 2
  | _ => 1

/-- Whether the instruction is of the lane set, and so issues in a lane slot (10 R260). -/
def Instr.isLane (i : Instr) : Bool :=
  match i.form with
  | .lr _ _ | .lw _ _ _ | .li _ _ => true
  | _ => false

/-- The H bit: the next instruction belongs to the same run (10 R252). -/
def Instr.h (i : Instr) : Bool :=
  match i.form with
  | .lr _ f => f.h
  | .lw _ _ f => f.h
  | .li _ f => f.h
  | .ur _ f => f.h
  | .ui _ f => f.h
  | .ub _ f => f.h
  | .uw _ _ f => f.h
  | .us f => f.h
  | .event => false

/-- The N bit (10 R255). -/
def Instr.n (i : Instr) : Bool :=
  match i.form with
  | .lr _ f => f.n
  | .lw _ _ f => f.n
  | .li _ f => f.n
  | .ur _ f => f.n
  | .ui _ f => f.n
  | .ub _ f => f.n
  | .uw _ _ f => f.n
  | .us f => f.n
  | .event => false

/-! ## Fields of the two-word uniform entries -/

/-- First word [22:0], where an entry gives those bits a meaning of its own (14 R350). -/
def UW.raw (f : UW) : BitVec 23 := f.d ++ f.a ++ f.b ++ f.x
/-- W2[23:20]: the second capability register. -/
def UW.cM (f : UW) : Nat := (f.w.extractLsb' 20 4).toNat
/-- W2[15:12]: the principal capability register (10 R259). -/
def UW.cN (f : UW) : Nat := (f.w.extractLsb' 12 4).toNat
/-- W2[5:2]: the third capability register. -/
def UW.cQ (f : UW) : Nat := (f.w.extractLsb' 2 4).toNat
/-- W2[11:8]: the guard of MACQ (14 R365). -/
def UW.cG (f : UW) : Nat := (f.w.extractLsb' 8 4).toNat
/-- W2[22:16]: a lane register (10 R259). -/
def UW.v (f : UW) : Nat := (f.w.extractLsb' 16 7).toNat
/-- W2[23]: scope, quad or pair bit. -/
def UW.top (f : UW) : Bool := f.w.getLsbD 23
/-- W2[hi:lo]. -/
def UW.f (u : UW) (hi lo : Nat) : Nat := bits u.w.toNat hi lo
/-- One bit of W2. -/
def UW.bit (u : UW) (i : Nat) : Bool := u.w.getLsbD i
/-- Product descriptor: A format (14 Table 14.4). -/
def UW.fa (f : UW) : Nat := (f.raw.extractLsb' 19 4).toNat
/-- Product descriptor: B format. -/
def UW.fb (f : UW) : Nat := (f.raw.extractLsb' 15 4).toNat
/-- Product descriptor: first tile. -/
def UW.tile (f : UW) : Nat := (f.raw.extractLsb' 12 3).toNat
/-- Product descriptor: X code. -/
def UW.xc (f : UW) : Nat := (f.raw.extractLsb' 10 2).toNat
/-- Product descriptor: Y code. -/
def UW.yc (f : UW) : Nat := (f.raw.extractLsb' 8 2).toNat
/-- Product descriptor: immediate label. -/
def UW.lbl (f : UW) : Nat := (f.raw.extractLsb' 4 4).toNat
/-- Product descriptor: label from a lane register. -/
def UW.lblReg (f : UW) : Bool := f.raw.getLsbD 3
/-- Product descriptor: arrival at completion. -/
def UW.g (f : UW) : Bool := f.raw.getLsbD 2
/-- Product descriptor: block-scaled. -/
def UW.mx (f : UW) : Bool := f.raw.getLsbD 1
/-- MRD and MWR: the tile column (14 R371). -/
def UW.col (f : UW) : Nat := (f.raw.extractLsb' 17 6).toNat

/-! ## Types and operand codes -/

/-- A 64-bit type code (10 Table 10.4). -/
def wideT (t : BitVec 4) : Bool := t == 5#4 || t == 6#4 || t == 7#4

/-- Operand codes no entry accepts (10 Table 10.2). -/
def reservedCode (c : BitVec 8) : Bool := c == 0x86#8 || c == 0x87#8 || (0x8C#8 ≤ c && c ≤ 0x8F#8)

/-- An operand code that names a lane register (10 Table 10.2). -/
def isVCode (c : BitVec 8) : Bool := c < 0x80#8

/-- An operand code that names a latch. -/
def isLCode (c : BitVec 8) : Bool := 0x80#8 ≤ c && c ≤ 0x83#8

/-- An operand code that pops a queue. -/
def isQCode (c : BitVec 8) : Bool := 0x88#8 ≤ c && c ≤ 0x8B#8

/-- An integer operand code (10 R246). -/
def isICode (c : BitVec 8) : Bool := 0xD0#8 ≤ c

/-- The operand codes of a word that are read as lane operands, with whether the operand is 64 bits wide (12 R296, 10
R250). The predicate selectors of 13 R326 are not operand codes; the member mask of 13 R322 is a uniform operand. -/
def Instr.operands : Instr → List (BitVec 8 × Bool)
  | .clz f | .brev f | .mov f | .qpush f => [(f.a, false)]
  | .movi _ => []
  | .iaddi f | .andi f | .ori f | .xori f | .faddi f | .fmuli f => [(f.b, false)]
  | .iabs f | .frnd f | .fcls f | .frcp f | .frsq f | .fsqrt f | .fexp2 f | .flog2 f => [(f.a, wideT f.t)]
  | .imulhTyped f | .iminTyped f | .imaxTyped f | .icmp f | .sel f | .fmin f | .fmax f | .fcmp f =>
    [(f.a, wideT f.t), (f.b, wideT f.t)]
  | .imad f | .ffma f => [(f.a, wideT f.t), (f.b, wideT f.t), (f.c, wideT f.t)]
  | .lut3 f | .bfe f | .bfi f | .bsel f => [(f.a, false), (f.b, false), (f.c, false)]
  | .fadd f | .fmul f =>
    [(f.a, wideT f.t), (f.b, wideT f.t)] ++ if f.m.extractLsb' 0 3 = 4#3 then [(f.c, wideT f.t)] else []
  | .fscl f => [(f.a, wideT f.t), (f.b, false)]
  | .cvt f => (f.a, wideT (f.m.extractLsb' 0 4)) :: if f.m.extractLsb' 4 3 = 4#3 then [(f.c, false)] else []
  | .pack f =>
    [(f.a, false), (f.b, false)] ++ if f.t = 3#4 ∨ f.t = 4#4 ∨ f.t = 8#4 ∨ f.t = 9#4 then [] else [(f.c, false)]
  | .unpk f | .cbdec f | .qscl f => [(f.a, false)]
  | .qnt f => [(f.a, false), (f.b, false), (f.c, false)]
  | .salsel f => [(f.a, false), (f.b, false)]
  | .swiz f => [(f.a, wideT f.t), (f.b, false)]
  | .shx f => [(f.a, false), (f.b, false)]
  | .peers f => [(f.a, f.t == 6#4)]
  | .red f | .scan f => [(f.a, wideT f.t)]
  | .ldl f | .lds f | .ldb f | .ldk f | .ldf f | .pfb f => [(f.a, false)]
  | .stl f | .sts f | .stb f | .stf f => [(f.a, false), (f.b, wideT f.t)]
  | .ats f | .atb f | .cass f | .casb f | .reds f | .redb f => [(f.a, false), (f.b, wideT f.t)]
  | i => match i.form with
    | .lr _ f => [(f.a, false), (f.b, false)]
    | _ => []

/-! ## The static causes of ILLEGAL (10 Table 10.8) -/

/-- Cause 3: a field that the entry marks reserved or leaves unused is not 0. -/
def Instr.unused : Instr → Bool
  -- 12 Table 12.1, 13 R328, 10 R248
  | .clz f | .brev f | .mov f => f.b != 0
  | .qpush f => f.d != 0 || f.b.extractLsb' 2 6 != 0
  | .movi f => f.b != 0
  -- 12 Table 12.3
  | .imulhTyped f | .iminTyped f | .imaxTyped f => f.m != 0 || f.c != 0
  | .imad f => f.m.extractLsb' 1 7 != 0
  | .iabs f => f.m.extractLsb' 1 7 != 0 || f.c != 0 || f.b != 0
  -- 12 R300 to R305
  | .icmp f => f.d.extractLsb' 3 4 != 0 || f.m.extractLsb' 4 4 != 0 || f.c != 0
  | .sel f => f.c.extractLsb' 4 4 != 0 || f.m != 0
  | .bfe f => f.m.extractLsb' 1 7 != 0
  | .bfi f | .bsel f => f.m != 0
  -- 12 Table 12.5
  | .fadd f | .fmul f => f.m.getLsbD 3 || (f.m.extractLsb' 0 3 != 4#3 && f.c != 0)
  | .ffma f => f.m.getLsbD 3
  | .fmin f | .fmax f => f.m.getLsbD 3 || f.c != 0
  | .fcmp f => f.d.extractLsb' 3 4 != 0 || f.c != 0
  | .frnd f | .fcls f => f.m.getLsbD 3 || f.m.getLsbD 5 || f.m.getLsbD 7 || f.c != 0 || f.b != 0
  | .fscl f => f.m.getLsbD 3 || f.m.getLsbD 5 || f.m.getLsbD 7 || f.c != 0
  -- 12 R313
  | .frcp f | .frsq f | .fsqrt f | .fexp2 f | .flog2 f =>
    f.m.getLsbD 3 || f.m.getLsbD 5 || f.m.getLsbD 7 || f.c != 0 || f.b != 0
  -- 12 R314 to R320
  | .cvt f => f.b != 0 || (f.m.extractLsb' 4 3 != 4#3 && f.c != 0)
  | .pack f => f.m.getLsbD 3 || ((f.t == 3#4 || f.t == 4#4 || f.t == 8#4 || f.t == 9#4) && f.c != 0)
  | .unpk f => f.m.getLsbD 7 || f.b != 0 || f.c != 0
  | .cbdec f => f.c.extractLsb' 4 4 != 0 || f.m.extractLsb' 3 5 != 0 || f.b != 0
  | .qscl f => f.m != 0 || f.b != 0 || f.c != 0
  | .qnt f => f.m.getLsbD 3
  | .salsel f => f.m &&& 0x8F#8 != 0 || f.c != 0
  -- 13 R324 to R327
  | .swiz f => f.m.extractLsb' 5 3 != 0
  | .shx f => f.m.extractLsb' 3 5 != 0
  | .agree f => f.d.extractLsb' 3 4 != 0 || f.a.extractLsb' 4 4 != 0 || f.b != 0 || f.m.extractLsb' 2 5 != 0
  | .ballot f => f.d.getLsbD 6 || f.a.extractLsb' 4 4 != 0 || f.b != 0 || f.m.extractLsb' 0 7 != 0
  | .elect f => f.d.extractLsb' 3 4 != 0 || f.a != 0 || f.b != 0 || f.m.extractLsb' 0 7 != 0
  | .rank f => f.a.extractLsb' 4 4 != 0 || f.b != 0 || f.m.extractLsb' 0 7 != 0
  | .peers f => f.b != 0 || f.m.extractLsb' 2 5 != 0
  | .red f => f.b != 0 || f.m.extractLsb' 3 4 != 0
  | .scan f => f.b != 0 || f.m.extractLsb' 4 3 != 0
  -- 13 Table 13.4, R339 to R341, 04 R103
  | .ldl f | .ldk f => f.c.extractLsb' 0 4 != 0 || f.c.getLsbD 7 || loadB f
  | .lds f | .ldb f => f.c.getLsbD 7 || loadB f
  | .ldf f => loadB f
  | .stl f => f.d != 0 || f.c.extractLsb' 0 4 != 0 || f.c.getLsbD 7 || f.c.getLsbD 6
  | .sts f | .stb f => f.d != 0 || f.c.getLsbD 7 || f.c.getLsbD 6
  | .stf f => f.d != 0 || f.c.getLsbD 6
  | .pfb f => f.d != 0 || f.b != 0 || f.c.extractLsb' 6 2 != 0
  -- 13 Table 13.6
  | .cass f | .casb f => f.c.extractLsb' 4 4 != 0
  | .reds f | .redb f => f.d != 0
  -- 11 Table 11.1, R271, R272
  | .sadd f | .ssub f | .smul f | .sand f | .sor f | .sxor f | .sshl f | .sshr f | .ssar f => f.x != 0
  | .smulh f | .smin f | .smax f => f.x.extractLsb' 1 4 != 0
  | .smov f | .spopc f | .sclz f => f.b != 0 || f.x != 0
  | .scmp f => f.d.extractLsb' 3 3 != 0 || f.x.getLsbD 4
  | .ssel f => f.x.getLsbD 4
  -- 11 Table 11.2
  | .sshlI f | .sshrI f => f.imm.extractLsb' 6 5 != 0
  | .smovI f => f.a != 0
  -- 11 R274 to R277
  | .smovi f => f.b != 0 || f.x != 0
  | .sbfe f => f.b != 0 || f.x != 0 || f.f 23 14 != 0 || f.f 12 6 > 64
  | .vget f => f.b != 0 || f.x != 0 || f.f 14 5 != 0 || (if f.bit 15 then f.a != 0 else f.f 4 0 != 0)
  | .vput f => f.d != 0 || f.x != 0 || f.f 14 5 != 0 || (if f.bit 15 then f.a != 0 else f.f 4 0 != 0)
  -- 01 Table 1.5, 11 R278 to R291
  | .tok f | .dbnz f => f.sense
  | .meet f => f.sense || f.off != 0
  | .ret f | .exit f | .nop f => f.d != 0 || f.a != 0 || f.b != 0 || f.x != 0
  | .jmpx f => f.d != 0 || f.b != 0 || f.x.extractLsb' 1 4 != 0
  | .yield f => f.d != 0 || f.a != 0 || f.b != 0
  | .trap f | .brk f => f.d != 0 || f.a != 0
  | .eret f => f.d != 0 || f.a != 0 || f.b != 0 || f.x.extractLsb' 1 4 != 0
  | .srd f | .swr f => f.b != 0 || f.x != 0
  -- 06 Table 6.4, 11 R294, R295
  | .post f => f.raw != 0 || f.bit 23 || f.f 8 0 != 0
  | .bintake f => f.b != 0 || f.x != 0 || f.bit 23 || f.f 11 0 != 0
  | .clkrd f => f.a != 0 || f.b != 0 || f.x != 0 || f.f 23 0 != 0
  | .otinv f => f.d != 0 || f.x != 0 || f.f 23 1 != 0 || (!f.bit 0 && f.b != 0)
  -- 13 Table 13.7, R345 to R349
  | .ginit f => f.d != 0 || f.x != 0 || f.f 23 16 != 0 || f.f 8 0 != 0
  | .arrive f => f.d != 0 || f.b != 0 || f.x != 0 || f.f 23 16 != 0 || (f.f 7 0 != 0 && f.a != 0)
  | .wait f =>
    f.d != 0 || f.b != 0 || f.x != 0 || f.f 23 16 != 0 || (if f.bit 8 then f.a != 0 else f.f 7 0 != 0)
  | .tryw f => f.d.extractLsb' 3 3 != 0 || f.x != 0 || f.f 23 16 != 0 || f.f 8 0 != 0
  | .expect f => f.d != 0 || f.b != 0 || f.x != 0 || f.f 23 16 != 0 || f.f 8 0 != 0
  | .gbind f => f.raw != 0 || f.f 19 16 != 0 || f.f 8 0 != 0
  | .gunb f => f.raw != 0 || f.f 19 16 != 0 || f.f 7 0 != 0 || (f.bit 8 && f.cM != 0)
  | .gflg f => f.d != 0 || f.b != 0 || f.x != 0 || f.f 23 16 != 0 || f.f 7 0 != 0 || (f.bit 8 && f.a != 0)
  | .fence f => f.raw != 0 || f.f 23 12 != 0 || f.f 8 0 != 0
  | .commit f => f.raw != 0 || f.f 23 12 != 0 || f.f 8 0 != 0
  -- 13 R332 to R337
  | .group f => f.raw != 0 || f.f 11 0 != 0
  | .build f => f.raw != 0 || f.bit 0
  | .join f => f.d.extractLsb' 3 3 != 0 || f.a != 0 || f.b != 0 || f.x != 0
  | .expand f => f.raw != 0 || f.bit 15 || f.f 7 0 != 0
  | .repack f => f.raw != 0 || f.f 22 0 != 0
  | .rcount f => f.a != 0 || f.b != 0 || f.x != 0 || f.f 22 0 != 0
  -- 14 R352 to R357
  | .cld f =>
    f.d != 0 || f.b != 0 || f.x != 0 || f.f 23 16 != 0 || f.f 11 9 != 0 || (if f.bit 8 then f.f 7 0 != 0 else f.a != 0)
  | .cnar f => f.d != 0 || f.x != 0 || f.f 19 16 != 0
  | .cinf f => f.a != 0 || f.b != 0 || f.x != 0 || f.f 23 16 != 0 || f.f 11 3 != 0
  | .cclr f => f.raw != 0 || f.f 23 16 != 0 || f.f 11 0 != 0
  | .send f => f.d != 0 || f.x != 0 || f.f 19 16 != 0 || f.f 11 0 != 0
  | .recv f => f.x != 0 || f.f 19 16 != 0 || f.f 11 9 != 0 || f.f 7 0 != 0
  -- 14 R358 to R362
  | .eapp f => f.b != 0 || f.x != 0 || f.f 19 16 != 0 || f.f 11 0 != 0
  | .eadv f => f.d != 0 || f.b != 0 || f.x != 0 || f.f 23 16 != 0 || f.f 11 0 != 0
  | .eseq f => f.a != 0 || f.b != 0 || f.x != 0 || f.f 23 16 != 0 || f.f 11 1 != 0
  | .pub f => f.raw != 0 || f.f 23 16 != 0 || f.f 11 0 != 0
  | .wprd f => f.a != 0 || f.b != 0 || f.x != 0 || f.f 23 16 != 0 || f.f 11 0 != 0
  -- 14 R365 to R371
  | .macq f =>
    f.raw != 0 || f.f 22 16 != 0 || f.f 5 0 != 0 || (!f.bit 7 && f.cN != 0) || (!f.bit 6 && f.cG != 0)
  | .mrel f => f.raw != 0 || f.f 23 0 != 0
  | .mldb f =>
    f.fa != 0 || f.tile != 0 || f.raw.extractLsb' 0 8 != 0 || f.f 22 16 != 0 || f.f 11 6 != 0 || f.f 1 0 != 0
      || (f.fb != 13 && f.cQ != 0)
  | .mbsw f => f.raw != 0 || f.f 22 0 != 0
  | .mlda f => f.fb != 0 || f.tile != 0 || f.raw.extractLsb' 0 10 != 0 || f.f 11 0 != 0
  | .mma f | .qmma f => f.raw.getLsbD 0 || f.bit 23 || f.cN != 0 || f.cQ != 0 || f.f 1 0 != 0 || prodRest f
  | .mmas f => f.raw.getLsbD 0 || f.bit 23 || f.cQ != 0 || f.f 1 0 != 0 || prodRest f
  | .scacc f =>
    f.raw.getLsbD 0 || f.bit 23 || f.f 1 0 != 0 || (if f.lblReg then f.lbl != 0 else f.v != 0)
  | .mrd f => f.raw &&& 0x018F0F#23 != 0 || f.bit 23 || f.f 15 0 != 0
  | .mwr f => f.raw &&& 0x01830F#23 != 0 || f.bit 23 || f.f 15 0 != 0
  | .mclr f => f.raw &&& 0x7F8FFF#23 != 0 || f.f 23 0 != 0
  -- 14 R372 to R374
  | .bind f => f.raw &&& 0x7F8FFB#23 != 0 || f.f 23 16 != 0 || f.f 11 6 != 0 || f.f 1 0 != 0
  | .slrd f => f.raw &&& 0x018FFF#23 != 0 || f.f 23 0 != 0
  | .slfl f => f.raw &&& 0x7F8F0B#23 != 0 || f.f 23 16 != 0 || f.f 11 0 != 0
  | .ckgen f | .ckver f => f.raw != 0 || f.f 23 16 != 0 || f.f 11 0 != 0
  | .ckrd f => f.b != 0 || f.x != 0 || f.f 23 16 != 0 || f.f 11 0 != 0
  -- 14 Table 14.10
  | .sqcfg f => f.raw != 0 || f.f 23 16 != 0 || f.f 11 0 != 0
  | .sqload f => f.raw != 0 || f.bit 23 || f.f 11 0 != 0
  | .sqstg f => f.raw != 0 || f.bit 23 || f.f 15 3 != 0
  | .sqdec f => f.a != 0 || f.b != 0 || f.x != 0 || f.bit 23 || f.f 15 11 != 0 || f.f 7 0 != 0
  | .sqhis f => f.raw != 0 || f.bit 23 || f.f 15 1 != 0
  | _ => false
where
  /-- The data field of a load: 0, or with Q a queue number and no destination (13 Table 13.4). -/
  loadB (f : LW) : Bool := if f.c.getLsbD 6 then f.d != 0 || f.b.extractLsb' 2 6 != 0 else f.b != 0
  /-- A product's label and position fields (14 Tables 14.4, 14.5, 14.7): unused ones are 0. -/
  prodRest (f : UW) : Bool :=
    if f.mx then f.lbl != 0 || f.lblReg || f.v != 0 || f.tile != 0
    else f.f 11 6 != 0 || (if f.lblReg then f.lbl != 0 else f.v != 0)

/-- Cause 4: an operand code that is reserved, or of a kind the entry does not accept (10 R245, R246; 13 R322, R338). -/
def Instr.badOperand (i : Instr) : Bool :=
  (i.operands.any fun p => reservedCode p.1) ||
  match i with
  -- 10 R246: no integer code for e4m3x4, e5m2x4 and e2m1x8 operands
  | .cvt f | .unpk f => tiny (f.m.extractLsb' 0 4) && isICode f.a
  | .pack f => tiny f.t && isICode f.c
  | .qnt f => tiny f.t && isICode f.c
  -- 13 R322: the member mask is a uniform register or an integer code
  | .swiz f => f.c < 0x90#8 || (tiny f.t && isICode f.a)
  | .shx f | .agree f | .ballot f | .elect f | .rank f | .peers f | .red f | .scan f => f.c < 0x90#8
  -- 13 R338: the data of a 16-byte store is lane registers
  | .stl f | .sts f | .stb f | .stf f =>
    (f.c.extractLsb' 4 2 == 3#2 && !isVCode f.b) || (tiny f.t && isICode f.b)
  | _ => false
where
  /-- The types whose operands admit no integer code. -/
  tiny (t : BitVec 4) : Bool := t == 12#4 || t == 13#4 || t == 14#4

/-- The types a lane word permits (12 Tables 12.3, 12.5, 12.8, R300 to R320; 13 R324 to R342), by code. -/
def Instr.types : Instr → List Nat
  | .imulhTyped _ | .icmp _ | .cass _ | .casb _ => [0, 1, 6, 7]
  | .iminTyped _ | .imaxTyped _ | .imad _ => [0, 1, 6, 7, 8, 9, 10, 11]
  | .iabs _ => [0, 6, 8, 10]
  | .sel _ | .peers _ => [0, 6]
  | .lut3 _ | .bfe _ | .bfi _ | .bsel _ | .agree _ | .ballot _ | .elect _ | .rank _ => [0]
  | .fadd _ | .fmul _ | .ffma _ | .fmin _ | .fmax _ => [2, 3, 4, 5]
  | .fcmp _ | .frnd _ | .fscl _ | .fcls _ | .frcp _ | .frsq _ | .fsqrt _ => [2, 5]
  | .fexp2 _ | .flog2 _ => [2]
  | .pack _ => [3, 4, 8, 9, 10, 11, 12, 13, 14, 15]
  | .unpk _ => [0, 1, 2, 5, 6, 7]
  | .cbdec _ => [2, 3, 4, 10, 12]
  | .qscl _ => [10, 12, 13, 14]
  | .qnt _ | .salsel _ => [10, 12, 13, 14, 15]
  | .shx _ => [0, 1]
  | .red _ | .scan _ | .ats _ | .atb _ | .reds _ | .redb _ => [0, 1, 2, 5, 6, 7]
  | _ => List.range 16

/-- The element group of a type (12 Table 12.8). -/
def typeGroup (t : BitVec 4) : Nat :=
  match t.toNat with
  | 3 | 4 | 8 | 9 => 2
  | 10 | 11 | 12 | 13 => 4
  | 14 | 15 => 8
  | _ => 1

/-- Cause 6: a type, rounding mode, scope or modifier that the entry does not permit. -/
def Instr.badModifier (i : Instr) : Bool :=
  (match i.form with
    | .lw _ _ f => !(i.types.contains f.t.toNat)
    | _ => false) ||
  match i with
  | .icmp f => f.m.extractLsb' 0 3 > 5#3 || ((f.t == 1#4 || f.t == 7#4) && !f.m.getLsbD 3)
  | .fadd f | .fmul f => f.m.extractLsb' 0 3 > 4#3
  | .ffma f | .frnd f | .fscl f => f.m.extractLsb' 0 3 > 3#3
  | .fmin f | .fmax f | .fcls f | .frcp f | .frsq f | .fsqrt f | .fexp2 f | .flog2 f => f.m.extractLsb' 0 3 != 0
  | .fcmp f => f.m.extractLsb' 0 3 == 7#3
  | .cvt f => typeGroup f.t != typeGroup (f.m.extractLsb' 0 4) || f.m.extractLsb' 4 3 > 4#3
  | .pack f => f.m.extractLsb' 4 3 > 3#3 || (f.m.extractLsb' 0 3).toNat ≥ typeGroup f.t / 2
  | .unpk f =>
    typeGroup (f.m.extractLsb' 0 4) == 1 || (f.m.extractLsb' 4 3).toNat ≥ typeGroup (f.m.extractLsb' 0 4) ||
      !(unpkTo (f.m.extractLsb' 0 4).toNat).contains f.t.toNat
  | .cbdec f => (f.m.extractLsb' 0 3).toNat ≥ 8 / typeGroup f.t
  | .qnt f => f.m.extractLsb' 4 3 > 3#3 || (f.m.extractLsb' 0 3).toNat ≥ typeGroup f.t
  | .salsel f => f.m.extractLsb' 4 3 > 3#3
  | .swiz f => f.m.extractLsb' 2 3 > 5#3
  | .shx f => f.m.extractLsb' 0 3 > 4#3
  | .ballot f | .peers f => f.m.getLsbD 7
  | .red f | .scan f =>
    f.m.extractLsb' 0 3 > 5#3 || (f.m.extractLsb' 0 3 > 2#3 && (f.t == 2#4 || f.t == 5#4))
  | .ldl f | .lds f | .ldb f | .ldk f => badSize f || (f.c.getLsbD 6 && (f.c.extractLsb' 4 2 == 3#2 || wideT f.t))
  | .stl f | .sts f | .stb f => badSize f
  | .ldf f => f.c.extractLsb' 4 2 != 3#2 || badSize f || f.c.getLsbD 6 || badTr f
  | .stf f => f.c.extractLsb' 4 2 != 3#2 || badSize f || badTr f
  | .pfb f => f.c.extractLsb' 4 2 != 0#2
  | .ats f | .atb f | .reds f | .redb f =>
    f.c.extractLsb' 4 4 > 6#4 || ((f.t == 2#4 || f.t == 5#4) && 3#4 ≤ f.c.extractLsb' 4 4 && f.c.extractLsb' 4 4 ≤ 5#4)
  | .scmp f => f.x.extractLsb' 0 3 > 5#3
  | .ginit f | .expect f | .gbind f | .gunb f | .gflg f | .commit f => f.f 11 9 != 0
  | .arrive f => if f.bit 8 then f.f 11 9 > 4 else f.f 11 9 != 0
  | .wait f | .tryw f | .fence f => f.f 11 9 > 4
  | .mldb f => f.fb > 13
  | .mlda f => f.fa > 12
  | .mma f | .qmma f | .mmas f => badPair f || (f.mx && !mxPair f)
  | .scacc f => !mxPair f
  | .mwr f => f.xc == 3
  | _ => false
where
  /-- 13 R338: sizes 1 and 2 take i32 and ui32 only, size 16 takes 32-bit types. -/
  badSize (f : LW) : Bool :=
    match (f.c.extractLsb' 4 2).toNat with
    | 0 => false
    | 3 => wideT f.t
    | _ => f.t > 1#4
  /-- 13 R340: transposes take 8-bit and 16-bit types. -/
  badTr (f : LW) : Bool := f.c.getLsbD 7 && !([3, 4, 8, 9, 10, 11, 12, 13].contains f.t.toNat)
  /-- 12 R316: the destinations of each packed source type. -/
  unpkTo (src : Nat) : List Nat :=
    match src with
    | 3 | 4 | 12 | 13 | 14 => [2, 5]
    | 8 | 10 | 15 => [0, 6]
    | 9 | 11 => [1, 7]
    | _ => []
  /-- 03 Table 3.3: a pair of formats that no product takes (codes 14 and 15 included). -/
  badPair (f : UW) : Bool :=
    !((f.fa < 6 && f.fb < 6) || (6 ≤ f.fa && f.fa ≤ 8 && ((6 ≤ f.fb && f.fb ≤ 8) || f.fb == 13)) ||
      ((f.fa == 9 || f.fa == 10) && (f.fb == 9 || f.fb == 10)) || (f.fa == 11 && f.fb == 11) || (f.fa == 12 && f.fb == 12))
  /-- 03 R86. -/
  mxPair (f : UW) : Bool := 6 ≤ f.fa && f.fa ≤ 8 && ((6 ≤ f.fb && f.fb ≤ 8) || f.fb == 13)

/-- Cause 7: N or guard misuse (10 R249, R255). -/
def Instr.badN (i : Instr) : Bool :=
  match i.form with
  | .lr _ _ => match i with
    | .qpush f => f.n
    | _ => false
  | .lw _ _ f => (f.gs && f.gp == 0) || (f.n && match i with
    | .stl _ | .sts _ | .stb _ | .stf _ | .pfb _ | .reds _ | .redb _ => true
    | .lds g | .ldb g | .ldl g | .ldk g | .ldf g => g.c.getLsbD 6
    | _ => false)
  | .li _ _ => false
  | .event => false
  | _ => i.n

/-- Cause 11: another rule of the entry that the word alone breaks. -/
def Instr.badRule : Instr → Bool
  | .sbfe f => f.f 5 0 + f.f 12 6 > 64
  | .srd f => f.a == 15#6 || f.a ≥ 24#6
  | .swr f => !(f.d == 0#6 || f.d == 2#6 || f.d == 4#6)
  | .post f => f.f 11 9 > 4
  | .shx f => f.m.getLsbD 7 && f.c != 0xFF#8
  | .agree f | .elect f | .rank f | .red f | .scan f => f.m.getLsbD 7 && f.c != 0xFF#8
  | .scacc f => !f.mx
  | _ => false

/-- The lane registers a word names as single operands: first register and how many it spans (01 R16, 13 R338). -/
def Instr.regSpans (i : Instr) : List (Nat × Nat) :=
  (i.operands.filterMap fun p => if isVCode p.1 then some (p.1.toNat, if p.2 then 2 else 1) else none) ++
  match i with
  | .icmp _ | .fcmp _ | .agree _ | .ballot _ | .elect _ | .pfb _ | .reds _ | .redb _ | .qpush _ => []
  | .stl f | .sts f | .stb f | .stf f => if f.c.extractLsb' 4 2 == 3#2 && isVCode f.b then [(f.b.toNat, 4)] else []
  | .ldl f | .lds f | .ldb f | .ldk f | .ldf f =>
    if f.c.getLsbD 6 || f.n then []
    else [(f.d.toNat, if f.c.extractLsb' 4 2 == 3#2 then 4 else if wideT f.t && f.c.extractLsb' 4 2 == 0#2 then 2 else 1)]
  | .fcls f | .rank f | .peers f => if f.n then [] else [(f.d.toNat, 1)]
  | .cass f | .casb f => [(f.d.toNat, if wideT f.t then 2 else 1)]
  | .vget f | .vput f => [(f.v, if f.top then 2 else 1)]
  | .group f => [(f.v, if f.bit 15 then 2 else 1)]
  | .build f => [(f.v, if f.bit 8 then 2 else 1)]
  | .join f => [(f.v, if f.bit 0 then 2 else 1)]
  | .expand f => [(f.v, 1), (f.f 14 8, 1)]
  | .mlda f => [(f.v, 1)]
  | .mma f | .qmma f | .mmas f | .scacc f => if f.lblReg then [(f.v, 1)] else []
  | .mrd f => [(f.v, 1)]
  | .mwr f => [(f.v, if f.xc == 2 then 2 else 1)]
  | .sqload f | .sqstg f | .sqdec f | .sqhis f => [(f.v, 1)]
  | _ => match i.form with
    | .lr _ f => if f.n then [] else [(f.d.toNat, 1)]
    | .li _ f => if f.n then [] else [(f.d.toNat, 1)]
    | .lw _ _ f => if f.n then [] else [(f.d.toNat, if wideT f.t then 2 else 1)]
    | _ => []

/-- Cause 5 against a register count: a register at or above it, an odd first register of a pair, or a first register
of four that is no multiple of four (01 R16, 13 R338, R333, R334). -/
def Instr.badReg (regs : Nat) (i : Instr) : Bool :=
  (i.regSpans.any fun p => p.1 + p.2 > regs || p.1 % p.2 != 0) ||
  match i with
  | .build f => f.f 7 1 + (f.f 11 9 + 1) > regs
  | .join f => f.f 7 1 + 1 ≥ regs
  | _ => false

/-- The lowest of causes 4, 6, 7 and 11 that the word alone breaks; cause 5 is judged against `.regs`, so a word is
judged here as for a kernel of 128 registers. -/
def Instr.staticCause (i : Instr) : Option Nat :=
  if i.badOperand then some 4
  else if i.badReg 128 then some 5
  else if i.badModifier then some 6
  else if i.badN then some 7
  else if i.badRule then some 11
  else none

/-! ## Words to instructions -/

/-- The one-word lane opcodes (10 Table 10.6). -/
def lrInstr (op : Nat) (f : LR) : Option Instr :=
  match op with
  | 0x00 => some (.iadd f)
  | 0x01 => some (.isub f)
  | 0x02 => some (.imul f)
  | 0x03 => some (.imulh f)
  | 0x04 => some (.imin f)
  | 0x05 => some (.imax f)
  | 0x06 => some (.and f)
  | 0x07 => some (.or f)
  | 0x08 => some (.xor f)
  | 0x09 => some (.andn f)
  | 0x0A => some (.shl f)
  | 0x0B => some (.shr f)
  | 0x0C => some (.sar f)
  | 0x0D => some (.popc f)
  | 0x0E => some (.clz f)
  | 0x0F => some (.brev f)
  | 0x10 => some (.mov f)
  | 0x11 => some (.faddF32 f)
  | 0x12 => some (.fmulF32 f)
  | 0x13 => some (.fminF32 f)
  | 0x14 => some (.fmaxF32 f)
  | 0x15 => some (.swizSel f)
  | 0x16 => some (.qpush f)
  | _ => none

/-- The two-word lane classes and their functions (10 Tables 10.6, 10.7). -/
def lwInstr (op fn : Nat) (f : LW) : Option Instr :=
  match op, fn with
  | 0x30, 0x00 => some (.imulhTyped f)
  | 0x30, 0x01 => some (.iminTyped f)
  | 0x30, 0x02 => some (.imaxTyped f)
  | 0x30, 0x03 => some (.imad f)
  | 0x30, 0x04 => some (.iabs f)
  | 0x30, 0x05 => some (.icmp f)
  | 0x30, 0x06 => some (.sel f)
  | 0x30, 0x07 => some (.lut3 f)
  | 0x30, 0x08 => some (.bfe f)
  | 0x30, 0x09 => some (.bfi f)
  | 0x30, 0x0A => some (.bsel f)
  | 0x31, 0x00 => some (.fadd f)
  | 0x31, 0x01 => some (.fmul f)
  | 0x31, 0x02 => some (.ffma f)
  | 0x31, 0x03 => some (.fmin f)
  | 0x31, 0x04 => some (.fmax f)
  | 0x31, 0x05 => some (.fcmp f)
  | 0x31, 0x06 => some (.frnd f)
  | 0x31, 0x07 => some (.fscl f)
  | 0x31, 0x08 => some (.fcls f)
  | 0x32, 0x00 => some (.frcp f)
  | 0x32, 0x01 => some (.frsq f)
  | 0x32, 0x02 => some (.fsqrt f)
  | 0x32, 0x03 => some (.fexp2 f)
  | 0x32, 0x04 => some (.flog2 f)
  | 0x33, 0x00 => some (.cvt f)
  | 0x33, 0x01 => some (.pack f)
  | 0x33, 0x02 => some (.unpk f)
  | 0x33, 0x03 => some (.cbdec f)
  | 0x33, 0x04 => some (.qscl f)
  | 0x33, 0x05 => some (.qnt f)
  | 0x33, 0x06 => some (.salsel f)
  | 0x34, 0x00 => some (.swiz f)
  | 0x34, 0x01 => some (.shx f)
  | 0x34, 0x02 => some (.agree f)
  | 0x34, 0x03 => some (.ballot f)
  | 0x34, 0x04 => some (.peers f)
  | 0x34, 0x05 => some (.red f)
  | 0x34, 0x06 => some (.scan f)
  | 0x34, 0x07 => some (.elect f)
  | 0x34, 0x08 => some (.rank f)
  | 0x35, 0x00 => some (.ldl f)
  | 0x35, 0x01 => some (.stl f)
  | 0x35, 0x02 => some (.lds f)
  | 0x35, 0x03 => some (.sts f)
  | 0x35, 0x04 => some (.ldb f)
  | 0x35, 0x05 => some (.stb f)
  | 0x35, 0x06 => some (.ldk f)
  | 0x35, 0x07 => some (.ldf f)
  | 0x35, 0x08 => some (.stf f)
  | 0x35, 0x09 => some (.pfb f)
  | 0x36, 0x00 => some (.ats f)
  | 0x36, 0x01 => some (.atb f)
  | 0x36, 0x02 => some (.cass f)
  | 0x36, 0x03 => some (.casb f)
  | 0x36, 0x04 => some (.reds f)
  | 0x36, 0x05 => some (.redb f)
  | _, _ => none

/-- The LIMM operations (10 R248). -/
def liInstr (sel : Nat) (f : LI) : Option Instr :=
  match sel with
  | 0x00 => some (.movi f)
  | 0x01 => some (.iaddi f)
  | 0x02 => some (.andi f)
  | 0x03 => some (.ori f)
  | 0x04 => some (.xori f)
  | 0x05 => some (.faddi f)
  | 0x06 => some (.fmuli f)
  | _ => none

/-- The UR opcodes (10 Table 10.6). -/
def urInstr (op : Nat) (f : UR) : Option Instr :=
  match op with
  | 0x00 => some (.sadd f)
  | 0x01 => some (.ssub f)
  | 0x02 => some (.smul f)
  | 0x03 => some (.smulh f)
  | 0x04 => some (.sand f)
  | 0x05 => some (.sor f)
  | 0x06 => some (.sxor f)
  | 0x07 => some (.sshl f)
  | 0x08 => some (.sshr f)
  | 0x09 => some (.ssar f)
  | 0x0A => some (.smin f)
  | 0x0B => some (.smax f)
  | 0x0C => some (.scmp f)
  | 0x0D => some (.ssel f)
  | 0x0E => some (.smov f)
  | 0x0F => some (.spopc f)
  | 0x10 => some (.sclz f)
  | 0x1D => some (.ret f)
  | 0x1E => some (.jmpx f)
  | 0x20 => some (.exit f)
  | 0x21 => some (.yield f)
  | 0x22 => some (.nop f)
  | 0x23 => some (.trap f)
  | 0x24 => some (.brk f)
  | 0x25 => some (.eret f)
  | 0x26 => some (.srd f)
  | 0x27 => some (.swr f)
  | _ => none

/-- The UI opcodes (11 Table 11.2). -/
def uiInstr (op : Nat) (f : UI) : Option Instr :=
  match op with
  | 0x12 => some (.saddI f)
  | 0x13 => some (.sandI f)
  | 0x14 => some (.sshlI f)
  | 0x15 => some (.sshrI f)
  | 0x16 => some (.smovI f)
  | _ => none

/-- The UB opcodes (01 Table 1.5, 11 R280, R282). -/
def ubInstr (op : Nat) (f : UB) : Option Instr :=
  match op with
  | 0x18 => some (.bra f)
  | 0x19 => some (.brd f)
  | 0x1A => some (.tok f)
  | 0x1B => some (.meet f)
  | 0x1C => some (.call f)
  | 0x1F => some (.dbnz f)
  | _ => none

/-- The two-word uniform classes and their functions (10 Tables 10.6, 10.7). -/
def uwInstr (op fn : Nat) (f : UW) : Option Instr :=
  match op, fn with
  | 0x30, 0x00 => some (.sbfe f)
  | 0x30, 0x01 => some (.vget f)
  | 0x30, 0x02 => some (.vput f)
  | 0x31, 0x00 => some (.ginit f)
  | 0x31, 0x01 => some (.arrive f)
  | 0x31, 0x02 => some (.wait f)
  | 0x31, 0x03 => some (.tryw f)
  | 0x31, 0x04 => some (.expect f)
  | 0x31, 0x05 => some (.gbind f)
  | 0x31, 0x06 => some (.gunb f)
  | 0x31, 0x07 => some (.gflg f)
  | 0x31, 0x08 => some (.fence f)
  | 0x31, 0x09 => some (.commit f)
  | 0x32, 0x00 => some (.group f)
  | 0x32, 0x01 => some (.build f)
  | 0x32, 0x02 => some (.join f)
  | 0x32, 0x03 => some (.expand f)
  | 0x32, 0x04 => some (.repack f)
  | 0x32, 0x05 => some (.rcount f)
  | 0x33, 0x00 => some (.cld f)
  | 0x33, 0x01 => some (.cnar f)
  | 0x33, 0x02 => some (.cinf f)
  | 0x33, 0x03 => some (.cclr f)
  | 0x33, 0x04 => some (.send f)
  | 0x33, 0x05 => some (.recv f)
  | 0x34, 0x00 => some (.eapp f)
  | 0x34, 0x01 => some (.eadv f)
  | 0x34, 0x02 => some (.eseq f)
  | 0x34, 0x03 => some (.pub f)
  | 0x34, 0x04 => some (.wprd f)
  | 0x35, 0x00 => some (.post f)
  | 0x35, 0x01 => some (.bintake f)
  | 0x35, 0x02 => some (.clkrd f)
  | 0x35, 0x03 => some (.otinv f)
  | 0x36, 0x00 => some (.macq f)
  | 0x36, 0x01 => some (.mrel f)
  | 0x36, 0x02 => some (.mldb f)
  | 0x36, 0x03 => some (.mbsw f)
  | 0x36, 0x04 => some (.mlda f)
  | 0x36, 0x05 => some (.mma f)
  | 0x36, 0x06 => some (.qmma f)
  | 0x36, 0x07 => some (.mmas f)
  | 0x36, 0x08 => some (.scacc f)
  | 0x36, 0x09 => some (.mrd f)
  | 0x36, 0x0A => some (.mwr f)
  | 0x36, 0x0B => some (.mclr f)
  | 0x37, 0x00 => some (.bind f)
  | 0x37, 0x01 => some (.slrd f)
  | 0x37, 0x02 => some (.slfl f)
  | 0x37, 0x03 => some (.ckgen f)
  | 0x37, 0x04 => some (.ckver f)
  | 0x37, 0x05 => some (.ckrd f)
  | 0x38, 0x00 => some (.sqcfg f)
  | 0x38, 0x01 => some (.sqload f)
  | 0x38, 0x02 => some (.sqstg f)
  | 0x38, 0x03 => some (.sqdec f)
  | 0x38, 0x04 => some (.sqhis f)
  | _, _ => none

/-- The fields of a one-word or first word of the lane set (10 Table 10.1). -/
def LR.ofWord (w : Word) : LR :=
  ⟨w.getLsbD 30, w.getLsbD 29, w.extractLsb' 16 7, w.extractLsb' 8 8, w.extractLsb' 0 8⟩

/-- The fields of a two-word lane instruction (10 Tables 10.1, 10.3). -/
def LW.ofWords (w v : Word) : LW :=
  ⟨w.getLsbD 30, w.getLsbD 29, w.extractLsb' 16 7, w.extractLsb' 8 8, w.extractLsb' 0 8,
    v.extractLsb' 16 8, v.extractLsb' 12 4, v.getLsbD 11, v.extractLsb' 8 3, v.extractLsb' 0 8⟩

/-- The fields of a LIMM instruction (10 R248). -/
def LI.ofWords (w v : Word) : LI :=
  ⟨w.getLsbD 30, w.getLsbD 29, w.extractLsb' 16 7, w.extractLsb' 0 8, v⟩

/-- The fields of a UR word (10 Table 10.5). -/
def UR.ofWord (w : Word) : UR :=
  ⟨w.getLsbD 30, w.getLsbD 29, w.extractLsb' 17 6, w.extractLsb' 11 6, w.extractLsb' 5 6, w.extractLsb' 0 5⟩

/-- The fields of a UI word (10 Table 10.5). -/
def UI.ofWord (w : Word) : UI :=
  ⟨w.getLsbD 30, w.getLsbD 29, w.extractLsb' 17 6, w.extractLsb' 11 6, w.extractLsb' 0 11⟩

/-- The fields of a UB word (01 R26). -/
def UB.ofWord (w : Word) : UB :=
  ⟨w.getLsbD 30, w.getLsbD 29, w.extractLsb' 20 3, w.getLsbD 19, w.extractLsb' 0 19⟩

/-- The fields of a two-word uniform instruction (10 R259); `w` keeps W2[23:0], and [31:24] is cleared because it is
the fn. -/
def UW.ofWords (w v : Word) : UW :=
  ⟨w.getLsbD 30, w.getLsbD 29, w.extractLsb' 17 6, w.extractLsb' 11 6, w.extractLsb' 5 6, w.extractLsb' 0 5,
    v &&& 0x00FFFFFF#32⟩

/-- SMOVI's fields: the second word whole (10 R259). -/
def UW.ofConst (w v : Word) : UW :=
  ⟨w.getLsbD 30, w.getLsbD 29, w.extractLsb' 17 6, w.extractLsb' 11 6, w.extractLsb' 5 6, w.extractLsb' 0 5, v⟩

/-- The major opcode, [28:23]. -/
def majorOp (w : Word) : Nat := (w.extractLsb' 23 6).toNat

/-- How many words the instruction starting with `w` takes (10 R249, R259): a two-word class of either set. -/
def wordsOf (w : Word) : Nat :=
  if w.getLsbD 31 then
    if (0x30 ≤ majorOp w && majorOp w ≤ 0x38) || majorOp w == 0x3E then 2 else 1
  else if (0x30 ≤ majorOp w && majorOp w ≤ 0x36) || majorOp w == 0x3E then 2 else 1

/-- The instruction at a place of the opcode map, before its unused fields are looked at: none with cause 1 for a
reserved opcode, cause 2 for an unassigned fn or selector (10 R260 to R262). -/
def mapped (w v : Word) : Except Nat Instr :=
  let op := majorOp w
  let fn := (v.extractLsb' 24 8).toNat
  let orElse (c : Nat) (o : Option Instr) : Except Nat Instr := match o with
    | some i => .ok i
    | none => .error c
  if w.getLsbD 31 then
    if op == 0x3E then
      if w.extractLsb' 11 6 > 1#6 then .error 2 else .ok (.smovi (UW.ofConst w v))
    else if 0x30 ≤ op then
      if op ≤ 0x38 then orElse 2 (uwInstr op fn (UW.ofWords w v)) else .error 1
    else match urInstr op (UR.ofWord w) with
      | some i => .ok i
      | none => match uiInstr op (UI.ofWord w) with
        | some i => .ok i
        | none => orElse 1 (ubInstr op (UB.ofWord w))
  else if op == 0x3E then orElse 2 (liInstr (w.extractLsb' 8 8).toNat (LI.ofWords w v))
  else if 0x30 ≤ op then
    if op ≤ 0x36 then orElse 2 (lwInstr op fn (LW.ofWords w v)) else .error 1
  else orElse 1 (lrInstr op (LR.ofWord w))

/-- The instruction of two words (the second is 0 for a one-word instruction), or the cause 1, 2 or 3 of ILLEGAL. Total
on all words. -/
def decode (w v : Word) : Except Nat Instr :=
  match mapped w v with
  | .error c => .error c
  | .ok i => if i.unused then .error 3 else .ok i

/-! ## Instructions to words -/

/-- The set bit and the H and N bits and the major opcode. -/
def headWord (uni h n : Bool) (op : Nat) : Word :=
  BitVec.ofBool uni ++ BitVec.ofBool h ++ BitVec.ofBool n ++ BitVec.ofNat 6 op ++ (0#23)

/-- The words of an instruction, written from 10 Tables 10.1, 10.3 and 10.5; (0, 0) for a step that is no word. -/
def encode (i : Instr) : Word × Word :=
  match i.form with
  | .lr op f => (headWord false f.h f.n op ||| (f.d ++ f.a ++ f.b).setWidth 32, 0)
  | .lw op fn f =>
    (headWord false f.h f.n op ||| (f.d ++ f.a ++ f.b).setWidth 32,
      BitVec.ofNat 8 fn ++ f.c ++ f.t ++ BitVec.ofBool f.gs ++ f.gp ++ f.m)
  | .li sel f => (headWord false f.h f.n 0x3E ||| (f.d ++ BitVec.ofNat 8 sel ++ f.b).setWidth 32, f.imm)
  | .ur op f => (headWord true f.h f.n op ||| (f.d ++ f.a ++ f.b ++ f.x).setWidth 32, 0)
  | .ui op f => (headWord true f.h f.n op ||| (f.d ++ f.a ++ f.imm).setWidth 32, 0)
  | .ub op f => (headWord true f.h f.n op ||| (f.sel ++ BitVec.ofBool f.sense ++ f.off).setWidth 32, 0)
  | .uw op fn f =>
    (headWord true f.h f.n op ||| (f.d ++ f.a ++ f.b ++ f.x).setWidth 32,
      (BitVec.ofNat 8 fn ++ (0#24)) ||| (f.w &&& 0x00FFFFFF#32))
  | .us f => (headWord true f.h f.n 0x3E ||| (f.d ++ f.a ++ f.b ++ f.x).setWidth 32, f.w)
  | .event => (0, 0)

/-- The words of a byte string, four bytes each, little-endian (00 R6). -/
def wordAt (bs : List Byte) (k : Nat) : Word := BitVec.ofNat 32 (leNat ((bs.drop (4 * k)).take 4))

/-- Decodes a little-endian byte string: the instruction and the bytes after it. Total on any bytes; fewer bytes than
the instruction takes give none. -/
def decodeBytes (bs : List Byte) : Option (Instr × List Byte) :=
  let n := wordsOf (wordAt bs 0)
  if bs.length < 4 * n then none
  else match decode (wordAt bs 0) (if n = 2 then wordAt bs 1 else 0) with
    | .ok i => some (i, bs.drop (4 * n))
    | .error _ => none

/-- The instruction the decoder reads from the bits of `w`, bit 0 the lowest of the first word, the bits above `nbits`
being 0. The words are laid out as bytes, as the hardware stores them, and decoded. -/
def decodeTableWord (nbits w : Nat) : Option Instr :=
  let x := w % 2 ^ nbits
  match decodeBytes (leBytes 8 x) with
  | some (i, _) => some i
  | none => none

/-! ## Chain entries -/

/-- The chain entry operations (04 Table 4.8), by op code, on the chain at `ch`; none for an op that is not listed. -/
def entryInstr (op ch : Nat) (e : Entry) : Option Instr :=
  match op with
  | 0x00 => some (.entryNop ch e)
  | 0x01 => some (.copy ch e)
  | 0x02 => some (.copy2d ch e)
  | 0x03 => some (.fill ch e)
  | 0x10 => some (.gather ch e)
  | 0x11 => some (.gatherm ch e)
  | 0x12 => some (.scatadd ch e)
  | 0x20 => some (.allred ch e)
  | 0x21 => some (.rscat ch e)
  | 0x22 => some (.allgath ch e)
  | 0x23 => some (.bcast ch e)
  | 0x30 => some (.submit ch e)
  | _ => none

/-- The op code of a chain entry step. -/
def Instr.entryOp : Instr → Option Nat
  | .entryNop _ _ => some 0x00
  | .copy _ _ => some 0x01
  | .copy2d _ _ => some 0x02
  | .fill _ _ => some 0x03
  | .gather _ _ => some 0x10
  | .gatherm _ _ => some 0x11
  | .scatadd _ _ => some 0x12
  | .allred _ _ => some 0x20
  | .rscat _ _ => some 0x21
  | .allgath _ _ => some 0x22
  | .bcast _ _ => some 0x23
  | .submit _ _ => some 0x30
  | _ => none

/-- The fields of a 64-byte entry image (04 Table 4.7). -/
def Entry.ofBytes (bs : List Byte) : Entry :=
  let f (o n : Nat) : Nat := leNat ((bs.drop o).take n)
  { ctl := BitVec.ofNat 24 (f 1 3), caps := BitVec.ofNat 32 (f 4 4), src := BitVec.ofNat 64 (f 8 8),
    dst := BitVec.ofNat 64 (f 16 8), aux := BitVec.ofNat 64 (f 24 8), len := BitVec.ofNat 32 (f 32 4),
    count := BitVec.ofNat 32 (f 36 4), sstride := BitVec.ofNat 32 (f 40 4), dstride := BitVec.ofNat 32 (f 44 4),
    param := BitVec.ofNat 32 (f 48 4), group := BitVec.ofNat 32 (f 52 4), link := BitVec.ofNat 64 (f 56 8) }

/-- The 64-byte image of an entry with its op (04 Table 4.7). -/
def Entry.toBytes (op : Nat) (e : Entry) : List Byte :=
  BitVec.ofNat 8 op :: leBytes 3 e.ctl.toNat ++ leBytes 4 e.caps.toNat ++ leBytes 8 e.src.toNat ++
    leBytes 8 e.dst.toNat ++ leBytes 8 e.aux.toNat ++ leBytes 4 e.len.toNat ++ leBytes 4 e.count.toNat ++
    leBytes 4 e.sstride.toNat ++ leBytes 4 e.dstride.toNat ++ leBytes 4 e.param.toNat ++ leBytes 4 e.group.toNat ++
    leBytes 8 e.link.toNat

/-- G: landings count bytes on the guard (04 Table 4.7). -/
def Entry.g (e : Entry) : Bool := e.ctl.getLsbD 0
/-- S: the back copy of a shadowed destination. -/
def Entry.s (e : Entry) : Bool := e.ctl.getLsbD 1
/-- K: recompute the sidecars of every tile landed in. -/
def Entry.k (e : Entry) : Bool := e.ctl.getLsbD 2
/-- F: start only after every earlier entry has completed. -/
def Entry.f (e : Entry) : Bool := e.ctl.getLsbD 3
/-- A: one arrival at completion. -/
def Entry.a (e : Entry) : Bool := e.ctl.getLsbD 4
/-- A reserved control bit is set. -/
def Entry.ctlBad (e : Entry) : Bool := e.ctl.extractLsb' 5 19 != 0
/-- Capability-table indices of source, destination, auxiliary region and guard. -/
def Entry.cap (e : Entry) (i : Nat) : Nat := (e.caps.extractLsb' (8 * i) 8).toNat

end Sys2Proof
end

