-- ==== Sys2Proof/Config.lean ====
section
/-! DEFINITION. The values the spec leaves open, as constants without a body: nothing can evaluate them or prove a value
of one. `State.tick` rises with every step that may use one, so two uses are unrelated. -/
namespace Sys2Proof

/-- Which of the enabled steps is taken next (05 R135, R137; 02 R70): an index, read modulo their number. -/
opaque Config.choose : Nat → Nat

/-- How many nanoseconds pass over a step (02 R69). -/
opaque Config.passes : Nat → Nat

/-- A byte held in another package (09 R236), by step and place. -/
opaque Config.farByte : Nat → Nat → BitVec 8

/-- A stored byte read under a key other than the one it was written under (07 R211): by the key written under, the key
read under, and the device address. -/
opaque Config.wrongKey : Nat → Nat → Nat → BitVec 8

/-- How many bytes an engine's next landing has (04 R123): read modulo what is left of the row, 4 KiB at most (08 R226). -/
opaque Config.landing : Nat → Nat

/-- What EAPP returns for a chain of another package (04 R119). -/
opaque Config.farSeq : Nat → BitVec 64

/-- Where in a chain's slice the Parser places an entry it copies (06 Table 6.3): a 64-byte unit, read modulo those of a slice. -/
opaque Config.entryPlace : Nat → Nat

/-- A node's detail where its code gives it no meaning (06 Table 6.2). -/
opaque Config.nodeDetail : Nat → Nat

/-- An event's detail where its code gives it no meaning (07 Table 7.10). -/
opaque Config.eventDetail : Nat → Nat

/-- Which line of a full bulk cache is evicted (04 R109). -/
opaque Config.victim : Nat → Nat

/-- The step at which a halted matrix instruction or the validation of an MMAS stops (03 R94), and the sample at which a solver
instruction does (17 R388), by step and core: read modulo what the instruction has. -/
opaque Config.matStep : Nat → Nat → Nat × Nat × Nat

/-- A word a lane pipe in error delivers where nothing checks it (08 R215). -/
opaque Config.badWord : Nat → Nat → BitVec 32

/-- What a latch holds in a lane in which its instruction was not active (01 R37): by the place of the split (block, troupe,
active lanes, and the latches before it), the word and the lane, so that it does not depend on timing (02 R69). -/
opaque Config.idleLatch : List Nat → Nat → Nat → BitVec 64

/-- What the status page shows of an ERASE alarm (09 Table 9.2). -/
opaque Config.erasedAlarm : Nat

/-- The alarm a failed bring-up stage calls for, by stage and cause (09 R242): read modulo 3, as 1 + it. -/
opaque Config.stageAlarm : Nat → Nat → Nat

/-- The package number and the number of packages the pod configuration gives (09 R236). -/
opaque Config.pkg : Nat
/-- Packages of the pod: 1 + this modulo 64. -/
opaque Config.pods : Nat
/-- Whether a route leads to a package while the links of a set are up, by step, set and package (09 R235). -/
opaque Config.route : Nat → Nat → Nat → Bool
/-- The time master where no package has a path to every other (09 R237): read modulo the packages of the pod. -/
opaque Config.master : Nat
/-- Which links train at bring-up. -/
opaque Config.linkUp : Nat → Bool
/-- Pod time as it is set at bring-up. -/
opaque Config.bootClk : BitVec 64
/-- Where partition 0's tables stand at bring-up (09 R242), by field. -/
opaque Config.boot : Nat → Nat
/-- Whether policy lets partition 0 hold plaintext (07 R210). -/
opaque Config.bootPlain : Bool

/-- The Dycor firmware version of the status page (09 Table 9.2). -/
opaque Config.firmware : Nat

end Sys2Proof
end

