-- ==== Sys2Proof/Machine/State.lean ====
section
/-! DEFINITION. The state of a Shotis package: every piece of state the spec names, as plain data. Places in memory are
natural numbers: a slice address (04 Table 4.2), a device address (07 R202), or a bulk key that packs partition, object,
copy and offset. Tables are in rising key order. -/
namespace Sys2Proof.Machine

/-- A byte memory: the listed bytes, addresses rising; an unlisted byte reads 0. -/
abbrev Mem := Tab Byte

/-- A set of numbers, rising. -/
abbrev Marks := List Nat

/-- Why the machine itself stops. -/
inductive Fault where
  /-- Raised by `exec` of an instruction word when no split is chosen to issue (`State.cur` names none that exists).
  `step` never asks for that. Safe: the machine stops where the spec describes no step. -/
  | noSplit
  deriving DecidableEq, Repr

/-- Why an instruction has no meaning here. -/
inductive Refusal where
  /-- Raised by `exec` for an instruction whose meaning is not written. Safe. -/
  | notModelled (mnemonic : String)
  deriving DecidableEq, Repr

/-! ## Registers -/

/-- A capability register: 128 bits and the hidden tag (01 R15, 07 R193, 14 R351). -/
structure CapReg where
  bits : BitVec 128 := 0
  tag : Option Nat := none
  deriving DecidableEq, Repr

/-- An armed reconvergence token (01 R29). -/
structure Token where
  target : Word
  enrolled : Mask
  age : Nat
  deriving DecidableEq, Repr

/-- A fault in the terms of `flt` (01 Table 1.3). `pc` is the word `flt`.pc names. -/
structure Flt where
  code : Nat
  lane : Nat := 0
  detail : Nat := 0
  pc : Word := 0
  deriving DecidableEq, Repr

/-- The state of a split (01 R23, 06 Table 6.5). -/
inductive Wait where
  | ready
  /-- parked at MEET kN (01 R30) -/
  | meet (k : Nat)
  /-- parked at a population instruction (01 R33, R34): of the block scope or the troupe's, arrived or not yet. -/
  | pop (block arrived : Bool)
  /-- WAIT on the guard at a slice address, for a phase (13 R347) -/
  | guard (g phase : Nat)
  /-- TRYW (13 R347): the same, with the gate to write and the deadline in pod time -/
  | tryw (g phase gate deadline : Nat)
  /-- RECV.wait on the channel object (14 R357) -/
  | recv (part obj : Nat)
  /-- parked on pages of an object (07 R205) with the unfinished lanes (01 R23) -/
  | page (part obj : Nat) (pages : List Nat) (back write : Bool) (lanes : Mask)
  /-- a queue pop or push that waits, with the lanes it acts on (06 R185) -/
  | queue (q : Nat) (push : Bool) (lanes : Mask)
  /-- RECV: until its payload has been accepted in another package, as the operations sent at a number are (14 R357) -/
  | payload (ent : Nat)
  /-- COMMIT: until no buffer entry numbered below the limit is left (05 R139) -/
  | commit (limit : Nat)
  /-- POST: the records of the bin are being accepted (06 R175) -/
  | post
  /-- MACQ: in the unit's line (06 R184) -/
  | macq
  /-- OTINV of a pending number (11 R295) -/
  | otinv (id : Nat)
  /-- PUB: until no entry is landing in the region (04 R126) -/
  | pub (c : CapReg)
  /-- PUB: the copies have changed places, those of an object of package `home`; until the packages that hold translations, and
  the home, acknowledge it (04 R126) -/
  | swapped (home part obj : Nat)
  /-- holds a fault until the handler of another split ends (08 R221) -/
  | held
  deriving DecidableEq, Repr

/-- A split (01 R23). -/
structure Split where
  own : Mask
  em : Mask
  pc : Word
  age : Nat
  wait : Wait := .ready
  /-- the lanes to which the next issue is confined: those a park left unfinished (07 R205) -/
  only : Option Mask := none
  deriving DecidableEq, Repr

/-- A descriptor of the split stack (01 R25). -/
structure Stacked where
  pc : Word
  own : Mask
  em : Mask
  age : Nat
  deriving DecidableEq, Repr

/-- The registers a run may write, kept as they stood at its first word (10 R253). -/
structure Regs where
  v : Tab (Lanes Word) := []
  p : Tab Mask := []
  s : Tab DWord := []
  g : BitVec 8 := 0
  c : Tab CapReg := []
  nf : BitVec 16 := 0
  deriving DecidableEq, Repr

/-- A run in progress (01 R36): its split entry, the first word, how many instructions have issued, the latches of the lane instructions
issued, newest first (each a low and a high word per lane), and the registers at its start. -/
structure Run where
  e : Nat
  first : Word
  pos : Nat
  latches : List (Lanes DWord)
  saved : Regs
  /-- the poison marks and single errors of registers at its start (08 R398) -/
  poison : Marks := []
  flips : Marks := []
  deriving DecidableEq, Repr

/-- Which space a load reads (04 Table 4.1). -/
inductive Space where
  | slice
  | bulk
  deriving DecidableEq, Repr

/-- A load in flight (01 R38, 13 R339): its lanes with the place each reads, the bytes of an element, whether it is
sign-extended, the words it fills from register `d`, or the partner queue and slot it feeds. -/
structure Load where
  space : Space
  lanes : List (Nat × Nat)
  size : Nat
  signed : Bool
  words : Nat
  d : Nat
  queue : Option Nat
  transpose : Nat
  /-- its page was found absent as it returned, and the event is posted (07 R205) -/
  lacks : Bool := false
  deriving DecidableEq, Repr

/-- An open population instance (01 R33): the instruction's place and size, the troupe whose split opened it, its members
by troupe, those that have arrived, and those that arrived active in their split; `vals` holds the operands of a
cross-lane instruction as each split read them, by 32·position + lane (13 R323). -/
structure Inst where
  pc : Word
  size : Nat
  block : Bool
  opener : Nat
  instr : Instr
  members : Tab Mask
  arrived : Tab Mask := []
  active : Tab Mask := []
  vals : Tab (Nat × Nat) := []
  /-- its last member has arrived and it is executing (06 R187) -/
  started : Bool := false
  /-- a page of its relation object it waits for: bulk key, and whether it is to be written (01 R35) -/
  lack : Option (Nat × Bool) := none
  deriving DecidableEq, Repr

/-- The handler state of a troupe (08 R221): the split in it, and where ERET retries and skips to. -/
structure Handler where
  entry : Nat
  retry : Word
  skip : Word
  deriving DecidableEq, Repr

/-- A solver instruction that a halt has stopped (08 Table 8.3, 17 R388): its split and word, how many of its samples it has
processed, the flags they raised, which of them were accepted, and the count toward sD. -/
structure SqHold where
  e : Nat
  pc : Word
  next : Nat := 0
  flags : BitVec 16 := 0
  ran : List (Nat × Bool) := []
  count : Nat := 0
  deriving DecidableEq, Repr

/-- A troupe (01 R10, Table 1.1, Table 1.2). Troupe numbers 0 to 31 are compute troupes and 32 to 63 the shadow troupe of
troupe number − 32 (01 R14). -/
structure Troupe where
  lm : Mask
  role : Nat
  regs : Regs := {}
  k : Tab Token := []
  /-- inbound queues by 32·q + lane; an entry that is not yet filled is `none` (06 R185) -/
  q : Tab (List (Option Word)) := []
  rid : Tab Word := []
  /-- return stacks by lane, newest first (11 R281) -/
  ret : Tab (List Word) := []
  splits : Tab Split := []
  stack : List Stacked := []
  /-- the ages given out -/
  now : Nat := 0
  chk : BitVec 2 := 0
  flt : DWord := 0
  handler : Option Handler := none
  /-- held faults, the earliest first: split entry, fault, and where ERET would retry and skip to -/
  held : List (Nat × Flt × Word × Word) := []
  run : Option Run := none
  inst : Option Inst := none
  loads : Tab Load := []
  sq : Option SqHold := none
  passed : Nat := 0
  promoted : Bool := false
  start : Nat := 0
  yielded : Bool := false
  stopped : Bool := false
  /-- the split a step command lets issue (08 R231) -/
  stepping : Option Nat := none
  /-- poisoned units of 32 bits (08 R398): 32·register + lane for lane registers, 4096 + 2·register + half for uniform
  ones, 8192 + register for predicates, 16384 + 8·(32·queue + lane) + place for queue entries -/
  poison : Marks := []
  /-- units, numbered the same way, with a single error not yet met (08 R214) -/
  flips : Marks := []
  deriving DecidableEq, Repr

/-! ## Blocks -/

/-- A store-buffer entry (05 R137): one place in slice space or, by bulk key, in bulk space. -/
structure BufEntry where
  space : Space
  addr : Nat
  data : List Byte
  /-- places of the access no lane stored to (13 R340) -/
  holes : List Nat := []
  sealed : Bool := false
  committed : Bool := false
  epoch : Nat := 0
  deriving DecidableEq, Repr

/-- A region a guard binds (04 Table 4.5), in bytes. -/
structure Region where
  kind : Nat
  obj : Nat
  base : Nat
  len : Nat
  deriving DecidableEq, Repr

/-- What a release does when its writes have reached their homes (05 R141, R155). -/
inductive Then where
  | arrive (g n : Nat)
  | send (m : Msg)
  deriving DecidableEq, Repr

/-- A release in progress (05 R141): the buffer entries numbered below `limit` must have drained, and the dirty lines of
the regions (all of them, where none is listed) written back. -/
structure Release where
  limit : Nat
  regions : List Region
  act : Then
  deriving DecidableEq, Repr

/-- The cursor of a JOIN that ran out of free lanes (13 R334): the word, the row of the first undelivered entry (none for
the unmatched row of `.left`), and the probes still pending, as (troupe, lane), the cursor's first. -/
structure Cursor where
  pc : Word
  row : Option Nat
  probes : List (Nat × Nat)
  deriving DecidableEq, Repr

/-- A block (01 R11). -/
structure Block where
  task : Nat
  id : Nat
  core : Nat
  troupes : Tab Troupe := []
  buf : Tab BufEntry := []
  epoch : Nat := 0
  /-- FENCE separators wider than `.core` whose write-back is still due: the epochs they close (05 R147) -/
  fences : List Nat := []
  /-- the epoch at its last commit point: write-backs of separators before it are due at that drain (05 R147) -/
  backDue : Nat := 0
  releases : Tab Release := []
  inst : Option Inst := none
  cursor : Option Cursor := none
  /-- the solver configuration and the bound solver region (14 R375, R378) -/
  sqCfg : Option (List Byte) := none
  sqReg : Option CapReg := none
  /-- lane-private windows: 16,384·(32·troupe + lane) + address (04 R104) -/
  priv : Mem := []
  /-- block error word (08 Table 8.2) -/
  err : Word := 0
  /-- the relaunch window is open (08 R217) -/
  window : Bool := true
  attempts : Nat := 0
  quads : Marks := []
  /-- OR of the numeric flags of troupes that have ended (02 R67) -/
  nf : BitVec 16 := 0
  swapped : Bool := false
  stopBit : Bool := false
  /-- held by a gang launch until its start tick (06 R178) -/
  gang : Bool := false
  /-- launched from a bin with these records (06 R176) -/
  records : List (List Word) := []
  /-- the write pointers of the core's copy channels when the block started (04 R124) -/
  cwpBase : Tab DWord := []
  /-- chains of other packages it has appended entries to (08 R217) -/
  farChains : Marks := []
  /-- 8-byte units of the windows that are poisoned, and that hold a single error not yet met (08 R398, R214) -/
  privPoison : Marks := []
  privFlips : Marks := []
  /-- while it is swapped out: 64-bit units of what the context store and the swap area keep of it, other than registers,
  predicates and queues, that are poisoned, and that hold a single error not yet met (08 R214, R227, R398) -/
  ctxPoison : Marks := []
  ctxFlips : Marks := []
  /-- killed, with what its end still waits for: the killing code (08 R219) -/
  killed : Option Nat := none
  /-- the package an operation of the block could not reach, not yet faulted (08 R224) -/
  unreach : Option Nat := none
  deriving DecidableEq, Repr

/-- A launch descriptor (10 Table 10.10). -/
structure Launch where
  regs : Nat
  troupes : Nat
  tmax : Nat
  role : Nat
  shd : Bool
  trp : Bool
  ck : Bool
  chk : Nat
  prv : Bool
  blocks : Nat
  code : Nat
  entry : Nat
  shadow : Nat
  trap : Nat
  table : Nat
  args : Nat
  arglen : Nat
  spill : Option Nat
  errors : Nat
  columns : Nat
  deriving DecidableEq, Repr

/-- A task (01 R12). -/
structure Task where
  part : Nat
  launch : Launch
  /-- argument space (04 R105) and the column-set table (10 R268), as read at the launch -/
  args : List Byte := []
  columns : List Byte := []
  graph : Option (Nat × Nat) := none
  /-- completion guard, a slice address; 0 none (06 Table 6.2) -/
  guard : Nat := 0
  next : Nat := 0
  ended : Nat := 0
  /-- task error word (08 R220) -/
  err : Word := 0
  /-- the bin number, for a task a BIN node armed -/
  bin : Option Nat := none
  /-- packages that hold guard bits set on its behalf (04 R111) -/
  farGuards : Marks := []
  /-- the gang launch of another package this is a share of: package, graph and node there (06 R178) -/
  gang : Option (Nat × Nat × Nat) := none
  deriving DecidableEq, Repr

/-! ## Cores -/

/-- A byte in a bulk cache, with the block that dirtied it, and the other blocks that had (04 R109, 05 R141). -/
structure CByte where
  val : Byte
  dirty : Option Nat
  also : Marks := []
  deriving DecidableEq, Repr

/-- What an element of an operand is (03 R82). -/
inductive Cls where
  | zero
  | num
  | inf (neg : Bool)
  | nan
  deriving DecidableEq, Repr

/-- A block of 32 operand elements as the matrix unit holds it (03 R72, R73): window integers, exponent offset, whether a
bit was discarded, the classes and signs of the elements. -/
structure MBlk where
  v : List Int := []
  e : Int := 0
  trn : Bool := false
  cls : List Cls := []
  signs : List Bool := []
  deriving DecidableEq, Repr

/-- A bank of B, as the columns of blocks MLDB made, with format and geometry codes (03 Table 3.1). -/
structure Bank where
  fmt : Nat := 0
  x : Nat := 0
  y : Nat := 0
  quad : Bool := false
  /-- by 64·block + column over the 64·Y columns: key block·512 + column -/
  cols : Tab MBlk := []
  loaded : Bool := false
  deriving DecidableEq, Repr

/-- The A row buffer (03 Table 3.1): by 32·block + row. -/
structure RowBuf where
  fmt : Nat := 0
  x : Nat := 0
  quad : Bool := false
  rows : Tab MBlk := []
  loaded : Bool := false
  deriving DecidableEq, Repr

/-- The last MLDB of a bank, for replay (08 R228): source, table, format, geometry, quad. -/
structure MRec where
  src : CapReg
  tab : CapReg
  fmt : Nat
  x : Nat
  y : Nat
  quad : Bool
  part : Nat
  deriving DecidableEq, Repr

/-- An accumulator tile (03 R76, R99). `ty`: 0 none, 1 i32, 2 f32, 3 f64. `map`: per label 0 unused, 1 + slot, 15 spilled.
`v`: the slot words by (slot·32 + row)·64 + column. `skew`: what each content sum is short of the data it covers, by
64·unit + sum (03 R98). -/
structure Tile where
  ty : Nat := 0
  map : List Nat := []
  v : Tab Word := []
  skew : Tab Word := []
  deriving DecidableEq, Repr

/-- A slot action an instruction's label mapping decided at issue (03 R100). -/
inductive SlotAct where
  | spill (tile label slot : Nat)
  | reload (tile label slot : Nat)
  | clear (tile slot : Nat)
  deriving DecidableEq, Repr

/-- A queued matrix instruction (14 R350): what issue fixed, for execution. -/
structure MatOp where
  instr : Instr
  b : Nat
  t : Nat
  rows : Mask
  labels : List Nat
  acts : List SlotAct
  /-- the type and map each of its tiles has once it has run -/
  plans : List (Nat × Nat × List Nat) := []
  src : CapReg := {}
  src2 : CapReg := {}
  /-- MLDA: the offset of each lane's row; MWR: the value of each lane -/
  addrs : List Nat := []
  /-- MMAS: the blocks of the validated sparse rows, by 32·block + row, none where a bitmap is empty -/
  sparse : Tab MBlk := []
  /-- the word, for a containment fault's `flt`, and the split -/
  pc : Word := 0
  e : Nat := 0
  /-- flags it has raised before a halt (03 R94) -/
  fl : BitVec 16 := 0
  /-- it has run, and waits for its writes in other packages to be accepted before its arrival (14 R366) -/
  ran : Bool := false
  deriving DecidableEq, Repr

/-- The validation of an MMAS that a halt has stopped (03 R94): its split and word, the step, (row, block), and the blocks
validated before it. -/
structure Valid where
  b : Nat
  t : Nat
  e : Nat
  pc : Word
  step : Nat × Nat
  sparse : Tab MBlk
  deriving DecidableEq, Repr

/-- An error in the product datapath (03 R83): which block of the next product it meets, row, column and amount. Row 32
is the check of a column alone, column 512 the check of a row alone. -/
structure Upset where
  block : Nat
  row : Nat
  col : Nat
  amount : Int
  deriving DecidableEq, Repr

/-- A request for a matrix unit (14 R365). -/
structure MReq where
  b : Nat
  t : Nat
  e : Nat
  quad : Bool
  spill : Option CapReg
  guard : Option CapReg
  deriving DecidableEq, Repr

/-- The matrix unit of a core (03 Table 3.1). -/
structure MatUnit where
  holder : Option Nat := none
  quad : Bool := false
  /-- the core whose block holds the unit by a quad grant -/
  lead : Nat := 0
  spill : Option CapReg := none
  guard : Option CapReg := none
  tiles : Tab Tile := []
  /-- types and label maps as the queued instructions will leave them (14 R350) -/
  plan : Tab (Nat × List Nat) := []
  rowBuf : RowBuf := {}
  active : Bank := {}
  loading : Bank := {}
  /-- partial file by (position·32 + row)·64 + column; an unlisted entry is the Z marker (03 R87) -/
  partials : Tab Word := []
  recs : Tab MRec := []
  queue : List MatOp := []
  /-- the step counter, where the instruction at the head of the queue has been halted (03 Table 3.1, R94): (block, row, bit)
  of a product, (row, block, 0) of SCACC, (tile, row, 0) of BIND -/
  step : Nat × Nat × Nat := (0, 0, 0)
  valid : Option Valid := none
  /-- the sidecars of spilled labels (03 R101): sums by 64·(4·(16·tile + label) + unit of the label) + sum. Where they stand in
  the spill region is a DESIGN CHOICE (log 71) -/
  spillSums : Tab Word := []
  /-- the geometry issued MLDB, MBSW and MLDA will leave: format, x, y, quad, loaded -/
  planRow : Nat × Nat × Bool × Bool := (0, 0, false, false)
  planActive : Nat × Nat × Nat × Bool × Bool := (0, 0, 0, false, false)
  planLoading : Nat × Nat × Nat × Bool × Bool := (0, 0, 0, false, false)
  requests : List MReq := []
  /-- errors the next product will meet (03 R84) -/
  upset : List Upset := []
  /-- MLDB records still to replay after a swap-in (08 R228) -/
  replay : Bool := false
  deriving DecidableEq, Repr

/-- An armed bin (06 R172). -/
structure Bin where
  task : Nat
  home : Nat
  count : Nat
  timer : Nat
  deadline : Option Nat := none
  records : List (List Word) := []
  /-- where this bin's part of the overflow ring stands, a word address, its capacity in records, and the place of the
  first record there -/
  ring : Nat
  ringCap : Nat
  head : Nat := 0
  overflow : List (List Word) := []
  launched : Nat := 0
  deriving DecidableEq, Repr

/-- A core (00 R1, 01 R22). -/
structure Core where
  cor : Word := 0
  cwp : Tab DWord := []
  cache : Tab CByte := []
  cachePoison : Marks := []
  /-- 8-byte units of the bulk cache with a single error not yet met (08 R214) -/
  cacheFlips : Marks := []
  /-- pages a write-back found absent and has posted an event for (07 R205): bulk keys of their first bytes -/
  lacks : Marks := []
  mat : MatUnit := {}
  bins : Tab Bin := []
  /-- generations cached, by 2^24·partition + object (07 R201) -/
  gens : Tab Nat := []
  /-- scheduler (06 R180): the slot that chooses next, and the troupes that issued or were passed over this cycle -/
  slot : Nat := 0
  issued : List (Nat × Nat) := []
  passed : List (Nat × Nat) := []
  /-- the slots in which a word issues again: in how many cycles to come, and its troupe (08 R215) -/
  again : Tab (Nat × Nat × Nat) := []
  /-- the troupe whose run holds each slot, while it is in that run (01 R36, 06 R181) -/
  hold : Tab (Nat × Nat) := []
  /-- the model's own: troupes whose next word was found not able to issue, until something else happens -/
  stalls : List (Nat × Nat) := []
  /-- the inactive context (08 R227): matrix unit and write pointers; its blocks are marked swapped -/
  matX : MatUnit := {}
  cwpX : Tab DWord := []
  /-- a lane datapath in error, and whether the error stays (08 R215) -/
  pipe : Option (Nat × Bool) := none
  /-- the uniform pipe in error, and whether the error stays (08 R214) -/
  upipe : Option Bool := none
  deriving DecidableEq, Repr

/-! ## Graphs, engines, package -/

/-- Where a submission came from (06 R163, R164; 09 R234). -/
inductive Source where
  | ring (super : Bool) (index : Nat)
  | chain (addr seq : Nat)
  deriving DecidableEq, Repr

/-- A GANG node that runs (06 R178): its task here, if this package is a member, the packages that have replied, the latest
ready time, the requested tick, when it started, whether the troupes are released, and the members whose blocks have all
ended, with their task error words. -/
structure Gang where
  task : Option Nat
  mask : Marks
  ready : Marks := []
  latest : Nat := 0
  want : Nat
  began : Nat
  started : Bool := false
  ended : Tab Nat := []
  deriving DecidableEq, Repr

/-- A gang launch of another package in which this one is a member (06 R178): who runs the node, its graph and node there,
the task here, whether the reply has gone, and the start tick. -/
structure FarGang where
  src : Nat
  g : Nat
  n : Nat
  task : Nat
  replied : Bool := false
  start : Option Nat := none
  deriving DecidableEq, Repr

/-- A running graph (06 R167). -/
structure Graph where
  part : Nat
  /-- the partition it was submitted to -/
  sub : Nat
  nodes : Nat
  count : Nat
  super : Bool
  serial : Bool
  src : Source
  /-- word address of the submission's status word (06 Table 6.1) -/
  status : Nat
  indeg : Tab Nat := []
  ready : Marks := []
  /-- when each node became ready, in pod time (18 R390) -/
  since : Tab Nat := []
  running : Marks := []
  iters : Tab Nat := []
  /-- WHILE nodes whose body is running -/
  loops : Marks := []
  ended : Option (Nat × Nat) := none
  gangs : Tab Gang := []
  /-- the packages that were asked for a share of one of its GANG nodes (04 R111) -/
  told : Marks := []
  /-- ENGINE nodes: chain and the sequence number awaited -/
  engines : Tab (Nat × Nat) := []
  deriving DecidableEq, Repr

/-- A submission the Parser has accepted and not yet started, or refused at once. -/
structure Pending where
  src : Source
  part : Nat
  super : Bool
  deriving DecidableEq, Repr

/-- Who appended an entry: block and task, and the chain capability's table tag (04 R122, R127). -/
structure Owner where
  chain : Nat
  seq : Nat
  /-- none for an entry an ENGINE node copied -/
  block : Option (Nat × Nat)
  part : Nat
  tag : Option Nat
  /-- where the entry stands: a slice address -/
  entry : Nat
  /-- appended by an ENGINE node of a privileged graph (06 R164) -/
  sup : Bool := false
  /-- the engine has taken it -/
  taken : Bool := false
  /-- appended by a block of another package: package and block, 0 for an ENGINE node there -/
  far : Option (Nat × Nat) := none
  /-- the task whose table the indices of an entry an ENGINE node copied name; of an entry appended across packages, the
  appending block's task there -/
  task : Option Nat := none
  deriving DecidableEq, Repr

/-- A chain entry in progress (04 R123): the capabilities the engine checked when it took it, and its guard. -/
structure Running where
  chain : Nat
  seq : Nat
  op : Nat
  e : Entry
  owner : Owner
  src : CapReg := {}
  dst : CapReg := {}
  guard : Option Nat := none
  /-- where each row lies: offsets from the source and the destination capability, none for a row of zeros -/
  rows : List (Option Nat × Nat) := []
  /-- bytes landed, of how many -/
  done : Nat := 0
  total : Nat := 0
  /-- bytes of a landing on their way to a home in another package (04 R123, R124) -/
  flight : Nat := 0
  /-- landings not yet counted on the guard, oldest first: bytes, and the tiles whose sums are made again before (04 R123) -/
  owed : List (Nat × Marks) := []
  flags : BitVec 16 := 0
  /-- a collective: this member's elements and the group's members, package and die, as read at the start, and what it lands,
  once every member has come (04 R121) -/
  mine : List Byte := []
  members : List (Nat × Nat) := []
  result : Option (List Byte) := none
  /-- the entry has made its completion arrival and waits for the earlier ones to be recorded -/
  ended : Bool := false
  /-- SUBMIT: its submission has been passed to the Parser -/
  passed : Bool := false
  deriving DecidableEq, Repr

/-- A partition (07 R192). -/
structure Part where
  cfg : PartCfg
  halted : Bool := false
  halting : Bool := false
  alarmed : Bool := false
  gate : Bool := false
  evFill : Nat := 0
  /-- submission rings, user and supervisor: tail, head, E (09 R234) -/
  tailU : Word := 0
  headU : Word := 0
  errU : Bool := false
  tailS : Word := 0
  headS : Word := 0
  errS : Bool := false
  /-- submissions in the order they reached the Parser -/
  queue : List Pending := []
  /-- entries of the Parser chain the Parser has read -/
  chainRead : Nat := 0
  /-- a block of it has been placed since it was formed (06 R170) -/
  placed : Bool := false
  /-- next core of each die's rotating order -/
  rotor : Tab Nat := []
  deriving DecidableEq, Repr

/-- An event not yet recorded (07 Table 7.10). -/
structure Event where
  src : Nat
  time : DWord
  code : Nat
  unit : Nat
  part : Nat
  detail : Nat
  deriving DecidableEq, Repr

/-- A sequenced operation not yet acknowledged (05 R158). -/
structure Sent where
  dst : Nat
  seq : Nat
  op : FabOp
  b : Nat
  /-- a drained store: its number in the store buffer and its epoch (05 R139, R147) -/
  ent : Nat := 0
  epoch : Nat := 0
  /-- a landing: chain and sequence number of its entry (04 R123) -/
  land : Option (Nat × Nat) := none
  deriving DecidableEq, Repr

/-- An OTINV in progress (11 R295, 07 R201, R206): the holders that have not acknowledged, dies 0 to 7 and packages as
8 + p; for the generation form, cores as 100 + c. -/
structure Otinv where
  b : Nat
  t : Nat
  e : Nat
  part : Nat
  obj : Nat
  gen : Bool
  pages : List Nat
  holders : Marks
  deriving DecidableEq, Repr

/-- A Zaern Link (09 R235, 08 R224). -/
structure Lnk where
  up : Bool := false
  retries : Nat := 0
  deriving DecidableEq, Repr

/-- The shadow word of a slice region (04 R125): base, length, and the object whose table entry holds SH, F and the back
root (07 R200). -/
structure Shadow where
  base : Nat
  len : Nat
  part : Nat
  obj : Nat
  deriving DecidableEq, Repr

/-- A cached translation (07 R204): the frame, whether writable, whether D has been set. -/
structure Tlb where
  frame : Nat
  w : Bool
  deriving DecidableEq, Repr

/-- The memory of the package. -/
structure Store where
  /-- slice space of this package, by slice address with the pkg field 0 (04 R106) -/
  slice : Mem := []
  /-- device memory, by device address (07 R202) -/
  dev : Mem := []
  /-- code objects: bytes by 2^40·(2^24·partition + object) + offset, and lengths in words (01 R10) -/
  code : Mem := []
  codeLen : Tab Nat := []
  /-- guard bits by granule, with the task that set each (04 R111) -/
  guards : Tab Nat := []
  /-- tile-attributed regions, base to length (03 R95), and what each content sum is short of its data, by 64·tile + sum -/
  tiles : Tab Nat := []
  skew : Tab Word := []
  shadows : List Shadow := []
  /-- poisoned units: 8-byte units of slices, 64-byte bursts of device memory (08 R398) -/
  slicePoison : Marks := []
  devPoison : Marks := []
  /-- 8-byte units of slices holding a single-bit error not yet met (08 R214) -/
  flips : Marks := []
  /-- 64-byte bursts of device memory holding one (08 R214) -/
  devFlips : Marks := []
  /-- 8-byte units of device memory, by address / 8, that a memory-side cache holds dirty and poisoned, or with an error that
  is corrected: a single one, or any in a clean line, which is fetched again (08 Table 8.1) -/
  sidePoison : Marks := []
  sideFlips : Marks := []
  /-- the key slot under which each 128-byte unit of device memory was last written (07 R210, R211); unlisted: plaintext -/
  keys : Tab Nat := []
  /-- translations by ((die·16 + partition)·2^24 + object)·2^37 + 2·page + copy (07 R204) -/
  tlb : Tab Tlb := []
  deriving DecidableEq, Repr

/-- Package control (09). -/
structure Ctl where
  pkg : Nat := 0
  pods : Nat := 1
  clk : DWord := 0
  sync : Bool := false
  offset : Int := 0
  master : Nat := 0
  parts : Tab Part := []
  /-- key slots: the key loaded (07 R210) -/
  keySlots : Tab Nat := []
  evSeq : DWord := 0
  events : List Event := []
  /-- Dycor's own event ring: the records written -/
  dycorRing : List (List Byte) := []
  alarm : Nat := 0
  locked : Bool := false
  cap : Nat := 2900
  step : Nat := 0
  power : Nat := 0
  links : Tab Lnk := []
  hops : Marks := []
  beats : Tab Nat := []
  /-- bring-up stage in progress, 0 before power is good, 6 when all have ended; and the stage and cause of a failure -/
  stage : Nat := 0
  failed : Option (Nat × Nat) := none
  session : Bool := false
  /-- SPDM requests answered so far, and the statuses and replies Dycor has given, newest first -/
  spdm : List Nat := []
  replies : List Nat := []
  /-- the die that received the last block of the package (06 R170) -/
  lastDie : Option Nat := none
  /-- packages that can be reached -/
  reach : Marks := []
  /-- every path has been lost, and the clock not set again since (09 R237) -/
  lost : Bool := false
  /-- pod time of the last exchange with the time master -/
  synced : DWord := 0
  deriving DecidableEq, Repr

/-- A write of the hardware that waits for its page (07 R205): partition and word address, the bits of what is there that it
keeps, and the bytes it adds to them. -/
structure Late where
  part : Nat
  wa : Nat
  keep : List Byte
  data : List Byte
  deriving DecidableEq, Repr

/-- Engines and fabric. -/
structure Eng where
  running : Tab Running := []
  owners : List Owner := []
  sent : List Sent := []
  /-- the last sequence number used for each destination package, and for each guard as 64 + its address (04 R115); the last
  applied from each source (05 R158) -/
  seqOut : Tab Nat := []
  seqIn : Tab Nat := []
  /-- acknowledgements given, newest first: source, the guard of a remote arrival, sequence number, reply (05 R158) -/
  acks : List (Nat × Option Nat × Nat × FabReply) := []
  /-- operations that arrived ahead of a predecessor -/
  early : List (Nat × Nat × FabOp) := []
  /-- messages on their way or at a full ring's port, and refusals on their way back (14 R356, 07 R209) -/
  msgs : List Msg := []
  refused : List Msg := []
  otinv : Tab Otinv := []
  /-- writes of the hardware that wait for a page, oldest first (07 R205) -/
  late : List Late := []
  gangs : Tab FarGang := []
  deriving DecidableEq, Repr

/-- Which split issues: block, troupe, split entry. -/
structure Ref where
  b : Nat
  t : Nat
  e : Nat
  deriving DecidableEq, Repr

/-- The state of the package. -/
structure State where
  /-- the model's own: the split that issues in this step; none once its word is found not able to issue -/
  cur : Option Ref := none
  /-- the model's own: the counter free values are applied to -/
  tick : Nat := 0
  /-- the model's own: the next number for a block, task, graph, buffer entry, release or load -/
  fresh : Nat := 0
  /-- the model's own: events from outside, oldest first -/
  inputs : List Instr := []
  blocks : Tab Block := []
  tasks : Tab Task := []
  cores : Tab Core := []
  graphs : Tab Graph := []
  mem : Store := {}
  eng : Eng := {}
  ctl : Ctl := {}
  deriving DecidableEq, Repr

/-- The machine right after reset: power not yet good, nothing formed, memory as no write has left it (09 R242). The
values the spec gives no reset for are named in notes/assumptions/8.md. -/
def State.reset : State := {}

end Sys2Proof.Machine
end

