-- ==== Sys2Proof/Machine/Base.lean ====
section
/-! DEFINITION. Reading and changing the parts of the state: blocks, troupes, splits, cores; numbering of cores (01 R22);
events; the issuing split. -/
namespace Sys2Proof.Machine

/-- The zero column of 32 lanes: a lane register at block start (01 Table 1.1). -/
def zeroCol : Lanes Word := List.replicate 32 0

/-- Adds a number to a set. -/
def Marks.add (m : Marks) (k : Nat) : Marks := m.filter (· < k) ++ k :: m.filter (k < ·)

/-- Takes a number out of a set. -/
def Marks.del (m : Marks) (k : Nat) : Marks := m.filter (· ≠ k)

/-! ## Cores (01 R22) -/

/-- The die of a core. -/
def dieOf (c : Nat) : Nat := c / 168
/-- The mesh row of a core. -/
def rowOf (c : Nat) : Nat := c % 168 / 12
/-- The mesh column of a core. -/
def colOf (c : Nat) : Nat := c % 12
/-- The package quad number of a core. -/
def quadOf (c : Nat) : Nat := 42 * dieOf c + (6 * (rowOf c / 2) + colOf c / 2)
/-- The quad position of a core. -/
def quadPos (c : Nat) : Nat := 2 * (rowOf c % 2) + colOf c % 2
/-- The core at a position of a package quad. -/
def coreAt (quad p : Nat) : Nat :=
  quad / 42 * 168 + (2 * (quad % 42 / 6) + p / 2) * 12 + 2 * (quad % 42 % 6) + p % 2
/-- The four cores of a quad, in ascending number. -/
def quadCores (quad : Nat) : List Nat := (List.range 4).map (coreAt quad)

/-- The mesh neighbour of a core: 1 north, 2 east, 3 south, 4 west; none past the die's edge. -/
def neighbour (c dir : Nat) : Option Nat :=
  match dir with
  | 1 => if rowOf c = 0 then none else some (c - 12)
  | 2 => if colOf c = 11 then none else some (c + 1)
  | 3 => if rowOf c = 13 then none else some (c + 12)
  | 4 => if colOf c = 0 then none else some (c - 1)
  | _ => some c

/-! ## Parts of the state -/

/-- Changes a block. -/
def State.modBlk (s : State) (b : Nat) (f : Block → Block) : State := { s with blocks := s.blocks.mod b f }

/-- Changes a troupe. -/
def State.modTrp (s : State) (b t : Nat) (f : Troupe → Troupe) : State :=
  s.modBlk b fun B => { B with troupes := B.troupes.mod t f }

/-- Changes a split. -/
def State.modSplit (s : State) (b t e : Nat) (f : Split → Split) : State :=
  s.modTrp b t fun T => { T with splits := T.splits.mod e f }

/-- A block's troupe. -/
def State.trp? (s : State) (b t : Nat) : Option Troupe :=
  match s.blocks.find b with
  | some B => B.troupes.find t
  | none => none

/-- The contents of a core; a core nothing has touched is as reset left it. -/
def State.core (s : State) (c : Nat) : Core := s.cores.get {} c

/-- Changes a core. -/
def State.modCore (s : State) (c : Nat) (f : Core → Core) : State := { s with cores := s.cores.put c (f (s.core c)) }

/-- Changes a task. -/
def State.modTask (s : State) (t : Nat) (f : Task → Task) : State := { s with tasks := s.tasks.mod t f }

/-- Changes a partition. -/
def State.modPart (s : State) (p : Nat) (f : Part → Part) : State :=
  { s with ctl := { s.ctl with parts := s.ctl.parts.mod p f } }

/-- Changes a graph. -/
def State.modGraph (s : State) (g : Nat) (f : Graph → Graph) : State := { s with graphs := s.graphs.mod g f }

/-- Takes the next free number. -/
def State.bump (s : State) : State := { s with fresh := s.fresh + 1 }

/-- Passes to the next use of free values. -/
def State.tock (s : State) : State := { s with tick := s.tick + 1 }

/-- The partition a core belongs to (07 R192). -/
def State.partOf (s : State) (c : Nat) : Option Nat :=
  (s.ctl.parts.find? fun p => p.2.cfg.quads.contains (quadOf c)).map Prod.fst

/-- Whether a partition is being halted. -/
def State.halting (s : State) (part : Nat) : Bool := (s.ctl.parts.find part).any Part.halting

/-- The cores of a partition, in ascending number. -/
def Part.cores (p : Part) : List Nat :=
  (List.range 1344).filter fun c => p.cfg.quads.contains (quadOf c)

/-- The source of an event: a core, Dycor for an alarm or a link, or a partition's part of the I/O die. -/
def eventSource (code unit part : Nat) : Nat :=
  if unit < 1344 then unit else if code = 6 || code = 7 then 2048 else 2049 + part

/-- An event reaches the arbiter (07 R213); it is recorded by EVENT_RECORD. Unit 0x7FF is an I/O-die source. -/
def State.event (s : State) (code unit part detail : Nat) : State :=
  { s with ctl := { s.ctl with
      events := s.ctl.events ++ [⟨eventSource code unit part, s.ctl.clk, code, unit, part, detail⟩] } }

/-- Whether bring-up is over, and the package takes traffic from outside (09 R242). -/
def State.up (s : State) : Bool := decide (5 < s.ctl.stage)

/-! ## The issuing split -/

/-- The issuing split with all it belongs to, as they stand at issue. -/
structure Ctx where
  b : Nat
  t : Nat
  e : Nat
  blk : Block
  trp : Troupe
  sp : Split
  task : Task
  deriving DecidableEq, Repr

/-- The split chosen to issue. -/
def State.focus? (s : State) : Option Ctx :=
  match s.cur with
  | none => none
  | some r =>
    match s.blocks.find r.b with
    | none => none
    | some B =>
      match B.troupes.find r.t, s.tasks.find B.task with
      | some T, some K =>
        match T.splits.find r.e with
        | some S => some ⟨r.b, r.t, r.e, B, T, S, K⟩
        | none => none
      | _, _ => none

/-- The active lanes of the issuing split (01 R18): in `em`, live, and among those a replay is confined to. -/
def Ctx.active (c : Ctx) : Mask :=
  let m := c.sp.em &&& c.trp.lm
  match c.sp.only with
  | some o => m &&& o
  | none => m

/-- `.regs` of the kernel. -/
def Ctx.nregs (c : Ctx) : Nat := c.task.launch.regs

/-- The partner of a troupe of a shadow pair (01 R14). -/
def Ctx.partner (c : Ctx) : Nat := if c.t < 32 then c.t + 32 else c.t - 32

/-- Changes the issuing troupe. -/
def State.onTrp (s : State) (c : Ctx) (f : Troupe → Troupe) : State := s.modTrp c.b c.t f

/-- Changes the issuing split. -/
def State.onSplit (s : State) (c : Ctx) (f : Split → Split) : State := s.modSplit c.b c.t c.e f

/-- Changes the issuing troupe's registers. -/
def State.onRegs (s : State) (c : Ctx) (f : Regs → Regs) : State :=
  s.onTrp c fun T => { T with regs := f T.regs }

/-- ORs numeric flags into `nf` (02 R65, R66). -/
def State.raise (s : State) (c : Ctx) (f : BitVec 16) : State :=
  s.onRegs c fun R => { R with nf := R.nf ||| (f &&& 0x03FF#16) }

end Sys2Proof.Machine
end

