-- ==== Sys2Proof/Machine/Mem.lean ====
section
/-! DEFINITION. The address spaces (04 R103 to R110): slice memory, device memory behind the object table (07 R200 to
R206), bulk caches, store buffers (05 R137), and the key each stored unit is held under (07 R210, R211). -/
namespace Sys2Proof.Machine

/-! ## Byte memories -/

/-- `n` bytes from an address. -/
def Mem.read (m : Mem) (a n : Nat) : List Byte := (List.range n).map fun i => Tab.get 0#8 m (a + i)

/-- Writes bytes from an address on; the canonical form is kept. -/
def Mem.write (m : Mem) (a : Nat) : List Byte → Mem
  | [] => m
  | b :: r => Mem.write (Tab.set 0#8 m a b) (a + 1) r

/-- The canonical form of a memory: addresses strictly rising, no byte listed that an unlisted address reads as. -/
def Memory.wf (m : Mem) : Bool := Tab.wf 0#8 m

/-- A range cut at multiples of `al`: starts and lengths; `fuel` bounds the number of pieces. -/
def pieces (al : Nat) : Nat → Nat → Nat → List (Nat × Nat)
  | 0, _, _ => []
  | fuel + 1, off, n =>
    if n = 0 then []
    else
      let k := min n (al - off % al)
      (off, k) :: pieces al fuel (off + k) (n - k)

/-- The units of `al` bytes a range touches. -/
def unitsOf (al a n : Nat) : List Nat := (List.range ((a + n + al - 1) / al - a / al)).map (a / al + ·)

/-- The units of `al` bytes a range covers whole. -/
def unitsIn (al a n : Nat) : List Nat := (unitsOf al a n).filter fun u => a ≤ u * al && u * al + al ≤ a + n

/-! ## Slice space (04 R106) -/

/-- The pkg field of a slice address. -/
def pkgOfSlice (a : Nat) : Nat := bits a 38 33

/-- The core field of a slice address. -/
def coreOfSlice (a : Nat) : Nat := bits a 32 22

/-- The bytes of a slice (00 R1, 04 Table 4.2): offsets from here on name nothing. -/
def sliceBytes : Nat := 0x280000

/-- Whether a range lies in one core's slice (04 R106). -/
def sliceFits (a n : Nat) : Bool :=
  decide (a % 2 ^ 22 + n ≤ sliceBytes) && decide (coreOfSlice a < 1344) && decide (a < 2 ^ 39)

/-- Whether a slice address lies in this package. -/
def State.here (s : State) (a : Nat) : Bool := pkgOfSlice a = s.ctl.pkg

/-- The place of a slice address in `Store.slice`. -/
def sliceKey (a : Nat) : Nat := a % 2 ^ 33

/-- `n` bytes of slice space at their home; bytes of another package are free values (09 R236). -/
def State.sliceRead (s : State) (a n : Nat) : List Byte :=
  if s.here a then Mem.read s.mem.slice (sliceKey a) n
  else (List.range n).map fun i => Config.farByte s.tick (a + i)

/-- Writes bytes at a slice of this package; a unit written whole loses its poison and its pending single error (08
R398, R214). -/
def State.sliceWrite (s : State) (a : Nat) (bs : List Byte) : State :=
  { s with mem := { s.mem with
      slice := Mem.write s.mem.slice (sliceKey a) bs,
      slicePoison := s.mem.slicePoison.filter fun u => !(unitsIn 8 (sliceKey a) bs.length).contains u,
      flips := s.mem.flips.filter fun u => !(unitsIn 8 (sliceKey a) bs.length).contains u } }

/-- A little-endian number of `n` bytes of slice space. -/
def State.sliceNat (s : State) (a n : Nat) : Nat := leNat (s.sliceRead a n)

/-- Writes a little-endian number of `n` bytes. -/
def State.sliceSet (s : State) (a n x : Nat) : State := s.sliceWrite a (leBytes n x)

/-- Whether bytes of a slice lie in a poisoned unit. -/
def State.slicePoisoned (s : State) (a n : Nat) : Bool :=
  s.here a && (unitsOf 8 (sliceKey a) n).any s.mem.slicePoison.contains

/-- The guard bit of any granule that bytes touch (04 R111). -/
def State.guarded (s : State) (a n : Nat) : Bool :=
  s.here a && (unitsOf 32 (sliceKey a) n).any fun g => (s.mem.guards.find g).isSome

/-- The guard bit a lane store or atomic is judged by as it issues (04 R111); a granule of another package answers a free
value. -/
def State.barred (s : State) (a n : Nat) : Bool :=
  if s.here a then s.guarded a n else (Config.farByte s.tick (2 ^ 129 + a)).getLsbD 0

/-- The tile-attributed region that holds an address: base and length (03 R95). -/
def State.tileRegion? (s : State) (a : Nat) : Option (Nat × Nat) :=
  if s.here a then s.mem.tiles.find? fun r => r.1 ≤ sliceKey a && sliceKey a < r.1 + r.2 else none

/-! ## Operations for other packages (05 R158) -/

end Sys2Proof.Machine

namespace Sys2Proof

open Machine

/-- The guard an operation acts on. -/
def FabOp.onGuard (o : FabOp) : Option Nat :=
  match o with
  | .arrive g _ _ | .landed g _ _ | .expect g _ | .wait g _ | .ginit g _ _ _ | .gbind g _ | .gunb g _ => some g
  | _ => none

/-- Whether an operation writes memory: a store, an atomic, a reduction. -/
def FabOp.writes (o : FabOp) : Bool :=
  match o with
  | .store _ _ | .bulk _ _ _ _ _ | .atomic _ _ _ _ _ | .reduce _ _ _ _ | .remade _ _ _ _ => true
  | _ => false

/-- Whether an operation is a store of bytes. -/
def FabOp.stores (o : FabOp) : Bool :=
  match o with
  | .store _ _ | .bulk _ _ _ _ _ => true
  | _ => false

/-- The guard a remote arrival acts on (04 R115): an arrival, a landing or EXPECT. -/
def FabOp.guard? (o : FabOp) : Option Nat :=
  match o with
  | .arrive g _ _ | .landed g _ _ | .expect g _ => some g
  | _ => none

end Sys2Proof

namespace Sys2Proof.Machine

/-- Sends a sequenced operation to another package, with the time of its entry and its epoch; it is held until acknowledged.
Remote arrivals are numbered for each guard, the others for each package: 1, 2, … modulo 2^16, skipping 0 (04 R115, 05
R158). -/
def State.sendAs (s : State) (dst b : Nat) (op : FabOp) (ent epoch : Nat) : State :=
  let k := (op.guard?).elim dst fun g => 64 + g
  let n := s.eng.seqOut.get 0 k
  let m := if n + 1 = 2 ^ 16 then 1 else n + 1
  { s with eng := { s.eng with
      seqOut := s.eng.seqOut.put k m
      sent := s.eng.sent ++ [{ dst := dst, seq := m, op := op, b := b, ent := ent, epoch := epoch }] } }

/-- Sends an operation of a block that takes effect as it issues. -/
def State.send (s : State) (dst b : Nat) (op : FabOp) : State :=
  s.sendAs dst b op s.fresh ((s.blocks.find b).elim 0 Block.epoch)

/-- Whether a write of a block that satisfies `p` waits for its acknowledgement: it is accepted at its home only then (04
R110, 05 R139, R141). Landings count for their entries. -/
def State.unacked (s : State) (b : Nat) (p : Sent → Bool) : Bool :=
  s.eng.sent.any fun x => x.b = b && x.land.isNone && x.op.writes && p x

/-- Whether an operation of a block on a guard of another package is on its way under the other numbering: operations on one
guard are kept in order by waiting for it (05 R146). -/
def State.crossing (s : State) (b g : Nat) (numbered : Bool) : Bool :=
  s.eng.sent.any fun x => x.b = b && x.op.onGuard = some g && (x.op.guard?).isSome != numbered

/-- A drained store reaches its home slice: directly here, as a sequenced operation elsewhere. -/
def State.drainStore (s : State) (b a : Nat) (bs : List Byte) (ent epoch : Nat) : State :=
  if s.here a then s.sliceWrite a bs else s.sendAs (pkgOfSlice a) b (.store a bs) ent epoch

/-- A store reaches its home slice: directly here, as a sequenced operation elsewhere. -/
def State.sliceStore (s : State) (b a : Nat) (bs : List Byte) : State :=
  if s.here a then s.sliceWrite a bs else s.send (pkgOfSlice a) b (.store a bs)

/-! ## The object table (07 R200) -/

/-- An object-table entry (07 Table 7.5). -/
structure Obj where
  v : Bool
  kind : Nat
  psz : Nat
  place : Nat
  slot : Nat
  tier : Nat
  f : Bool
  sh : Bool
  t : Bool
  gen : Nat
  root : Nat
  back : Nat
  size : Nat
  deriving DecidableEq, Repr

/-- The 32 bytes of an entry, taken apart. -/
def Obj.ofNat (x : Nat) : Obj where
  v := bit x 0
  kind := bits x 4 1
  psz := bits x 8 5
  place := bits x 10 9
  slot := bits x 20 11
  tier := bits x 22 21
  f := bit x 23
  sh := bit x 24
  t := bit x 25
  gen := bits x 47 32
  root := bits x 127 64
  back := bits x 191 128
  size := bits x 220 192

/-- Where an object's entry stands: a device address. -/
def State.objAddr (s : State) (part obj : Nat) : Nat :=
  match s.ctl.parts.find part with
  | some p => p.cfg.objtab + 32 * obj
  | none => 0

/-- An object's entry; no entry where the partition does not exist. -/
def State.obj (s : State) (part obj : Nat) : Obj :=
  match s.ctl.parts.find part with
  | some _ => Obj.ofNat (leNat (Mem.read s.mem.dev (s.objAddr part obj) 32))
  | none => Obj.ofNat 0

/-- The number of offset bits of a page (07 Table 7.6). -/
def pageBits (psz : Nat) : Nat :=
  [12, 14, 16, 18, 20, 21, 22, 24, 25, 26, 28, 29, 30, 32, 34, 36].getD psz 12

/-- How many pages an object has. -/
def Obj.pages (o : Obj) : Nat := (o.size * 4096 + 2 ^ pageBits o.psz - 1) / 2 ^ pageBits o.psz

/-- Which copy of a shadowed object an access reaches: 0 the one at root, 1 the one at back root (04 R125, F). -/
def Obj.copy (o : Obj) (back : Bool) : Nat := if o.sh && o.f != back then 1 else 0

/-- The page-entry array of a copy. -/
def Obj.array (o : Obj) (copy : Nat) : Nat := if copy = 1 then o.back else o.root

/-- Where a page's companion stands (07 R203). -/
def Obj.companion (o : Obj) (copy page : Nat) : Nat := roundUp (o.array copy + 8 * o.pages) 16 + 16 * page

/-- The slice region's shadow word that holds an address (04 R125). -/
def State.shadow? (s : State) (a : Nat) : Option Shadow :=
  s.mem.shadows.find? fun h => h.base ≤ a && a < h.base + h.len

/-- The slice address an access reaches: the back copy of a shadowed region with `back`, else the front; the object's
entry holds SH, F and the back root (04 R125, 07 R200). -/
def State.sliceCopy (s : State) (a : Nat) (back : Bool) : Nat :=
  match s.shadow? a with
  | some h =>
    let o := s.obj h.part h.obj
    if o.sh && o.f != back then o.back + (a - h.base) else a
  | none => a

/-- Whether a device address lies in a status page (09 R241). -/
def State.statusAt (s : State) (a : Nat) : Bool :=
  s.ctl.parts.any fun p => p.2.cfg.status ≠ 0 && p.2.cfg.status / 4096 = a / 4096

/-- The key an object's data is held under at a device address: 0 plaintext, else 1 + the key in its slot (07 R210). Only
tier-1 and tier-2 memory is encrypted, and no status page, which Dycor writes (09 R241). -/
def State.keyOf (s : State) (o : Obj) (a : Nat) : Nat :=
  if o.slot = 0 || a / 2 ^ 46 ≥ 2 || s.statusAt a then 0
  else match s.ctl.keySlots.find o.slot with
    | some k => k + 1
    | none => 0

/-- Whether an object's key slot is one the partition may use: assigned to it and loaded; slot 0 where policy allows
plaintext (07 R210, R211). An object of another package is stored there. -/
def State.keyGiven (s : State) (part : Nat) (o : Obj) : Bool :=
  match s.ctl.parts.find part with
  | none => false
  | some p =>
    if o.slot = 0 then o.tier = 3 || p.cfg.plaintext
    else p.cfg.slots.contains o.slot && (s.ctl.keySlots.find o.slot).isSome

/-- Whether a HALT alarm has stopped the partition's slots (07 R212). -/
def State.keyHalted (s : State) (part : Nat) (o : Obj) : Bool :=
  o.slot ≠ 0 && ((s.ctl.parts.find part).map Part.alarmed).getD false

/-- Whether an object's key slot serves the partition. -/
def State.keyServes (s : State) (part : Nat) (o : Obj) : Bool := s.keyGiven part o && !s.keyHalted part o

/-! ## Device memory -/

/-- Bytes of device memory read under a key: bytes held under another key are free values (07 R211). -/
def State.devRead (s : State) (key a n : Nat) : List Byte :=
  (List.range n).map fun i =>
    let k := s.mem.keys.get 0 ((a + i) / 128)
    let x := Tab.get 0#8 s.mem.dev (a + i)
    if k = key then x else x ^^^ Config.wrongKey k key (a + i)

/-- Puts a unit of 128 bytes under a key: what it held reads as before under that key. -/
def State.rekey (s : State) (key u : Nat) : State :=
  if s.mem.keys.get 0 u = key then s
  else { s with mem := { s.mem with
      dev := Mem.write s.mem.dev (128 * u) (s.devRead key (128 * u) 128),
      keys := s.mem.keys.set 0 u key } }

/-- Writes bytes of device memory under a key; bursts, and units of a memory-side cache, that are written whole lose their
poison and single errors (08 R398). -/
def State.devWrite (s : State) (key a : Nat) (bs : List Byte) : State :=
  let s1 := (unitsOf 128 a bs.length).foldl (fun s u => s.rekey key u) s
  { s1 with mem := { s1.mem with
      dev := Mem.write s1.mem.dev a bs,
      devPoison := s1.mem.devPoison.filter fun u => !(unitsIn 64 a bs.length).contains u
      devFlips := s1.mem.devFlips.filter fun u => !(unitsIn 64 a bs.length).contains u
      sidePoison := s1.mem.sidePoison.filter fun u => !(unitsIn 8 a bs.length).contains u
      sideFlips := s1.mem.sideFlips.filter fun u => !(unitsIn 8 a bs.length).contains u } }

/-- Writes a system structure in device memory as it stands, under whatever key it is held. -/
def State.devRaw (s : State) (a n x : Nat) : State :=
  { s with mem := { s.mem with dev := Mem.write s.mem.dev a (leBytes n x) } }

/-- A system structure in device memory as it stands. -/
def State.devNat (s : State) (a n : Nat) : Nat := leNat (Mem.read s.mem.dev a n)

/-! ## Translation (07 R204) -/

/-- What translation finds. -/
inductive Xlate where
  /-- the device address and whether the translation was cached -/
  | dev (a : Nat)
  /-- an object of another package (tier 3): package and object id there -/
  | far (pkg obj : Nat)
  | absent
  | notWritable
  | bounds
  /-- the object's key slot does not serve the partition (07 R211, R212) -/
  | noKey
  deriving DecidableEq, Repr

/-- Who asks for a translation: compute dies 0 to 7, package p as 8 + p, as the companion numbers them (07 Table 7.8). -/
def pkgAsks (p : Nat) : Nat := 8 + p

/-- The I/O die (the Parser, Dycor, the event arbiter): it has no bit in the companion and caches no translation. DESIGN
CHOICE (log 51): the spec names no requester bit for it. -/
def ioAsks : Nat := 72

/-- The place of a translation in `Store.tlb`. -/
def tlbKey (who part obj copy page : Nat) : Nat := ((who * 16 + part) * 2 ^ 24 + obj) * 2 ^ 37 + 2 * page + copy

/-- A page entry that reads as absent (07 R202, R203): not present, a reserved bit or the reserved memory, a frame not
aligned to the page size; and a frame that ends past its memory's size (192 GiB, 1 TiB), DESIGN CHOICE (log 52). -/
def pageAbsent (pe sh : Nat) : Bool :=
  let frame := bits pe 47 12 * 4096
  !bit pe 0 || bits pe 11 2 != 0 || bits pe 63 48 != 0 || frame % 2 ^ sh != 0 || bits pe 47 46 = 3 ||
    (bits pe 47 46 = 0 && decide (frame % 2 ^ 46 + 2 ^ sh > 192 * 2 ^ 30)) ||
    (bits pe 47 46 = 1 && decide (frame % 2 ^ 46 + 2 ^ sh > 2 ^ 40))

/-- Translates an offset of a copy of an object for a requester, by its cached translation or by the page entry, whose
companion is marked first (07 R204). A status page is not written (09 R241). -/
def State.translate (s : State) (who part obj copy off : Nat) (write : Bool) : Xlate × State :=
  let o := s.obj part obj
  if off ≥ o.size * 4096 then (.bounds, s)
  else if !s.keyServes part o then (.noKey, s)
  else if o.tier = 3 then (.far (bits o.root 5 0) (bits o.root 29 6), s)
  else
    let sh := pageBits o.psz
    let page := off / 2 ^ sh
    let walk :=
      let pe := s.devNat (o.array copy + 8 * page) 8
      let frame := bits pe 47 12 * 4096
      if pageAbsent pe sh then (Xlate.absent, s)
      else if write && (!bit pe 1 || s.statusAt (frame + off % 2 ^ sh)) then (.notWritable, s)
      else if who = ioAsks then (.dev (frame + off % 2 ^ sh), s)
      else
        let ca := o.companion copy page + who / 8
        let s1 := s.devRaw ca 1 ((BitVec.ofNat 8 (s.devNat ca 1) ||| (1#8 <<< (who % 8))).toNat)
        (.dev (frame + off % 2 ^ sh),
          { s1 with mem := { s1.mem with tlb := s1.mem.tlb.put (tlbKey who part obj copy page) ⟨frame, bit pe 1⟩ } })
    match s.mem.tlb.find (tlbKey who part obj copy page) with
    | some e =>
      if write && (!e.w || s.statusAt (e.frame + off % 2 ^ sh)) then walk else (.dev (e.frame + off % 2 ^ sh), s)
    | none => walk

/-- Sets the D bit of a page (07 R204). -/
def State.setD (s : State) (part obj copy off : Nat) : State :=
  let o := s.obj part obj
  if o.tier = 3 then s
  else
    let ca := o.companion copy (off / 2 ^ pageBits o.psz) + 9
    s.devRaw ca 1 ((BitVec.ofNat 8 (s.devNat ca 1) ||| 1#8).toNat)

/-- `n` bytes of a bulk object at its point of coherence; none where a page is absent. -/
def State.homeRead (s : State) (who part obj copy off n : Nat) : Option (List Byte × State) :=
  (pieces 4096 (n / 4096 + 2) off n).foldl (fun r p =>
    match r with
    | none => none
    | some (bs, s) =>
      match s.translate who part obj copy p.1 false with
      | (.dev a, s1) => some (bs ++ s1.devRead (s1.keyOf (s1.obj part obj) a) a p.2, s1)
      | (.far pkg o, s1) =>
        some (bs ++ (List.range p.2).map (fun i => Config.farByte s1.tick (((64 + pkg) * 2 ^ 24 + o) * 2 ^ 40 + p.1 + i)), s1)
      | _ => none) (some ([], s))

/-- Whether a place in a bulk object is poisoned at its home. -/
def State.homePoisoned (s : State) (who part obj copy off n : Nat) : Bool :=
  (pieces 64 (n / 64 + 2) off n).any fun p =>
    match s.translate who part obj copy p.1 false with
    | (.dev a, _) => s.mem.devPoison.contains (a / 64) || (unitsOf 8 a p.2).any s.mem.sidePoison.contains
    | _ => false

/-- The 8-byte units of device memory that bytes of a bulk object lie in, where their pages are present. -/
def State.homeUnits (s : State) (who part obj copy off n : Nat) : List Nat :=
  (pieces 8 (n / 8 + 2) off n).filterMap fun p =>
    match s.translate who part obj copy p.1 false with
    | (.dev a, _) => some (a / 8)
    | _ => none

/-- The bursts of device memory that bytes of a bulk object lie in, where their pages are present. -/
def State.homeBursts (s : State) (who part obj copy off n : Nat) : List Nat :=
  (pieces 64 (n / 64 + 2) off n).filterMap fun p =>
    match s.translate who part obj copy p.1 false with
    | (.dev a, _) => some (a / 64)
    | _ => none

/-- Writes bytes of a bulk object at its point of coherence; none where a page is absent or not writable. -/
def State.homeWrite (s : State) (who part obj copy off : Nat) (b : Nat) (bs : List Byte) : Option State :=
  ((pieces 4096 (bs.length / 4096 + 2) off bs.length).foldl (fun r p =>
    match r with
    | none => none
    | some (done, s) =>
      let part1 := (bs.drop done).take p.2
      match s.translate who part obj copy p.1 true with
      | (.dev a, s1) =>
        some (done + p.2, (s1.devWrite (s1.keyOf (s1.obj part obj) a) a part1).setD part obj copy p.1)
      | (.far pkg o, s1) =>
        some (done + p.2, s1.sendAs pkg b (.bulk part o p.1 (copy ≠ (s1.obj part obj).copy false) part1) 0 0)
      | _ => none) (some (0, s))).map Prod.snd

/-! ## The bulk cache (04 R109) -/

/-- A place in bulk space as one number: partition, object, copy and offset. -/
def bulkKey (part obj copy off : Nat) : Nat := ((part * 2 ^ 24 + obj) * 2 + copy) * 2 ^ 40 + off
/-- The partition of a bulk key. -/
def keyPart (k : Nat) : Nat := k / 2 ^ 65
/-- The object of a bulk key. -/
def keyObj (k : Nat) : Nat := k / 2 ^ 41 % 2 ^ 24
/-- The copy of a bulk key. -/
def keyCopy (k : Nat) : Nat := k / 2 ^ 40 % 2
/-- The offset of a bulk key. -/
def keyOff (k : Nat) : Nat := k % 2 ^ 40

/-- Reads at a bulk key's home. -/
def State.keyRead (s : State) (core k n : Nat) : Option (List Byte × State) :=
  s.homeRead (dieOf core) (keyPart k) (keyObj k) (keyCopy k) (keyOff k) n

/-- Writes at a bulk key's home. -/
def State.keyWrite (s : State) (core b k : Nat) (bs : List Byte) : Option State :=
  s.homeWrite (dieOf core) (keyPart k) (keyObj k) (keyCopy k) (keyOff k) b bs

/-- The lines a cache holds. -/
def cacheLines (c : Tab CByte) : List Nat := (c.map fun p => p.1 / 128).eraseDups

/-- The first byte of the page of a bulk key, as a bulk key. -/
def State.pageKey (s : State) (k : Nat) : Nat :=
  let sh := pageBits (s.obj (keyPart k) (keyObj k)).psz
  k - keyOff k % 2 ^ sh

/-- A write-back finds a page absent: it waits, and the event is posted once (07 R205). -/
def State.lacking (s : State) (core k : Nat) : State :=
  let u := s.pageKey k
  if (s.core core).lacks.contains u then s
  else
    let sh := pageBits (s.obj (keyPart k) (keyObj k)).psz
    (s.modCore core fun C => { C with lacks := Marks.add C.lacks u }).event 1 core (keyPart k)
      (keyObj k + 2 ^ 24 * (keyOff k / 2 ^ sh))

/-- Whether a block's store has dirtied a byte that is still to be written back: the last store to it, or one that another
block of the core has stored over (05 R141). -/
def CByte.by (c : CByte) (b : Nat) : Bool := c.dirty = some b || (c.dirty.isSome && c.also.contains b)

/-- The maximal runs of neighbouring dirty bytes of a cache that satisfy `p`, of one block and one 64-byte burst: start,
block, bytes. -/
def dirtyRuns (p : Nat → CByte → Bool) : Tab CByte → List (Nat × Nat × List Byte)
  | [] => []
  | (k, c) :: r =>
    let rest := dirtyRuns p r
    match c.dirty with
    | none => rest
    | some b =>
      if !p k c then rest
      else match rest with
        | (k', b', bs) :: q => if k + 1 = k' && b = b' && k / 64 = k' / 64 then (k, b, c.val :: bs) :: q else (k, b, [c.val]) :: rest
        | [] => [(k, b, [c.val])]

/-- A unit of 8 cached bytes that is poisoned makes the bursts it is written back to poisoned (08 R219). -/
def State.carryPoison (s : State) (core k n : Nat) : State :=
  if (unitsOf 8 k n).any (s.core core).cachePoison.contains then
    { s with mem := { s.mem with devPoison :=
        (s.homeBursts (dieOf core) (keyPart k) (keyObj k) (keyCopy k) (keyOff k) n).foldl Marks.add s.mem.devPoison } }
  else s

/-! ## Word addresses (06 R165) -/

/-- Whether a word address names `n` bytes: of a slice, or of an object of the partition. -/
def State.waNames (s : State) (part wa n : Nat) : Bool :=
  if bits wa 63 40 = 0 then sliceFits (bits wa 39 0) n
  else (s.obj part (bits wa 63 40)).v && decide (bits wa 39 0 + n ≤ (s.obj part (bits wa 63 40)).size * 4096)

/-- Bytes as the hardware writes that wait for their page leave them. -/
def lateOver (late : List Late) (part wa : Nat) (bs : List Byte) : List Byte :=
  late.foldl (fun bs x =>
    if x.part ≠ part then bs
    else (List.range bs.length).map fun i =>
      if x.wa ≤ wa + i && wa + i < x.wa + x.data.length then
        (bs.getD i 0 &&& x.keep.getD (wa + i - x.wa) 0) ||| x.data.getD (wa + i - x.wa) 0
      else bs.getD i 0) bs

/-- `n` bytes at a word address, at their home; none where it does not name them or a page is absent. -/
def State.waRead (s : State) (part wa n : Nat) : Option (List Byte) :=
  if !s.waNames part wa n then none
  else if bits wa 63 40 = 0 then some (s.sliceRead (bits wa 39 0) n)
  else (s.homeRead ioAsks part (bits wa 63 40) ((s.obj part (bits wa 63 40)).copy false) (bits wa 39 0) n).map fun r =>
    lateOver s.eng.late part wa r.1

/-- A little-endian number at a word address; 0 where it cannot be read. -/
def State.waNat (s : State) (part wa n : Nat) : Nat := ((s.waRead part wa n).map leNat).getD 0

/-- Whether bytes at a word address are in their object and on an absent page: what reads them waits (07 R205). -/
def State.waAbsent (s : State) (part wa n : Nat) : Bool :=
  s.waNames part wa n && (s.waRead part wa n).isNone && s.keyGiven part (s.obj part (bits wa 63 40))

/-- A write of the hardware at a word address waits at the port for its page; the event is posted (07 R205). -/
def State.writeLate (s : State) (x : Late) : State :=
  let o := s.obj x.part (bits x.wa 63 40)
  { s with eng := { s.eng with late := s.eng.late ++ [x] } }.event 1 2048 x.part
    (bits x.wa 63 40 + 2 ^ 24 * (bits x.wa 39 0 / 2 ^ pageBits o.psz))

/-- Writes bytes at a word address, at their home, also in another package (09 R236), behind writes that wait for their page;
a page that is absent or not writable delays it. What the address does not name, or holds under a key slot that is not the
partition's, is not written (DESIGN CHOICE, log 84: 08 R220 is silent on both for the words of the error array). -/
def State.waWrite (s : State) (part wa : Nat) (bs : List Byte) : State :=
  if !s.waNames part wa bs.length then s
  else if bits wa 63 40 = 0 then s.sliceStore 0 (bits wa 39 0) bs
  else
    let o := s.obj part (bits wa 63 40)
    let late : Late := ⟨part, wa, [], bs⟩
    if !s.keyGiven part o then s
    else if s.eng.late.any fun x => x.part = part && x.wa < wa + bs.length && wa < x.wa + x.data.length then s.writeLate late
    else match s.homeWrite ioAsks part (bits wa 63 40) (o.copy false) (bits wa 39 0) 0 bs with
      | some s1 => s1
      | none => s.writeLate late

/-- Adds bits to bytes at a word address, keeping some of what is there; where they cannot be read yet, once they can. -/
def State.waMerge (s : State) (part wa : Nat) (keep bs : List Byte) : State :=
  match s.waRead part wa bs.length with
  | some old => s.waWrite part wa (lateOver [⟨part, wa, keep, bs⟩] part wa old)
  | none => if s.waAbsent part wa bs.length then s.writeLate ⟨part, wa, keep, bs⟩ else s

/-- Whether a waiting write can be made, or has nothing to be written to any more. -/
def State.lateDue (s : State) (x : Late) : Bool :=
  let o := s.obj x.part (bits x.wa 63 40)
  !s.waNames x.part x.wa x.data.length || !s.keyGiven x.part o ||
    (s.homeWrite ioAsks x.part (bits x.wa 63 40) (o.copy false) (bits x.wa 39 0) 0 x.data).isSome

/-- The oldest write of the hardware whose page has come is made. -/
def State.makeLate (s : State) : State :=
  match s.eng.late.find? s.lateDue with
  | none => s
  | some x =>
    let s1 := { s with eng := { s.eng with late := s.eng.late.erase x } }
    let o := s1.obj x.part (bits x.wa 63 40)
    let copy := o.copy false
    if !s1.waNames x.part x.wa x.data.length || !s1.keyGiven x.part o then s1
    else
      let r := (s1.homeRead ioAsks x.part (bits x.wa 63 40) copy (bits x.wa 39 0) x.data.length).getD
        (List.replicate x.data.length 0, s1)
      (r.2.homeWrite ioAsks x.part (bits x.wa 63 40) copy (bits x.wa 39 0) 0 (lateOver [x] x.part x.wa r.1)).getD s1

/-! ## Error words (08 R220) -/

/-- Sets fields of a block's error word: a code and detail, and flag bits. The word is written in the task error array
too, where the launch names one. -/
def State.blockErr (s : State) (b : Nat) (code : Option (Nat × Nat)) (flags : Word) : State :=
  match s.blocks.find b with
  | none => s
  | some B =>
    let w := match code with
      | some (c, d) => (B.err &&& 0x0000FF00#32) ||| BitVec.ofNat 32 (c % 256 + d % 65536 * 65536)
      | none => B.err
    let w := w ||| flags
    let s1 := s.modBlk b fun B => { B with err := w }
    match s.tasks.find B.task with
    | some K => if K.launch.errors = 0 then s1 else s1.waWrite K.part (K.launch.errors + 4 * (B.id + 1)) (leBytes 4 w.toNat)
    | none => s1

/-! ## Write-backs, fills and evictions -/

/-- Marks the bytes of a run of a cache clean. In a unit of 8 that the run covers in part, the bytes that were clean are
dropped: a later access of the unit fetches it as one (05 R135). -/
def cleaned (c : Tab CByte) (k : Nat) (bs : List Byte) : Tab CByte :=
  let cut := (unitsOf 8 k bs.length).filter fun u => !(unitsIn 8 k bs.length).contains u
  (List.range bs.length).foldl (fun c i => c.put (k + i) { val := bs.getD i 0, dirty := none })
    (if cut.isEmpty then c else c.filter fun e => e.2.dirty.isSome || !cut.contains (e.1 / 8))

/-- Writes back the dirty bytes of a cache that satisfy `p`, run by run; bytes whose page is absent stay dirty. The written
bytes are kept clean; a poisoned unit poisons its home (08 R219). Bytes whose object names no slot of the partition are
written nowhere: CAPINV, detail 2, in the block's error word (07 R211). Answers whether all were accepted. -/
def State.writeBack (s : State) (core : Nat) (p : Nat → CByte → Bool) : Bool × State :=
  (dirtyRuns p (s.core core).cache).foldl (fun (ok, s) (k, b, bs) =>
    if !s.keyGiven (keyPart k) (s.obj (keyPart k) (keyObj k)) then
      (ok, (s.modCore core fun C => { C with cache := cleaned C.cache k bs }).blockErr b (some (0x03, 2)) 0)
    else match s.keyWrite core b k bs with
      | none => (false, if s.keyServes (keyPart k) (s.obj (keyPart k) (keyObj k)) then s.lacking core k else s)
      | some s1 => (ok, (s1.carryPoison core k bs.length).modCore core fun C => { C with
          cache := cleaned C.cache k bs, lacks := Marks.del C.lacks (s.pageKey k) })) (true, s)

/-- Drops the clean bytes of a cache that satisfy `p` (04 R109); a unit of which no byte is left is no longer marked. -/
def State.invalidate (s : State) (core : Nat) (p : Nat → Bool) : State :=
  s.modCore core fun C =>
    let cache := C.cache.filter fun e => !(e.2.dirty.isNone && p e.1)
    let held (u : Nat) : Bool := cache.any fun e => e.1 / 8 = u
    { C with cache := cache, cachePoison := C.cachePoison.filter held, cacheFlips := C.cacheFlips.filter held }

/-- Evicts a line of a cache that holds more than 1,024, writing its dirty bytes back first (04 R109, 05 R139). The line
is a free choice among those not in use by the access that needs room. -/
def State.evict (s : State) (core : Nat) (inUse : Nat → Bool) : State :=
  let ls := cacheLines (s.core core).cache
  let free := ls.filter fun l => !inUse l
  if ls.length ≤ 1024 || free.isEmpty then s
  else
    let v := free.getD (Config.victim s.tick % free.length) 0
    let (_, s1) := s.tock.writeBack core fun k _ => k / 128 = v
    s1.invalidate core fun k => k / 128 = v

/-- Whether a line is one of those an access of `n` bytes at a key touches. -/
def lineOf (k n l : Nat) : Bool := decide (k / 128 ≤ l) && decide (l ≤ (k + n - 1) / 128)

/-- Brings the line of a key into a cache from its point of coherence, for an access of `n` bytes at `k0`; dirty bytes stay,
and the others are as fetched, so that a unit of 8 is read as one (05 R135). None where its page is absent. -/
def State.fillLine (s : State) (core k0 n k : Nat) : Option State :=
  let base := k / 128 * 128
  match s.keyRead core base 128 with
  | none => none
  | some (bs, s1) =>
    let s2 := s1.modCore core fun C => { C with
      cache := (List.range 128).foldl (fun c i =>
        if (c.find (base + i)).any fun x => x.dirty.isSome then c
        else c.put (base + i) { val := bs.getD i 0, dirty := none }) C.cache,
      cachePoison := if s1.homePoisoned (dieOf core) (keyPart k) (keyObj k) (keyCopy k) (keyOff base) 128 then
          (unitsOf 8 base 128).foldl (fun m u =>
            if s1.homePoisoned (dieOf core) (keyPart k) (keyObj k) (keyCopy k) (keyOff (8 * u)) 8 then Marks.add m u else m)
            C.cachePoison
        else C.cachePoison }
    some (s2.evict core (lineOf k0 n))

/-- Whether a cache holds every byte of the line of a key. -/
def State.lineHeld (s : State) (core k : Nat) : Bool :=
  (List.range 128).all fun i => ((s.core core).cache.find (k / 128 * 128 + i)).isSome

/-- `n` bytes of bulk space through a core's cache; none where a page is absent. -/
def State.bulkRead (s : State) (core k n : Nat) : Option (List Byte × State) :=
  let all (s : State) := (List.range n).all fun i => ((s.core core).cache.find (k + i)).isSome
  let filled := if all s then some s
    else (pieces 128 (n / 128 + 2) k n).foldl (fun r p => r.bind fun s => s.fillLine core k n p.1) (some s)
  filled.map fun s1 =>
    ((List.range n).map fun i => ((s1.core core).cache.find (k + i)).elim 0#8 CByte.val, s1)

/-- Whether a cache holds a dirty byte of a unit of 8. -/
def State.dirtyUnit (s : State) (core u : Nat) : Bool :=
  (s.core core).cache.any fun e => e.1 / 8 = u && e.2.dirty.isSome

/-- Whether bytes of bulk space read through a core's cache are poisoned: in a dirty line there; at their home, where they
are not held, or held clean in a unit that cannot be corrected, which is fetched again (08 Table 8.1). -/
def State.bulkPoisoned (s : State) (core k n : Nat) : Bool :=
  (unitsOf 8 k n).any fun u =>
    let bad := (s.core core).cachePoison.contains u
    (bad && s.dirtyUnit core u) ||
      ((bad || (List.range 8).any fun i => ((s.core core).cache.find (8 * u + i)).isNone) &&
        s.homePoisoned (dieOf core) (keyPart k) (keyObj k) (keyCopy k) (keyOff (8 * u)) 8)

/-- A byte as a block's drained store leaves it: of the blocks that had dirtied it, the others are still to see it home. -/
def CByte.over (old : Option CByte) (b : Nat) (x : Byte) : CByte :=
  { val := x, dirty := some b, also := match old with
    | some o => match o.dirty with
      | some d => Marks.del (if d = b then o.also else Marks.add o.also d) b
      | none => []
    | none => [] }

/-- A drained bulk store reaches a core's cache, dirty by the block; no line is fetched (04 R109). -/
def State.cacheStore (s : State) (core b k : Nat) (bs : List Byte) : State :=
  (s.modCore core fun C => { C with
    cache := (List.range bs.length).foldl (fun c i => c.put (k + i) (CByte.over (c.find (k + i)) b (bs.getD i 0))) C.cache
    cachePoison := C.cachePoison.filter fun u => !(unitsIn 8 k bs.length).contains u
    cacheFlips := C.cacheFlips.filter fun u => !(unitsIn 8 k bs.length).contains u }).evict core (lineOf k bs.length)

/-! ## The store buffer (05 R137) -/

/-- The newest buffered value of a byte of the block. -/
def bufByte (buf : Tab BufEntry) (sp : Space) (a : Nat) : Option Byte :=
  buf.foldl (fun r e =>
    if e.2.space = sp && e.2.addr ≤ a && a < e.2.addr + e.2.data.length && !e.2.holes.contains (a - e.2.addr)
    then e.2.data[a - e.2.addr]? else r) none

/-- Bytes with the block's buffered stores in place of the home's (05 R137). -/
def overlay (buf : Tab BufEntry) (sp : Space) (a : Nat) (bs : List Byte) : List Byte :=
  (List.range bs.length).map fun i => (bufByte buf sp (a + i)).getD (bs.getD i 0)

/-- The bytes a buffer holds. -/
def bufSize (buf : Tab BufEntry) : Nat := buf.foldl (fun n e => n + e.2.data.length) 0

/-- The numbers of entries that touch a range. -/
def bufTouch (buf : Tab BufEntry) (sp : Space) (a n : Nat) : List Nat :=
  (buf.filter fun e => e.2.space = sp && e.2.addr < a + n && a < e.2.addr + e.2.data.length).map Prod.fst

/-- The entry a store makes, or makes of the entry it merges into: the bytes no lane stored to keep what was there. -/
def BufEntry.over (e : BufEntry) (bs : List Byte) (holes : List Nat) : BufEntry :=
  { e with
    data := (List.range bs.length).map fun i => if holes.contains i then e.data.getD i 0 else bs.getD i 0
    holes := e.holes.filter holes.contains }

/-- Merges a store into the newest entry that touches its place: none where no entry does; `some none` where the newest
that does is of another place, sealed, or lies before the last separator (05 R137, R138, R147). -/
def bufMerge (ep : Nat) (sp : Space) (a : Nat) (bs : List Byte) (holes : List Nat) : Tab BufEntry → Option (Option (Tab BufEntry))
  | [] => none
  | (id, e) :: r =>
    match bufMerge ep sp a bs holes r with
    | some x => some (x.map ((id, e) :: ·))
    | none =>
      if e.space = sp && decide (e.addr < a + bs.length) && decide (a < e.addr + e.data.length) then
        if e.addr = a && decide (e.data.length = bs.length) && !e.sealed && e.epoch = ep then
          some (some ((id, e.over bs holes) :: r))
        else some none
      else none

/-- A commit point: every entry of the block's buffer is to drain, and the relaunch window ends (05 R139, 08 R217). -/
def State.commit (s : State) (b : Nat) : State :=
  s.modBlk b fun B => { B with
    window := false, backDue := B.epoch, buf := B.buf.map fun e => (e.1, { e.2 with committed := true }) }

/-- Whether the write-back of a separator is still due at the drain of the last commit point (05 R147). -/
def Block.owesBack (B : Block) : Bool := B.fences.any fun f => f < B.backDue

/-- Whether it may be made: every entry before the separator has drained. -/
def Block.backReady (B : Block) : Bool := B.fences.any fun f => f < B.backDue && B.buf.all fun e => f < e.2.epoch

/-- The seal of ARRIVE.rel (05 R138). -/
def State.seal (s : State) (b : Nat) : State :=
  s.modBlk b fun B => { B with buf := B.buf.map fun e => (e.1, { e.2 with sealed := true }) }

/-- Whether an entry may drain: no older entry of its place, and none before an earlier separator, is left (05 R137,
R147). -/
def drains (buf : Tab BufEntry) (id : Nat) (e : BufEntry) : Bool :=
  e.committed && buf.all fun x =>
    x.1 ≥ id || (x.2.epoch = e.epoch &&
      !(x.2.space = e.space && x.2.addr < e.addr + e.data.length && e.addr < x.2.addr + x.2.data.length))

/-- Whether an entry may drain now: by the buffer's order, and every store of an earlier epoch has been accepted at its
home (05 R137, R147). -/
def State.mayDrain (s : State) (b : Nat) (buf : Tab BufEntry) (id : Nat) (e : BufEntry) : Bool :=
  drains buf id e && !s.unacked b fun x => decide (x.epoch < e.epoch)

/-- A COMMIT whose entries have all been accepted at their homes lets its split go on (05 R139), and a RECV whose payload has
been (14 R357). -/
def State.wakeCommits (s : State) (b : Nat) : State :=
  s.modBlk b fun B => { B with troupes := B.troupes.map fun p => (p.1, { p.2 with
    splits := p.2.splits.map fun q => match q.2.wait with
      | .payload n =>
        if s.unacked b (fun x => x.op.stores && x.ent = n) then q else (q.1, { q.2 with wait := .ready, pc := q.2.pc + 2 })
      | .commit n =>
        if (B.buf.all fun e => e.1 ≥ n) && !B.owesBack && !s.unacked b (fun x => x.op.stores && decide (x.ent < n)) then
          (q.1, { q.2 with wait := .ready, pc := q.2.pc + 2 }) else q
      | _ => q }) }

/-- The runs of bytes an entry stores: start and bytes, its holes left out. -/
def BufEntry.runs (e : BufEntry) : List (Nat × List Byte) :=
  if e.holes.isEmpty then [(e.addr, e.data)]
  else (List.range e.data.length).foldr (fun i r =>
    if e.holes.contains i then r
    else match r with
      | (a, bs) :: q => if a = e.addr + i + 1 then (e.addr + i, e.data.getD i 0 :: bs) :: q
        else (e.addr + i, [e.data.getD i 0]) :: r
      | [] => [(e.addr + i, [e.data.getD i 0])]) []

/-- Drains an entry to its home (05 R137): slice stores at the slice port, where a guarded granule discards them with an
asynchronous RIGHTS (04 R111); bulk stores into the core's cache, and a system structure's on to its home (07 R198). A
write-back due at a separator comes first, and what was stored before the separator is accepted first (05 R147). An entry
whose write-back finds a page absent stays. -/
def State.drain (s : State) (b id : Nat) : State :=
  match s.blocks.find b with
  | none => s
  | some B =>
    match B.buf.find id with
    | none => s
    | some e =>
      let due := B.fences.any (· < e.epoch)
      let (ok, s1) := if due then s.writeBack B.core fun _ c => c.by b else (true, s)
      if !ok || s1.unacked b (fun x => decide (x.epoch < e.epoch)) then s1
      else
        let s2 := s1.modBlk b fun B => { B with
          buf := B.buf.del id, fences := B.fences.filter fun f => !(f < e.epoch) }
        (match e.space with
          | .bulk =>
            let s3 := e.runs.foldl (fun (s : State) (x : Nat × List Byte) => s.cacheStore B.core b x.1 x.2) s2
            if (s3.obj (keyPart e.addr) (keyObj e.addr)).t then
              (s3.writeBack B.core fun k _ => e.addr ≤ k && decide (k < e.addr + e.data.length)).2
            else s3
          | .slice =>
            if s2.guarded e.addr e.data.length then s2.blockErr b (some (0x05, 0)) 0
            else e.runs.foldl (fun (s : State) (x : Nat × List Byte) => s.drainStore b x.1 x.2 id e.epoch) s2).wakeCommits b

/-- The write-back that a FENCE's separator is owed at a drain with no entry past it (05 R147). -/
def State.fenceBack (s : State) (b : Nat) : State :=
  match s.blocks.find b with
  | none => s
  | some B =>
    if !B.backReady then s
    else
      let (ok, s1) := s.writeBack B.core fun _ c => c.by b
      if !ok then s1
      else (s1.modBlk b fun B' => { B' with fences := B'.fences.filter fun f =>
        !(f < B.backDue && B.buf.all fun e => f < e.2.epoch) }).wakeCommits b

/-- Drains at once the entries of a block that touch a range (05 R140, 13 R345, 14 R358, R374), and first every entry
before the last separator among them (05 R147). -/
def State.drainRange (s : State) (b : Nat) (sp : Space) (a n : Nat) : State :=
  match s.blocks.find b with
  | none => s
  | some B =>
    let hit := bufTouch B.buf sp a n
    let ep := B.buf.foldl (fun m e => if hit.contains e.1 then max m e.2.epoch else m) 0
    let first := (B.buf.filter fun e => !hit.isEmpty && e.2.epoch < ep).map Prod.fst
    (first ++ hit.filter fun id => !first.contains id).foldl (fun s id => s.drain b id) s

/-- Drains every entry of a block's buffer, in order. -/
def State.drainAll (s : State) (b : Nat) : State :=
  match s.blocks.find b with
  | none => s
  | some B => B.buf.foldl (fun s e => s.drain b e.1) s

/-- The overflow of a block's store buffer: an implicit commit, with ERRCOMMIT (05 R139). -/
def State.overflow (s : State) (b : Nat) : State := ((s.commit b).blockErr b none 0x100#32).drainAll b

/-- A store enters the block's buffer, with the places no lane stores to: it merges into the newest entry of its place where
it may, else it makes a new entry. One that would pass 64 KiB commits and drains what the buffer holds first (05 R139). -/
def State.bufPut (s : State) (b : Nat) (sp : Space) (a : Nat) (bs : List Byte) (holes : List Nat) : State :=
  match s.blocks.find b with
  | none => s
  | some B =>
    match bufMerge B.epoch sp a bs holes B.buf with
    | some (some t) => s.modBlk b fun B => { B with buf := t }
    | _ =>
      let s1 := if bufSize B.buf + bs.length > 65536 then s.overflow b else s
      let id := max s1.fresh (Tab.fresh B.buf)
      { s1 with fresh := id + 1 }.modBlk b fun B' => { B' with
        buf := B'.buf.put id { space := sp, addr := a, data := bs, holes := holes, epoch := B'.epoch } }

/-- A whole store enters the block's buffer. -/
def State.bufStore (s : State) (b : Nat) (sp : Space) (a : Nat) (bs : List Byte) : State := s.bufPut b sp a bs []

end Sys2Proof.Machine
end

