-- ==== Sys2Proof/Machine/Guard.lean ====
section
/-! DEFINITION. Guards (04 R111 to R118): their operations, bindings, remote arrivals, and what a release writes back and
an acquire drops. -/
namespace Sys2Proof.Machine

/-- The counting fields of a guard (04 Table 4.3). -/
structure GState where
  phase : Word
  expected : Nat
  pending : Nat
  bytes : Int
  expBytes : Nat
  surplus : Bool
  deriving DecidableEq, Repr

/-- Evaluates completion (04 R112). -/
def GState.complete (g : GState) : GState :=
  if g.pending = 0 && g.bytes ≤ 0 then
    { g with phase := g.phase + 1, pending := g.expected, bytes := sextN 32 (wrapN 32 (g.expBytes + g.bytes)) }
  else g

/-- One arrival, and completion after it (04 R112). -/
def GState.arrive1 (g : GState) : GState :=
  (if g.pending = 0 then { g with surplus := true } else { g with pending := g.pending - 1 }).complete

/-- `n` single arrivals in turn (04 R112). -/
def GState.arrive : Nat → GState → GState
  | 0, g => g
  | n + 1, g => GState.arrive n g.arrive1

/-- A landing of bytes, and completion after it (04 R112). -/
def GState.land (g : GState) (n : Nat) : GState :=
  ({ g with bytes := sextN 32 (wrapN 32 (g.bytes - n)) }).complete

/-- EXPECT of bytes, and completion after it (04 R112). -/
def GState.expect (g : GState) (n : Nat) : GState :=
  ({ g with bytes := sextN 32 (wrapN 32 (g.bytes + n)) }).complete

/-- The guard at a slice address, as its words stand. -/
def State.guard (s : State) (g : Nat) : GState where
  phase := BitVec.ofNat 32 (s.sliceNat g 4)
  expected := s.sliceNat (g + 4) 2
  pending := s.sliceNat (g + 6) 2
  bytes := sextN 32 (s.sliceNat (g + 8) 4)
  expBytes := s.sliceNat (g + 12) 4
  surplus := s.sliceNat (g + 30) 2 % 2 = 1

/-- Writes a guard's counting fields back. -/
def State.setGuard (s : State) (g : Nat) (G : GState) : State :=
  let s1 := ((s.sliceSet g 4 G.phase.toNat).sliceSet (g + 4) 2 G.expected).sliceSet (g + 6) 2 G.pending
  (s1.sliceSet (g + 8) 4 (wrapN 32 G.bytes)).sliceSet (g + 30) 2 (if G.surplus then 1 else 0)

/-- ORs numeric flags into a guard's w4 (02 R67, 04 R113). -/
def State.guardFlags (s : State) (g : Nat) (f : BitVec 16) : State :=
  s.sliceSet (g + 16) 2 ((BitVec.ofNat 16 (s.sliceNat (g + 16) 2) ||| (f &&& 0x03FF#16)).toNat)

/-- Arrivals on a guard of this package, flags first; in another package, a remote arrival (04 R112, R115). -/
def State.arriveAt (s : State) (b g n : Nat) (f : BitVec 16) : State :=
  if s.here g then
    let s1 := if f &&& 0x03FF#16 = 0 then s else s.guardFlags g f
    if n = 0 then s1 else s1.setGuard g ((s1.guard g).arrive n)
  else s.send (pkgOfSlice g) b (.arrive g n f.toNat)

/-- Bytes landed, counted on a guard, flags first (04 R112, R113). -/
def State.landAt (s : State) (b g n : Nat) (f : BitVec 16) : State :=
  if s.here g then
    let s1 := if f &&& 0x03FF#16 = 0 then s else s.guardFlags g f
    s1.setGuard g ((s1.guard g).land n)
  else s.send (pkgOfSlice g) b (.landed g n f.toNat)

/-- EXPECT on a guard (04 R112). -/
def State.expectAt (s : State) (b g n : Nat) : State :=
  if s.here g then s.setGuard g ((s.guard g).expect n) else s.send (pkgOfSlice g) b (.expect g n)

/-- Whether a WAIT for a phase may return: (phase − n) read as signed is 0 or more (04 R114). -/
def State.phaseHolds (s : State) (g n : Nat) : Bool :=
  !((s.guard g).phase - BitVec.ofNat 32 n).msb

/-- Counts a waiter of a block in or out of w7, saturating; in another package, by a message to its guard unit (04 R114,
Table 4.3). A count that has saturated stays: the spec does not say what leaving does to it (DESIGN CHOICE, log 53). -/
def State.waiters (s : State) (b g : Nat) (up : Bool) : State :=
  if !s.here g then s.send (pkgOfSlice g) b (.wait g up)
  else
    let w := s.sliceNat (g + 28) 2
    s.sliceSet (g + 28) 2 (if up then min (w + 1) 0xFFFF else if w = 0xFFFF then w else w - 1)

/-! ## Bindings (04 R118, Table 4.5) -/

/-- How many regions a guard binds. -/
def State.bound (s : State) (g : Nat) : Nat := bits (s.sliceNat (g + 20) 4) 25 22

/-- The slice address of a guard's binding list. -/
def State.bindList (s : State) (g : Nat) : Nat := g / 2 ^ 22 * 2 ^ 22 + bits (s.sliceNat (g + 20) 4) 21 0

/-- The 16 bytes of binding entry `i`, as a number. -/
def State.bindEntry (s : State) (g i : Nat) : Nat := s.sliceNat (s.bindList g + 16 * i) 16

/-- A binding entry's region, in bytes. -/
def Region.ofNat (x : Nat) : Region := ⟨bits x 99 96, bits x 95 72, bits x 35 0 * 16, bits x 71 36 * 16⟩

/-- The regions a guard binds; those of a guard in another package are what its list holds there. -/
def State.bindings (s : State) (g : Nat) : List Region :=
  (List.range (min (s.bound g) 8)).map fun i => Region.ofNat (s.bindEntry g i)

/-- Whether a bulk key of a partition lies in the bound bulk regions; with nothing bound, every key does (04 R118). -/
def inRegions (part : Nat) (rs : List Region) (k : Nat) : Bool :=
  rs.isEmpty || rs.any fun r =>
    r.kind = 1 && keyPart k = part && keyObj k = r.obj && r.base ≤ keyOff k && keyOff k < r.base + r.len

/-- What an acquire on a guard drops from a core's cache (04 R118, 05 R142). -/
def State.acquire (s : State) (core part g : Nat) : State :=
  s.invalidate core fun k => inRegions part (s.bindings g) k

/-- What a release of a block writes back (04 R118). Answers whether every write-back was accepted. -/
def State.releaseBack (s : State) (core part b : Nat) (rs : List Region) : Bool × State :=
  s.writeBack core fun k c => c.by b && inRegions part rs k

/-! ## Initialisation (13 R345) -/

/-- Writes the reset values of Tables 4.3 and 4.4 over the 416 bytes of a guard object, and sets its guard bits for a
task. The window is 0 again, while each sender's numbering goes on where it was: the spec does not say that GINIT restarts
it (DESIGN CHOICE, log 54). -/
def State.initGuard (s : State) (g task expected expBytes : Nat) : State :=
  let w (n x : Nat) : List Byte := leBytes n x
  let img := w 4 0 ++ w 2 expected ++ w 2 expected ++ w 4 expBytes ++ w 4 expBytes ++ w 4 0 ++ w 4 0 ++
    w 4 (g % 2 ^ 22 + 32) ++ w 4 0
  let s1 := s.sliceWrite g (img ++ List.replicate 384 0#8)
  { s1 with mem := { s1.mem with
      guards := (unitsOf 32 (sliceKey g) 416).foldl (fun m u => m.put u task) s1.mem.guards } }

/-- A task has set guard bits, of a guard in another package: they are cleared there when its graph completes (04 R111). -/
def State.farGuard (s : State) (task g : Nat) : State :=
  if s.here g then s else s.modTask task fun K => { K with farGuards := Marks.add K.farGuards (pkgOfSlice g) }

/-- The address of the remote-arrival window word of a source package (04 R116). -/
def State.windowWord (s : State) (g src : Nat) : Nat :=
  g / 2 ^ 22 * 2 ^ 22 + bits (s.sliceNat (g + 24) 4) 21 0 + 4 * src

/-- The successor of a sequence number, skipping 0 (04 R116). -/
def seqNext (n : Nat) : Nat := if n + 1 = 2 ^ 16 then 1 else n + 1

end Sys2Proof.Machine
end

