-- ==== Sys2Proof/Machine/Caps.lean ====
section
/-! DEFINITION. Capabilities (07 R193 to R201, 14 R351): their fields, the task's table, and checks 1 to 3 of R196. -/
namespace Sys2Proof.Machine

/-- A program or containment fault as an instruction raises it: code, lane, detail (01 Table 1.3). -/
structure Raise where
  code : Nat
  lane : Nat := 0
  detail : Nat := 0
  deriving DecidableEq, Repr

/-- The kind of a capability (07 Table 7.1). -/
def CapReg.kind (c : CapReg) : Nat := (c.bits.extractLsb' 124 4).toNat
/-- Its rights. -/
def CapReg.rights (c : CapReg) : BitVec 12 := c.bits.extractLsb' 112 12
/-- Its object id. -/
def CapReg.obj (c : CapReg) : Nat := (c.bits.extractLsb' 88 24).toNat
/-- Its generation. -/
def CapReg.gen (c : CapReg) : Nat := (c.bits.extractLsb' 72 16).toNat
/-- Its first granule. -/
def CapReg.base (c : CapReg) : Nat := (c.bits.extractLsb' 36 36).toNat
/-- Its length in granules. -/
def CapReg.len (c : CapReg) : Nat := (c.bits.extractLsb' 0 36).toNat
/-- Its first byte: a slice address, or an offset in its object. -/
def CapReg.at (c : CapReg) : Nat := 16 * c.base
/-- Its length in bytes. -/
def CapReg.size (c : CapReg) : Nat := 16 * c.len
/-- A right by its bit (07 Table 7.3): 0 read, 1 write, 2 atomic, 3 arrive, 4 wait, 5 send, 6 receive, 7 publish,
8 derive, 9 bind, 10 engine, 11 tile. -/
def CapReg.has (c : CapReg) (r : Nat) : Bool := c.rights.getLsbD r

/-- A capability register of the issuing troupe. -/
def Ctx.cap (c : Ctx) (n : Nat) : CapReg := c.trp.regs.c.get {} n

/-- The rights a kind allows (07 Table 7.2). -/
def kindRights (k : Nat) : BitVec 12 :=
  match k with
  | 1 | 2 => 0xB87#12
  | 3 => 0x318#12
  | 4 => 0x160#12
  | 5 => 0x103#12
  | 6 => 0x500#12
  | 7 => 0x060#12
  | 8 => 0x103#12
  | 9 => 0x001#12
  | _ => 0x000#12

/-! ## The task's capability table (07 R197) -/

/-- The word address of entry `i` of a task's capability table. -/
def Task.entryAt (K : Task) (i : Nat) : Nat := K.launch.table + 32 * i

/-- Entry `i` of a task's table, 256 bits, as its home holds it. -/
def State.tabEntry (s : State) (K : Task) (i : Nat) : Nat := s.waNat K.part (K.entryAt i) 32

/-- Whether the table's object has a key slot that serves the partition (07 R211). -/
def State.tabServes (s : State) (K : Task) (i : Nat) : Bool :=
  bits (K.entryAt i) 63 40 = 0 || s.keyServes K.part (s.obj K.part (bits (K.entryAt i) 63 40))

/-- Sets F and the code of a table entry (04 R127, 07 R209). -/
def State.markEntry (s : State) (K : Task) (i code : Nat) : State :=
  s.waMerge K.part (K.entryAt i + 16) (leBytes 4 0xFFFFFC01) (leBytes 4 (2 + 4 * (code % 256)))

/-- The generation a core uses for a valid object: its cached generation, or the object table's (07 R196, R201). -/
def State.genOf (s : State) (core part obj : Nat) : Option Nat :=
  if (s.obj part obj).v then some (((s.core core).gens.find (2 ^ 24 * part + obj)).getD (s.obj part obj).gen) else none

/-- Whether a capability's generation is current (07 R201). -/
def State.current (s : State) (core part : Nat) (c : CapReg) : Bool := s.genOf core part c.obj = some c.gen

/-- Whether a slice range lies in the partition, or in a package granted to it (07 R192). -/
def State.sliceOwned (s : State) (part a : Nat) : Bool :=
  match s.ctl.parts.find part with
  | none => false
  | some p =>
    if s.here a then p.cfg.quads.contains (quadOf (coreOfSlice a)) else p.cfg.peers.contains (pkgOfSlice a)

/-- The capability of a table entry: kind 0 to 9, and no right its kind does not allow (07 R194). -/
def CapReg.wellFormed (c : CapReg) : Bool := decide (c.kind ≤ 9) && c.rights &&& ~~~(kindRights c.kind) = 0

/-- Whether the range of a capability, where it is slice space, lies in one slice of the task's partition (04 R106, 07
R192). -/
def State.capOwned (s : State) (part : Nat) (c : CapReg) : Bool :=
  match c.kind with
  | 2 | 3 | 6 | 8 => sliceFits c.at c.size && s.sliceOwned part c.at
  | 5 => (s.obj part c.obj).kind = 1 || (sliceFits c.at c.size && s.sliceOwned part c.at)
  | _ => true

/-- The armed bin a card names, at a core: its own, or its home core's in the partition (06 R173, R177). -/
def State.cardBin (s : State) (core : Nat) (c : CapReg) : Option (Nat × Bin) :=
  if c.obj ≥ 16 then none
  else match (s.core core).bins.find c.obj with
    | some b => some (core, b)
    | none => (s.cores.find? fun x => s.partOf x.1 = s.partOf core && match x.2.bins.find c.obj with
        | some b => b.home = x.1
        | none => false).bind fun x => (x.2.bins.find c.obj).map fun b => (x.1, b)

/-- Validity of a capability in a partition: generation, key slot by R211, card by R173 (07 R196). -/
def State.capLive (s : State) (core part : Nat) (c : CapReg) : Option (Nat × Nat) :=
  if !s.current core part c then some (0x03, 0)
  else if (c.kind = 1 || (c.kind = 5 && (s.obj part c.obj).kind = 1)) && !s.keyServes part (s.obj part c.obj) then some (0x03, 2)
  else if c.kind = 7 && (s.cardBin core c).isNone then some (0x03, 0)
  else none

/-- Checks 1 and 2 of R196 for a capability: kind, then validity, then the tag's F bit, in a table that can be read (07 R211).
The answer is a fault's code and detail. -/
def State.capValid (s : State) (core : Nat) (K : Task) (c : CapReg) (kinds : List Nat) : Option (Nat × Nat) :=
  if !kinds.contains c.kind then some (0x04, 0)
  else match s.capLive core K.part c with
    | some f => some f
    | none => match c.tag with
      | some i =>
        if !s.tabServes K i then some (0x03, 2)
        else if bit (s.tabEntry K i) 129 then some (0x0E, bits (s.tabEntry K i) 137 130) else none
      | none => none

/-- Checks 1 to 3 of R196: kind, validity and rights (a mask of the rights needed). -/
def State.capCheck (s : State) (core : Nat) (K : Task) (c : CapReg) (kinds : List Nat) (rights : BitVec 12) :
    Option (Nat × Nat) :=
  match s.capValid core K c kinds with
  | some f => some f
  | none => if c.rights &&& rights = rights then none else some (0x05, 0)

/-- The checks for the issuing troupe, as a fault to raise. -/
def State.capFault (s : State) (c : Ctx) (r : CapReg) (kinds : List Nat) (rights : BitVec 12) : Option Raise :=
  (s.capCheck c.blk.core c.task r kinds rights).map fun f => ⟨f.1, 0, f.2⟩

/-- Checks 1 to 4 of R196 for a capability of an object of `n` bytes in slice space: a guard, a chain descriptor. -/
def State.objFault (s : State) (c : Ctx) (r : CapReg) (kinds : List Nat) (rights : BitVec 12) (n : Nat) : Option Raise :=
  match s.capFault c r kinds rights with
  | some e => some e
  | none => if r.size < n then some ⟨0x06, 0, 0⟩ else none

/-- The copy of an object that a capability reaches: back with the publish right, else front (04 R125). -/
def State.capCopy (s : State) (part : Nat) (c : CapReg) : Nat := (s.obj part c.obj).copy (c.has 7)

/-- The bulk key of an offset from a bulk capability's base. -/
def State.capKey (s : State) (part : Nat) (c : CapReg) (off : Nat) : Nat :=
  bulkKey part c.obj (s.capCopy part c) (c.at + off)

/-- The slice address of an offset from a slice capability's base, in the copy it reaches. -/
def State.capSlice (s : State) (c : CapReg) (off : Nat) : Nat := s.sliceCopy (c.at + off) (c.has 7)

/-! ## Pages that are lacked (07 R205) -/

/-- Whether the bytes of a place in bulk space can be reached by a core: every page is present, and writable for a write
(07 R204). An offset past the object's size is out of bounds. -/
def State.pageOf (s : State) (core k n : Nat) (write : Bool) : Option Xlate :=
  ((pieces 4096 2 k n).map fun p =>
    (s.translate (dieOf core) (keyPart p.1) (keyObj p.1) (keyCopy p.1) (keyOff p.1) write).1).find? fun x => match x with
      | .dev _ => false
      | .far _ _ => false
      | _ => true

/-- The page of a bulk key. -/
def State.pageNo (s : State) (k : Nat) : Nat := keyOff k / 2 ^ pageBits (s.obj (keyPart k) (keyObj k)).psz

/-- The pages some places lack, with why, each once. -/
def State.lackedPages (s : State) (ks : List (Nat × Xlate)) : List (Nat × Xlate) :=
  let ps := (ks.map fun k => s.pageNo k.1).eraseDups
  ps.map fun p => (p, ((ks.find? fun k => s.pageNo k.1 = p).map Prod.snd).getD .absent)

/-- Posts the event of R205 for each page that some places of an object lack: code 1 absent, 2 not writable. -/
def State.lackEvents (s : State) (core : Nat) (ks : List (Nat × Xlate)) : State :=
  match ks with
  | [] => s
  | k :: _ => (s.lackedPages ks).foldl (fun (s : State) p =>
      s.event (if p.2 = .notWritable then 2 else 1) core (keyPart k.1) (keyObj k.1 + 2 ^ 24 * p.1)) s

/-- Parks the issuing split on the pages its unfinished lanes lack, one event for each (07 R205). Inside a run the whole run
is repeated. -/
def State.parkPages (s : State) (c : Ctx) (ks : List (Nat × Xlate)) (write : Bool) (lanes : Mask) : State :=
  let k := (ks.head?.map Prod.fst).getD 0
  (s.lackEvents c.blk.core ks).onSplit c fun S => { S with
    wait := .page (keyPart k) (keyObj k) ((s.lackedPages ks).map Prod.fst) (keyCopy k = 1) write
      (if c.trp.run.isSome then S.own else lanes) }

/-- The pages that bytes at a word address lack for a core's port; none for slice space (04 R107, 07 R205). -/
def State.waLacks (s : State) (core part wa n : Nat) (write : Bool) : List (Nat × Xlate) :=
  if bits wa 63 40 = 0 then []
  else
    let o := s.obj part (bits wa 63 40)
    let k := bulkKey part (bits wa 63 40) (o.copy false) (bits wa 39 0)
    match s.pageOf core k n write with
    | some .absent => [(k, .absent)]
    | some .notWritable => [(k, .notWritable)]
    | _ => if s.waAbsent part wa n then [(k, .absent)] else []

end Sys2Proof.Machine
end

