-- ==== Sys2Proof/Machine/Splits.lean ====
section
/-! DEFINITION. Splits of a troupe (01 R23 to R35): creation, merging, tokens, parking, retiring. -/
namespace Sys2Proof.Machine

/-- The lowest free hardware entry (01 R25). -/
def Troupe.freeEntry (T : Troupe) : Option Nat := (List.range 8).find? fun e => (T.splits.find e).isNone

/-- The most recently pushed descriptor returns to a freed entry (01 R25). -/
def Troupe.refill (T : Troupe) : Troupe :=
  match T.freeEntry, T.stack with
  | some e, d :: r => { T with splits := T.splits.put e ⟨d.own, d.em, d.pc, d.age, .ready, none⟩, stack := r }
  | _, _ => T

/-- Refills every freed entry there is a descriptor for. -/
def Troupe.refills (T : Troupe) : Troupe := Nat.repeat Troupe.refill 8 T

/-- A split that is gone is in the handler no longer (08 R221). -/
def Troupe.tidy (T : Troupe) : Troupe :=
  { T with handler := T.handler.filter fun h => (T.splits.find h.entry).isSome }

/-- The present time, for ages: rises with every creation. -/
def Troupe.tick (T : Troupe) : Troupe := { T with now := T.now + 1 }

/-- A new split in the lowest free entry, or its descriptor on the split stack (01 R25, 11 R283). -/
def Troupe.spawn (T : Troupe) (own em : Mask) (pc : Word) : Troupe :=
  let T := T.tick
  match T.freeEntry with
  | some e => { T with splits := T.splits.put e ⟨own, em, pc, T.now, .ready, none⟩ }
  | none => { T with stack := ⟨pc, own, em, T.now⟩ :: T.stack }

/-- The oldest of some split entries (01 R25). -/
def Troupe.oldest (T : Troupe) (es : List Nat) : Nat :=
  (es.foldl (fun r e =>
    match T.splits.find e with
    | none => r
    | some S => match r with
      | none => some (S.age, e)
      | some (a, x) => if S.age < a then some (S.age, e) else some (a, x)) none).elim 0 Prod.snd

/-- Merges some splits: the union of their owned sets, `em` the whole of it, at the oldest's entry and age (01 R18, R25,
R30). -/
def Troupe.merge (T : Troupe) (es : List Nat) (pc : Word) : Troupe :=
  match es with
  | [] => T
  | _ =>
    let k := T.oldest es
    let own := T.splits.foldl (fun m p => if es.contains p.1 then m ||| p.2.own else m) 0#32
    let age := (T.splits.find k).elim 0 Split.age
    let rest := T.splits.filter fun p => !es.contains p.1
    ({ T with splits := Tab.put rest k ⟨own, own, pc, age, .ready, none⟩ }).refills

/-- The splits parked at MEET kN. -/
def Troupe.atMeet (T : Troupe) (k : Nat) : List Nat :=
  (T.splits.filter fun p => p.2.wait = .meet k).map Prod.fst

/-- Whether an armed token completes: every enrolled live lane is parked at its MEET, or at the MEET of an armed older
token (01 R30). -/
def Troupe.completes (T : Troupe) (k : Nat) (t : Token) : Bool :=
  let there := T.splits.foldl (fun m p => match p.2.wait with
    | .meet j => if j = k then m ||| p.2.own
      else match T.k.find j with
        | some u => if u.age < t.age then m ||| p.2.own else m
        | none => m
    | _ => m) 0#32
  t.enrolled &&& T.lm &&& ~~~there = 0

/-- Completes a token: its parked splits merge and go on after its MEET, and it becomes unarmed (01 R30). -/
def Troupe.complete (T : Troupe) (k : Nat) (t : Token) : Troupe :=
  { (T.merge (T.atMeet k) (t.target + 1)) with k := T.k.del k }

/-- The youngest armed token that completes. -/
def Troupe.youngest (T : Troupe) : Option (Nat × Token) :=
  T.k.foldl (fun r p =>
    if !T.completes p.1 p.2 then r
    else match r with
      | none => some p
      | some q => if q.2.age < p.2.age then some p else some q) none

/-- Lets tokens complete one at a time, the youngest first, until none can (01 R30). -/
def Troupe.settleN : Nat → Troupe → Troupe
  | 0, T => T
  | n + 1, T => match T.youngest with
    | some (k, t) => Troupe.settleN n (T.complete k t)
    | none => T

/-- Evaluates every armed token, as after a park or a change of `lm` (01 R30). -/
def Troupe.settle (T : Troupe) : Troupe := T.settleN 8

/-- Whether every split is parked at a MEET and nothing is stacked (01 R31). A stopped troupe counts as able to move (08
R230). -/
def Troupe.stuck (T : Troupe) : Bool :=
  !T.stopped && !T.splits.isEmpty && T.stack.isEmpty &&
    T.splits.all fun (p : Nat × Split) => match p.2.wait with
      | .meet _ => true
      | _ => false

/-- The youngest of the splits that satisfy `p` (01 R24). -/
def Troupe.youngestSplit (T : Troupe) (p : Split → Bool) : Option Nat :=
  (T.splits.foldl (fun (r : Option (Nat × Split)) x =>
    if !p x.2 then r
    else match r with
      | none => some x
      | some y => if y.2.age < x.2.age then some x else some y) none).map Prod.fst

/-- Takes lanes out of a split; a split left with none frees its entry, one left with some has them all in `em` (01
R32). -/
def Troupe.retire (T : Troupe) (e : Nat) (m : Mask) : Troupe :=
  match T.splits.find e with
  | none => T
  | some S =>
    let own := S.own &&& ~~~m
    let T1 := { T with lm := T.lm &&& ~~~m }
    if own = 0 then ({ T1 with splits := T1.splits.del e }).tidy.refills
    else { T1 with splits := T1.splits.put e { S with own := own, em := own } }

/-- Takes lanes out of whatever splits own them (13 R332, R335). -/
def Troupe.retireLanes (T : Troupe) (m : Mask) : Troupe :=
  let sp : Tab Split := T.splits.map fun p => (p.1, { p.2 with own := p.2.own &&& ~~~m, em := p.2.em &&& ~~~m })
  let st : List Stacked := T.stack.map fun d => { d with own := d.own &&& ~~~m, em := d.em &&& ~~~m }
  ({ T with
    lm := T.lm &&& ~~~m,
    stack := st.filter fun d => d.own != 0,
    splits := sp.filter fun p => p.2.own != 0 }).tidy.refills

/-- The split that owns a lane. -/
def Troupe.ownerOf (T : Troupe) (l : Nat) : Option Split :=
  (T.splits.find? fun p => p.2.own.getLsbD l).map Prod.snd

end Sys2Proof.Machine
end

