-- ==== Sys2Proof/Machine/Fetch.lean ====
section
/-! DEFINITION. Fetching instruction words (10 R263), what registers an instruction names (10 R253, 01 R38), and the
rules of a run (10 R253). -/
namespace Sys2Proof.Machine

/-! ## Fetch -/

/-- Word `pc` of a task's code object; none outside it. -/
def State.codeWord (s : State) (K : Task) (pc : Nat) : Option Word :=
  let o := 2 ^ 24 * K.part + K.launch.code
  if pc < s.mem.codeLen.get 0 o then some (BitVec.ofNat 32 (leNat (Mem.read s.mem.code (2 ^ 40 * o + 4 * pc) 4))) else none

/-- The instruction at a word index, or the fault its fetch or decoding raises: BOUNDS outside the code object (10 R263),
ILLEGAL with cause 1, 2 or 3 (10 R262). -/
def State.fetch (s : State) (K : Task) (pc : Nat) : Except Raise Instr :=
  match s.codeWord K pc with
  | none => .error ⟨0x06, 0, 0⟩
  | some w =>
    let second := if wordsOf w = 2 then s.codeWord K (pc + 1) else some 0#32
    match second with
    | none => .error ⟨0x06, 0, 0⟩
    | some v => match decode w v with
      | .ok i => .ok i
      | .error c => .error ⟨0x01, 0, c⟩

/-- The word after the last word of the run that goes on at `pc`: H and the size are read from the raw words (08 R221,
10 R252). -/
def State.runEnd (s : State) (K : Task) : Nat → Nat → Nat
  | 0, pc => pc
  | n + 1, pc => match s.codeWord K pc with
    | none => pc
    | some w => if w.getLsbD 30 then s.runEnd K n (pc + wordsOf w) else pc + wordsOf w

/-! ## Registers an instruction names -/

/-- A register: its kind (0 lane, 1 predicate, 2 uniform, 3 gate, 4 capability, 5 token, 6 queue) and number. -/
abbrev Use := Nat × Nat

/-- `n` lane registers from one on. -/
def useV (r n : Nat) : List Use := (List.range n).map fun i => (0, r + i)

/-- What a lane operand code reads. -/
def useCode (c : BitVec 8) (wide : Bool) : List Use :=
  if isVCode c then useV c.toNat (if wide then 2 else 1)
  else if isQCode c then [(6, c.toNat - 0x88)]
  else if 0x90#8 ≤ c && c < 0xD0#8 then [(2, c.toNat - 0x90)]
  else []

/-- The guard predicate of a two-word lane instruction (10 R249). -/
def useGuard (i : Instr) : List Use :=
  match i.form with
  | .lw _ _ f => if f.gp = 0 then [] else [(1, f.gp.toNat)]
  | _ => []

/-- The column registers a GROUP reads and writes, from the launch's column-set table (13 R332, 10 R268). -/
def columnUses (cols : List Byte) (set : Nat) : List Use :=
  if cols.isEmpty then []
  else (List.range 16).flatMap fun j =>
    let x := leNat ((cols.drop (32 * set + 2 * j)).take 2)
    if bits x 10 7 = 0 then [] else useV (bits x 6 0) (if bits x 14 11 = 5 then 2 else 1)

/-- The record length of a card register: POST and BINTAKE read or write that many registers (06 R175). -/
def recordLen (r : CapReg) : Nat := r.len % 16

end Sys2Proof.Machine

namespace Sys2Proof

open Machine

/-- The registers an instruction of a troupe reads (10 R253 rule 2, 01 R38). -/
def Instr.reads (T : Troupe) (cols : List Byte) (i : Instr) : List Use :=
  (i.operands.flatMap fun p => useCode p.1 p.2) ++ useGuard i ++
  let cap (n : Nat) : List Use := [(4, n)]
  let sr (r : BitVec 6) : List Use := [(2, r.toNat)]
  match i with
  | .sel f => [(1, (f.c.extractLsb' 0 3).toNat)]
  | .agree f | .ballot f | .rank f => (1, (f.a.extractLsb' 0 3).toNat) :: useCode f.c false
  | .elect f | .shx f | .peers f | .red f | .scan f | .swiz f => useCode f.c false
  | .cbdec f => cap (f.c.extractLsb' 0 4).toNat
  | .lds f | .ldb f | .ldf f | .pfb f => cap (f.c.extractLsb' 0 4).toNat
  | .sts f | .stb f | .stf f =>
    cap (f.c.extractLsb' 0 4).toNat ++ if f.c.extractLsb' 4 2 = 3#2 then useV f.b.toNat 4 else []
  | .stl f => if f.c.extractLsb' 4 2 = 3#2 then useV f.b.toNat 4 else []
  | .ats f | .atb f | .reds f | .redb f => cap (f.c.extractLsb' 0 4).toNat
  | .cass f | .casb f => cap (f.c.extractLsb' 0 4).toNat ++ useV f.d.toNat (if wideT f.t then 2 else 1)
  | .sadd f | .ssub f | .smul f | .smulh f | .sand f | .sor f | .sxor f | .sshl f | .sshr f | .ssar f | .smin f
  | .smax f | .scmp f => sr f.a ++ sr f.b
  | .ssel f => sr f.a ++ sr f.b ++ [(3, (f.x.extractLsb' 0 3).toNat)]
  | .smov f | .spopc f | .sclz f | .jmpx f | .swr f => sr f.a
  | .saddI f | .sandI f | .sshlI f | .sshrI f => sr f.a
  | .sbfe f => sr f.a
  | .vget f => (if f.bit 15 then [] else sr f.a) ++ useV f.v (if f.top then 2 else 1)
  | .vput f => (if f.bit 15 then [] else sr f.a) ++ sr f.b
  | .bra f | .call f => [(3, f.sel.toNat)]
  | .brd f => [(1, f.sel.toNat)]
  | .meet f => [(5, f.sel.toNat)]
  | .dbnz f => [(2, f.sel.toNat)]
  | .post f => cap f.cN ++ useV f.v (recordLen (T.regs.c.get {} f.cN))
  | .bintake f => cap f.cN ++ sr f.a
  | .otinv f => sr f.a ++ sr f.b
  | .ginit f => cap f.cN ++ sr f.a ++ sr f.b
  | .arrive f => cap f.cN ++ if f.f 7 0 = 0 then sr f.a else []
  | .wait f => cap f.cN ++ if f.bit 8 then [] else sr f.a
  | .tryw f => cap f.cN ++ sr f.a ++ sr f.b
  | .expect f => cap f.cN ++ sr f.a
  | .gbind f => cap f.cN ++ cap f.cM
  | .gunb f => cap f.cN ++ if f.bit 8 then [] else cap f.cM
  | .gflg f => cap f.cN ++ if f.bit 8 then [] else sr f.a
  | .group f => useV f.v (if f.bit 15 then 2 else 1) ++ columnUses cols (f.f 14 12)
  | .build f => cap f.cN ++ useV f.v (if f.bit 8 then 2 else 1) ++ useV (f.f 7 1) (f.f 11 9 + 1)
  | .join f => cap f.cN ++ useV f.v (if f.bit 0 then 2 else 1)
  | .expand f => useV f.v 1
  | .cld f => if f.bit 8 then sr f.a else []
  | .cnar f => cap f.cM ++ sr f.a ++ sr f.b
  | .cinf f => cap f.cN
  | .send f | .recv f => cap f.cN ++ cap f.cM ++ sr f.a ++ sr f.b
  | .eapp f => cap f.cN ++ cap f.cM ++ sr f.a
  | .eadv f => cap f.cN ++ sr f.a
  | .eseq f | .pub f | .wprd f => cap f.cN
  | .macq f => (if f.bit 7 then cap f.cN else []) ++ if f.bit 6 then cap f.cG else []
  | .mldb f => cap f.cN ++ if f.fb = 13 then cap f.cQ else []
  | .mlda f => cap f.cN ++ useV f.v 1
  | .mma f | .qmma f => if f.lblReg then useV f.v 1 else []
  | .mmas f => cap f.cN ++ if f.lblReg then useV f.v 1 else []
  | .scacc f => cap f.cN ++ cap f.cQ ++ if f.lblReg then useV f.v 1 else []
  | .mwr f => useV f.v (if f.xc = 2 then 2 else 1)
  | .bind f => cap f.cN ++ cap f.cQ
  | .slfl f | .ckgen f | .ckver f | .sqcfg f => cap f.cN
  | .ckrd f => cap f.cN ++ sr f.a
  | .sqload f => cap f.cN ++ useV f.v 1
  | .sqstg f | .sqdec f | .sqhis f => useV f.v 1
  | _ => []

/-- The registers an instruction of a troupe writes. With N = 1 a lane instruction writes only `L0` (10 R255). MRD counts with
the pair it writes for an f64 tile (14 R371). -/
def Instr.writes (T : Troupe) (cols : List Byte) (i : Instr) : List Use :=
  if i.isLane && i.n then []
  else
    let sr (r : BitVec 6) : List Use := [(2, r.toNat)]
    match i with
    | .icmp f | .fcmp f | .agree f | .elect f => [(1, (f.d.extractLsb' 0 3).toNat)]
    | .ballot f => [(2, (f.d.extractLsb' 0 6).toNat)]
    | .stl _ | .sts _ | .stb _ | .stf _ | .pfb _ | .reds _ | .redb _ | .qpush _ => []
    | .ldl f | .lds f | .ldb f | .ldk f | .ldf f =>
      if f.c.getLsbD 6 then []
      else useV f.d.toNat (if f.c.extractLsb' 4 2 = 3#2 then 4 else if wideT f.t && f.c.extractLsb' 4 2 = 0#2 then 2 else 1)
    | .fcls f | .rank f | .peers f => useV f.d.toNat 1
    | .sadd f | .ssub f | .smul f | .smulh f | .sand f | .sor f | .sxor f | .sshl f | .sshr f | .ssar f | .smin f
    | .smax f | .ssel f | .smov f | .spopc f | .sclz f | .srd f => sr f.d
    | .scmp f => [(3, (f.d.extractLsb' 0 3).toNat)]
    | .saddI f | .sandI f | .sshlI f | .sshrI f | .smovI f => sr f.d
    | .smovi f | .sbfe f | .vget f | .clkrd f | .rcount f | .cinf f | .recv f | .eapp f | .eseq f | .wprd f
    | .slrd f | .ckrd f => sr f.d
    | .vput f => useV f.v (if f.top then 2 else 1)
    | .tok f => [(5, f.sel.toNat)]
    | .dbnz f => [(2, f.sel.toNat)]
    | .bintake f => sr f.d ++ useV f.v (recordLen (T.regs.c.get {} f.cN))
    | .tryw f => [(3, (f.d.extractLsb' 0 3).toNat)]
    | .group f => columnUses cols (f.f 14 12)
    | .join f => [(1, (f.d.extractLsb' 0 3).toNat), (3, f.f 10 8)]
    | .expand f => useV (f.f 14 8) 1
    | .cld f | .cnar f | .cclr f => [(4, f.cN)]
    | .mrd f => useV f.v 2
    | .sqdec f => sr f.d ++ [(1, f.f 10 8)]
    | _ => match i.form with
      | .lr _ f => useV f.d.toNat 1
      | .li _ f => useV f.d.toNat 1
      | .lw _ _ f => useV f.d.toNat (if wideT f.t then 2 else 1)
      | _ => []

/-! ## Runs (10 R253) -/

/-- A queue pop among the operands. -/
def Instr.pops (i : Instr) : Bool := i.operands.any fun p => isQCode p.1

/-- A load with its queue bit set (13 R338). -/
def Instr.loadQ (i : Instr) : Bool :=
  match i with
  | .ldl f | .lds f | .ldb f | .ldk f => f.c.getLsbD 6
  | _ => false

/-- An effect outside registers and latches (10 R253 rule 3). -/
def Instr.outside (i : Instr) : Bool :=
  i.pops || i.loadQ ||
  match i with
  | .stl _ | .sts _ | .stb _ | .stf _ | .qpush _ | .ats _ | .atb _ | .cass _ | .casb _ | .reds _ | .redb _ => true
  | .swr _ | .yield _ => true
  | _ => match i.form with
    | .uw op _ _ => 0x31 ≤ op && op ≤ 0x38
    | _ => false

/-- An instruction that must stand last in a run by its name (10 R253 rule 4, 01 R26). -/
def Instr.flow (i : Instr) : Bool :=
  match i with
  | .wait _ | .tok _ | .meet _ | .tryw _ | .bra _ | .brd _ | .call _ | .ret _ | .jmpx _ | .dbnz _ | .exit _ | .eret _
  | .trap _ | .brk _ => true
  | _ => false

end Sys2Proof

namespace Sys2Proof.Machine

/-- Scans the run that starts at `pc`: the first position that breaks a rule of R253, and the rule. A word that faults of
itself ends the scan; it faults when it issues. -/
def State.runScan (s : State) (K : Task) (T : Troupe) : Nat → Nat → Nat → List Use → Option (Nat × Nat)
  | 0, _, _, _ => some (1, 8)
  | n + 1, pos, pc, written =>
    match s.fetch K pc with
    | .error _ => none
    | .ok i =>
      if (i.reads T K.columns).any written.contains then some (2, pos)
      else if i.h && i.outside then some (3, pos)
      else if i.h && i.flow then some (4, pos)
      else if i.h then s.runScan K T n (pos + 1) (pc + i.size) (i.writes T K.columns ++ written)
      else none

/-- The detail of an ILLEGAL of cause 10, for a run that starts at `pc` and breaks a rule (10 Table 10.8). -/
def State.runFault (s : State) (K : Task) (T : Troupe) (pc : Nat) : Option Nat :=
  (s.runScan K T 8 0 pc []).map fun r => 10 + 16 * r.1 + 256 * r.2

end Sys2Proof.Machine
end

