-- ==== Sys2Proof/Machine/Graph.lean ====
section
/-! DEFINITION. Task graphs (06 R163 to R169): nodes in memory, edges, ends of nodes; and command chains (04 R119 to
R127): their descriptors, appending, stopping. -/
namespace Sys2Proof.Machine

/-! ## Graphs -/

/-- The value of 0xFFFF in an edge: no edge (06 R165). -/
def noEdge : Nat := 0xFFFF

/-- `len` bytes at an offset of a node, as a number (06 Table 6.2). A node array outside its object, or on an absent page,
reads as zeros (kind 0, ILLEGAL): DESIGN CHOICE (log 55), since the spec does not say what the Parser does there. -/
def State.nodeNat (s : State) (G : Graph) (n off len : Nat) : Nat := s.waNat G.part (G.nodes + 64 * n + off) len

/-- Successor on success. -/
def State.nodeNext (s : State) (G : Graph) (n : Nat) : Nat := s.nodeNat G n 4 2
/-- Successor on zero, or exit. -/
def State.nodeAlt (s : State) (G : Graph) (n : Nat) : Nat := s.nodeNat G n 6 2
/-- Error edge. -/
def State.nodeErr (s : State) (G : Graph) (n : Nat) : Nat := s.nodeNat G n 8 2
/-- First node of a WHILE's body. -/
def State.nodeBody (s : State) (G : Graph) (n : Nat) : Nat := s.nodeNat G n 10 2

/-- The nodes a node's edges name. -/
def State.nodeEdges (s : State) (G : Graph) (n : Nat) : List Nat :=
  [s.nodeNext G n, s.nodeAlt G n, s.nodeErr G n, s.nodeBody G n].filter fun x => x != noEdge && decide (x < G.count)

/-- The nodes reachable from a frontier without passing through `w`. -/
def State.reachable (s : State) (G : Graph) (w : Nat) : Nat → List Nat → Marks → Marks
  | 0, _, seen => seen
  | _ + 1, [], seen => seen
  | k + 1, x :: r, seen =>
    if x = w || seen.contains x then s.reachable G w k r seen
    else s.reachable G w k (s.nodeEdges G x ++ r) (Marks.add seen x)

/-- The body of a WHILE: the nodes reachable from body before the edges lead back to it (06 R169). -/
def State.bodyOf (s : State) (G : Graph) (w : Nat) : Marks :=
  s.reachable G w (4 * G.count + 8) [s.nodeBody G w] []

/-- Writes a node's code and detail (06 Table 6.2, w3). -/
def State.nodeCode (s : State) (G : Graph) (n code detail : Nat) : State :=
  s.waWrite G.part (G.nodes + 64 * n + 12) (leBytes 4 (code + 256 * (detail % 2 ^ 24)))

/-- Ends a graph with the code of a node: no further node starts (06 R167). -/
def State.endGraph (s : State) (g code n : Nat) : State :=
  s.modGraph g fun G => { G with ended := some (G.ended.getD (code, n)), ready := [] }

/-- Takes an edge from one node to another (06 R167, R169): an edge that closes an iteration of an enclosing WHILE counts
nothing; an edge back to another node ends the graph with ILLEGAL. -/
def State.takeEdge (s : State) (g src dst : Nat) : State :=
  match s.graphs.find g with
  | none => s
  | some G =>
    if dst = noEdge || G.ended.isSome then s
    else if G.loops.contains dst && (s.bodyOf G dst).contains src then s
    else
      let d := G.indeg.get 0 dst
      if d = 0 then (s.nodeCode G src 0x01 dst).endGraph g 0x01 src
      else s.modGraph g fun G => { G with
        indeg := G.indeg.put dst (d - 1)
        ready := if d = 1 then Marks.add G.ready dst else G.ready
        since := if d = 1 then G.since.put dst s.ctl.clk.toNat else G.since }

/-- Ends a node: code and detail are written, and the edge of its code is taken: `dst` with code 0, else err, where no err
edge ends the graph (06 R166, R167). -/
def State.endNode (s : State) (g n code detail dst : Nat) : State :=
  match s.graphs.find g with
  | none => s
  | some G =>
    let s1 := (s.nodeCode G n code detail).modGraph g fun G => { G with
      running := Marks.del G.running n, loops := Marks.del G.loops n, engines := G.engines.del n, gangs := G.gangs.del n }
    if code = 0 then s1.takeEdge g n dst
    else
      let e := s1.nodeErr G n
      if e = noEdge then s1.endGraph g code n else s1.takeEdge g n e

/-- A GANG node ends when the blocks of every member have ended, with the fields of the lowest-numbered member that had a
killed block (06 R166, R178). -/
def State.gangEnd (s : State) (g n : Nat) : State :=
  match s.graphs.find g with
  | none => s
  | some G => match G.gangs.find n with
    | none => s
    | some A =>
      if !A.started || !A.mask.all fun p => (A.ended.find p).isSome then s
      else
        let w := ((A.ended.find? fun p => p.2 ≠ 0).map Prod.snd).getD 0
        s.endNode g n (w % 256) (w / 256) (s.nodeNext G n)

/-- The guard bits a task has set in other packages are cleared (04 R111). -/
def State.clearFar (s : State) (k : Nat) : State :=
  (((s.tasks.find k).map Task.farGuards).getD []).foldl (fun s p => s.send p 0 (.cleared k)) s

/-- Takes what a package holds of another's gang launch away: the task with its blocks, their matrix units and its guard bits
(04 R111, 06 R178). -/
def State.dropGang (s0 : State) (id : Nat) : State :=
  match s0.eng.gangs.find id with
  | none => s0
  | some A =>
    let s := s0.clearFar A.task
    let gone (b : Nat) : Bool := (s.blocks.find b).any fun B => B.task = A.task
    { s with
      blocks := s.blocks.filter fun b => b.2.task ≠ A.task
      tasks := s.tasks.del A.task
      cores := s.cores.map fun c => (c.1, { c.2 with mat := { c.2.mat with requests := c.2.mat.requests.filter fun r => !gone r.b } })
      mem := { s.mem with guards := s.mem.guards.filter fun x => x.2 ≠ A.task }
      eng := { s.eng with gangs := s.eng.gangs.del id } }

/-- A share of another package's gang launch has ended: its task error word is sent there (06 R166, R178). Its guard bits stay
until the graph completes (04 R111). -/
def State.farGangEnd (s : State) (k err : Nat) : State :=
  match s.eng.gangs.find? fun x => x.2.task = k with
  | none => s
  | some (_, A) => s.send A.src 0 (.gang (.done A.g A.n err))

/-- A task whose blocks have all ended ends its node: with the killing code and block where a block was killed (06 R166,
08 R220). A task of a bin ends with its bin. -/
def State.taskEnd (s : State) (k : Nat) : State :=
  match s.tasks.find k with
  | none => s
  | some K =>
    if K.bin.isSome || K.ended < K.launch.blocks then s
    else match K.graph with
      | none => s.farGangEnd k K.err.toNat
      | some (g, n) =>
        match s.graphs.find g with
        | none => s
        | some G =>
          if (G.gangs.find n).isSome then
            (s.modGraph g fun G => { G with gangs := G.gangs.mod n fun A =>
              { A with ended := A.ended.put s.ctl.pkg K.err.toNat } }).gangEnd g n
          else s.endNode g n (K.err.toNat % 256) (K.err.toNat / 256) (s.nodeNext G n)

/-! ## Chains (04 Table 4.6) -/

/-- The class of a chain: 1 copy, 2 gather, 3 collective, 4 Parser. -/
def State.chClass (s : State) (ch : Nat) : Nat := s.sliceNat ch 1
/-- The engine number of a chain. -/
def State.chEngine (s : State) (ch : Nat) : Nat := s.sliceNat (ch + 1) 1
/-- The status word w1. -/
def State.chStatus (s : State) (ch : Nat) : Nat := s.sliceNat (ch + 4) 4
/-- Entries appended. -/
def State.chAppended (s : State) (ch : Nat) : Nat := s.sliceNat (ch + 8) 8
/-- Entries made eligible. -/
def State.chAdvanced (s : State) (ch : Nat) : Nat := s.sliceNat (ch + 16) 8
/-- Sequence number of the last completed entry. -/
def State.chSeq (s : State) (ch : Nat) : Nat := s.sliceNat (ch + 24) 8
/-- The tail link. -/
def State.chTail (s : State) (ch : Nat) : Nat := s.sliceNat (ch + 32) 8
/-- The head link. -/
def State.chHead (s : State) (ch : Nat) : Nat := s.sliceNat (ch + 40) 8

/-- A link naming the entry at a slice address, with its valid bit. -/
def linkTo (a : Nat) : Nat := a % 2 ^ 22 + 2 ^ 63

/-- The slice address a link of a chain names. -/
def linkAddr (ch l : Nat) : Nat := ch / 2 ^ 22 * 2 ^ 22 + l % 2 ^ 22

/-- Appends the entry at a slice address to a chain (14 R358), for a block here or (`far`) in another package. -/
def State.append (s : State) (ch a : Nat) (block : Option (Nat × Nat)) (part : Nat) (tag : Option Nat) (sup : Bool)
    (far : Option (Nat × Nat)) (task : Option Nat) : State :=
  let s1 := s.sliceSet (a + 56) 8 0
  let s2 := if bit (s1.chHead ch) 63 then s1.sliceSet (linkAddr ch (s1.chTail ch) + 56) 8 (linkTo a)
    else s1.sliceSet (ch + 40) 8 (linkTo a)
  let n := s2.chAppended ch + 1
  let s3 := (s2.sliceSet (ch + 32) 8 (linkTo a)).sliceSet (ch + 8) 8 n
  { s3 with eng := { s3.eng with owners := s3.eng.owners ++ [⟨ch, n, block, part, tag, a, sup, false, far, task⟩] } }

/-- Unlinks the entries beyond advanced that satisfy `mine`, as a relaunch does (14 R358). -/
def State.unlink (s : State) (mine : Owner → Bool) : State :=
  (s.eng.owners.foldl (fun s o =>
    let adv := s.chAdvanced o.chain
    if !mine o || o.seq ≤ adv then s
    else
      let keep := s.eng.owners.filter fun x => x.chain = o.chain && x.seq ≤ adv
      let last := (keep.filter fun x => x.seq = adv).head?
      let s1 := (s.sliceSet (o.chain + 8) 8 adv).sliceSet (o.chain + 32) 8 (last.elim 0 fun x => linkTo x.entry)
      let s2 := if s1.chHead o.chain = linkTo o.entry then s1.sliceSet (o.chain + 40) 8 0 else s1
      last.elim s2 fun x => s2.sliceSet (x.entry + 56) 8 0) s) |> fun s1 =>
  { s1 with eng := { s1.eng with
      owners := s1.eng.owners.filter fun o => !(mine o && s1.chAdvanced o.chain < o.seq) } }

/-- Unlinks what a block that is relaunched has appended beyond advanced; a chain in another package is told to (08 R217). -/
def State.unlinkOwn (s : State) (b : Nat) : State :=
  let chains := ((s.blocks.find b).map Block.farChains).getD []
  chains.foldl (fun s ch => s.send (pkgOfSlice ch) b (.unlink ch b))
    (s.unlink fun o => (o.block.map Prod.fst) = some b)

/-- An event's detail that holds a fault code (01 R20): in its low byte; the rest is open. -/
def codeDetail (tick code : Nat) : Nat := Config.eventDetail tick / 256 * 256 + code

/-- The ENGINE nodes that wait on a chain, as graph and node. -/
def State.engineWaits (s : State) (ch : Nat) : List (Nat × Nat × Nat) :=
  s.graphs.flatMap fun g => (g.2.engines.filter fun e => e.2.1 = ch).map fun e => (g.1, e.1, e.2.2)

/-- Reports a stopped entry to the block that appended it (04 R127): the task's table entry for the chain is marked, and the
block's error word set. -/
def State.reportStop (s : State) (b k : Nat) (tag : Option Nat) (code : Nat) : State :=
  (match tag, s.tasks.find k with
    | some i, some K => s.markEntry K i code
    | _, _ => s).blockErr b (some (code, 0)) 0x200#32

/-- Stops a chain at an entry (04 R127): w1 takes code and sequence number, the stop is reported to the issuing block,
also in another package, event 3 is posted, and an ENGINE node that waits on the chain ends with the code. -/
def State.stopChain (s : State) (o : Owner) (code : Nat) : State :=
  let s1 := s.sliceSet (o.chain + 4) 4 (code + 256 * (o.seq % 2 ^ 24))
  let s2 := { s1 with eng := { s1.eng with running := s1.eng.running.filter fun r => !(r.2.chain = o.chain && decide (o.seq ≤ r.2.seq)) } }
  let s3 := match o.block with
    | none => match o.far, o.task with
      | some (p, b), some k => s2.send p 0 (.stopped b k o.tag code)
      | _, _ => s2
    | some (b, k) => s2.reportStop b k o.tag code
  let s4 := s3.event 3 (coreOfSlice o.chain) o.part (codeDetail s3.tick code)
  (s4.engineWaits o.chain).foldl (fun s w => s.endNode w.1 w.2.1 code (Config.nodeDetail s4.tick) noEdge) s4

/-- Records the entries of a chain that have ended in its sequence word, which rises one by one: an entry that finishes
ahead of an earlier one waits to be recorded (04 R123). -/
def State.recordSeq : Nat → State → Nat → State
  | 0, s, _ => s
  | k + 1, s, ch =>
    let n := s.chSeq ch + 1
    if s.eng.running.any fun r => r.2.chain = ch && r.2.seq = n && r.2.ended then
      State.recordSeq k ({ (s.sliceSet (ch + 24) 8 n) with
        eng := { s.eng with
          running := s.eng.running.filter fun r => !(r.2.chain = ch && r.2.seq = n)
          owners := s.eng.owners.filter fun o => !(o.chain = ch && decide (o.seq < n)) } }) ch
    else s

/-- An entry has made its arrival: its sequence number is recorded in turn, and an ENGINE node that waited for it ends (04
R123, 06 Table 6.3). -/
def State.completeEntry (s : State) (ch id : Nat) : State :=
  let s1 := { s with eng := { s.eng with running := s.eng.running.mod id fun r => { r with ended := true } } }
  let s2 := State.recordSeq s1.eng.running.length s1 ch
  (s2.engineWaits ch).foldl (fun s w =>
    if w.2.2 ≤ s.chSeq ch then
      match s.graphs.find w.1 with
      | some G => s.endNode w.1 w.2.1 0 0 (s.nodeNext G w.2.1)
      | none => s
    else s) s2

end Sys2Proof.Machine
end

