-- ==== Sys2Proof/Machine/Blocks.lean ====
section
/-! DEFINITION. Blocks: room and placement (06 R170, 01 R11), starting, the end of a troupe and of a block (05 R156), and
recovery: relaunch and kill (08 R216 to R219). -/
namespace Sys2Proof.Machine

/-! ## Room and placement -/

/-- Troupe slots a block of a launch reserves (01 R11, R14). -/
def Launch.slots (L : Launch) : Nat := if L.shd then 2 * L.tmax else L.tmax

/-- Register-file bytes a block of a launch reserves. -/
def Launch.bytes (L : Launch) : Nat := L.slots * 32 * L.regs * 4

/-- The blocks whose store buffers lie in a core's slice: of both its contexts (06 R170, 08 R227). -/
def State.buffersOn (s : State) (core : Nat) : Nat := s.blocks.countP fun b => b.2.core = core && b.2.killed.isNone

/-- The resident blocks of a core's active context (08 R227). -/
def State.blocksOn (s : State) (core : Nat) : List (Nat × Block) :=
  s.blocks.filter fun b => b.2.core = core && !b.2.swapped

/-- Slice bytes of a core taken by what is not a store buffer: 256 records of at most 8 words for each armed bin, and
the sums of tile-attributed regions, 256 bytes for each 4 KiB (00 R2, 03 R95, 06 R172). -/
def State.sliceTaken (s : State) (core : Nat) : Nat :=
  8192 * (s.core core).bins.length +
    s.mem.tiles.foldl (fun n r => if r.1 / 2 ^ 22 = core then n + r.2 / 16 else n) 0

/-- Whether a core has room for one more block of a launch (06 R170): troupe slots, register file, and 64 KiB for its store
buffer in the slice. -/
def State.room (s : State) (core : Nat) (L : Launch) : Bool :=
  let ls := ((s.blocksOn core).filter fun b => b.2.killed.isNone).filterMap fun b => (s.tasks.find b.2.task).map Task.launch
  decide (ls.foldl (fun n l => n + l.slots) 0 + L.slots ≤ 32) &&
    decide (ls.foldl (fun n l => n + l.bytes) 0 + L.bytes ≤ 524288) &&
    decide (s.sliceTaken core + 65536 * (s.buffersOn core + 1) ≤ sliceBytes)

/-- The core for the next block of a task: die by die after the last one used, each die's cores in its rotating order (06
R170). -/
def State.chooseCore (s : State) (P : Part) (L : Launch) : Option Nat :=
  let cs := P.cores
  let dies := (cs.map dieOf).eraseDups
  let order := match (if P.placed then s.ctl.lastDie else none) with
    | none => dies
    | some d => (dies.filter (d < ·)) ++ dies.filter (· ≤ d)
  order.findSome? fun d =>
    let mine := cs.filter fun c => dieOf c = d
    let r := P.rotor.get 0 d
    ((mine.filter (r ≤ ·)) ++ mine.filter (· < r)).find? fun c => s.room c L

/-- A troupe at its start (01 Table 1.1, Table 1.2; R14 for a shadow troupe). -/
def mkTroupe (L : Launch) (t start : Nat) (lm : Mask) : Troupe :=
  { lm := lm, role := if t ≥ 32 then 1 else L.role, chk := BitVec.ofNat 2 L.chk, start := start,
    splits := [(0, ⟨lm, lm, BitVec.ofNat 32 (if t ≥ 32 then L.shadow else L.entry), 0, .ready, none⟩)], now := 1 }

/-- The lanes of troupe `t` that hold one of `n` rows (06 R176). -/
def rowLanes (t n : Nat) : Mask := maskOf fun l => 32 * t + l < n

/-- A block at its start: a row in every lane, or one for each record it was launched with (06 R176). -/
def mkBlock (L : Launch) (task id core start : Nat) (recs : Option (List (List Word))) : Block :=
  let lms := (List.range L.troupes).map fun t => (t, match recs with
    | none => 0xFFFFFFFF#32
    | some rs => rowLanes t rs.length)
  let fill (t : Nat) (T : Troupe) : Troupe := match recs with
    | none => T
    | some rs =>
      let w := (rs.headD []).length
      { T with regs := { T.regs with v := (List.range w).foldl (fun v j =>
          v.set zeroCol j (Lanes.of fun l => (rs.getD (32 * t + l) []).getD j 0)) [] } }
  let ts := (lms.filter fun p => p.2 != 0).map fun p => (p.1, fill p.1 (mkTroupe L p.1 start p.2))
  let sh := if L.shd then (lms.filter fun p => p.2 != 0).map fun p => (p.1 + 32, mkTroupe L (p.1 + 32) start p.2) else []
  { task := task, id := id, core := core, troupes := ts ++ sh, records := recs.getD [], quads := [quadOf core] }

/-- Places the next block of a task on a core. -/
def State.placeOn (s : State) (k core : Nat) (recs : Option (List (List Word))) (gang : Bool) : State :=
  match s.tasks.find k with
  | none => s
  | some K =>
    let B := { mkBlock K.launch k K.next core s.fresh recs with gang := gang, cwpBase := (s.core core).cwp }
    let s1 := ({ s with blocks := s.blocks.put s.fresh B }).bump.modTask k fun K => { K with next := K.next + 1 }
    ({ s1 with ctl := { s1.ctl with lastDie := some (dieOf core) } }).modPart K.part fun P =>
      { P with placed := true, rotor := P.rotor.put (dieOf core) (core + 1) }

/-- Places the next block of a task if one is left and a core has room (06 R170). -/
def State.place (s : State) (k : Nat) (gang : Bool) : Option State :=
  match s.tasks.find k with
  | none => none
  | some K =>
    if K.bin.isSome || K.next ≥ K.launch.blocks then none
    else match s.ctl.parts.find K.part with
      | none => none
      | some P => (s.chooseCore P K.launch).map fun c => s.placeOn k c none gang

/-- Places blocks of a task in ascending id while there is room. -/
def State.placeAll (k : Nat) (gang : Bool) : Nat → State → State
  | 0, s => s
  | n + 1, s => match s.place k gang with
    | some s1 => State.placeAll k gang n s1
    | none => s

/-! ## The matrix unit's holder -/

/-- A unit as MREL leaves it: nothing held, everything lost (14 R365); requests in its line stay. -/
def MatUnit.release (m : MatUnit) : MatUnit := { ({} : MatUnit) with requests := m.requests, upset := m.upset }

/-- Releases every unit a block holds, in either context of a core, and drops its requests. -/
def State.freeUnits (s : State) (b : Nat) : State :=
  { s with cores := s.cores.map fun c =>
      let out (m : MatUnit) : MatUnit :=
        let m1 := if m.holder = some b then m.release else m
        { m1 with requests := m1.requests.filter fun r => r.b ≠ b }
      (c.1, { c.2 with mat := out c.2.mat, matX := out c.2.matX }) }

/-! ## Ends -/

/-- A troupe with no live lane ends: its flags join the block's; with the last one the block's end commits (01 R32, 05
R139). -/
def State.reap (s : State) (b t : Nat) : State :=
  match s.trp? b t with
  | none => s
  | some T =>
    if T.lm ≠ 0 then s
    else
      let s1 := s.modBlk b fun B => { B with troupes := B.troupes.del t, nf := B.nf ||| T.regs.nf }
      match s1.blocks.find b with
      | some B => if B.troupes.isEmpty then s1.commit b else s1
      | none => s1

/-- All the numeric flags of a block's troupes (02 R67). -/
def Block.flags (B : Block) : BitVec 16 := B.troupes.foldl (fun f T => f ||| T.2.regs.nf) B.nf

/-- The completion arrival of a block on its task's completion guard (05 R156, 02 R67). -/
def State.completion (s : State) (b : Nat) (B : Block) (K : Task) : State :=
  if K.guard = 0 then s else s.arriveAt b K.guard 1 B.flags

/-- Takes a block away and counts it as ended. -/
def State.gone (s : State) (b k : Nat) : State :=
  ((({ s with blocks := s.blocks.del b }).freeUnits b).modTask k fun K => { K with ended := K.ended + 1 }).taskEnd k

/-- The members of a collective group: package and die, by rank (04 Table 4.11). -/
def State.groupMembers (s : State) (part group : Nat) : List (Nat × Nat) :=
  match s.ctl.parts.find part with
  | none => []
  | some P =>
    let x := s.waNat part (P.cfg.groups + 256 * group) 256
    (List.range (bits x 6 0)).map fun r => (bits x (133 + 16 * r) (128 + 16 * r), bits x (136 + 16 * r) (134 + 16 * r))

/-- Sends the abort token of a collective to the members of its group (08 R223). -/
def State.sendAbort (s : State) (ms : List (Nat × Nat)) (group attempt : Nat) : State :=
  ms.foldl (fun s m =>
    if m.1 = s.ctl.pkg then { s with inputs := s.inputs ++ [Instr.abortToken m.2 group attempt] }
    else s.send m.1 0 (.abort m.2 group attempt)) s

/-- Collective entries of a killed block send their abort tokens (08 R223). -/
def State.abortOwn (s : State) (b : Nat) : State :=
  s.eng.running.foldl (fun s r =>
    if (r.2.owner.block.map Prod.fst) = some b && 0x20 ≤ r.2.op && r.2.op ≤ 0x23 then
      s.sendAbort r.2.members (r.2.e.group.toNat % 2 ^ 16) (r.2.e.group.toNat / 2 ^ 16)
    else s) s

/-- The waits of a block's splits on guards, counted out (04 Table 4.3). -/
def State.leaveGuards (s : State) (b : Nat) : State :=
  match s.blocks.find b with
  | none => s
  | some B => B.troupes.foldl (fun s T => T.2.splits.foldl (fun (s : State) (p : Nat × Split) => match p.2.wait with
      | .guard g _ => s.waiters b g false
      | .tryw g _ _ _ => s.waiters b g false
      | _ => s) s) s

/-- Whether a block has ended but for its write-back (05 R156): no troupe is left, its buffer has drained and been accepted,
also in other packages, its releases have arrived and its matrix instructions are done. -/
def State.ending (s : State) (B : Block) (b : Nat) : Bool :=
  B.troupes.isEmpty && B.buf.isEmpty && B.releases.isEmpty && !s.unacked b (fun _ => true) &&
    !s.cores.any fun c => c.2.mat.queue.any fun q => q.b = b

/-- Ends a block once nothing of it is on its way: the lines it dirtied are written back, its completion arrival is made with
its flags, and it is gone. What finds a page absent waits there, and the block with it (07 R205, 08 R219). -/
def State.endBlock (s : State) (b : Nat) : State :=
  match s.blocks.find b with
  | none => s
  | some B =>
    if !s.ending B b then s
    else
      let (ok, s1) := s.writeBack B.core fun _ c => c.by b
      if !ok || s1.unacked b (fun _ => true) then s1
      else match s1.tasks.find B.task with
        | none => s1.gone b B.task
        | some K => (s1.completion b B K).gone b B.task

/-- Kills a block (08 R219): it stops issuing, its uncommitted stores are discarded, its holdings are released, its error word
and the task's are set, and event 5 is posted; once its committed stores and the lines they dirtied have reached their homes,
its completion arrival is made. -/
def State.kill (s : State) (b code detail : Nat) (inHandler : Bool) : State :=
  match s.blocks.find b with
  | none => s
  | some B =>
    match s.tasks.find B.task with
    | none => { s with blocks := s.blocks.del b }
    | some K =>
      let s1 := ((s.leaveGuards b).freeUnits b).modBlk b fun B => { B with
        buf := B.buf.filter fun e => e.2.committed, nf := B.flags, troupes := [], inst := none, cursor := none, releases := []
        window := false, killed := some code }
      let s2 := (B.buf.filter fun e => e.2.committed).foldl (fun s e => s.drain b e.1) s1
      let s4 := s2.blockErr b (some (code, detail)) (if inHandler then 0x4400#32 else 0x400#32)
      let s5 := if K.err ≠ 0 then s4
        else
          let w := BitVec.ofNat 32 (code + 256 * B.id)
          let s' := s4.modTask B.task fun K => { K with err := w }
          if K.launch.errors = 0 then s' else s'.waWrite K.part K.launch.errors (leBytes 4 w.toNat)
      ((s5.event 5 B.core K.part (codeDetail s.tick code)).abortOwn b).endBlock b

/-- The core a relaunched block starts on: one with room in a quad it has not run on, when the partition has one, else its own,
whose room it holds (08 R218, 06 R170; DESIGN CHOICE, log 75, where no core of such a quad has room). -/
def State.relaunchCore (s : State) (B : Block) (K : Task) : Nat :=
  match s.ctl.parts.find K.part with
  | none => B.core
  | some P =>
    let cs := P.cores.filter fun c => !B.quads.contains (quadOf c)
    (cs.find? fun c => s.room c K.launch).getD B.core

/-- The attempt field of a guard rises, and saturates (08 R218). -/
def State.attemptUp (s : State) (g : Nat) : State := s.sliceSet (g + 18) 2 (min (s.sliceNat (g + 18) 2 + 1) 0xFFFF)

/-- Relaunches a block (08 R218): stores discarded, windows zeroed, holdings released, appended entries unlinked, and a
fresh start elsewhere with its id and launch registers. -/
def State.relaunch (s : State) (b code detail : Nat) : State :=
  match s.blocks.find b with
  | none => s
  | some B =>
    match s.tasks.find B.task with
    | none => s
    | some K =>
      let core := s.relaunchCore B K
      let s1 := ((s.leaveGuards b).unlinkOwn b).freeUnits b
      let s2 := s1.bump.modBlk b fun _ =>
        { mkBlock K.launch B.task B.id core s.fresh (if B.records.isEmpty then none else some B.records) with
          err := B.err, attempts := B.attempts + 1, quads := Marks.add B.quads (quadOf core), stopBit := B.stopBit,
          cwpBase := (s.core core).cwp }
      let s3 := s2.blockErr b (some (code, detail)) 0
      let s4 := s3.modBlk b fun B => { B with err := (B.err &&& 0xFFFFE7FF#32) ||| BitVec.ofNat 32 (2048 * B.attempts) }
      let s5 := s4.blockErr b none 0
      let s6 := if B.records.isEmpty then s5 else s5.invalidate core fun _ => true
      if K.guard = 0 then s6
      else if s6.here K.guard then s6.attemptUp K.guard
      else s6.send (pkgOfSlice K.guard) b (.attempt K.guard)

/-- A block consumes an uncorrectable error: relaunch within its window, three times at most, else kill (08 R216, R218). -/
def State.contain (s : State) (b code detail : Nat) : State :=
  match s.blocks.find b with
  | none => s
  | some B => if B.window && B.attempts < 3 then s.relaunch b code detail else s.kill b code detail false

/-- Counts corrected errors of a core, saturating (01 Table 1.2). -/
def State.corrected (s : State) (core n : Nat) : State :=
  s.modCore core fun C => { C with cor := BitVec.ofNat 32 (min (C.cor.toNat + n) 0xFFFFFFFF) }

/-- Single errors that an access of a slice meets are corrected, and a core's `cor` counts them (08 Table 8.1); whether there
were any. -/
def State.correctSlice (s : State) (core a n : Nat) : Bool × State :=
  match (if s.here a then (unitsOf 8 (sliceKey a) n).filter s.mem.flips.contains else []) with
  | [] => (false, s)
  | us => (true,
    { s with mem := { s.mem with flips := s.mem.flips.filter fun u => !us.contains u } }.corrected core us.length)

end Sys2Proof.Machine
end

