-- ==== Sys2Proof/Machine/Flags.lean ====
section
/-! DEFINITION. The numeric flags (02 Table 2.8). -/
namespace Sys2Proof.Machine

/-- A set of numeric flags. -/
abbrev Flags := BitVec 16

/-- Invalid operation. -/
def fINV : Flags := 0x001#16
/-- Exact infinite result from a finite operand. -/
def fDZ : Flags := 0x002#16
/-- Overflow. -/
def fOVF : Flags := 0x004#16
/-- Tiny and inexact. -/
def fUNF : Flags := 0x008#16
/-- Rounded result differs from the exact one. -/
def fINX : Flags := 0x010#16
/-- A saturating clamp. -/
def fSAT : Flags := 0x020#16
/-- Matrix alignment discarded bits. -/
def fTRN : Flags := 0x040#16
/-- A product check was skipped. -/
def fVOID : Flags := 0x080#16
/-- An error was corrected. -/
def fCOR : Flags := 0x100#16
/-- A special operand in a matrix block. -/
def fSPEC : Flags := 0x200#16

/-- A flag when a condition holds. -/
def flagIf (p : Bool) (f : Flags) : Flags := if p then f else 0

end Sys2Proof.Machine
end

