-- ==== Sys2Proof/Machine/Fp.lean ====
section
/-! DEFINITION. Floating-point formats, rounding and conversion (02 R41 to R60), computed exactly on integers and rounded
once. -/
namespace Sys2Proof.Machine

/-! ## Formats and values -/

/-- A floating-point format (02 Table 2.2): exponent and fraction bits, bias, and how the top exponent is read: 0 infinity
and NaN, 1 one NaN only (e4m3), 2 all finite (e2m1). -/
structure Fmt where
  eb : Nat
  mb : Nat
  bias : Nat
  top : Nat
  deriving DecidableEq, Repr

/-- e2m1 -/
def e2m1 : Fmt := ⟨2, 1, 1, 2⟩
/-- e4m3 -/
def e4m3 : Fmt := ⟨4, 3, 7, 1⟩
/-- e5m2 -/
def e5m2 : Fmt := ⟨5, 2, 15, 0⟩
/-- f16 -/
def f16 : Fmt := ⟨5, 10, 15, 0⟩
/-- bf16 -/
def bf16 : Fmt := ⟨8, 7, 127, 0⟩
/-- f32 -/
def f32 : Fmt := ⟨8, 23, 127, 0⟩
/-- f64 -/
def f64 : Fmt := ⟨11, 52, 1023, 0⟩

/-- The width of a format. -/
def Fmt.width (f : Fmt) : Nat := 1 + f.eb + f.mb

/-- A value: NaN, an infinity, or (−1)^neg · m · 2^e. -/
inductive Num where
  | nan
  | inf (neg : Bool)
  | fin (neg : Bool) (m : Nat) (e : Int)
  deriving DecidableEq, Repr

/-- The value of a code (02 R41). -/
def Fmt.decode (f : Fmt) (x : Nat) : Num :=
  let neg := bit x (f.eb + f.mb)
  let E := bits x (f.eb + f.mb - 1) f.mb
  let F := bits x (f.mb - 1) 0
  let full := E = 2 ^ f.eb - 1
  if full && f.top = 0 then if F = 0 then .inf neg else .nan
  else if full && f.top = 1 && F = 2 ^ f.mb - 1 then .nan
  else if E = 0 then .fin neg F (1 - f.bias - f.mb)
  else .fin neg (2 ^ f.mb + F) (E - f.bias - f.mb)

/-- The canonical NaN (02 Table 2.2). -/
def Fmt.cnan (f : Fmt) : Nat :=
  if f.top = 1 then 0x7F else (2 ^ f.eb - 1) * 2 ^ f.mb + 2 ^ (f.mb - 1)

/-- The sign bit in place. -/
def Fmt.sign (f : Fmt) (neg : Bool) : Nat := if neg then 2 ^ (f.eb + f.mb) else 0

/-- An infinity. -/
def Fmt.infCode (f : Fmt) (neg : Bool) : Nat := f.sign neg + (2 ^ f.eb - 1) * 2 ^ f.mb

/-- The largest finite magnitude, as a code. -/
def Fmt.maxCode (f : Fmt) : Nat :=
  match f.top with
  | 0 => (2 ^ f.eb - 1) * 2 ^ f.mb - 1
  | 1 => 2 ^ (f.eb + f.mb) - 2
  | _ => 2 ^ (f.eb + f.mb) - 1

/-- The exponent of the smallest normal value. -/
def Fmt.emin (f : Fmt) : Int := 1 - f.bias

/-- Compares m1·2^e1 with m2·2^e2. -/
def magLt (m1 : Nat) (e1 : Int) (m2 : Nat) (e2 : Int) : Bool :=
  let e := min e1 e2
  m1 * 2 ^ (e1 - e).toNat < m2 * 2 ^ (e2 - e).toNat

/-- The number of significant bits. -/
def bitLen (m : Nat) : Nat := if m = 0 then 0 else Nat.log2 m + 1

/-! ## Rounding (02 R50 to R53) -/

/-- m·2^e (and a little more, with `st`) as a multiple of 2^q, rounded by a mode (0 rne, 1 rz, 2 ru, 3 rd, 4 sr with the
random bits x), and whether it is inexact. -/
def roundAt (mode x : Nat) (neg : Bool) (m : Nat) (e : Int) (st : Bool) (q : Int) : Nat × Bool :=
  if q ≤ e then (m * 2 ^ (e - q).toNat, st)
  else
    let d := (q - e).toNat
    let k := m / 2 ^ d
    let r := m % 2 ^ d
    let inx := r ≠ 0 || st
    let up := match mode with
      | 0 => decide (2 * r > 2 ^ d) || (2 * r = 2 ^ d && (st || k % 2 = 1))
      | 1 => false
      | 2 => inx && !neg
      | 3 => inx && neg
      | _ => decide ((if 16 ≤ d then r / 2 ^ (d - 16) else r * 2 ^ (16 - d)) + x ≥ 2 ^ 16)
    (if up then k + 1 else k, inx)

/-- A rounded magnitude: the code without its sign, and whether it is inexact, tiny or too large (02 R52, R53). -/
structure Rounded where
  code : Nat
  inx : Bool
  tiny : Bool
  exceeds : Bool
  deriving DecidableEq, Repr

/-- The code of n·2^q, with n at most 2^(mb+1) and q at least the subnormal place. -/
def Fmt.pack (f : Fmt) (n : Nat) (q : Int) : Nat :=
  if n < 2 ^ f.mb then n
  else if n = 2 ^ (f.mb + 1) then (q + 1 + f.mb + f.bias).toNat * 2 ^ f.mb
  else (q + f.mb + f.bias).toNat * 2 ^ f.mb + (n - 2 ^ f.mb)

/-- Rounds a non-zero magnitude m·2^e (and a little more, with `st`) to a format. -/
def Fmt.round (f : Fmt) (mode x : Nat) (neg : Bool) (m : Nat) (e : Int) (st : Bool) : Rounded :=
  let qu := e + bitLen m - (f.mb + 1)
  let u := roundAt mode x neg m e st qu
  let qs := f.emin - f.mb
  let d := if qu < qs then roundAt mode x neg m e st qs else u
  let tiny := magLt u.1 qu 1 f.emin
  let exceeds := match f.decode f.maxCode with
    | .fin _ mm me => magLt mm me u.1 qu
    | _ => false
  ⟨f.pack d.1 (max qu qs), d.2, tiny, exceeds⟩

/-- Delivers a value to a format by a mode and the saturate bit (02 R53, R55 to R57): its code and flags. A zero keeps its
sign. An infinite source saturates in a wider destination too, by R56 and Table 2.7, although R55 ends with "exactly, with
no flag" (DEDUCED, log 57). -/
def Fmt.deliver (f : Fmt) (mode x : Nat) (sat : Bool) (st : Bool) (v : Num) : Nat × Flags :=
  match v with
  | .nan => if f.top = 2 then (0, fINV) else (f.cnan, 0)
  | .inf neg =>
    match f.top with
    | 0 => if sat then (f.sign neg + f.maxCode, fSAT) else (f.infCode neg, 0)
    | 1 => if sat then (f.sign neg + f.maxCode, fSAT) else (f.cnan, fINV)
    | _ => (f.sign neg + f.maxCode, fSAT ||| fINV)
  | .fin neg m e =>
    if m = 0 then (f.sign neg, 0)
    else
      let r := f.round mode x neg m e st
      if r.exceeds then
        if sat || f.top = 2 then (f.sign neg + f.maxCode, fSAT ||| fINX)
        else
          let big := mode = 1 || (mode = 2 && neg) || (mode = 3 && !neg)
          if big then (f.sign neg + f.maxCode, fOVF ||| fINX)
          else if f.top = 1 then (f.cnan, fOVF ||| fINX)
          else (f.infCode neg, fOVF ||| fINX)
      else (f.sign neg + r.code, flagIf (r.tiny && r.inx) fUNF ||| flagIf r.inx fINX)

/-! ## Exact operations (02 R44, R45) -/

/-- Sign of a value. -/
def Num.neg : Num → Bool
  | .nan => false
  | .inf n => n
  | .fin n _ _ => n

/-- Whether a value is a zero. -/
def Num.isZero : Num → Bool
  | .fin _ 0 _ => true
  | _ => false

/-- Whether a value is NaN. -/
def Num.isNan : Num → Bool
  | .nan => true
  | _ => false

/-- Whether a value is infinite. -/
def Num.isInf : Num → Bool
  | .inf _ => true
  | _ => false

/-- The negation. -/
def Num.minus : Num → Num
  | .nan => .nan
  | .inf n => .inf !n
  | .fin n m e => .fin (!n) m e

/-- The signed integer of a magnitude. -/
def signed (neg : Bool) (m : Nat) : Int := if neg then -(m : Int) else m

/-- The exact sum; an exact zero is +0, or −0 under rd, and two zeros of one sign keep it (02 R45). -/
def Num.add (mode : Nat) : Num → Num → Num × Flags
  | .nan, _ => (.nan, 0)
  | _, .nan => (.nan, 0)
  | .inf a, .inf b => if a = b then (.inf a, 0) else (.nan, fINV)
  | .inf a, _ => (.inf a, 0)
  | _, .inf b => (.inf b, 0)
  | .fin a m e, .fin b n g =>
    let q := min e g
    let z := signed a m * 2 ^ (e - q).toNat + signed b n * 2 ^ (g - q).toNat
    if z = 0 then
      if m = 0 && n = 0 && a = b then (.fin a 0 0, 0) else (.fin (mode = 3) 0 0, 0)
    else (.fin (z < 0) z.natAbs q, 0)

/-- The exact product. -/
def Num.mul : Num → Num → Num × Flags
  | .nan, _ => (.nan, 0)
  | _, .nan => (.nan, 0)
  | .inf a, .inf b => (.inf (a != b), 0)
  | .inf a, .fin b m _ => if m = 0 then (.nan, fINV) else (.inf (a != b), 0)
  | .fin a m _, .inf b => if m = 0 then (.nan, fINV) else (.inf (a != b), 0)
  | .fin a m e, .fin b n g => (.fin (a != b) (m * n) (e + g), 0)

/-- The exact product and sum: 0 × ∞ raises INV whatever the addend holds (02 R44). -/
def Num.fma (mode : Nat) (a b c : Num) : Num × Flags :=
  let p := a.mul b
  let r := p.1.add mode c
  (r.1, p.2 ||| r.2)

/-- A quotient to 160 bits, with whether there is more: for one rounding. A finite non-zero value over zero is infinite
with DZ; 0/0 and ∞/∞ are NaN with INV (12 R319). -/
def Num.div : Num → Num → (Num × Bool) × Flags
  | .nan, _ => ((.nan, false), 0)
  | _, .nan => ((.nan, false), 0)
  | .inf _, .inf _ => ((.nan, false), fINV)
  | .inf a, .fin b _ _ => ((.inf (a != b), false), 0)
  | .fin a _ _, .inf b => ((.fin (a != b) 0 0, false), 0)
  | .fin a m e, .fin b n g =>
    if n = 0 then if m = 0 then ((.nan, false), fINV) else ((.inf (a != b), false), fDZ)
    else
      let k := 160 + bitLen n - bitLen m
      let x := m * 2 ^ k
      ((.fin (a != b) (x / n) (e - g - k), x % n ≠ 0), 0)

/-- An ordering of values that are not NaN: a < b. -/
def Num.lt : Num → Num → Bool
  | .nan, _ => false
  | _, .nan => false
  | .inf a, .inf b => a && !b
  | .inf a, .fin _ _ _ => a
  | .fin _ _ _, .inf b => !b
  | .fin a m e, .fin b n g =>
    let q := min e g
    signed a m * 2 ^ (e - q).toNat < signed b n * 2 ^ (g - q).toNat

/-- minimumNumber: −0 is below +0, a NaN yields to a number (02 R44). -/
def Num.minN (a b : Num) : Num :=
  if a.isNan then b else if b.isNan then a
  else if a.lt b then a else if b.lt a then b else if a.neg then a else b

/-- maximumNumber (02 R44). -/
def Num.maxN (a b : Num) : Num :=
  if a.isNan then b else if b.isNan then a
  else if a.lt b then b else if b.lt a then a else if a.neg then b else a

/-! ## Operations on codes -/

/-- An operation result rounded to a format without saturation. -/
def Fmt.out (f : Fmt) (mode x : Nat) (r : Num × Flags) : Nat × Flags :=
  let d := f.deliver mode x false false r.1
  (d.1, d.2 ||| r.2)

/-- FADD (12 R308). -/
def Fmt.add (f : Fmt) (mode x a b : Nat) : Nat × Flags := f.out mode x ((f.decode a).add mode (f.decode b))
/-- FMUL (12 R308). -/
def Fmt.mul (f : Fmt) (mode x a b : Nat) : Nat × Flags := f.out mode x ((f.decode a).mul (f.decode b))
/-- FFMA (12 R308). -/
def Fmt.fma (f : Fmt) (mode a b c : Nat) : Nat × Flags :=
  f.out mode 0 ((f.decode a).fma mode (f.decode b) (f.decode c))
/-- FMIN (12 R308). -/
def Fmt.minNum (f : Fmt) (a b : Nat) : Nat := (f.deliver 0 0 false false ((f.decode a).minN (f.decode b))).1
/-- FMAX (12 R308). -/
def Fmt.maxNum (f : Fmt) (a b : Nat) : Nat := (f.deliver 0 0 false false ((f.decode a).maxN (f.decode b))).1

/-- FCMP's conditions (12 Table 12.6). -/
def fcmpCond (c : Nat) (a b : Num) : Bool :=
  let un := a.isNan || b.isNan
  let lt := a.lt b
  let gt := b.lt a
  let eq := !un && !lt && !gt
  let base := match c % 8 with
    | 0 => eq
    | 1 => lt || gt
    | 2 => lt
    | 3 => lt || eq
    | 4 => gt
    | 5 => gt || eq
    | _ => !un
  if c = 6 then !un else if c = 14 then un else if c ≥ 8 then un || base else base

/-- FRND (12 R310). -/
def Fmt.rint (f : Fmt) (mode a : Nat) : Nat × Flags :=
  match f.decode a with
  | .fin neg m e =>
    if m = 0 then (f.sign neg, 0)
    else
      let r := roundAt mode 0 neg m e false 0
      ((f.deliver 0 0 false false (.fin neg r.1 0)).1, flagIf r.2 fINX)
  | v => f.deliver 0 0 false false v

/-- FSCL (12 R311). Past 5,000 either way every exponent rounds alike. -/
def Fmt.scale (f : Fmt) (mode : Nat) (n : Int) (a : Nat) : Nat × Flags :=
  match f.decode a with
  | .fin neg m e => f.deliver mode 0 false false (.fin neg m (e + max (-5000) (min 5000 n)))
  | v => f.deliver mode 0 false false v

/-- FCLS (12 Table 12.7). -/
def Fmt.classify (f : Fmt) (a : Nat) : Nat :=
  match f.decode a with
  | .nan => 0x100
  | .inf true => 0x001
  | .inf false => 0x080
  | .fin neg m e =>
    if m = 0 then if neg then 0x008 else 0x010
    else if magLt m e 1 f.emin then if neg then 0x004 else 0x020
    else if neg then 0x002 else 0x040

/-! ## Correctly rounded functions (02 R54) -/

/-- The integer square root, bit by bit from the top. -/
def isqrtAux (x : Nat) : Nat → Nat → Nat
  | 0, r => r
  | k + 1, r => if (r + 2 ^ k) * (r + 2 ^ k) ≤ x then isqrtAux x k (r + 2 ^ k) else isqrtAux x k r

/-- The integer square root. -/
def isqrt (x : Nat) : Nat := isqrtAux x (bitLen x / 2 + 1) 0

/-- FRCP (02 Table 2.6). -/
def Fmt.rcp (f : Fmt) (a : Nat) : Nat × Flags :=
  let r := (Num.fin false 1 0).div (f.decode a)
  let d := f.deliver 0 0 false r.1.2 r.1.1
  (d.1, d.2 ||| r.2)

/-- FSQRT (02 Table 2.6). -/
def Fmt.sqrt (f : Fmt) (a : Nat) : Nat × Flags :=
  match f.decode a with
  | .nan => (f.cnan, 0)
  | .inf neg => if neg then (f.cnan, fINV) else (f.infCode false, 0)
  | .fin neg m e =>
    if m = 0 then (f.sign neg, 0)
    else if neg then (f.cnan, fINV)
    else
      let odd := (e % 2).toNat
      let x := m * 2 ^ (odd + 160)
      let r := isqrt x
      f.deliver 0 0 false (r * r ≠ x) (.fin false r ((e - odd) / 2 - 80))

/-- FRSQ (02 Table 2.6). -/
def Fmt.rsq (f : Fmt) (a : Nat) : Nat × Flags :=
  match f.decode a with
  | .nan => (f.cnan, 0)
  | .inf neg => if neg then (f.cnan, fINV) else (0, 0)
  | .fin neg m e =>
    if m = 0 then (f.infCode neg, fDZ)
    else if neg then (f.cnan, fINV)
    else
      let odd := (e % 2).toNat
      let mm := m * 2 ^ odd
      let k := 160 + bitLen mm
      let r := isqrt (2 ^ (2 * k) / mm)
      f.deliver 0 0 false (r * r * mm ≠ 2 ^ (2 * k)) (.fin false r (-((e - odd) / 2) - k))

/-- Fixed point with 400 fraction bits. -/
def fxOne : Nat := 2 ^ 400

/-- ln 2 in fixed point, from the series of 1/(k·2^k). -/
def fxLn2 : Nat := (List.range 420).foldl (fun s i => s + fxOne / ((i + 1) * 2 ^ (i + 1))) 0

/-- e^y for a fixed-point y below 1, by its power series. -/
def fxExp (y : Nat) : Nat :=
  ((List.range 100).foldl (fun (p : Nat × Nat) i => (p.1 + p.2, p.2 * y / fxOne / (i + 1))) (0, fxOne)).1

/-- ln y for a fixed-point y from 1 to 2, by the series of the inverse hyperbolic tangent. -/
def fxLn (y : Nat) : Nat :=
  let z := (y - fxOne) * fxOne / (y + fxOne)
  let z2 := z * z / fxOne
  2 * ((List.range 140).foldl (fun (p : Nat × Nat) i => (p.1 + p.2 / (2 * i + 1), p.2 * z2 / fxOne)) (0, z)).1

/-- FEXP2 (02 R54): 2^x to 390 bits, rounded once. No f32 operand but an integer gives a value that close to a rounding
boundary. -/
def Fmt.exp2 (f : Fmt) (a : Nat) : Nat × Flags :=
  match f.decode a with
  | .nan => (f.cnan, 0)
  | .inf neg => if neg then (0, 0) else (f.infCode false, 0)
  | .fin neg m e =>
    if m = 0 then f.deliver 0 0 false false (.fin false 1 0)
    else if magLt 4096 0 m e then
      -- far outside the range: any value past it rounds alike
      if neg then f.deliver 0 0 false true (.fin false 1 (-4096)) else f.deliver 0 0 false false (.fin false 1 4096)
    else
      let fx := signed neg m * 2 ^ (e + 400).toNat / 2 ^ (-(e + 400)).toNat
      let i := fx / (fxOne : Int)
      let r := (fx % (fxOne : Int)).toNat
      if r = 0 && 0 ≤ e + 400 then f.deliver 0 0 false false (.fin false 1 i)
      else f.deliver 0 0 false true (.fin false (fxExp (r * fxLn2 / fxOne)) (i - 400))

/-- FLOG2 (02 R54). -/
def Fmt.log2 (f : Fmt) (a : Nat) : Nat × Flags :=
  match f.decode a with
  | .nan => (f.cnan, 0)
  | .inf neg => if neg then (f.cnan, fINV) else (f.infCode false, 0)
  | .fin neg m e =>
    if m = 0 then (f.infCode true, fDZ)
    else if neg then (f.cnan, fINV)
    else
      let k := Nat.log2 m
      let E := e + k
      if m = 2 ^ k then f.deliver 0 0 false false (.fin (E < 0) E.natAbs 0)
      else
        let y := m * 2 ^ 400 / 2 ^ k
        let v := E * (fxOne : Int) + (fxLn y * fxOne / fxLn2 : Nat)
        f.deliver 0 0 false true (.fin (v < 0) v.natAbs (-400))

/-! ## Integers and conversion (02 R55 to R60) -/

/-- The least value of an integer type. -/
def intMin (w : Nat) (sg : Bool) : Int := if sg then -(2 ^ (w - 1) : Int) else 0
/-- The greatest value of an integer type. -/
def intMax (w : Nat) (sg : Bool) : Int := if sg then 2 ^ (w - 1) - 1 else 2 ^ w - 1

/-- Clamps to an integer type, with SAT where it changes the value (02 R40). -/
def clampInt (w : Nat) (sg : Bool) (x : Int) : Int × Flags :=
  if x < intMin w sg then (intMin w sg, fSAT) else if intMax w sg < x then (intMax w sg, fSAT) else (x, 0)

/-- The value of a code of an integer type. -/
def intOf (w : Nat) (sg : Bool) (x : Nat) : Int := if sg then sextN w x else (x % 2 ^ w : Nat)

/-- A value, with whether there is a little more, to an integer type (02 R58). -/
def numToInt (mode x w : Nat) (sg : Bool) (st : Bool) : Num → Nat × Flags
  | .nan => (0, fINV)
  | .inf neg => (wrapN w (if neg then intMin w sg else intMax w sg), fINV)
  | .fin neg m e =>
    let r := roundAt mode x neg m e st 0
    let c := clampInt w sg (signed neg r.1)
    (wrapN w c.1, c.2 ||| flagIf r.2 fINX)

/-- An integer as a value. -/
def intNum (x : Int) : Num := .fin (x < 0) x.natAbs 0

/-- An integer type to an integer type (02 R60). -/
def intToInt (sat : Bool) (w : Nat) (sg : Bool) (ws : Nat) (sgs : Bool) (x : Nat) : Nat × Flags :=
  let v := intOf ws sgs x
  if sat then
    let c := clampInt w sg v
    (wrapN w c.1, c.2)
  else (wrapN w v, 0)

/-- An element type: a float format or an integer width and signedness. -/
inductive ETy where
  | fl (f : Fmt)
  | int (w : Nat) (sg : Bool)
  deriving DecidableEq, Repr

/-- The width of an element. -/
def ETy.width : ETy → Nat
  | .fl f => f.width
  | .int w _ => w

/-- The element type of a type code (10 Table 10.4). -/
def ety (t : Nat) : ETy :=
  match t with
  | 0 => .int 32 true
  | 1 => .int 32 false
  | 2 => .fl f32
  | 3 => .fl f16
  | 4 => .fl bf16
  | 5 => .fl f64
  | 6 => .int 64 true
  | 7 => .int 64 false
  | 8 => .int 16 true
  | 9 => .int 16 false
  | 10 => .int 8 true
  | 11 => .int 8 false
  | 12 => .fl e4m3
  | 13 => .fl e5m2
  | 14 => .fl e2m1
  | _ => .int 4 true

/-- How many elements a register (or pair) of a type holds (02 Table 2.1). -/
def lanesIn (t : Nat) : Nat := if t = 5 || t = 6 || t = 7 then 1 else 32 / (ety t).width

/-- Converts a code (02 R55 to R60). A float that is no NaN is copied into its own type (12 R314). -/
def convert (mode x : Nat) (sat : Bool) (src dst : ETy) (a : Nat) : Nat × Flags :=
  match src, dst with
  | .fl s, .fl d => if s = d && !(s.decode a).isNan then (a % 2 ^ d.width, 0) else d.deliver mode x sat false (s.decode a)
  | .fl s, .int w sg => numToInt mode x w sg false (s.decode a)
  | .int w sg, .fl d => d.deliver mode x sat false (intNum (intOf w sg a))
  | .int ws sgs, .int w sg => intToInt sat w sg ws sgs a

/-- Delivers an exact value (or one with a little more) to an element type. -/
def deliverTo (mode x : Nat) (sat st : Bool) (dst : ETy) (v : Num) : Nat × Flags :=
  match dst with
  | .fl d => d.deliver mode x sat st v
  | .int w sg => numToInt mode x w sg st v

end Sys2Proof.Machine
end

