-- ==== Sys2Proof/Machine/Operands.lean ====
section
/-! DEFINITION. Operands (10 R245 to R247, R249) and register writes (01 R15, 08 R398): every form the lane and uniform
sets name. -/
namespace Sys2Proof.Machine

/-! ## Elements (02 Table 2.1) -/

/-- The width of an element of a type code. -/
def elW (t : Nat) : Nat := (ety t).width

/-- Element `i` of a value of a type code. -/
def elem (t x i : Nat) : Nat := x / 2 ^ (elW t * i) % 2 ^ elW t

/-- The value whose element `i` is `f i`. -/
def packed (t : Nat) (f : Nat → Nat) : Nat :=
  (List.range (lanesIn t)).foldl (fun x i => x + f i % 2 ^ elW t * 2 ^ (elW t * i)) 0

/-- A packed operation: element by element, flags joined (02 R44, R66). -/
def elementwise (t : Nat) (f : Nat → Nat × Flags) : Nat × Flags :=
  (packed t fun i => (f i).1, (List.range (lanesIn t)).foldl (fun g i => g ||| (f i).2) 0)

/-- One element replaced. -/
def setElem (t x i v : Nat) : Nat :=
  x - elem t x i * 2 ^ (elW t * i) + v % 2 ^ elW t * 2 ^ (elW t * i)

/-- A 64-bit type code. -/
def wide (t : Nat) : Bool := t = 5 || t = 6 || t = 7

/-! ## Reading -/

/-- The integer an integer code stands for (10 Table 10.2). -/
def codeInt (k : Nat) : Int := if k < 0xF0 then (k : Int) - 0xD0 else (k : Int) - 0x100

/-- An integer code read at a type (10 R246). -/
def intCode (t k : Nat) : Nat :=
  match ety t with
  | .fl f => packed t fun _ => (f.deliver 0 0 false false (intNum (codeInt k))).1
  | .int w _ => packed t fun _ => wrapN w (codeInt k)

/-- A lane's register. -/
def Regs.lane (R : Regs) (r l : Nat) : Word := (R.v.get zeroCol r).get 0 l

/-- A lane's register of the issuing troupe. -/
def Ctx.reg (c : Ctx) (r l : Nat) : Nat := (c.trp.regs.lane r l).toNat

/-- A lane's register, or pair of registers for 64 bits (01 R16). -/
def Ctx.regs (c : Ctx) (w : Bool) (r l : Nat) : Nat := if w then c.reg r l + 2 ^ 32 * c.reg (r + 1) l else c.reg r l

/-- A uniform register. -/
def Ctx.s (c : Ctx) (r : Nat) : DWord := c.trp.regs.s.get 0 r

/-- A uniform register by its field. -/
def Ctx.sr (c : Ctx) (r : BitVec 6) : DWord := c.s r.toNat

/-- A predicate register as a mask; p0 reads 1 (01 R15). -/
def Ctx.predMask (c : Ctx) (k : Nat) : Mask := if k = 0 then 0xFFFFFFFF#32 else c.trp.regs.p.get 0 k

/-- A lane's predicate. -/
def Ctx.pred (c : Ctx) (k l : Nat) : Bool := (c.predMask k).getLsbD l

/-- A gate; g0 reads 1 (01 R15). -/
def Ctx.gate (c : Ctx) (k : Nat) : Bool := k = 0 || c.trp.regs.g.getLsbD k

/-- A row number (01 R9): 32·troupe + lane until REPACK renumbers. A shadow troupe's rows have the numbers of its partner's:
DESIGN CHOICE (log 60), since the spec gives a shadow troupe no index of its own. -/
def Troupe.rowId (T : Troupe) (t l : Nat) : Nat := (T.rid.get (BitVec.ofNat 32 (32 * (t % 32) + l)) l).toNat

/-- The latches of the run in progress, newest first. -/
def Troupe.latches (T : Troupe) : List (Lanes DWord) := (T.run.map Run.latches).getD []

/-- The oldest entry of an inbound queue of a lane. -/
def Troupe.front (T : Troupe) (q l : Nat) : Option Word := ((T.q.get [] (32 * q + l)).headD none)

/-- A lane operand (10 Table 10.2) at a type code: 32 bits, or 64 for a 64-bit type. -/
def Ctx.operand (c : Ctx) (code : BitVec 8) (t l : Nat) : Nat :=
  let k := code.toNat
  let w := wide t
  if k < 0x80 then c.regs w k l
  else if k < 0x84 then
    let x := ((c.trp.latches.getD (k - 0x80) []).get 0 l).toNat
    if w then x else x % 2 ^ 32
  else if k = 0x84 then l
  else if k = 0x85 then c.trp.rowId c.t l
  else if k < 0x8C then ((c.trp.front (k - 0x88) l).getD 0).toNat
  else if k < 0xD0 then
    let x := (c.s (k - 0x90)).toNat
    if w then x else x % 2 ^ 32
  else intCode t k

/-- The lanes whose guard predicate holds, among the active ones (10 R244, R249). -/
def Ctx.guarded (c : Ctx) (i : Instr) : Mask :=
  match i.form with
  | .lw _ _ f =>
    let p := c.predMask f.gp.toNat
    c.active &&& if f.gs then ~~~p else p
  | _ => c.active

/-! ## Writing -/

/-- Whether a unit of `Troupe.poison` is a word of a lane register in a lane of a mask. -/
def inLanes (r : Nat) (m : Mask) (u : Nat) : Bool := u < 4096 && u / 32 = r && m.getLsbD (u % 32)

/-- Writes a lane register in the lanes of a mask; the written words lose their poison and single errors (08 R398, R214). -/
def Troupe.setV (T : Troupe) (r : Nat) (m : Mask) (f : Nat → Word) : Troupe :=
  { T with
    regs := { T.regs with v := T.regs.v.set zeroCol r (Lanes.of fun l => if m.getLsbD l then f l else T.regs.lane r l) }
    poison := T.poison.filter fun u => !inLanes r m u
    flips := T.flips.filter fun u => !inLanes r m u }

/-- Writes a register, or a pair for 64 bits. -/
def Troupe.setVs (T : Troupe) (w : Bool) (r : Nat) (m : Mask) (f : Nat → Nat) : Troupe :=
  let T1 := T.setV r m fun l => BitVec.ofNat 32 (f l)
  if w then T1.setV (r + 1) m fun l => BitVec.ofNat 32 (f l / 2 ^ 32) else T1

/-- Writes a predicate in the lanes of a mask; a write to p0 is discarded (01 R15). A write of all 32 lanes replaces the
unit (08 R398). -/
def Troupe.setP (T : Troupe) (k : Nat) (m : Mask) (x : Mask) : Troupe :=
  if k = 0 then T
  else
    let kept (u : Nat) : Bool := !(u = 8192 + k && m = 0xFFFFFFFF#32)
    { T with
      regs := { T.regs with p := T.regs.p.set 0 k ((T.regs.p.get 0 k &&& ~~~m) ||| (x &&& m)) }
      poison := T.poison.filter kept, flips := T.flips.filter kept }

/-- Writes a uniform register. -/
def Troupe.setS (T : Troupe) (r : Nat) (x : DWord) : Troupe :=
  { T with
    regs := { T.regs with s := T.regs.s.set 0 r x }
    poison := T.poison.filter fun u => u / 2 != 2048 + r
    flips := T.flips.filter fun u => u / 2 != 2048 + r }

/-- Writes a gate; a write to g0 is discarded (01 R15). -/
def Troupe.setG (T : Troupe) (k : Nat) (x : Bool) : Troupe :=
  if k = 0 then T
  else { T with regs := { T.regs with g :=
    if x then T.regs.g ||| (1#8 <<< k) else T.regs.g &&& ~~~(1#8 <<< k) } }

/-- Writes a capability register. -/
def Troupe.setC (T : Troupe) (k : Nat) (x : CapReg) : Troupe :=
  { T with regs := { T.regs with c := T.regs.c.set {} k x } }

/-- The number of a queue entry's unit in `Troupe.poison`: by queue, lane and place from the front. -/
def queueUnit (q l place : Nat) : Nat := 16384 + 8 * (32 * q + l) + place

/-- What popping a queue in the lanes of a mask makes of units: the front entries' go, those behind move up. -/
def poppedUnits (q : Nat) (m : Mask) (us : Marks) : Marks :=
  us.filterMap fun u =>
    if 16384 ≤ u && (u - 16384) / 256 = q && m.getLsbD ((u - 16384) / 8 % 32) then
      if u % 8 = 0 then none else some (u - 1)
    else some u

/-- Pops the heads of an inbound queue in the lanes of a mask (06 R185). -/
def Troupe.pop (T : Troupe) (q : Nat) (m : Mask) : Troupe :=
  { T with
    q := (lanesOf m).foldl (fun Q l => Q.set [] (32 * q + l) ((T.q.get [] (32 * q + l)).drop 1)) T.q
    poison := poppedUnits q m T.poison, flips := poppedUnits q m T.flips }

/-- Appends an entry to an inbound queue of a lane; `none` reserves it (06 R185). The write of the entry's word clears its
unit (08 R398). -/
def Troupe.push (T : Troupe) (q l : Nat) (x : Option Word) : Troupe :=
  let u := queueUnit q l (T.q.get [] (32 * q + l)).length
  { T with
    q := T.q.set [] (32 * q + l) (T.q.get [] (32 * q + l) ++ [x])
    poison := Marks.del T.poison u, flips := Marks.del T.flips u }

/-- Writes a uniform register of the issuing troupe. -/
def State.setS (s : State) (c : Ctx) (r : BitVec 6) (x : DWord) : State := s.onTrp c fun T => T.setS r.toNat x

/-- Writes a gate of the issuing troupe. -/
def State.setG (s : State) (c : Ctx) (k : Nat) (x : Bool) : State := s.onTrp c fun T => T.setG k x

/-- Writes a capability register of the issuing troupe. -/
def State.setC (s : State) (c : Ctx) (k : Nat) (x : CapReg) : State := s.onTrp c fun T => T.setC k x

/-- A change of registers that is not an instruction of the run in progress: it is kept when the run is abandoned. -/
def Troupe.both (T : Troupe) (f : Troupe → Troupe) : Troupe :=
  let T1 := f T
  { T1 with run := T1.run.map fun r =>
      let T0 := f { T with regs := r.saved, poison := r.poison, flips := r.flips }
      { r with saved := T0.regs, poison := T0.poison, flips := T0.flips } }

/-! ## Poison and single errors in registers (08 R214, R216, R398) -/

/-- The lane VGET and VPUT name (11 R276, R277). -/
def laneNamed (f : UW) (c : Ctx) : Nat := if f.bit 15 then f.f 4 0 else (c.sr f.a).toNat % 32

/-- The lanes whose registers an instruction reads: the lane VGET names, if it is live, else those it acts on. -/
def Ctx.readLanes (c : Ctx) (i : Instr) : Mask :=
  match i with
  | .vget f => (1#32 <<< laneNamed f c) &&& c.trp.lm
  | _ => c.guarded i

/-- The 32-bit units an instruction reads for lane `l`: lane registers and the fronts of queues. -/
def Ctx.laneUnits (c : Ctx) (i : Instr) (l : Nat) : List Nat :=
  (i.reads c.trp c.task.columns).flatMap fun u =>
    if u.1 = 0 then [32 * u.2 + l] else if u.1 = 6 then [queueUnit u.2 l 0] else []

/-- The units an instruction reads whatever the lane: predicates, and uniform registers, whole but for a 32-bit operand of a
lane instruction. -/
def Ctx.wholeUnits (c : Ctx) (i : Instr) : List Nat :=
  (i.reads c.trp c.task.columns).flatMap fun u =>
    if u.1 = 1 then [8192 + u.2]
    else if u.1 = 2 then
      if !i.isLane || i.operands.any (fun p => p.2 && p.1.toNat = 0x90 + u.2) then [4096 + 2 * u.2, 4097 + 2 * u.2]
      else [4096 + 2 * u.2]
    else []

/-- The lowest lane in which an instruction reads a poisoned unit; a unit without a lane counts for the lowest lane that
reads (0 for a uniform instruction with none). A lane instruction with no active lane reads nothing. -/
def Ctx.poisonRead (c : Ctx) (i : Instr) : Option Nat :=
  if c.trp.poison.isEmpty then none
  else
    let m := c.readLanes i
    if (!i.isLane || c.active != 0) && (c.wholeUnits i).any c.trp.poison.contains then some (lowLane m)
    else (lanesOf m).find? fun l => (c.laneUnits i l).any c.trp.poison.contains

/-- The units with a single error that an instruction reads (08 Table 8.1). -/
def Ctx.flipsRead (c : Ctx) (i : Instr) : List Nat :=
  c.trp.flips.filter fun u => (c.wholeUnits i).contains u || (lanesOf (c.readLanes i)).any fun l => (c.laneUnits i l).contains u

end Sys2Proof.Machine
end

