-- ==== Sys2Proof/Machine/Ops.lean ====
section
/-! DEFINITION. How an instruction word issues (10 R262, R253; 01 R36 to R38), how a fault is taken and left (08 R221), and
the shared shape of the lane instructions (12 R296). -/
namespace Sys2Proof.Machine

/-! ## Faults (08 R221) -/

/-- The `flt` word (01 Table 1.3). -/
def fltWord (f : Flt) (e : Nat) : DWord :=
  BitVec.ofNat 64 (f.code % 256 + f.lane % 32 * 2 ^ 8 + e % 8 * 2 ^ 13 + f.pc.toNat * 2 ^ 16 + f.detail % 2 ^ 16 * 2 ^ 48)

/-- A program fault is delivered: `flt` is written, the split is marked in-handler and goes on at the handler with its
owned set and `em` unchanged (08 R221). -/
def Troupe.deliver (T : Troupe) (e : Nat) (f : Flt) (retry skip trap : Word) : Troupe :=
  { T with
    flt := fltWord f e
    handler := some ⟨e, retry, skip⟩
    splits := T.splits.mod e fun S => { S with pc := trap, wait := .ready, only := none } }

/-- A fault is held until the split in the handler executes ERET (08 R221). -/
def Troupe.hold (T : Troupe) (e : Nat) (f : Flt) (retry skip : Word) : Troupe :=
  { T with
    held := T.held ++ [(e, f, retry, skip)]
    splits := T.splits.mod e fun S => { S with pc := retry, wait := .held, only := none } }

/-- Takes a fault of a split: POISON, MCHK and CKSUM go to containment (08 R216, R218); a program fault is delivered to the
handler, held while another split is in it, or kills the block (08 R219, R221). -/
def State.takeFault (s : State) (b t e : Nat) (r : Raise) (pc retry skip : Word) : State :=
  if r.code = 0x16 || r.code = 0x0C || r.code = 0x0D then s.contain b r.code r.detail
  else
    match s.trp? b t, (s.blocks.find b).bind fun B => s.tasks.find B.task with
    | some T, some K =>
      let f : Flt := ⟨r.code, r.lane, r.detail, pc⟩
      match T.handler with
      | none =>
        if K.launch.trp then s.modTrp b t fun T => T.deliver e f retry skip (BitVec.ofNat 32 K.launch.trap)
        else s.kill b r.code r.detail false
      | some h =>
        if h.entry = e then s.kill b r.code r.detail true
        else if K.launch.trp then s.modTrp b t fun T => T.hold e f retry skip
        else s.kill b r.code r.detail false
    | _, _ => s

/-- The return from a fault (08 R221): the split leaves the handler and resumes, by retry or by skip. -/
def Troupe.eret (T : Troupe) (h : Handler) (skip : Bool) : Troupe :=
  { T with
    handler := none
    splits := T.splits.mod h.entry fun S => { S with pc := if skip then h.skip else h.retry } }

/-- The earliest held fault is delivered once no split is in the handler (08 R221). -/
def Troupe.nextHeld (T : Troupe) (trap : Word) : Troupe :=
  match T.handler, T.held with
  | none, (e, f, retry, skip) :: r => { T with held := r }.deliver e f retry skip trap
  | _, _ => T

/-- A member that is gone counts as arrived, and a row born later in its lane is none (01 R34). -/
def Inst.prune (I : Inst) (t : Nat) (lm : Mask) : Inst := { I with members := I.members.mod t (· &&& lm) }

/-- The members still awaited in a troupe: live and not arrived. -/
def Inst.awaited (I : Inst) (t : Nat) (lm : Mask) : Mask := I.members.get 0 t &&& lm &&& ~~~(I.arrived.get 0 t)

/-- Whether every member has arrived or gone (01 R34). -/
def Block.allArrived (B : Block) (I : Inst) : Bool :=
  I.members.all fun (p : Nat × Mask) => match B.troupes.find p.1 with
    | some T => I.awaited p.1 T.lm = 0
    | none => true

/-- Takes exited lanes out of the members of the instances open over a troupe. -/
def State.prune (s : State) (b t : Nat) (lm : Mask) : State :=
  s.modBlk b fun B => { B with
    inst := B.inst.map (·.prune t lm)
    troupes := B.troupes.mod t fun T => { T with inst := T.inst.map (·.prune t lm) } }

/-- The trap handler of a block's kernel. -/
def State.trapOf (s : State) (b : Nat) : Word :=
  match (s.blocks.find b).bind fun B => s.tasks.find B.task with
  | some K => BitVec.ofNat 32 K.launch.trap
  | none => 0

/-- Re-evaluates a troupe after a split parked or `lm` changed: tokens complete (01 R30), a troupe with no lane ends (01
R32), and one in which no MEET can complete faults TOKEN, cause 3, on its youngest parked split (01 R31). Where the split in
the handler has exited there, the earliest held fault is delivered (08 R221). -/
def State.settleTrp (s : State) (b t : Nat) : State :=
  match s.trp? b t with
  | none => s
  | some T =>
    let T1 := T.settle.nextHeld (s.trapOf b)
    let s1 := (s.modTrp b t fun _ => T1).prune b t T1.lm
    if T1.lm = 0 then s1.reap b t
    else if T1.stuck then
      match T1.youngestSplit fun _ => true with
      | none => s1
      | some e => match T1.splits.find e with
        | none => s1
        | some S => match S.wait with
          | .meet k => s1.takeFault b t e ⟨0x09, 0, k + 24⟩ S.pc S.pc (S.pc + 1)
          | _ => s1
    else s1

/-! ## Runs (01 R36, 10 R253) -/

/-- A run begins at an instruction with H = 1 where none is in progress. -/
def Troupe.openRun (T : Troupe) (i : Instr) (e : Nat) (pc : Word) : Troupe :=
  match T.run with
  | some _ => T
  | none => if i.h then { T with run := some ⟨e, pc, 0, [], T.regs, T.poison, T.flips⟩ } else T

/-- A run is abandoned: its register writes are discarded (the flags it raised stay, 02 R66), with what they did to poison
and single errors, and its split goes back to its first word (01 R36, 10 R253). -/
def Troupe.abandon (T : Troupe) (e : Nat) : Troupe :=
  match T.run with
  | none => T
  | some r => { T with
      regs := { r.saved with nf := T.regs.nf }
      poison := r.poison
      flips := r.flips
      run := none
      splits := T.splits.mod e fun S => { S with pc := r.first } }

/-- A troupe stops at an instruction boundary: a run goes back to its first word (08 R230). -/
def Troupe.halt (T : Troupe) : Troupe :=
  match T.run with
  | some r => { T.abandon r.e with stopped := true }
  | none => { T with stopped := true }

/-- After a word has issued: the run goes on when H is set, and ends otherwise. -/
def Troupe.stepRun (T : Troupe) (i : Instr) : Troupe :=
  { T with run := if i.h then T.run.map fun r => { r with pos := r.pos + 1 } else none }

/-- A step command ends when the instruction or run it let issue has: `flt` takes code STEP and the next pc (08 R231). -/
def Troupe.endStep (T : Troupe) : Troupe :=
  match T.stepping, T.run with
  | some e, none => match T.splits.find e with
    | some S => { T with stepping := none, flt := fltWord ⟨0x15, 0, 0, S.pc⟩ e }
    | none => { T with stepping := none }
  | _, _ => T

/-- Whether a split waits at an instance of which every member has arrived. -/
def Block.atFullInst (B : Block) (T : Troupe) (S : Split) : Bool :=
  match S.wait with
  | .pop true true => B.inst.any B.allArrived
  | .pop false true => T.inst.any B.allArrived
  | _ => false

/-- The step of a split that owned some lanes ends where its word has moved it: at the split that has those lanes now. One
that was the last to arrive at an instance ends when the operation has executed (08 R231). -/
def State.stepEnds (s : State) (b t e : Nat) (own : Mask) : State :=
  match s.blocks.find b with
  | none => s
  | some B => match B.troupes.find t with
    | none => s
    | some T => match T.stepping, T.run with
      | some _, none =>
        let mine := T.splits.filter fun (p : Nat × Split) => p.2.own &&& own != 0
        match (mine.find? fun (p : Nat × Split) => p.1 = e).orElse fun _ => mine.head? with
        | none => s.modTrp b t fun T => { T with stepping := none }
        | some (x, S) =>
          if B.atFullInst T S then s
          else s.modTrp b t fun T => { T with stepping := none, flt := fltWord ⟨0x15, 0, 0, S.pc⟩ x }
      | _, _ => s

/-! ## Issue -/

/-- What an instruction's effect answers. -/
inductive Res where
  /-- the effect is done and the split goes to the next word -/
  | done (s : State)
  /-- the effect has set the split's pc and state itself -/
  | went (s : State)
  /-- the word has no effect yet: the split waits, and issues it again when it is ready -/
  | park (s : State)
  /-- the word cannot issue yet; nothing changes -/
  | stall
  /-- a fault; nothing is written -/
  | trap (r : Raise)
  deriving DecidableEq, Repr

/-- A change of the state an effect leaves, where it is not a fault. -/
def Res.map (f : State → State) : Res → Res
  | .done s => .done (f s)
  | .went s => .went (f s)
  | .park s => .park (f s)
  | .stall => .stall
  | .trap r => .trap r

end Sys2Proof.Machine

namespace Sys2Proof

/-- A cross-lane instruction at `.block` scope: a population instruction (01 R33). -/
def Instr.blockWide (i : Instr) : Bool :=
  match i with
  | .agree f | .elect f | .rank f | .red f | .scan f => f.m.getLsbD 7
  | _ => false

end Sys2Proof

namespace Sys2Proof.Machine

/-- The first word of the run in progress, or the word that issues. -/
def Ctx.first (c : Ctx) : Word := (c.trp.run.map Run.first).getD c.sp.pc

/-- The detail of an instance that would open inside a run (10 R253, Table 10.8): cause 10, rule 4, the word's position. -/
def Ctx.openInRun (c : Ctx) : Nat := 10 + 16 * 4 + 256 * (c.trp.run.map Run.pos).getD 0

/-- The causes of ILLEGAL a word raises as it issues, lowest first (10 Table 10.8): 8 a latch outside its run or not yet
written (01 R37), 9 a queue with no partner (01 R14), 10 an instance of the block that would open inside a run (10 R253), 11
also for words a handler may not issue (11 R279). -/
def Ctx.causes (c : Ctx) (i : Instr) : List Nat :=
  let lat := i.operands.any fun p => isLCode p.1 && decide (p.1.toNat - 0x80 ≥ c.trp.latches.length)
  let que := (i.pops || i.loadQ || match i with
    | .qpush _ => true
    | _ => false) && !c.task.launch.shd
  let inH := (c.trp.handler.map Handler.entry) = some c.e && (i.blockWide || match i with
    | .brd _ | .tok _ | .meet _ | .group _ | .build _ | .join _ | .expand _ | .repack _ | .rcount _ => true
    | _ => false)
  [(i.unused, 3), (i.badOperand, 4), (i.badReg c.nregs, 5), (i.badModifier, 6), (i.badN, 7), (lat, 8), (que, 9),
    (i.blockWide && i.h && c.blk.inst.isNone, c.openInRun), (i.badRule || inH, 11)].filterMap fun (p : Bool × Nat) => if p.1 then some p.2 else none

end Sys2Proof.Machine

namespace Sys2Proof

/-- Instructions that wait for the loads their troupe has in flight: those that order or release its accesses (05 R141,
R147, R160), retire or move its rows, act on the block as a population (05 R157), act at the slice port in troupe order (14
R374), or write as the block's stores do what a load may still have to read (14 R376, 05 R149). -/
def Instr.waitsLoads (i : Instr) : Bool :=
  match i with
  | .exit _ | .fence _ | .arrive _ | .wait _ | .tryw _ | .commit _ | .post _ | .bintake _ | .send _ | .recv _
  | .clkrd _ | .group _ | .build _ | .join _ | .expand _ | .repack _ | .rcount _ | .eapp _ | .eadv _ | .pub _ | .mrel _
  | .ckgen _ | .ckver _ | .ckrd _ | .sqcfg _ | .sqload _ | .sqstg _ | .sqdec _ | .sqhis _ => true
  | _ => i.blockWide

/-- Uniform instructions that use an adder, a shifter or a multiplier of the uniform pipe, which mod-3 residues check (08
Table 8.1). Which instructions those are is DEDUCED from what they compute (log 16). -/
def Instr.residue (i : Instr) : Bool :=
  match i with
  | .sadd _ | .ssub _ | .smul _ | .smulh _ | .sshl _ | .sshr _ | .ssar _ | .saddI _ | .sshlI _ | .sshrI _ | .dbnz _ => true
  | _ => false

end Sys2Proof

namespace Sys2Proof.Machine

/-- Whether an operand or the destination waits for a load in flight (01 R38). -/
def Ctx.interlock (c : Ctx) (i : Instr) : Bool :=
  !c.trp.loads.isEmpty &&
    (i.waitsLoads ||
      c.trp.loads.any fun (p : Nat × Load) => p.2.queue.isNone &&
        ((i.reads c.trp c.task.columns) ++ i.writes c.trp c.task.columns).any fun (u : Use) =>
          u.1 = 0 && decide (p.2.d ≤ u.2) && decide (u.2 < p.2.d + p.2.words))

/-- The pages of table entries that an instruction lacks: of the capability registers it reads, whose entries' F bits check 2
looks at (07 R196, R204). -/
def State.tagLacks (s : State) (c : Ctx) (i : Instr) : List (Nat × Xlate) :=
  (i.reads c.trp c.task.columns).flatMap fun u =>
    if u.1 = 4 then match (c.cap u.2).tag with
      | some k => s.waLacks c.blk.core c.task.part (c.task.entryAt k) 32 false
      | none => []
    else []

/-- Whether a word waits for what other splits of the troupe have issued and left unfinished, parked on pages (07 R205):
CLKRD for all of it (11 R294), VGET and VPUT for what writes, or reads, their register in the lane they name (11 R276, 01
R38). -/
def State.trails (s : State) (c : Ctx) (i : Instr) : Bool :=
  c.trp.splits.any fun (p : Nat × Split) => p.1 ≠ c.e && match p.2.wait with
    | .page _ _ _ _ _ m => match i with
      | .clkrd _ => true
      | .vget f | .vput f => m.getLsbD (laneNamed f c) && match s.fetch c.task p.2.pc.toNat with
        | .error _ => false
        | .ok j => (i.reads c.trp c.task.columns).any (fun u => u.1 = 0 && (j.writes c.trp c.task.columns).contains u) ||
            (i.writes c.trp c.task.columns).any fun u => u.1 = 0 &&
              (j.reads c.trp c.task.columns ++ j.writes c.trp c.task.columns).contains u
      | _ => false
    | _ => false

/-- Whether nothing of other splits, and no absent page of its capabilities' table entries, holds a word up. -/
def State.unheld (s : State) (c : Ctx) (i : Instr) : Bool := !s.trails c i && (s.tagLacks c i).isEmpty

/-- The lanes at which a check of the lane pipes fails while datapath `p` is in error (08 R215). -/
def pipeHits (chk : BitVec 2) (m : Mask) (p : Nat) : List Nat :=
  if chk = 1 then (((lanesOf m).zip (lanesOf (~~~m))).filter fun (x : Nat × Nat) => x.1 = p || x.2 = p).map Prod.fst
  else if chk = 2 then (lanesOf m).filter fun l => l = p || l = (p + 31) % 32
  else []

/-- The checks of the lane pipes and of the uniform pipe (08 R214, R215): the lane at which an error that stays faults
MCHK; or whether a passing error has been repeated away, and the state then. -/
def State.pipeCheck (s : State) (c : Ctx) (i : Instr) : Except Nat (Bool × State) :=
  if i.isLane then
    match (s.core c.blk.core).pipe with
    | none => .ok (false, s)
    | some (p, stays) => match pipeHits c.trp.chk (c.guarded i) p with
      | [] => .ok (false, s)
      | l :: _ =>
        if stays then .error l
        else .ok (true, (s.modCore c.blk.core fun C => { C with pipe := none }).corrected c.blk.core 1)
  else match (s.core c.blk.core).upipe with
    | none => .ok (false, s)
    | some stays =>
      if !i.residue then .ok (false, s)
      else if stays then .error 0
      else .ok (true, (s.modCore c.blk.core fun C => { C with upipe := none }).corrected c.blk.core 1)

/-- The single errors an instruction meets in the registers it reads are corrected and counted (08 Table 8.1). -/
def State.readFlips (s : State) (c : Ctx) (i : Instr) : Bool × State :=
  match c.flipsRead i with
  | [] => (false, s)
  | us => (true, (s.onTrp c fun T => { T with flips := T.flips.filter fun u => !us.contains u }).corrected c.blk.core us.length)

/-- An operation of the block that could not be delivered faults its next memory instruction, commit point or
WAIT on a remote guard (08 R224). -/
def Ctx.unreachable (c : Ctx) : Option Raise := c.blk.unreach.map fun p => ⟨0x17, 0, p⟩

/-- A fault of the issuing split: its run is abandoned, and the step command that let it issue ends (08 R231; `flt` keeps
the fault, DESIGN CHOICE, log 56); ERET retries at the run's first word and skips past its last (01 R36, 08 R221, R222). -/
def State.raiseFault (s : State) (c : Ctx) (r : Raise) (pc : Word) : State :=
  let first := c.first
  let fuel := s.mem.codeLen.get 0 (2 ^ 24 * c.task.part + c.task.launch.code)
  let skip := BitVec.ofNat 32 (s.runEnd c.task fuel first.toNat)
  let s1 := s.onTrp c fun T => { T.abandon c.e with stepping := none }
  let s2 := if r.code = 0x17 then s1.modBlk c.b fun B => { B with unreach := none } else s1
  s2.takeFault c.b c.t c.e r pc first (if skip = first then first + 1 else skip)

/-- The split goes to the word after the instruction. -/
def State.advance (s : State) (c : Ctx) (i : Instr) : State :=
  s.onSplit c fun S => { S with pc := c.sp.pc + BitVec.ofNat 32 i.size, only := none }

/-- What follows an effect. A split that waits ends its step; one that stays ready has not issued its word (08 R231). -/
def State.finish (s : State) (c : Ctx) (i : Instr) : Res → State
  | .done s1 => (s1.advance c i).onTrp c fun T => (T.stepRun i).endStep
  | .went s1 => ((s1.onTrp c fun T => { T with run := none }).settleTrp c.b c.t).stepEnds c.b c.t c.e c.sp.own
  | .park s1 => s1.onTrp c fun T =>
    let T1 := T.abandon c.e
    if (T1.splits.find c.e).any fun S => S.wait = .ready then T1 else T1.endStep
  | .stall => s
  | .trap r => s.raiseFault c r (if r.code = 0x01 && r.detail % 16 = 10 then c.first else c.sp.pc)

/-- The issuing split once the run its word may begin is open. -/
def Ctx.opened (c : Ctx) (i : Instr) : Ctx := { c with trp := c.trp.openRun i c.e c.sp.pc }

/-- The word cannot issue: nothing changes, and no split issues in this step (01 R38, 06 R179). -/
def State.noIssue (s : State) : State := { s with cur := none }

/-- Issues an instruction word for the issuing split: ILLEGAL by its lowest cause, else interlocks, poison, the checks of
the pipes and of the registers read, and the effect. COR is raised where an error was corrected, unless the effect is a
fault (02 R66, 08 R214). -/
def State.issueWord (s : State) (i : Instr) (eff : Ctx → State → Res) : Host.Outcome State Fault Refusal :=
  match s.focus? with
  | none => .fault .noSplit
  | some c =>
    match (c.causes i).head? with
    | some k => .next (s.raiseFault c ⟨0x01, 0, k⟩ (if k % 16 = 10 then c.first else c.sp.pc))
    | none =>
      if c.interlock i || s.trails c i then .next s.noIssue
      else if !(s.tagLacks c i).isEmpty then
        .next (s.finish c i (.park (s.parkPages c (s.tagLacks c i) false c.active)))
      else match c.poisonRead i with
        | some l => .next (s.raiseFault c ⟨0x16, l, 0⟩ c.sp.pc)
        | none => match s.pipeCheck c i with
          | .error l => .next (s.raiseFault c ⟨0x0C, l, 0⟩ c.sp.pc)
          | .ok (cor, sp) =>
            let (met, s0) := sp.readFlips c i
            let s1 := s0.onTrp c fun T => T.openRun i c.e c.sp.pc
            match eff (c.opened i) s1 with
            | .stall => .next s.noIssue
            | r => .next (s1.finish (c.opened i) i (if cor || met then r.map fun s => s.raise c fCOR else r))

/-- The write pointer of a copy channel as a block reads it: the bytes landed since the block started (04 R124). -/
def State.writePtr (s : State) (c : Ctx) (ch : Nat) : DWord :=
  (s.core c.blk.core).cwp.get 0 ch - c.blk.cwpBase.get 0 ch

/-- COR where errors were met. -/
def State.raiseMet (s : State) (c : Ctx) (met : Bool × State) : State := if met.1 then met.2.raise c fCOR else s

/-- Single errors met by an access of a slice are corrected: COR, and `cor` counts them (08 Table 8.1). -/
def State.meetFlips (s : State) (c : Ctx) (a n : Nat) : State := s.raiseMet c (s.correctSlice c.blk.core a n)

/-! ## Lane instructions -/

/-- Where a lane instruction's result goes: a lane register (or pair), or a predicate. -/
inductive Dst where
  | v (pair : Bool) (r : Nat)
  | p (k : Nat)
  deriving DecidableEq, Repr

/-- The width of a result. -/
def Dst.bits : Dst → Nat
  | .v true _ => 64
  | _ => 32

/-- What lane `l` delivers: the datapath in error delivers a free value where nothing checks it (08 R215). -/
def State.pipeOut (s : State) (c : Ctx) (l x : Nat) : Nat :=
  match (s.core c.blk.core).pipe with
  | some (p, _) => if p = l then (Config.badWord s.tick l).toNat else x
  | none => x

/-- A passing error of a datapath is over once an instruction has used it. -/
def State.pipePass (s : State) (c : Ctx) (m : Mask) : State :=
  match (s.core c.blk.core).pipe with
  | some (p, false) => if m.getLsbD p then s.modCore c.blk.core fun C => { C with pipe := none } else s
  | _ => s

end Sys2Proof.Machine

namespace Sys2Proof

/-- The queues the operands of an instruction pop (10 R247). -/
def Instr.popped (i : Instr) : List Nat :=
  ((i.operands.filter fun p => isQCode p.1).map fun p => p.1.toNat - 0x88).eraseDups

end Sys2Proof

namespace Sys2Proof.Machine

/-- Whether lane `l` of the partner of a troupe is live. -/
def Ctx.partnerLive (c : Ctx) (l : Nat) : Bool :=
  match c.blk.troupes.find c.partner with
  | some T => T.lm.getLsbD l
  | none => false

/-- A pop waits as a whole while a lane's FIFO has nothing to read, and faults QDRY where any queue it pops is empty in a lane
and the partner's lane is gone (06 R185). -/
def Ctx.popWait (c : Ctx) (i : Instr) (m : Mask) (s : State) : Option Res :=
  let lack (q l : Nat) : Bool := (c.trp.front q l).isNone
  let dry (q l : Nat) : Bool := (c.trp.q.get [] (32 * q + l)).isEmpty && !c.partnerLive l
  match i.popped.find? fun q => (lanesOf m).any fun l => lack q l with
  | none => none
  | some q => match (lanesOf m).find? fun l => i.popped.any fun q => dry q l with
    | some l => some (.trap ⟨0x10, l, 0⟩)
    | none => some (.park (s.onSplit c fun S => { S with wait := .queue q false m }))

/-- Pops the queues an instruction reads. -/
def Troupe.pops (T : Troupe) (i : Instr) (m : Mask) : Troupe := i.popped.foldl (fun T q => T.pop q m) T

/-- Pushes a result into the latches of a run (01 R37). -/
def Troupe.latch (T : Troupe) (i : Instr) (x : Lanes DWord) : Troupe :=
  if i.h then { T with run := T.run.map fun r => { r with latches := (x :: r.latches).take 4 } } else T

/-- Writes a lane instruction's results: with N = 1 to `L0` only (10 R255). -/
def Troupe.result (T : Troupe) (i : Instr) (d : Dst) (m : Mask) (out : Nat → Nat) : Troupe :=
  if i.n then T
  else match d with
    | .v pair r => T.setVs pair r m out
    | .p k => T.setP k m (maskOf fun l => out l = 1)

/-- What the latch of the issuing word holds in a lane in which it is not active (01 R37). -/
def Ctx.idle (c : Ctx) (l : Nat) : DWord :=
  Config.idleLatch ([c.blk.id, c.t, c.active.toNat] ++ c.trp.latches.flatMap fun x => x.map BitVec.toNat) c.sp.pc.toNat l

/-- A lane instruction (12 R296): `f` gives, for each active lane, its result and flags. -/
def laneFx (i : Instr) (d : Dst) (f : Ctx → Nat → Nat × Flags) (c : Ctx) (s : State) : Res :=
  let m := c.guarded i
  match c.popWait i m s with
  | some r => r
  | none =>
    let out (l : Nat) : Nat := s.pipeOut c l (f c l).1 % 2 ^ d.bits
    let fl := (lanesOf m).foldl (fun g l => g ||| (f c l).2) 0
    let s1 := s.onTrp c fun T =>
      ((T.pops i m).result i d m out).latch i
        (Lanes.of fun l => if m.getLsbD l then BitVec.ofNat 64 (out l) else c.idle l)
    .done ((s1.raise c fl).pipePass c m)

/-- A uniform instruction that only writes a uniform register. -/
def uniFx (d : BitVec 6) (f : Ctx → DWord) (c : Ctx) (s : State) : Res := .done (s.setS c d (f c))

end Sys2Proof.Machine
end

