-- ==== Sys2Proof/Machine/Sync.lean ====
section
/-! DEFINITION. Guards, fences and commits (13 R344 to R349; 04 R111 to R118; 05 R138 to R147). -/
namespace Sys2Proof.Machine

/-! ## Guard operands -/

/-- The checks of a guard operand: kind 3, validity, a right, the 32 bytes of the guard, and alignment (07 R196, 13 R344, 04
R111). -/
def State.guardFault (s : State) (c : Ctx) (r : CapReg) (right : BitVec 12) : Option Raise :=
  (s.objFault c r [3] right 32).orElse fun _ => if r.at % 32 = 0 then none else some ⟨0x07, 0, 0⟩

/-- An exposing operation ends the relaunch window (08 R217). -/
def State.expose (s : State) (c : Ctx) : State := s.modBlk c.b fun B => { B with window := false }

/-- A guard operation: here at once, in another package a sequenced operation (04 R115). -/
def State.atGuard (s : State) (b g : Nat) (op : FabOp) (f : State → State) : State :=
  if s.here g then f s else s.send (pkgOfSlice g) b op

/-- Whether a release of the block is still to arrive on a guard: later operations on it wait behind (05 R146). -/
def Block.arriving (B : Block) (g : Nat) : Bool :=
  B.releases.any fun r => match r.2.act with
    | .arrive g' _ => g' = g
    | .send _ => false

/-! ## Releases (05 R141) -/

/-- A release begins: the seal, the drain; the write-back and the arrival follow as RELEASE_ARRIVAL. -/
def State.startRelease (s : State) (b : Nat) (regions : List Region) (act : Then) : State :=
  (((s.seal b).commit b).bump).modBlk b fun B => { B with releases := B.releases.put s.fresh ⟨s.fresh + 1, regions, act⟩ }

/-- Whether a release's drain is done, and no earlier one goes to the same guard or channel. -/
def Block.mayArrive (B : Block) (id : Nat) (r : Release) : Bool :=
  (B.buf.all fun e => e.1 ≥ r.limit) && !B.owesBack && B.releases.all fun q => q.1 ≥ id || match q.2.act, r.act with
    | .arrive g _, .arrive g' _ => g ≠ g'
    | .send m, .send m' => m.part ≠ m'.part || m.obj ≠ m'.obj
    | _, _ => true

/-- Whether a release may go on (05 R141): its drain is done and what it covers accepted, also in other packages; and
operations on its guard that issued before it have gone. -/
def State.mayArrive (s : State) (b : Nat) (B : Block) (id : Nat) (r : Release) : Bool :=
  B.mayArrive id r && !s.unacked b (fun x => decide (x.ent < r.limit)) && match r.act with
    | .arrive g _ => !s.crossing b g true
    | .send _ => true

/-- Whether an operation on a guard waits for earlier ones of the block on it (05 R146). -/
def State.behind (s : State) (c : Ctx) (g : Nat) (numbered : Bool) : Bool :=
  c.blk.arriving g || s.crossing c.b g numbered

/-- The counting fields of a guard, as places and lengths from its first byte: what an arrival reads (04 Table 4.3). -/
def countFields : List (Nat × Nat) := [(0, 16), (30, 2)]

/-- What an instruction reads of a guard or a chain is checked: poison is consumed (08 R216), and single errors are corrected (08
Table 8.1). -/
def State.readSlice (s : State) (c : Ctx) (g : Nat) (ps : List (Nat × Nat)) : Option State :=
  if ps.any fun p => s.slicePoisoned (g + p.1) p.2 then none
  else some (ps.foldl (fun s p => s.meetFlips c (g + p.1) p.2) s)

/-- Whether the binding list of a guard is poisoned (08 R216). -/
def State.listPoisoned (s : State) (g : Nat) : Bool := s.slicePoisoned (s.bindList g) (16 * min (s.bound g) 8)

/-- The same for what an acquire or a release reads of a guard: the fields `ps`, its list's word and the list. -/
def State.readBound (s : State) (c : Ctx) (g : Nat) (ps : List (Nat × Nat)) : Option State :=
  if s.listPoisoned g then none else s.readSlice c g (ps ++ [(20, 4)])

/-- A guard operation issued once its operand checks hold, behind the earlier ones; `numbered` says whether, to another
package, it is a remote arrival; `ps` names what it reads of the guard. -/
def guardFx (f : UW) (right : BitVec 12) (numbered : Bool) (ps : List (Nat × Nat)) (act : CapReg → Ctx → State → Res) (c : Ctx)
    (s : State) : Res :=
  let r := c.cap f.cN
  match s.guardFault c r right with
  | some e => .trap e
  | none =>
    if s.behind c r.at numbered then .stall
    else match s.readSlice c r.at ps with
      | none => .trap ⟨0x16, 0, 0⟩
      | some s1 => act r c s1

/-! ## ARRIVE, EXPECT, GFLG (13 R346, R348) -/

/-- ARRIVE. -/
def execArrive (f : UW) (s : State) : Host.Outcome State Fault Refusal :=
  s.issueWord (.arrive f) fun c s =>
    let r := c.cap f.cN
    let n := if f.f 7 0 = 0 then (c.sr f.a).toNat else f.f 7 0
    match (if f.bit 8 then c.unreachable else none).orElse fun _ => s.guardFault c r 0x008#12 with
    | some e => .trap e
    | none =>
      if n > 65535 then .trap ⟨0x11, 0, 0⟩
      else if f.bit 8 then match s.readBound c r.at [] with
        | none => .trap ⟨0x16, 0, 0⟩
        | some s1 => .done (s1.startRelease c.b (s1.bindings r.at) (.arrive r.at n))
      else if s.behind c r.at true then .stall
      else match s.readSlice c r.at countFields with
        | none => .trap ⟨0x16, 0, 0⟩
        | some s1 => .done ((s1.arriveAt c.b r.at n 0).expose c)

/-- EXPECT. -/
def execExpect (f : UW) (s : State) : Host.Outcome State Fault Refusal :=
  s.issueWord (.expect f) (guardFx f 0x008#12 true countFields fun r c s =>
    let n := (c.sr f.a).toNat
    if n ≥ 2 ^ 31 then .trap ⟨0x11, 0, 0⟩ else .done ((s.expectAt c.b r.at n).expose c))

/-- GFLG. On a guard of another package it goes as an arrival of 0, numbered with the remote arrivals to that guard: DESIGN
CHOICE (log 62), since R115 names arrivals, landings and EXPECT only. -/
def execGflg (f : UW) (s : State) : Host.Outcome State Fault Refusal :=
  s.issueWord (.gflg f) (guardFx f 0x008#12 true [(16, 2)] fun r c s =>
    let x := if f.bit 8 then c.trp.regs.nf else (c.sr f.a).setWidth 16
    .done ((s.atGuard c.b r.at (.arrive r.at 0 (x &&& 0x03FF#16).toNat) fun s => s.guardFlags r.at x).expose c))

/-! ## GINIT, GBIND, GUNB (13 R345, R348) -/

/-- GINIT: the block's buffered entries in the 416 bytes are drained first. What the waiters of a guard in another package read
as here is free (09 R236), and its guard unit tests them again (log 76). -/
def execGinit (f : UW) (s : State) : Host.Outcome State Fault Refusal :=
  s.issueWord (.ginit f) (guardFx f 0x200#12 false [(28, 2)] fun r c s =>
    let g := r.at
    let a := (c.sr f.a).toNat
    let n := (c.sr f.b).toNat
    if a ≥ 2 ^ 16 || decide (n ≥ 2 ^ 31) || decide (g % 2 ^ 22 + 416 > sliceBytes) || s.sliceNat (g + 28) 2 ≠ 0
    then .trap ⟨0x11, 0, 0⟩
    else
      let s1 := s.drainRange c.b .slice g 416
      let left := match s1.blocks.find c.b with
        | some B => !(bufTouch B.buf .slice g 416).isEmpty
        | none => false
      if left then .park s1
      else .done (((s1.atGuard c.b g (.ginit g a n c.blk.task) fun s => s.initGuard g c.blk.task a n).farGuard c.blk.task g).expose
        c))

/-- The binding entry of a region capability (04 Table 4.5). -/
def bindOf (r : CapReg) : Nat :=
  r.base + r.len * 2 ^ 36 + (if r.kind = 1 then r.obj else 0) * 2 ^ 72 + r.kind * 2 ^ 96

/-- Appends a binding entry, unless it is there; the first sets the list's offset. -/
def State.addBind (s : State) (g x : Nat) : State :=
  let n := s.bound g
  if (List.range n).any fun i => s.bindEntry g i = x then s
  else
    let off := if n = 0 then g % 2 ^ 22 + 288 else bits (s.sliceNat (g + 20) 4) 21 0
    let s1 := s.sliceSet (g + 20) 4 (off + (n + 1) * 2 ^ 22)
    s1.sliceSet (s1.bindList g + 16 * n) 16 x

/-- Removes a binding entry, or all, closing up the list. -/
def State.dropBind (s : State) (g : Nat) (x : Option Nat) : State :=
  let n := s.bound g
  let keep := match x with
    | none => []
    | some y => ((List.range n).map fun i => s.bindEntry g i).filter (· ≠ y)
  let s1 := (keep.zip (List.range keep.length)).foldl (fun s p => s.sliceSet (s.bindList g + 16 * p.2) 16 p.1) s
  s1.sliceSet (g + 20) 4 (bits (s.sliceNat (g + 20) 4) 21 0 + keep.length * 2 ^ 22)

/-- GBIND. The binding list of a guard in another package reads here as free values (09 R236), and its guard unit tests it again
(log 76). -/
def execGbind (f : UW) (s : State) : Host.Outcome State Fault Refusal :=
  s.issueWord (.gbind f) (guardFx f 0x200#12 false [(20, 4)] fun r c s =>
    let m := c.cap f.cM
    match s.capFault c m [1, 2] 0x200#12 with
    | some e => .trap e
    | none =>
      let x := bindOf m
      if s.listPoisoned r.at then .trap ⟨0x16, 0, 0⟩
      else if s.bound r.at ≥ 8 && !(List.range 8).any fun i => s.bindEntry r.at i = x then .trap ⟨0x11, 0, 0⟩
      else .done ((s.atGuard c.b r.at (.gbind r.at x) fun s => s.addBind r.at x).expose c))

/-- GUNB. -/
def execGunb (f : UW) (s : State) : Host.Outcome State Fault Refusal :=
  s.issueWord (.gunb f) (guardFx f 0x200#12 false [(20, 4)] fun r c s =>
    let m := c.cap f.cM
    match (if f.bit 8 then none else s.capFault c m [1, 2] 0x200#12) with
    | some e => .trap e
    | none =>
      let x := if f.bit 8 then none else some (bindOf m)
      if s.listPoisoned r.at then .trap ⟨0x16, 0, 0⟩
      else .done ((s.atGuard c.b r.at (.gunb r.at x) fun s => s.dropBind r.at x).expose c))

/-! ## WAIT and TRYW (13 R347) -/

/-- A WAIT on a guard of another package faults where an operation of the block could not be delivered (08 R224). -/
def State.waitFault (s : State) (c : Ctx) (r : CapReg) : Option Raise :=
  (if s.here r.at then none else c.unreachable).orElse fun _ => s.guardFault c r 0x010#12

/-- WAIT: behind the block's pending releases on the guard (05 R160), it returns at once where the phase condition holds, and
else parks and is counted as a waiter (04 R114). -/
def execWait (f : UW) (s : State) : Host.Outcome State Fault Refusal :=
  s.issueWord (.wait f) fun c s =>
    let r := c.cap f.cN
    let n := if f.bit 8 then f.f 7 0 else (c.sr f.a).toNat % 2 ^ 32
    match s.waitFault c r with
    | some e => .trap e
    | none =>
      if c.blk.arriving r.at then .stall
      else match s.readBound c r.at [(0, 4)] with
      | none => .trap ⟨0x16, 0, 0⟩
      | some s =>
        if s.phaseHolds r.at n then .done (s.acquire c.blk.core c.task.part r.at)
        else .went ((s.waiters c.b r.at true).onSplit c fun S => { S with wait := .guard r.at n, only := none })

/-- TRYW: a timeout of 0 tests once. -/
def execTryw (f : UW) (s : State) : Host.Outcome State Fault Refusal :=
  s.issueWord (.tryw f) fun c s =>
    let r := c.cap f.cN
    let n := (c.sr f.a).toNat % 2 ^ 32
    let t := (c.sr f.b).toNat % 2 ^ 32
    let g := (f.d.extractLsb' 0 3).toNat
    match s.waitFault c r with
    | some e => .trap e
    | none =>
      if c.blk.arriving r.at then .stall
      else match s.readBound c r.at [(0, 4)] with
      | none => .trap ⟨0x16, 0, 0⟩
      | some s =>
        if s.phaseHolds r.at n then .done ((s.acquire c.blk.core c.task.part r.at).setG c g true)
        else if t = 0 then .done (s.setG c g false)
        else .went ((s.waiters c.b r.at true).onSplit c fun S =>
          { S with wait := .tryw r.at n g (s.ctl.clk.toNat + t), only := none })

/-- A split that a guard held goes on past its WAIT or TRYW, with the gate TRYW writes. -/
def State.unwait (s : State) (b t e g : Nat) (gate : Option (Nat × Bool)) : State :=
  ((s.waiters b g false).modSplit b t e fun S => { S with wait := .ready, pc := S.pc + 2 }).modTrp b t fun T =>
    match gate with
    | some (k, x) => T.both fun T => T.setG k x
    | none => T

/-- Acquires on a guard for the core of a block (05 R142). -/
def State.acquireFor (s : State) (b g : Nat) : State :=
  match s.blocks.find b with
  | some B => match s.tasks.find B.task with
    | some K => s.acquire B.core K.part g
    | none => s
  | none => s

/-- The wait of a split. -/
def State.waitOf (s : State) (b t e : Nat) : Wait := (((s.trp? b t).bind fun T => T.splits.find e).map Split.wait).getD .ready

/-- GUARD_WAKE: a waiter whose phase has come acquires and goes on (04 R114), and one that finds it poisoned consumes the
error (08 R216); a RECV.wait issues again when its channel
holds a message. -/
def execGuardWake (b t e : Nat) (s : State) : Host.Outcome State Fault Refusal :=
  match s.waitOf b t e with
  | .guard g n =>
    if s.slicePoisoned g 4 then .next (s.contain b 0x16 0)
    else if s.phaseHolds g n then .next ((s.acquireFor b g).unwait b t e g none).tock else .next s.tock
  | .tryw g n k _ =>
    if s.slicePoisoned g 4 then .next (s.contain b 0x16 0)
    else if s.phaseHolds g n then .next ((s.acquireFor b g).unwait b t e g (some (k, true))).tock else .next s.tock
  | .recv _ _ => .next (s.modSplit b t e fun S => { S with wait := .ready })
  | _ => .next s

/-- TRYW_TIMEOUT: the deadline has passed; the gate is written 0 and nothing is acquired. -/
def execTrywTimeout (b t e : Nat) (s : State) : Host.Outcome State Fault Refusal :=
  match s.waitOf b t e with
  | .tryw g _ k dl => if s.ctl.clk.toNat ≥ dl then .next (s.unwait b t e g (some (k, false))) else .next s
  | _ => .next s

/-! ## FENCE and COMMIT (05 R139, R147) -/

/-- FENCE: a separator in the store buffer; wider than `.core`, dirty lines are written back at the drain and every clean
line of the core's cache is dropped. -/
def execFence (f : UW) (s : State) : Host.Outcome State Fault Refusal :=
  s.issueWord (.fence f) fun c s =>
    let far := f.f 11 9 ≠ 1
    let s1 := s.modBlk c.b fun B => { B with epoch := B.epoch + 1, fences := if far then B.fences ++ [B.epoch] else B.fences }
    .done (if far then s1.invalidate c.blk.core fun _ => true else s1)

/-- COMMIT: the split is held until every entry of the block's buffer has been accepted at its home. -/
def execCommit (f : UW) (s : State) : Host.Outcome State Fault Refusal :=
  s.issueWord (.commit f) fun c s =>
    match c.unreachable with
    | some e => .trap e
    | none =>
      let s1 := s.commit c.b
      if c.blk.buf.isEmpty && c.blk.fences.isEmpty && !s.unacked c.b (fun x => x.op.stores) then .done s1
      else .went (s1.onSplit c fun S => { S with wait := .commit s.fresh, only := none })

/-- STORE_ENTRY_DRAIN: an entry drains, or with no such entry the write-back that a separator is owed is made (05 R147). -/
def execStoreEntryDrain (b id : Nat) (s : State) : Host.Outcome State Fault Refusal :=
  match s.blocks.find b with
  | none => .next s
  | some B => match B.buf.find id with
    | none => .next (s.fenceBack b)
    | some e => if s.mayDrain b B.buf id e then .next (s.drain b id) else .next s

end Sys2Proof.Machine
end

