-- ==== Sys2Proof/Machine/Bins.lean ====
section
/-! DEFINITION. Job cards and bins (06 R172 to R177, 18 R392), CLKRD and OTINV (11 R292 to R295; 07 R201, R206). -/
namespace Sys2Proof.Machine

/-! ## Bins -/

/-- An armed bin of a core. -/
def State.bin (s : State) (core n : Nat) : Option Bin := (s.core core).bins.find n

/-- Changes a bin. -/
def State.modBin (s : State) (core n : Nat) (f : Bin → Bin) : State :=
  s.modCore core fun C => { C with bins := C.bins.mod n f }

/-- The records a bin and its overflow ring hold, in acceptance order. -/
def Bin.held (B : Bin) : List (List Word) := B.records ++ B.overflow

/-- A bin with these records: 256 in the slice, the rest in the ring (06 R172), from which those that have left or moved up
are gone. -/
def Bin.put (B : Bin) (xs : List (List Word)) : Bin :=
  { B with records := xs.take 256, overflow := xs.drop 256, head := B.head + (B.overflow.length - (xs.length - 256)) }

/-- The word address of the ring's `i`-th record: 32 bytes for each, lowest word first (DESIGN CHOICE, log 63; the spec gives
no layout). -/
def Bin.place (B : Bin) (i : Nat) : Nat := B.ring + 32 * ((B.head + i) % max B.ringCap 1)

/-- The partition of a bin's task. -/
def State.binPart (s : State) (B : Bin) : Nat := ((s.tasks.find B.task).map Task.part).getD 0

/-- The records a bin holds, in acceptance order: those in the ring as its memory holds them. -/
def State.binHeld (s : State) (B : Bin) : List (List Word) :=
  B.records ++ (B.overflow.zip (List.range B.overflow.length)).map fun x =>
    match s.waRead (s.binPart B) (B.place x.2) (4 * x.1.length) with
    | some bs => (List.range x.1.length).map fun j => BitVec.ofNat 32 (leNat ((bs.drop (4 * j)).take 4))
    | none => x.1

/-- Writes the records of a bin's ring from the `n`-th on to the ring's memory. -/
def State.binSpill (s : State) (B : Bin) (n : Nat) : State :=
  ((B.overflow.zip (List.range B.overflow.length)).drop n).foldl (fun s x =>
    s.waWrite (s.binPart B) (B.place x.2) (x.1.flatMap fun w => leBytes 4 w.toNat)) s

/-- How many more records a bin takes. -/
def Bin.room (B : Bin) : Nat := 256 + B.ringCap - B.held.length

/-- The most records a block of a bin's task takes. -/
def State.binMost (s : State) (B : Bin) : Nat := ((s.tasks.find B.task).map fun K => 32 * K.launch.troupes).getD 32

/-- The core a bin's block is placed on: its own if it has room, else as 06 R170. -/
def State.binCore (s : State) (core : Nat) (K : Task) : Option Nat :=
  if s.room core K.launch then some core
  else (s.ctl.parts.find K.part).bind fun P => s.chooseCore P K.launch

/-- Launches one block from a bin's first `n` records; none where no core has room (06 R176). The timer restarts if
records are left. The block acquires from the POSTs (05 R156). -/
def State.binLaunch (s : State) (core b n : Nat) : Option State :=
  match s.bin core b with
  | none => none
  | some B => match s.tasks.find B.task with
    | none => none
    | some K => match s.ctl.parts.find K.part with
      | none => none
      | some _ =>
        (s.binCore core K).map fun c =>
          let held := s.binHeld B
          let rest := held.drop n
          let s1 := s.modBin core b fun B => { B.put rest with
            launched := B.launched + 1
            deadline := if rest.isEmpty || B.timer = 0 then none else some (s.ctl.clk.toNat + B.timer) }
          (s1.invalidate c fun _ => true).placeOn B.task c (some (held.take n)) false

/-- Launches blocks while a bin holds its count and a core has room (06 R176). -/
def State.binFill (core b : Nat) : Nat → State → State
  | 0, s => s
  | n + 1, s => match s.bin core b with
    | some B =>
      if B.held.length ≥ B.count then
        match s.binLaunch core b B.count with
        | some s1 => State.binFill core b n s1
        | none => s
      else s
    | none => s

/-- Accepts records into a bin: it starts the timer of an empty one, and launches what the count allows. -/
def State.binAccept (s : State) (core b : Nat) (xs : List (List Word)) : State :=
  match s.bin core b with
  | none => s
  | some B =>
    let B1 := { B.put (B.held ++ xs) with
      deadline := if B.held.isEmpty && !xs.isEmpty && B.timer ≠ 0 then some (s.ctl.clk.toNat + B.timer) else B.deadline }
    State.binFill core b (xs.length + 8) ((s.modBin core b fun _ => B1).binSpill B1 B.overflow.length)

/-! ## POST (06 R175) -/

/-- The record length a card gives. -/
def CapReg.width (c : CapReg) : Nat := c.len % 16

/-- Where POST sends its records: the neighbour in a direction, where the card's own bin is armed, or the home core (06
R175, 07 R190). -/
def State.postCore (s : State) (core dir : Nat) (r : CapReg) (home : Nat) : Nat :=
  match neighbour core dir with
  | some c => if (s.bin c r.obj).map Bin.task = (s.cardBin core r).map fun x => x.2.task then c else home
  | none => home

/-- The home core of the bin a card names, as the issuing core sees it. -/
def State.binHome (s : State) (core : Nat) (r : CapReg) : Nat := ((s.cardBin core r).map fun x => x.2.home).getD core

/-- POST: the drain and the write-back of the release come first, then the records are accepted, and the split is held
until POST_COMPLETION. -/
def execPost (f : UW) (s : State) : Host.Outcome State Fault Refusal :=
  s.issueWord (.post f) fun c s =>
    let r := c.cap f.cN
    let w := r.width
    let recs := (lanesOf c.active).map fun l => (List.range w).map fun j => BitVec.ofNat 32 (c.reg (f.v + j) l)
    let core := s.postCore c.blk.core (f.f 11 9) r (s.binHome c.blk.core r)
    match c.unreachable.orElse fun _ => s.capFault c r [7] 0x020#12 with
    | some e => .trap e
    | none =>
      if f.v + w > c.nregs then .trap ⟨0x01, 0, 5⟩
      else if ((s.bin core r.obj).map Bin.room).getD 0 < recs.length then .trap ⟨0x12, 0, r.obj % 16 + 16⟩
      else
        let s1 := (s.commit c.b).drainAll c.b
        let (ok, s2) := s1.writeBack c.blk.core fun _ x => x.by c.b
        let left := match s2.blocks.find c.b with
          | some B => !B.buf.isEmpty
          | none => false
        if left || !ok || s2.unacked c.b (fun _ => true) then .park s2
        else if recs.isEmpty then .done s2
        else .went ((s2.binAccept core r.obj recs).onSplit c fun S => { S with wait := .post, only := none })

/-- POST_COMPLETION: the split goes on. -/
def execPostCompletion (b t e : Nat) (s : State) : Host.Outcome State Fault Refusal :=
  .next (s.modSplit b t e fun S => if S.wait = .post then { S with wait := .ready, pc := S.pc + 2 } else S)

/-! ## BINTAKE (06 R177) -/

/-- Births of taken records: lane registers 0 but for the record, predicates p0 only, the return stack of lane `src`, the
issuing split's lowest owned (11 R281). -/
def Troupe.takeRow (T : Troupe) (src l v : Nat) (x : List Word) : Troupe :=
  let lane : Mask := 1#32 <<< l
  let T1 := T.regs.v.keys.foldl (fun T r => T.setV r lane fun _ => 0) T
  let T2 := (List.range x.length).foldl (fun T j => T.setV (v + j) lane fun _ => x.getD j 0) T1
  let T3 := T.regs.p.keys.foldl (fun T k => T.setP k lane 0) T2
  { T3 with ret := T3.ret.set [] l (T.ret.get [] src), rid := T3.rid.del l, lm := T3.lm ||| lane }

/-- BINTAKE. -/
def execBintake (f : UW) (s : State) : Host.Outcome State Fault Refusal :=
  s.issueWord (.bintake f) fun c s =>
    let r := c.cap f.cN
    match s.capFault c r [7] 0x040#12 with
    | some e => .trap e
    | none =>
      if f.v + r.width > c.nregs then .trap ⟨0x01, 0, 5⟩
      else if c.task.launch.shd then .trap ⟨0x01, 0, 11⟩
      else match s.cardBin c.blk.core r with
        | none => .trap ⟨0x03, 0, 0⟩
        | some (core, B) =>
          let free := lanesOf (~~~c.trp.lm)
          let k := min (min B.held.length free.length) (c.sr f.a).toNat
          let held := s.binHeld B
          let rows := (free.take k).zip (held.take k)
          let m := maskOf fun l => rows.any fun x => x.1 = l
          let rest := held.drop k
          let s1 := (s.modBin core r.obj fun B => { B.put rest with
            deadline := if rest.isEmpty then none else B.deadline }).onTrp c fun T =>
              rows.foldl (fun T x => T.takeRow (lowLane c.sp.own) x.1 f.v x.2) T
          let s2 := s1.onSplit c fun S => { S with own := S.own ||| m, em := S.em ||| m }
          let s3 := s2.setS c f.d (BitVec.ofNat 64 k)
          .done ((if k = 0 then s3 else s3.invalidate c.blk.core fun _ => true).expose c)

/-! ## Timer and drain (06 R176, 18 R392) -/

/-- Whether a task's table holds a card of a bin, or may: an entry on an absent page is waited for (07 R205). -/
def State.holdsCard (s : State) (part table n : Nat) : Bool :=
  (List.range 256).any fun i =>
    let x := s.waNat part (table + 32 * i) 32
    s.waAbsent part (table + 32 * i) 32 || bit x 128 && bits x 127 124 = 7 && bits x 111 88 = n

/-- Whether a task that counts, other than the bin's own, still holds a card of the bin: one started and not ended, or of a
KERNEL or GANG node of the bin's graph that is ready (18 R392), also where its descriptor's page has yet to come. -/
def State.posters (s : State) (B : Bin) (n : Nat) : Bool :=
  match s.tasks.find B.task with
  | none => false
  | some K =>
    s.tasks.any (fun k => k.1 ≠ B.task && k.2.part = K.part && (k.2.bin.isSome || decide (k.2.ended < k.2.launch.blocks)) &&
      s.holdsCard K.part k.2.launch.table n) ||
    match K.graph.bind fun g => s.graphs.find g.1 with
    | none => false
    | some G => G.ready.any fun x =>
        let kind := s.nodeNat G x 0 1
        let d := s.nodeNat G x 16 8
        s.waAbsent G.part (G.nodes + 64 * x) 64 ||
          ((kind = 1 || kind = 5) && (s.waAbsent G.part d 64 || s.holdsCard G.part (s.waNat G.part (d + 24) 8) n))

/-- Whether a block of a bin's task runs. -/
def State.binBusy (s : State) (task : Nat) : Bool := s.blocks.any fun b => b.2.task = task

/-- Whether a bin makes a drain launch. -/
def State.binDrains (s : State) (B : Bin) (n : Nat) : Bool := !B.held.isEmpty && !s.binBusy B.task && !s.posters B n

/-- BIN_TIMER: the timer has expired and a block is launched from what the bin holds. -/
def execBinTimer (core bin : Nat) (s : State) : Host.Outcome State Fault Refusal :=
  match s.bin core bin with
  | none => .next s
  | some B => match B.deadline with
    | none => .next s
    | some d =>
      if s.ctl.clk.toNat < d || B.held.isEmpty then .next s
      else .next ((s.binLaunch core bin (min B.held.length (s.binMost B))).getD s)

/-- The bins a task is armed at: core and number. -/
def State.binsOf (s : State) (task : Nat) : List (Nat × Nat) :=
  s.cores.flatMap fun c => (c.2.bins.filter fun x => x.2.task = task).map fun x => (c.1, x.1)

/-- Whether a BIN node completes (18 R392): its bins hold no record, no task that counts holds a card of them, and no block
of its task runs. -/
def State.binDone (s : State) (task : Nat) : Bool :=
  let bs := s.binsOf task
  !s.binBusy task && bs.all fun x => match s.bin x.1 x.2 with
    | some B => B.held.isEmpty && !s.posters B x.2
    | none => true

/-- The end of a BIN node: its bins are disarmed, and the node ends with code 0 on next (06 Table 6.3), also where a block of its
task was killed: DESIGN CHOICE (log 81), since 08 R219 speaks of KERNEL and GANG nodes and 18 R392's trace of its error edge. -/
def State.disarm (s : State) (task : Nat) : State :=
  let s1 := { s with cores := s.cores.map fun c => (c.1, { c.2 with bins := c.2.bins.filter fun x => x.2.task ≠ task }) }
  match s.tasks.find task with
  | none => s1
  | some K =>
    let s2 := s1.modTask task fun K => { K with bin := none }
    match K.graph with
    | none => s2
    | some (g, n) => match s2.graphs.find g with
      | some G => s2.endNode g n 0 0 (s2.nodeNext G n)
      | none => s2

/-- BIN_DRAIN: a drain launch, or, for a drained bin, the completion of its BIN node. -/
def execBinDrain (core bin : Nat) (s : State) : Host.Outcome State Fault Refusal :=
  match s.bin core bin with
  | none => .next s
  | some B =>
    if s.binDrains B bin then .next ((s.binLaunch core bin (min B.held.length (s.binMost B))).getD s)
    else if s.binDone B.task then .next (s.disarm B.task)
    else .next s

/-! ## CLKRD and OTINV -/

/-- CLKRD: pod time, once the troupe's earlier loads have returned. -/
def execClkrd (f : UW) (s : State) : Host.Outcome State Fault Refusal :=
  s.issueWord (.clkrd f) fun c s => .done (s.setS c f.d s.ctl.clk)

/-- Reads and clears the dies and pkgs bits of a page's companions, in both copies (07 R206): the holders that must drop
it, dies 0 to 7 and packages as 8 + p. -/
def State.clearHolders (s : State) (part obj : Nat) (page : Nat) : Marks × State :=
  let o := s.obj part obj
  (if o.sh then [0, 1] else [0]).foldl (fun (m, s) copy =>
    let ca := o.companion copy page
    let x := s.devNat ca 9
    (((List.range 72).filter fun i => bit x i).foldl Marks.add m, s.devRaw ca 9 0)) (([] : Marks), s)

/-- OTINV: the split is held until every holder has acknowledged. -/
def execOtinv (f : UW) (s : State) : Host.Outcome State Fault Refusal :=
  s.issueWord (.otinv f) fun c s =>
    let a := (c.sr f.a).toNat
    let n := (c.sr f.b).toNat
    let part := c.task.part
    let obj := a % 2 ^ 24
    let first := a / 2 ^ 24
    let o := s.obj part obj
    let hold (s : State) (gen : Bool) (pages : List Nat) (hs : Marks) : Res :=
      .went ((({ s with eng := { s.eng with otinv := s.eng.otinv.put s.fresh ⟨c.b, c.t, c.e, part, obj, gen, pages, hs⟩ } }).bump.onSplit
        c fun S => { S with wait := .otinv s.fresh, only := none }).expose c)
    if !c.task.launch.prv then .trap ⟨0x02, 0, 0⟩
    else if !f.bit 0 && first ≠ 0 then .trap ⟨0x01, 0, 11⟩
    else if !o.v then .trap ⟨0x03, 0, 0⟩
    else if f.bit 0 then
      if n > 2 ^ 20 || decide (first + n > o.pages) then .trap ⟨0x06, 0, 0⟩
      else if n = 0 then .done (s.expose c)
      else
        let pages := (List.range n).map (first + ·)
        let r := pages.foldl (fun (m, s) p => let q := State.clearHolders s part obj p; (q.1.foldl Marks.add m, q.2))
          (([] : Marks), s)
        hold r.2 false pages r.1
    else
      let s1 := s.devRaw (s.objAddr part obj + 4) 2 ((o.gen + 1) % 2 ^ 16)
      let cs := (s.cores.filter fun x => (x.2.gens.find (2 ^ 24 * part + obj)).isSome).map fun x => 100 + x.1
      let ps := ((s.ctl.parts.find part).map fun P => P.cfg.peers.map (8 + ·)).getD []
      hold s1 true [] (ps.foldl Marks.add cs)

/-- Whether a load in flight on a die uses a translation of the pages: the die acknowledges when it has been served (07
R206). -/
def State.dieBusy (s : State) (die : Nat) (O : Otinv) : Bool :=
  s.blocks.any fun b => dieOf b.2.core = die && b.2.troupes.any fun t => t.2.loads.any fun x =>
    x.2.space = .bulk && !x.2.lacks && x.2.lanes.any fun p =>
      keyPart p.2 = O.part && keyObj p.2 = O.obj && O.pages.contains (keyOff p.2 / 2 ^ pageBits (s.obj O.part O.obj).psz)

/-- SHOOTDOWN: a die drops its translations of the pages once no access uses them (a core its cached generation, a package
what is held for it), and acknowledges. -/
def execShootdown (id target : Nat) (s : State) : Host.Outcome State Fault Refusal :=
  match s.eng.otinv.find id with
  | none => .next s
  | some O =>
    if !O.holders.contains target || (decide (target < 8) && !O.gen && s.dieBusy target O) then .next s
    else
      let s1 := { s with eng := { s.eng with otinv := s.eng.otinv.put id { O with holders := Marks.del O.holders target } } }
      if target ≥ 100 then
        .next (s1.modCore (target - 100) fun C => { C with gens := C.gens.del (2 ^ 24 * O.part + O.obj) })
      else if !O.gen then
        .next { s1 with mem := { s1.mem with tlb := s1.mem.tlb.filter fun e =>
          !(e.1 / 2 ^ 37 = (target * 16 + O.part) * 2 ^ 24 + O.obj && O.pages.contains (e.1 % 2 ^ 37 / 2)) } }
      else .next s1

/-- OTINV_COMPLETION. -/
def execOtinvCompletion (id : Nat) (s : State) : Host.Outcome State Fault Refusal :=
  match s.eng.otinv.find id with
  | none => .next s
  | some O =>
    if !O.holders.isEmpty then .next s
    else .next (({ s with eng := { s.eng with otinv := s.eng.otinv.del id } }).modSplit O.b O.t O.e fun S =>
      if S.wait = Wait.otinv id then { S with wait := .ready, pc := S.pc + 2 } else S)

end Sys2Proof.Machine
end

