-- ==== Sys2Proof/Machine/LaneFp.lean ====
section
/-! DEFINITION. Lane floating-point instructions (12 R298, R307 to R313), conversions and quantisation (R314 to R320) other
than CBDEC. -/
namespace Sys2Proof.Machine

/-! ## Operand modifiers and random bits -/

/-- The format of a floating-point type code. -/
def fmtOf (t : Nat) : Fmt :=
  match ety t with
  | .fl f => f
  | .int _ _ => f32

/-- Absolute value first, then negation: the sign bit only (12 R307). -/
def signMod (F : Fmt) (ab ng : Bool) (x : Nat) : Nat :=
  let top := 2 ^ (F.width - 1)
  let y := if ab then x % top else x
  if ng then if y < top then y + top else y - top else y

/-- The random bits of element `e`: bits [15:0] of c rotated right by 4·e (02 R51). -/
def randBits (c e : Nat) : Nat :=
  let x := c % 2 ^ 32
  (x / 2 ^ (4 * e) + x % 2 ^ (4 * e) * 2 ^ (32 - 4 * e)) % 2 ^ 16

end Sys2Proof.Machine

namespace Sys2Proof

open Machine

/-- Element `e` of the modified a. -/
def LW.ea (f : LW) (c : Ctx) (l e : Nat) : Nat :=
  signMod (fmtOf f.t.toNat) (f.m.getLsbD 6) (f.m.getLsbD 4) (elem f.t.toNat (c.operand f.a f.t.toNat l) e)
/-- Element `e` of the modified b. -/
def LW.eb (f : LW) (c : Ctx) (l e : Nat) : Nat :=
  signMod (fmtOf f.t.toNat) (f.m.getLsbD 7) (f.m.getLsbD 5) (elem f.t.toNat (c.operand f.b f.t.toNat l) e)
/-- Element `e` of c. -/
def LW.ec (f : LW) (c : Ctx) (l e : Nat) : Nat := elem f.t.toNat (c.operand f.c f.t.toNat l) e
/-- The rounding mode of a FOP word. -/
def LW.mode (f : LW) : Nat := (f.m.extractLsb' 0 3).toNat
/-- The random bits a word supplies to element `e`; none but under sr. R51 gives operand c no type: an integer code there is
read at the word's float type t, and by CVT as an i32 (DEDUCED, log 58). -/
def LW.rand (f : LW) (c : Ctx) (l e : Nat) : Nat :=
  if f.mode = 4 then randBits (c.operand f.c f.t.toNat l) e else 0

end Sys2Proof

namespace Sys2Proof.Machine

/-- A FOP instruction, element by element. -/
def fopFx (i : Instr) (f : LW) (g : Ctx → Nat → Nat → Nat × Flags) : Ctx → State → Res :=
  laneFx i (.v (wide f.t.toNat) f.d.toNat) fun c l => elementwise f.t.toNat (g c l)

/-- FADD. -/
def execFadd (f : LW) (s : State) : Host.Outcome State Fault Refusal :=
  s.issueWord (.fadd f) (fopFx (.fadd f) f fun c l e =>
    (fmtOf f.t.toNat).add f.mode (f.rand c l e) (f.ea c l e) (f.eb c l e))
/-- FMUL. -/
def execFmul (f : LW) (s : State) : Host.Outcome State Fault Refusal :=
  s.issueWord (.fmul f) (fopFx (.fmul f) f fun c l e =>
    (fmtOf f.t.toNat).mul f.mode (f.rand c l e) (f.ea c l e) (f.eb c l e))
/-- FFMA. -/
def execFfma (f : LW) (s : State) : Host.Outcome State Fault Refusal :=
  s.issueWord (.ffma f) (fopFx (.ffma f) f fun c l e =>
    (fmtOf f.t.toNat).fma f.mode (f.ea c l e) (f.eb c l e) (f.ec c l e))
/-- FMIN. -/
def execFmin (f : LW) (s : State) : Host.Outcome State Fault Refusal :=
  s.issueWord (.fmin f) (fopFx (.fmin f) f fun c l e => ((fmtOf f.t.toNat).minNum (f.ea c l e) (f.eb c l e), 0))
/-- FMAX. -/
def execFmax (f : LW) (s : State) : Host.Outcome State Fault Refusal :=
  s.issueWord (.fmax f) (fopFx (.fmax f) f fun c l e => ((fmtOf f.t.toNat).maxNum (f.ea c l e) (f.eb c l e), 0))

/-- A one-word f32 instruction with rne (12 R298). -/
def f32Fx (i : Instr) (f : LR) (g : Nat → Nat → Nat × Flags) : Ctx → State → Res :=
  laneFx i (.v false f.d.toNat) fun c l => g (c.operand f.a 2 l) (c.operand f.b 2 l)

/-- FADD.f32, one word. -/
def execFaddF32 (f : LR) (s : State) : Host.Outcome State Fault Refusal :=
  s.issueWord (.faddF32 f) (f32Fx (.faddF32 f) f (f32.add 0 0))
/-- FMUL.f32, one word. -/
def execFmulF32 (f : LR) (s : State) : Host.Outcome State Fault Refusal :=
  s.issueWord (.fmulF32 f) (f32Fx (.fmulF32 f) f (f32.mul 0 0))
/-- FMIN.f32, one word. -/
def execFminF32 (f : LR) (s : State) : Host.Outcome State Fault Refusal :=
  s.issueWord (.fminF32 f) (f32Fx (.fminF32 f) f fun a b => (f32.minNum a b, 0))
/-- FMAX.f32, one word. -/
def execFmaxF32 (f : LR) (s : State) : Host.Outcome State Fault Refusal :=
  s.issueWord (.fmaxF32 f) (f32Fx (.fmaxF32 f) f fun a b => (f32.maxNum a b, 0))

/-- FCMP's effect (12 R309): quiet. -/
def fcmpFx (f : LW) : Ctx → State → Res :=
  laneFx (.fcmp f) (.p (f.d.extractLsb' 0 3).toNat) fun c l =>
    let F := fmtOf f.t.toNat
    (if fcmpCond (f.m.extractLsb' 0 4).toNat (F.decode (f.ea c l 0)) (F.decode (f.eb c l 0)) then 1 else 0, 0)

/-- FCMP. -/
def execFcmp (f : LW) (s : State) : Host.Outcome State Fault Refusal := s.issueWord (.fcmp f) (fcmpFx f)

/-- An instruction of one modified floating-point operand. -/
def unaryFx (i : Instr) (f : LW) (g : Nat → Nat × Flags) : Ctx → State → Res :=
  laneFx i (.v (wide f.t.toNat) f.d.toNat) fun c l => g (f.ea c l 0)

/-- FRND. -/
def execFrnd (f : LW) (s : State) : Host.Outcome State Fault Refusal :=
  s.issueWord (.frnd f) (unaryFx (.frnd f) f ((fmtOf f.t.toNat).rint f.mode))
/-- FSCL: b is a signed 32-bit exponent (12 R311). -/
def execFscl (f : LW) (s : State) : Host.Outcome State Fault Refusal :=
  s.issueWord (.fscl f) (laneFx (.fscl f) (.v (wide f.t.toNat) f.d.toNat) fun c l =>
    (fmtOf f.t.toNat).scale f.mode (sextN 32 (c.operand f.b 0 l)) (f.ea c l 0))
/-- FCLS: its destination is one register (12 R312). -/
def execFcls (f : LW) (s : State) : Host.Outcome State Fault Refusal :=
  s.issueWord (.fcls f) (laneFx (.fcls f) (.v false f.d.toNat) fun c l =>
    ((fmtOf f.t.toNat).classify (f.ea c l 0), 0))

/-! ## Correctly rounded functions (12 R313) -/

/-- FRCP. -/
def execFrcp (f : LW) (s : State) : Host.Outcome State Fault Refusal :=
  s.issueWord (.frcp f) (unaryFx (.frcp f) f (fmtOf f.t.toNat).rcp)
/-- FRSQ. -/
def execFrsq (f : LW) (s : State) : Host.Outcome State Fault Refusal :=
  s.issueWord (.frsq f) (unaryFx (.frsq f) f (fmtOf f.t.toNat).rsq)
/-- FSQRT. -/
def execFsqrt (f : LW) (s : State) : Host.Outcome State Fault Refusal :=
  s.issueWord (.fsqrt f) (unaryFx (.fsqrt f) f (fmtOf f.t.toNat).sqrt)
/-- FEXP2. -/
def execFexp2 (f : LW) (s : State) : Host.Outcome State Fault Refusal :=
  s.issueWord (.fexp2 f) (unaryFx (.fexp2 f) f (fmtOf f.t.toNat).exp2)
/-- FLOG2. -/
def execFlog2 (f : LW) (s : State) : Host.Outcome State Fault Refusal :=
  s.issueWord (.flog2 f) (unaryFx (.flog2 f) f (fmtOf f.t.toNat).log2)

/-! ## Conversion -/

end Sys2Proof.Machine

namespace Sys2Proof

open Machine

/-- The rounding mode of a CONV word, m[6:4]. -/
def LW.cmode (f : LW) : Nat := (f.m.extractLsb' 4 3).toNat
/-- The saturate bit of a CONV word. -/
def LW.sat (f : LW) : Bool := f.m.getLsbD 7

end Sys2Proof

namespace Sys2Proof.Machine

/-- CVT's effect (12 R314). -/
def cvtFx (f : LW) : Ctx → State → Res :=
  let t := f.t.toNat
  let src := (f.m.extractLsb' 0 4).toNat
  laneFx (.cvt f) (.v (wide t) f.d.toNat) fun c l =>
    let a := c.operand f.a src l
    let x (e : Nat) : Nat := if f.cmode = 4 then randBits (c.operand f.c 0 l) e else 0
    elementwise t fun e => convert f.cmode (x e) f.sat (ety src) (ety t) (elem src a e)

/-- CVT. -/
def execCvt (f : LW) (s : State) : Host.Outcome State Fault Refusal := s.issueWord (.cvt f) (cvtFx f)

/-- The scalar source type PACK implies (12 R315). -/
def packSrc (t : Nat) : ETy :=
  match ety t with
  | .fl _ => .fl f32
  | .int _ sg => .int 32 sg

/-- The type code of that source. -/
def packCode (t : Nat) : Nat :=
  match ety t with
  | .fl _ => 2
  | .int _ sg => if sg then 0 else 1

/-- PACK's effect (12 R315): elements 2j and 2j + 1 of c are replaced; c counts as 0 for two elements. -/
def packFx (f : LW) : Ctx → State → Res :=
  let t := f.t.toNat
  let j := (f.m.extractLsb' 0 3).toNat
  laneFx (.pack f) (.v false f.d.toNat) fun c l =>
    let a := convert f.cmode 0 f.sat (packSrc t) (ety t) (c.operand f.a (packCode t) l)
    let b := convert f.cmode 0 f.sat (packSrc t) (ety t) (c.operand f.b (packCode t) l)
    let x := if lanesIn t = 2 then 0 else c.operand f.c t l
    (setElem t (setElem t x (2 * j) a.1) (2 * j + 1) b.1, a.2 ||| b.2)

/-- PACK. -/
def execPack (f : LW) (s : State) : Host.Outcome State Fault Refusal := s.issueWord (.pack f) (packFx f)

/-- UNPK's effect (12 R316). -/
def unpkFx (f : LW) : Ctx → State → Res :=
  let t := f.t.toNat
  let src := (f.m.extractLsb' 0 4).toNat
  laneFx (.unpk f) (.v (wide t) f.d.toNat) fun c l =>
    ((convert 0 0 false (ety src) (ety t) (elem src (c.operand f.a src l) (f.m.extractLsb' 4 3).toNat)).1, 0)

/-- UNPK. -/
def execUnpk (f : LW) (s : State) : Host.Outcome State Fault Refusal := s.issueWord (.unpk f) (unpkFx f)

/-! ## Quantisation -/

/-- Emax of QSCL (12 R318). -/
def qEmax (t : Nat) : Int :=
  match t with
  | 10 => 6
  | 12 => 8
  | 13 => 15
  | _ => 2

/-- QSCL (12 R318). -/
def qscl (t a : Nat) : Nat × Flags :=
  match f32.decode a with
  | .nan => (0x7FC0, fINV)
  | .inf _ => (0x7FC0, fINV)
  | .fin _ m e =>
    if m = 0 then (0x3F80, 0)
    else ((bf16.deliver 0 0 false false (.fin false 1 (max (e + Nat.log2 m - qEmax t) (-133)))).1, 0)

/-- QNT's quotient a / s and its conversion (12 R319). The scale is the low half of the word of b, whose type the spec does not
give: an integer code there is read as an i32 (DESIGN CHOICE, log 83), in QNT and in SALSEL. -/
def quantise (mode t : Nat) (sat : Bool) (a s : Nat) : Nat × Flags :=
  let q := (f32.decode a).div (bf16.decode (s % 2 ^ 16))
  let d := deliverTo mode 0 sat q.1.2 (ety t) q.1.1
  (d.1, d.2 ||| q.2)

/-- The value of a code of an element type. -/
def valueOf (t x : Nat) : Num :=
  match ety t with
  | .fl f => f.decode x
  | .int w sg => intNum (intOf w sg x)

/-- SALSEL (12 R320). Where q is 0 and s infinite the residual is the canonical NaN, without a flag. -/
def salsel (mode t a s : Nat) : Nat × Flags :=
  let x := f32.decode a
  let y := bf16.decode (s % 2 ^ 16)
  let q := x.div y
  if x.isNan || y.isNan || q.1.1.isNan then (f32.cnan, q.2 &&& fINV)
  else if x.isInf then (a, 0)
  else
    let p := ((valueOf t (quantise mode t true a s).1).mul y).1
    let d := f32.deliver 0 0 false false (x.add 0 p.minus).1
    (d.1, d.2)

/-- QSCL. -/
def execQscl (f : LW) (s : State) : Host.Outcome State Fault Refusal :=
  s.issueWord (.qscl f) (laneFx (.qscl f) (.v false f.d.toNat) fun c l => qscl f.t.toNat (c.operand f.a 2 l))
/-- QNT. An integer code in b is read as an i32 (DESIGN CHOICE, log 83). -/
def execQnt (f : LW) (s : State) : Host.Outcome State Fault Refusal :=
  s.issueWord (.qnt f) (laneFx (.qnt f) (.v false f.d.toNat) fun c l =>
    let q := quantise f.cmode f.t.toNat f.sat (c.operand f.a 2 l) (c.operand f.b 0 l)
    (setElem f.t.toNat (c.operand f.c f.t.toNat l) (f.m.extractLsb' 0 3).toNat q.1, q.2))
/-- SALSEL. An integer code in b is read as an i32 (DESIGN CHOICE, log 83). -/
def execSalsel (f : LW) (s : State) : Host.Outcome State Fault Refusal :=
  s.issueWord (.salsel f) (laneFx (.salsel f) (.v false f.d.toNat) fun c l =>
    salsel f.cmode f.t.toNat (c.operand f.a 2 l) (c.operand f.b 0 l))

end Sys2Proof.Machine
end

