-- ==== Sys2Proof/Machine/LaneInt.lean ====
section
/-! DEFINITION. Lane integer instructions (12 R297, R299 to R306): one-word, typed, bits and bytes, immediates. -/
namespace Sys2Proof.Machine

/-! ## One-word forms (12 Table 12.1) -/

/-- A one-word i32 instruction on a and b; it raises no flag. -/
def intFx (i : Instr) (f : LR) (g : Nat → Nat → Nat) : Ctx → State → Res :=
  laneFx i (.v false f.d.toNat) fun c l => (g (c.operand f.a 0 l) (c.operand f.b 0 l), 0)

/-- a + b -/
def iaddV (a b : Nat) : Nat := a + b
/-- a − b -/
def isubV (a b : Nat) : Nat := wrapN 32 ((a : Int) - b)
/-- The low half of a product. -/
def imulV (a b : Nat) : Nat := a * b
/-- The high half of a signed product. -/
def imulhV (a b : Nat) : Nat := wrapN 32 (sextN 32 a * sextN 32 b / 2 ^ 32)
/-- The smaller, signed. -/
def iminV (a b : Nat) : Nat := if sextN 32 a < sextN 32 b then a else b
/-- The larger, signed. -/
def imaxV (a b : Nat) : Nat := if sextN 32 a < sextN 32 b then b else a
/-- a & b -/
def andV (a b : Nat) : Nat := Nat.land a b
/-- a | b -/
def orV (a b : Nat) : Nat := Nat.lor a b
/-- a ^ b -/
def xorV (a b : Nat) : Nat := Nat.xor a b
/-- a & ~b -/
def andnV (a b : Nat) : Nat := Nat.land a (2 ^ 32 - 1 - b % 2 ^ 32)
/-- Shift left; 0 for counts of 32 or more. -/
def shlV (a b : Nat) : Nat := if b ≥ 32 then 0 else a * 2 ^ b
/-- Logical shift right. -/
def shrV (a b : Nat) : Nat := if b ≥ 32 then 0 else a / 2 ^ b
/-- Arithmetic shift right. -/
def sarV (a b : Nat) : Nat := wrapN 32 (sextN 32 a / 2 ^ (min b 31))
/-- Set bits of a, plus b. -/
def popcV (a b : Nat) : Nat := popcount (BitVec.ofNat 32 a) + b
/-- Leading zeros of a. -/
def clzV (a _ : Nat) : Nat := clz (BitVec.ofNat 32 a)
/-- Bits of a reversed. -/
def brevV (a _ : Nat) : Nat := (maskOf fun l => bit a (31 - l)).toNat
/-- a -/
def movV (a _ : Nat) : Nat := a

/-- IADD. -/
def execIadd (f : LR) (s : State) : Host.Outcome State Fault Refusal := s.issueWord (.iadd f) (intFx (.iadd f) f iaddV)
/-- ISUB. -/
def execIsub (f : LR) (s : State) : Host.Outcome State Fault Refusal := s.issueWord (.isub f) (intFx (.isub f) f isubV)
/-- IMUL. -/
def execImul (f : LR) (s : State) : Host.Outcome State Fault Refusal := s.issueWord (.imul f) (intFx (.imul f) f imulV)
/-- IMULH. -/
def execImulh (f : LR) (s : State) : Host.Outcome State Fault Refusal := s.issueWord (.imulh f) (intFx (.imulh f) f imulhV)
/-- IMIN. -/
def execImin (f : LR) (s : State) : Host.Outcome State Fault Refusal := s.issueWord (.imin f) (intFx (.imin f) f iminV)
/-- IMAX. -/
def execImax (f : LR) (s : State) : Host.Outcome State Fault Refusal := s.issueWord (.imax f) (intFx (.imax f) f imaxV)
/-- AND. -/
def execAnd (f : LR) (s : State) : Host.Outcome State Fault Refusal := s.issueWord (.and f) (intFx (.and f) f andV)
/-- OR. -/
def execOr (f : LR) (s : State) : Host.Outcome State Fault Refusal := s.issueWord (.or f) (intFx (.or f) f orV)
/-- XOR. -/
def execXor (f : LR) (s : State) : Host.Outcome State Fault Refusal := s.issueWord (.xor f) (intFx (.xor f) f xorV)
/-- ANDN. -/
def execAndn (f : LR) (s : State) : Host.Outcome State Fault Refusal := s.issueWord (.andn f) (intFx (.andn f) f andnV)
/-- SHL. -/
def execShl (f : LR) (s : State) : Host.Outcome State Fault Refusal := s.issueWord (.shl f) (intFx (.shl f) f shlV)
/-- SHR. -/
def execShr (f : LR) (s : State) : Host.Outcome State Fault Refusal := s.issueWord (.shr f) (intFx (.shr f) f shrV)
/-- SAR. -/
def execSar (f : LR) (s : State) : Host.Outcome State Fault Refusal := s.issueWord (.sar f) (intFx (.sar f) f sarV)
/-- POPC. -/
def execPopc (f : LR) (s : State) : Host.Outcome State Fault Refusal := s.issueWord (.popc f) (intFx (.popc f) f popcV)
/-- CLZ. -/
def execClz (f : LR) (s : State) : Host.Outcome State Fault Refusal := s.issueWord (.clz f) (intFx (.clz f) f clzV)
/-- BREV. -/
def execBrev (f : LR) (s : State) : Host.Outcome State Fault Refusal := s.issueWord (.brev f) (intFx (.brev f) f brevV)
/-- MOV. -/
def execMov (f : LR) (s : State) : Host.Outcome State Fault Refusal := s.issueWord (.mov f) (intFx (.mov f) f movV)

/-! ## Typed forms (12 R299) -/

/-- Width and signedness of an integer type code. -/
def intTy (t : Nat) : Nat × Bool :=
  match ety t with
  | .int w sg => (w, sg)
  | .fl f => (f.width, false)

/-- A typed instruction, element by element, on a, b and c as integers; its exact result wraps, or is clamped with `sat`. -/
def typedFx (i : Instr) (f : LW) (sat : Bool) (g : Nat → Int → Int → Int → Int) : Ctx → State → Res :=
  let t := f.t.toNat
  laneFx i (.v (wide t) f.d.toNat) fun c l =>
    let w := (intTy t).1
    let sg := (intTy t).2
    let a := c.operand f.a t l
    let b := c.operand f.b t l
    let z := c.operand f.c t l
    elementwise t fun e =>
      let x := g w (intOf w sg (elem t a e)) (intOf w sg (elem t b e)) (intOf w sg (elem t z e))
      if sat then
        let y := clampInt w sg x
        (wrapN w y.1, y.2)
      else (wrapN w x, 0)

/-- IMULH, typed: bits [2w−1:w] of the product. -/
def mulhE (w : Nat) (a b _ : Int) : Int := a * b / 2 ^ w
/-- The smaller. -/
def minE (_ : Nat) (a b _ : Int) : Int := min a b
/-- The larger. -/
def maxE (_ : Nat) (a b _ : Int) : Int := max a b
/-- a·b + c -/
def madE (_ : Nat) (a b c : Int) : Int := a * b + c
/-- |a| -/
def absE (_ : Nat) (a _ _ : Int) : Int := if a < 0 then -a else a

/-- IMULH with a type. -/
def execImulhTyped (f : LW) (s : State) : Host.Outcome State Fault Refusal :=
  s.issueWord (.imulhTyped f) (typedFx (.imulhTyped f) f false mulhE)
/-- IMIN with a type. -/
def execIminTyped (f : LW) (s : State) : Host.Outcome State Fault Refusal :=
  s.issueWord (.iminTyped f) (typedFx (.iminTyped f) f false minE)
/-- IMAX with a type. -/
def execImaxTyped (f : LW) (s : State) : Host.Outcome State Fault Refusal :=
  s.issueWord (.imaxTyped f) (typedFx (.imaxTyped f) f false maxE)
/-- IMAD. -/
def execImad (f : LW) (s : State) : Host.Outcome State Fault Refusal :=
  s.issueWord (.imad f) (typedFx (.imad f) f (f.m.getLsbD 0) madE)
/-- IABS. -/
def execIabs (f : LW) (s : State) : Host.Outcome State Fault Refusal :=
  s.issueWord (.iabs f) (typedFx (.iabs f) f (f.m.getLsbD 0) absE)

/-- ICMP's conditions (12 R300). -/
def icmpCond (k : Nat) (a b : Int) : Bool :=
  match k with
  | 0 => a = b
  | 1 => a ≠ b
  | 2 => a < b
  | 3 => a ≤ b
  | 4 => b < a
  | _ => b ≤ a

/-- ICMP's effect: unsigned when m[3] = 1. -/
def icmpFx (f : LW) : Ctx → State → Res :=
  let t := f.t.toNat
  let w := if wide t then 64 else 32
  laneFx (.icmp f) (.p (f.d.extractLsb' 0 3).toNat) fun c l =>
    let v (k : BitVec 8) : Int := intOf w (!f.m.getLsbD 3) (c.operand k t l)
    (if icmpCond (f.m.extractLsb' 0 3).toNat (v f.a) (v f.b) then 1 else 0, 0)

/-- ICMP. -/
def execIcmp (f : LW) (s : State) : Host.Outcome State Fault Refusal := s.issueWord (.icmp f) (icmpFx f)

/-- SEL's effect (12 R301). -/
def selFx (f : LW) : Ctx → State → Res :=
  let t := f.t.toNat
  laneFx (.sel f) (.v (wide t) f.d.toNat) fun c l =>
    (if c.pred (f.c.extractLsb' 0 3).toNat l != f.c.getLsbD 3 then c.operand f.a t l else c.operand f.b t l, 0)

/-- SEL. -/
def execSel (f : LW) (s : State) : Host.Outcome State Fault Refusal := s.issueWord (.sel f) (selFx f)

/-! ## Bits and bytes -/

/-- A three-operand instruction on 32-bit words. -/
def wordFx (i : Instr) (f : LW) (g : Nat → Nat → Nat → Nat) : Ctx → State → Res :=
  laneFx i (.v false f.d.toNat) fun c l => (g (c.operand f.a 0 l) (c.operand f.b 0 l) (c.operand f.c 0 l), 0)

/-- LUT3 (12 R302). -/
def lut3V (m a b c : Nat) : Nat :=
  (maskOf fun i => bit m ((if bit a i then 1 else 0) + (if bit b i then 2 else 0) + if bit c i then 4 else 0)).toNat

/-- BFE (12 R303). -/
def bfeV (sg : Bool) (a b c : Nat) : Nat :=
  let pos := b % 256
  let len := c % 256
  if pos ≥ 32 || len = 0 then 0
  else
    let n := min (pos + len) 32 - pos
    if sg then wrapN 32 (sextN n (a / 2 ^ pos)) else a / 2 ^ pos % 2 ^ n

/-- BFI (12 R304). -/
def bfiV (a b c : Nat) : Nat :=
  let pos := c % 256
  let len := bits c 15 8
  if pos ≥ 32 || len = 0 then a
  else
    let n := min (pos + len) 32 - pos
    a - a / 2 ^ pos % 2 ^ n * 2 ^ pos + b % 2 ^ n * 2 ^ pos

/-- A byte of BSEL (12 Table 12.9): `x` is b and a joined. -/
def bselByte (x k : Nat) : Nat :=
  if k < 8 then bits x (8 * k + 7) (8 * k)
  else match k with
    | 8 => 0x00
    | 9 => 0xFF
    | 10 => 0x80
    | 11 => 0x7F
    | _ => if bit x (16 * (k - 12) + 15) then 0xFF else 0x00

/-- BSEL (12 R305). -/
def bselV (a b c : Nat) : Nat :=
  (List.range 4).foldl (fun r i => r + bselByte (a + b * 2 ^ 32) (bits c (4 * i + 3) (4 * i)) * 2 ^ (8 * i)) 0

/-- LUT3. -/
def execLut3 (f : LW) (s : State) : Host.Outcome State Fault Refusal :=
  s.issueWord (.lut3 f) (wordFx (.lut3 f) f (lut3V f.m.toNat))
/-- BFE. -/
def execBfe (f : LW) (s : State) : Host.Outcome State Fault Refusal :=
  s.issueWord (.bfe f) (wordFx (.bfe f) f (bfeV (f.m.getLsbD 0)))
/-- BFI. -/
def execBfi (f : LW) (s : State) : Host.Outcome State Fault Refusal := s.issueWord (.bfi f) (wordFx (.bfi f) f bfiV)
/-- BSEL. -/
def execBsel (f : LW) (s : State) : Host.Outcome State Fault Refusal := s.issueWord (.bsel f) (wordFx (.bsel f) f bselV)

/-! ## Immediates (12 R306) -/

/-- A LIMM instruction on its operand, read at a type, and the constant. -/
def immFx (i : Instr) (f : LI) (t : Nat) (g : Nat → Nat → Nat × Flags) : Ctx → State → Res :=
  laneFx i (.v false f.d.toNat) fun c l => g (c.operand f.b t l) f.imm.toNat

/-- MOVI. -/
def execMovi (f : LI) (s : State) : Host.Outcome State Fault Refusal :=
  s.issueWord (.movi f) (immFx (.movi f) f 0 fun _ k => (k, 0))
/-- IADDI. -/
def execIaddi (f : LI) (s : State) : Host.Outcome State Fault Refusal :=
  s.issueWord (.iaddi f) (immFx (.iaddi f) f 0 fun a k => (iaddV a k, 0))
/-- ANDI. -/
def execAndi (f : LI) (s : State) : Host.Outcome State Fault Refusal :=
  s.issueWord (.andi f) (immFx (.andi f) f 0 fun a k => (andV a k, 0))
/-- ORI. -/
def execOri (f : LI) (s : State) : Host.Outcome State Fault Refusal :=
  s.issueWord (.ori f) (immFx (.ori f) f 0 fun a k => (orV a k, 0))
/-- XORI. -/
def execXori (f : LI) (s : State) : Host.Outcome State Fault Refusal :=
  s.issueWord (.xori f) (immFx (.xori f) f 0 fun a k => (xorV a k, 0))
/-- FADDI. -/
def execFaddi (f : LI) (s : State) : Host.Outcome State Fault Refusal :=
  s.issueWord (.faddi f) (immFx (.faddi f) f 2 (f32.add 0 0))
/-- FMULI. -/
def execFmuli (f : LI) (s : State) : Host.Outcome State Fault Refusal :=
  s.issueWord (.fmuli f) (immFx (.fmuli f) f 2 (f32.mul 0 0))

end Sys2Proof.Machine
end

