-- ==== Sys2Proof/Machine/Memory.lean ====
section
/-! DEFINITION. Loads, stores, prefetch (13 R338 to R341; 04 R103 to R107), the atomics (13 R342, R343; 05 R150) and CBDEC
(12 R317). -/
namespace Sys2Proof.Machine

/-! ## Addresses and checks -/

end Sys2Proof.Machine

namespace Sys2Proof

open Machine

/-- The access size of an LMEM word in bytes (13 Table 13.4). -/
def LW.msize (f : LW) : Nat :=
  match (f.c.extractLsb' 4 2).toNat with
  | 0 => if wide f.t.toNat then 8 else 4
  | 1 => 1
  | 2 => 2
  | _ => 16

/-- The capability register of an LMEM or LATOM word. -/
def LW.mcap (f : LW) : Nat := (f.c.extractLsb' 0 4).toNat

/-- The byte offset each active lane names: x + sext(m) · size (10 R257). -/
def LW.offsets (f : LW) (c : Ctx) (m : Mask) (n : Nat) : List (Nat × Int) :=
  (lanesOf m).map fun l => (l, (c.operand f.a 0 l : Int) + f.m.toInt * n)

end Sys2Proof

namespace Sys2Proof.Machine

/-- Checks 4 and 5 of R196 for the lanes' bytes within a length: BOUNDS, then ALIGN, on the lowest lane that fails. -/
def spanFault (len n : Nat) (xs : List (Nat × Int)) : Option Raise :=
  match xs.find? fun x => x.2 < 0 || (len : Int) < x.2 + n with
  | some x => some ⟨0x06, x.1, 0⟩
  | none => (xs.find? fun x => x.2 % (n : Int) ≠ 0).map fun x => ⟨0x07, x.1, 0⟩

/-- The rights mask of read, write and atomic. -/
def rightsOf (r w a : Bool) : BitVec 12 := (if r then 1 else 0) ||| (if w then 2 else 0) ||| if a then 4 else 0

/-- The lowest lane of an access. -/
def firstLane {α : Type} (xs : List (Nat × α)) : Nat := (xs.head?.map Prod.fst).getD 0

/-- Checks 1 to 3 of R196 for a lane access, which every active lane fails alike: kind, validity and rights; a store or
atomic of an unprivileged task to a system structure lacks rights (07 R191). With no active lane they are made too: DESIGN
CHOICE (log 73). -/
def State.laneCapFault (s : State) (c : Ctx) (r : CapReg) (kind : Nat) (rights : BitVec 12) (xs : List (Nat × Int)) :
    Option Raise :=
  match s.capFault c r [kind] rights with
  | some f => some { f with lane := firstLane xs }
  | none =>
    if kind = 1 && rights.getLsbD 1 && !c.task.launch.prv && (s.obj c.task.part r.obj).t then some ⟨0x05, firstLane xs, 0⟩
    else none

/-- The checks of a lane access through a capability: kind, validity and rights, then bounds and alignment (07 R196). -/
def State.accessFault (s : State) (c : Ctx) (r : CapReg) (kind : Nat) (rights : BitVec 12) (n : Nat)
    (xs : List (Nat × Int)) : Option Raise :=
  (s.laneCapFault c r kind rights xs).orElse fun _ => spanFault r.size n xs

/-! ## Places -/

/-- The units of 8 bytes held in a core's cache that cannot be corrected and hold no dirty byte: they are fetched again (08
Table 8.1). -/
def State.stale (s : State) (core k n : Nat) : List Nat :=
  (unitsOf 8 k n).filter fun u => (s.core core).cachePoison.contains u && !s.dirtyUnit core u

/-- Whether a core's cache holds every byte of a place, good. -/
def State.held (s : State) (core k n : Nat) : Bool :=
  (List.range n).all (fun i => ((s.core core).cache.find (k + i)).isSome) && (s.stale core k n).isEmpty

/-- A core's port translates a place for an access: the companion is marked and the translation cached (07 R204). -/
def State.touch (s : State) (core k : Nat) (write : Bool) : State :=
  (s.translate (dieOf core) (keyPart k) (keyObj k) (keyCopy k) (keyOff k) write).2

/-- Whether two ranges meet. -/
def meets (a n a' n' : Nat) : Bool := a < a' + n' && a' < a + n

/-- Whether a load in flight of the troupe reads bytes of a place: the store or atomic waits for it (05 R149). -/
def Ctx.loadAt (c : Ctx) (sp : Space) (a n : Nat) : Bool :=
  c.trp.loads.any fun p => p.2.space = sp && p.2.lanes.any fun x => meets x.2 p.2.size a n

/-- Single errors at the home of bytes in bulk space are corrected for a core (08 Table 8.1); whether there were any. -/
def State.correctHome (s : State) (core k n : Nat) : Bool × State :=
  let home := (s.homeBursts (dieOf core) (keyPart k) (keyObj k) (keyCopy k) (keyOff k) n).filter s.mem.devFlips.contains
  let side := (s.homeUnits (dieOf core) (keyPart k) (keyObj k) (keyCopy k) (keyOff k) n).filter s.mem.sideFlips.contains
  match home ++ side with
  | [] => (false, s)
  | us => (true, { s with mem := { s.mem with
      devFlips := s.mem.devFlips.filter fun u => !home.contains u
      sideFlips := s.mem.sideFlips.filter fun u => !side.contains u } }.corrected core us.length)

/-- Errors that a core's access of bulk space meets are corrected: single errors in the cache and, where the cache does not hold
the bytes, in device memory and the memory-side cache before it; clean units that cannot be corrected are dropped, to be
fetched again (08 Table 8.1); whether there were any. -/
def State.correctBulk (s : State) (core k n : Nat) : Bool × State :=
  let bad := s.stale core k n
  let one := (unitsOf 8 k n).filter (s.core core).cacheFlips.contains
  let (met, s1) := if s.held core k n then (false, s) else s.correctHome core k n
  match bad ++ one with
  | [] => (met, s1)
  | us => (true, (s1.modCore core fun C => { C with
      cache := C.cache.filter fun e => !bad.contains (e.1 / 8)
      cachePoison := C.cachePoison.filter fun u => !bad.contains u
      cacheFlips := C.cacheFlips.filter fun u => !one.contains u }).corrected core us.length)

/-! ## Loads -/

/-- `n` bytes a block reads at a place: its buffered stores over the slice or the bulk cache (05 R137); none where a page is
absent. -/
def State.loadBytes (s : State) (b core : Nat) (sp : Space) (a n : Nat) : Option (List Byte × State) :=
  let buf := ((s.blocks.find b).map Block.buf).getD []
  match sp with
  | .slice => some (overlay buf .slice a (s.sliceRead a n), s)
  | .bulk =>
    if (List.range n).all fun i => (bufByte buf .bulk (a + i)).isSome then
      some (overlay buf .bulk a (List.replicate n 0), s)
    else (s.bulkRead core a n).map fun r => (overlay buf .bulk a r.1, r.2)

/-- What a loaded number of `n` bytes reads as: sign-extended to 32 bits, or as it stands. -/
def loadExt (sg : Bool) (n x : Nat) : Nat := if sg && n < 4 then wrapN 32 (sextN (8 * n) x) else x

/-- LDF.tr (13 R340): element `e` of lane `j` of a group is element `j` of row `e`, 0 where lane `e` is not active. -/
def transposed (es : Nat) (rows : List (Nat × Nat)) (l : Nat) : Nat :=
  let g := 16 / es
  (List.range g).foldl (fun x e =>
    match rows.find? fun r => r.1 = l / g * g + e with
    | some r => x + r.2 / 2 ^ (8 * es * (l % g)) % 2 ^ (8 * es) * 2 ^ (8 * es * e)
    | none => x) 0

/-- Reads all the lanes of a load: lane and value. Each place is read once, so that lanes of one address read one value (05
R136). -/
def State.loadLanes (s : State) (b core : Nat) (L : Load) : Option (List (Nat × Nat) × State) :=
  let read := (L.lanes.map Prod.snd).eraseDups.foldl (fun r a => r.bind fun (q : List (Nat × Nat) × State) =>
    (q.2.loadBytes b core L.space a L.size).map fun y => (q.1 ++ [(a, leNat y.1)], y.2)) (some ([], s))
  read.map fun q =>
    let raw := L.lanes.map fun x => (x.1, ((q.1.find? fun y => y.1 = x.2).map Prod.snd).getD 0)
    if L.transpose = 0 then (raw.map fun x => (x.1, loadExt L.signed L.size x.2), q.2)
    else (raw.map fun x => (x.1, transposed L.transpose raw x.1), q.2)

/-- The value of a lane in a list of lanes and values. -/
def laneVal (xs : List (Nat × Nat)) (l : Nat) : Nat := ((xs.find? fun x => x.1 = l).map Prod.snd).getD 0

/-- The mask of the lanes in a list. -/
def laneMask {α : Type} (xs : List (Nat × α)) : Mask := maskOf fun l => xs.any fun x => x.1 = l

/-- Writes loaded values to a register and those after it. -/
def Troupe.putWords (T : Troupe) (d words : Nat) (xs : List (Nat × Nat)) : Troupe :=
  (List.range words).foldl (fun T w => T.setV (d + w) (laneMask xs) fun l => BitVec.ofNat 32 (laneVal xs l / 2 ^ (32 * w))) T

/-- Fills the k-th reserved slot of a queue of a lane. -/
def fillSlot : Nat → Word → List (Option Word) → List (Option Word)
  | _, _, [] => []
  | 0, x, none :: r => some x :: r
  | k + 1, x, none :: r => none :: fillSlot k x r
  | k, x, some y :: r => some y :: fillSlot k x r

/-- How many earlier loads of a troupe still hold a slot of the queue in a lane. -/
def Troupe.ahead (T : Troupe) (id q l : Nat) : Nat :=
  T.loads.countP fun p => p.1 < id && p.2.queue = some q && p.2.lanes.any fun x => x.1 = l

/-- Why some places of a load cannot be read: the pages a core's cache does not make up for. -/
def State.lacksAt (s : State) (core n : Nat) (ps : List (Nat × Nat)) : List (Nat × Xlate) :=
  ps.filterMap fun p => if s.held core p.2 n then none else (s.pageOf core p.2 n false).map fun x => (p.2, x)

/-- Whether a read of a place meets poison: a byte it does not take from the store buffer lies in a poisoned unit (08
R216). -/
def State.placePoison (s : State) (buf : Tab BufEntry) (core : Nat) (sp : Space) (a n : Nat) : Bool :=
  !(List.range n).all (fun i => (bufByte buf sp (a + i)).isSome) &&
    match sp with
    | .slice => s.slicePoisoned a n
    | .bulk => s.bulkPoisoned core a n

/-- A load in flight whose object has lost its key slot since it issued reads nothing: CAPINV, detail 2, in the block's error
word, and free values in its lanes (07 R211; DESIGN CHOICE, log 74). -/
def State.lostLoad (s : State) (b t id : Nat) (L : Load) : State :=
  let xs := L.lanes.map fun x => (x.1, leNat ((List.range L.size).map fun i => Config.farByte s.tick (2 ^ 130 + 64 * x.1 + i)))
  let s1 := (s.blockErr b (some (0x03, 2)) 0).modTrp b t fun T => { T with loads := T.loads.del id }
  match L.queue with
  | none => s1.modTrp b t fun T => T.both fun T => T.putWords L.d L.words xs
  | some q => s1.modTrp b (if t < 32 then t + 32 else t - 32) fun P =>
      { P with q := xs.foldl (fun Q x => Q.set [] (32 * q + x.1) (fillSlot 0 (BitVec.ofNat 32 x.2) (P.q.get [] (32 * q + x.1)))) P.q }

/-- LOAD_RETURN's work: the load reads its places and its data reaches its register, or its reserved slots in the partner's
queue (13 R339, 06 R185). It reads no place before an earlier load of the troupe to that place has (05 R135), and a place that
has been poisoned since it issued is consumed (08 R216). Where a page has been found absent after the load issued, the events
are posted once and it waits (07 R205). -/
def State.returnLoad (s : State) (b t id : Nat) : State :=
  match s.blocks.find b with
  | none => s
  | some B =>
    match B.troupes.find t with
    | none => s
    | some T =>
      match T.loads.find id with
      | none => s
      | some L =>
        if T.loads.any fun p => p.1 < id && p.2.space = L.space &&
          p.2.lanes.any fun x => L.lanes.any fun y => meets x.2 p.2.size y.2 L.size then s
        else if (L.lanes.any fun x => s.placePoison B.buf B.core L.space x.2 L.size) then s.contain b 0x16 0
        else match s.loadLanes b B.core L with
          | none =>
            if L.lanes.any fun x => !s.keyGiven (keyPart x.2) (s.obj (keyPart x.2) (keyObj x.2)) then s.lostLoad b t id L
            else if L.lacks || (L.lanes.any fun x => s.keyHalted (keyPart x.2) (s.obj (keyPart x.2) (keyObj x.2))) then s
            else (s.lackEvents B.core (s.lacksAt B.core L.size L.lanes)).modTrp b t fun T =>
              { T with loads := T.loads.put id { L with lacks := true } }
          | some (xs, s1) =>
            let s2 := s1.modTrp b t fun T => { T with loads := T.loads.del id }
            match L.queue with
            | none => s2.modTrp b t fun T => T.both fun T => T.putWords L.d L.words xs
            | some q =>
              s2.modTrp b (if t < 32 then t + 32 else t - 32) fun P =>
                { P with q := xs.foldl (fun Q x => Q.set [] (32 * q + x.1)
                    (fillSlot (T.ahead id q x.1) (BitVec.ofNat 32 x.2) (P.q.get [] (32 * q + x.1)))) P.q }

/-- LOAD_RETURN. -/
def execLoadReturn (b t id : Nat) (s : State) : Host.Outcome State Fault Refusal := .next (s.returnLoad b t id)

end Sys2Proof.Machine

namespace Sys2Proof

open Machine

/-- The queue of a load with its queue bit set. -/
def LW.queue (f : LW) : Option Nat := if f.c.getLsbD 6 then some (f.b.extractLsb' 0 2).toNat else none

end Sys2Proof

namespace Sys2Proof.Machine

/-- Whether the partner's queue has no room in an active lane whose partner lane is live (06 R185). -/
def Ctx.full (c : Ctx) (q : Nat) (m : Mask) : Bool :=
  match c.blk.troupes.find c.partner with
  | none => false
  | some P => (lanesOf m).any fun l => P.lm.getLsbD l && decide ((P.q.get [] (32 * q + l)).length ≥ 8)

/-- Appends entries to the partner's queue; a lane whose partner lane has exited has its entry discarded (06 R185). -/
def State.pushAll (s : State) (c : Ctx) (q : Nat) (m : Mask) (x : Nat → Option Word) : State :=
  s.modTrp c.b c.partner fun P => (lanesOf m).foldl (fun P l => if P.lm.getLsbD l then P.push q l (x l) else P) P

/-- Delivers values of a load at once: to the register and, within a run, a latch; with N = 1 only to `L0`; with Q to the
partner's queue. -/
def State.loadNow (s : State) (c : Ctx) (i : Instr) (f : LW) (words : Nat) (xs : List (Nat × Nat)) : State :=
  match f.queue with
  | some q => s.pushAll c q (laneMask xs) fun l => some (BitVec.ofNat 32 (laneVal xs l))
  | none => s.onTrp c fun T =>
      (if i.n then T else T.putWords f.d.toNat words xs).latch i
        (Lanes.of fun l => if (laneMask xs).getLsbD l then BitVec.ofNat 64 (laneVal xs l) else c.idle l)

/-- Pops the queues a memory instruction reads. -/
def State.popped (s : State) (c : Ctx) (i : Instr) (m : Mask) : State := s.onTrp c fun T => T.pops i m

end Sys2Proof.Machine

namespace Sys2Proof

open Machine

/-- How many registers an LMEM word fills. -/
def LW.words (f : LW) : Nat := if f.msize ≤ 4 then 1 else f.msize / 4

end Sys2Proof

namespace Sys2Proof.Machine

/-- Errors met by an access of bulk space are corrected: COR, and `cor` counts them (08 Table 8.1). -/
def State.meetBulk (s : State) (c : Ctx) (k n : Nat) : State := s.raiseMet c (s.correctBulk c.blk.core k n)

/-- Whether a load of a place by the issuing block meets poison. -/
def State.loadPoison (s : State) (c : Ctx) (sp : Space) (a n : Nat) : Bool := s.placePoison c.blk.buf c.blk.core sp a n

/-- A load goes out: it reads at once in a run or with N = 1, where it waits for the troupe's earlier loads of its places
(05 R135), else when it returns. -/
def State.issueLoad (s : State) (c : Ctx) (i : Instr) (f : LW) (L : Load) : Res :=
  if c.trp.run.isSome || i.n then
    if L.lanes.any fun p => c.loadAt L.space p.2 L.size then .stall
    else match s.loadLanes c.b c.blk.core L with
    | none => .stall
    | some (xs, s1) => .done (s1.loadNow c i f L.words xs)
  else
    let s1 := match f.queue with
      | some q => s.pushAll c q (laneMask L.lanes) fun _ => none
      | none => s
    .done (s1.bump.onTrp c fun T => { T with loads := T.loads.put s.fresh L })

/-- What a load of slice or bulk space does before it reads (13 R339): the queue waits, the checks, poison. -/
def State.loadFx (i : Instr) (f : LW) (sp : Space) (transpose : Nat) (c : Ctx) (s : State) : Res :=
  let m := c.guarded i
  let n := f.msize
  match c.popWait i m s with
  | some r => r
  | none =>
    if (f.queue.map fun q => c.full q m) = some true then
      .park (s.onSplit c fun S => { S with wait := .queue ((f.queue).getD 0) true m })
    else
      let r := c.cap f.mcap
      let xs := f.offsets c m n
      match c.unreachable.orElse fun _ => s.accessFault c r (if sp = .slice then 2 else 1) (rightsOf true false false) n xs with
      | some e => .trap e
      | none =>
        let at' (x : Int) : Nat := match sp with
          | .slice => s.capSlice r x.toNat
          | .bulk => s.capKey c.task.part r x.toNat
        let places := xs.map fun x => (x.1, at' x.2)
        match places.find? fun p => s.loadPoison c sp p.2 n with
        | some p => .trap ⟨0x16, p.1, 0⟩
        | none =>
          let L (ps : List (Nat × Nat)) : Load :=
            { space := sp, lanes := ps, size := n, signed := f.t = 0, words := f.words, d := f.d.toNat, queue := f.queue,
              transpose := transpose }
          match sp with
          | .slice => (places.foldl (fun s p => s.meetFlips c p.2 n) (s.popped c i m)).issueLoad c i f (L places)
          | .bulk =>
            let lack (p : Nat × Nat) : Option Xlate :=
              if s.held c.blk.core p.2 n then none else s.pageOf c.blk.core p.2 n false
            match places.find? fun p => lack p = some .bounds with
            | some p => .trap ⟨0x06, p.1, 0⟩
            | none =>
              let here := places.filter fun p => (lack p).isNone
              let out := places.filter fun p => (lack p).isSome
              let go := (here.foldl (fun s p =>
                let s1 := s.meetBulk c p.2 n
                if s1.held c.blk.core p.2 n then s1 else s1.touch c.blk.core p.2 false)
                (s.popped c i (laneMask here))).issueLoad c i f (L here)
              if out.isEmpty then go
              else
                let s1 := if c.trp.run.isSome || here.isEmpty then some s
                  else match go with
                    | .done s' => some s'
                    | _ => none
                match s1 with
                | none => .stall
                | some s1 => .park (s1.parkPages c (s.lacksAt c.blk.core n out) false (laneMask out))

/-- LDS. -/
def execLds (f : LW) (s : State) : Host.Outcome State Fault Refusal := s.issueWord (.lds f) (State.loadFx (.lds f) f .slice 0)
/-- LDB. -/
def execLdb (f : LW) (s : State) : Host.Outcome State Fault Refusal := s.issueWord (.ldb f) (State.loadFx (.ldb f) f .bulk 0)

end Sys2Proof.Machine

namespace Sys2Proof

open Machine

/-- The element bytes of a transposing LDF or STF: 0 without `.tr` (13 R340). -/
def LW.tr (f : LW) : Nat := if f.c.getLsbD 7 then elW f.t.toNat / 8 else 0

end Sys2Proof

namespace Sys2Proof.Machine

/-- LDF. -/
def execLdf (f : LW) (s : State) : Host.Outcome State Fault Refusal :=
  s.issueWord (.ldf f) (State.loadFx (.ldf f) f .slice f.tr)

/-- The place of a byte of a lane's private window (04 R104). -/
def privAt (t l a : Nat) : Nat := 16384 * (32 * t + l) + a

/-- Single errors met in units of the lane-private windows are corrected and counted (08 R214). -/
def State.meetPriv (s : State) (c : Ctx) (units : List Nat) : State :=
  match units.eraseDups.filter c.blk.privFlips.contains with
  | [] => s
  | us => ((s.modBlk c.b fun B => { B with privFlips := B.privFlips.filter fun u => !us.contains u }).corrected c.blk.core
      us.length).raise c fCOR

/-- A load of a space without capabilities (04 R104, R105): `len` bytes long, `byte` of a lane; `units` gives the protection
units a lane's bytes lie in, of those that can hold errors (08 R214, R398). -/
def State.plainLoad (i : Instr) (f : LW) (len : Nat) (byte : Nat → Nat → Byte) (units : Nat → Nat → List Nat) (c : Ctx)
    (s : State) : Res :=
  let m := c.guarded i
  let n := f.msize
  match c.popWait i m s with
  | some r => r
  | none =>
    if (f.queue.map fun q => c.full q m) = some true then
      .park (s.onSplit c fun S => { S with wait := .queue ((f.queue).getD 0) true m })
    else
      let xs := f.offsets c m n
      match (c.unreachable.orElse fun _ => spanFault len n xs).orElse fun _ =>
          (xs.find? fun x => (units x.1 x.2.toNat).any c.blk.privPoison.contains).map fun x => ⟨0x16, x.1, 0⟩ with
      | some e => .trap e
      | none =>
        .done (((s.popped c i m).meetPriv c (xs.flatMap fun x => units x.1 x.2.toNat)).loadNow c i f f.words (xs.map fun x =>
          (x.1, loadExt (f.t = 0) n (leNat ((List.range n).map fun k => byte x.1 (x.2.toNat + k))))))

/-- LDL. -/
def execLdl (f : LW) (s : State) : Host.Outcome State Fault Refusal :=
  s.issueWord (.ldl f) fun c s =>
    State.plainLoad (.ldl f) f 16384 (fun l a => Tab.get 0#8 c.blk.priv (privAt c.t l a))
      (fun l a => unitsOf 8 (privAt c.t l a) f.msize) c s
/-- LDK. -/
def execLdk (f : LW) (s : State) : Host.Outcome State Fault Refusal :=
  s.issueWord (.ldk f) fun c s =>
    State.plainLoad (.ldk f) f c.task.launch.arglen (fun _ a => c.task.args.getD a 0) (fun _ _ => []) c s

/-! ## Stores -/

end Sys2Proof.Machine

namespace Sys2Proof

open Machine

/-- The data of a store in a lane: the low bytes of b, or four registers (13 R338). -/
def LW.sdata (f : LW) (c : Ctx) (n l : Nat) : List Byte :=
  if n = 16 then (List.range 4).flatMap fun w => leBytes 4 (c.reg (f.b.toNat + w) l)
  else leBytes n (c.operand f.b f.t.toNat l)

end Sys2Proof

namespace Sys2Proof.Machine

/-- A block's stores enter its buffer. Where the entries that are left after an overflow's drain leave no room, the
instruction waits, and commits again what is there (05 R139). -/
def State.storeRoom (s : State) (b : Nat) (s1 : State) : State × Bool :=
  match s1.blocks.find b with
  | some B => if bufSize B.buf > 65536 then (s.overflow b, false) else (s1, true)
  | none => (s1, true)

/-- A store of slice or bulk space: `parts` gives, for the lanes that store, the bytes of the access each row or lane stores,
and the places among them it does not store to. Stores take effect in ascending lane order (05 R136) and enter the store
buffer (05 R137). -/
def State.storeFx (i : Instr) (f : LW) (sp : Space) (parts : Ctx → Mask → Nat → List Byte × List Nat) (c : Ctx)
    (s : State) : Res :=
  let m := c.guarded i
  let n := f.msize
  match c.popWait i m s with
  | some r => r
  | none =>
    let r := c.cap f.mcap
    let xs := f.offsets c m n
    match c.unreachable.orElse fun _ => s.accessFault c r (if sp = .slice then 2 else 1) (rightsOf false true false) n xs with
    | some e => .trap e
    | none =>
      let at' (x : Int) : Nat := match sp with
        | .slice => s.capSlice r x.toNat
        | .bulk => s.capKey c.task.part r x.toNat
      let places := xs.map fun x => (x.1, at' x.2)
      if places.any fun p => c.loadAt sp p.2 n then .stall
      else
        let put (s : State) (p : Nat × Nat) : State :=
          s.bufPut c.b sp p.2 (parts c m p.1).1 (parts c m p.1).2
        match sp with
        | .slice =>
          match places.find? fun p => s.barred p.2 n with
          | some p => .trap ⟨0x05, p.1, 0⟩
          | none =>
            let (s1, ok) := s.storeRoom c.b (places.foldl put (s.popped c i m))
            if ok then .done s1 else .park s1
        | .bulk =>
          let lack (p : Nat × Nat) : Option Xlate := s.pageOf c.blk.core p.2 n true
          match places.find? fun p => lack p = some .bounds with
          | some p => .trap ⟨0x06, p.1, 0⟩
          | none =>
            let here := places.filter fun p => (lack p).isNone
            let out := places.filter fun p => (lack p).isSome
            let (s1, ok) := s.storeRoom c.b
              (here.foldl (fun s p => put (s.touch c.blk.core p.2 true) p) (s.popped c i (laneMask here)))
            if !ok then .park s1
            else if out.isEmpty then .done s1
            else .park ((if c.trp.run.isSome || here.isEmpty then s else s1).parkPages c
              (out.filterMap fun p => (lack p).map fun x => (p.2, x)) true (laneMask out))

/-- STS. -/
def execSts (f : LW) (s : State) : Host.Outcome State Fault Refusal :=
  s.issueWord (.sts f) (State.storeFx (.sts f) f .slice fun c _ l => (f.sdata c f.msize l, []))
/-- STB. -/
def execStb (f : LW) (s : State) : Host.Outcome State Fault Refusal :=
  s.issueWord (.stb f) (State.storeFx (.stb f) f .bulk fun c _ l => (f.sdata c f.msize l, []))

/-- STF's row: 16 bytes, or with `.tr` element `e` of row `j` is element `j` of lane `e`, and the bytes of the elements of
lanes that are not active are not stored to (13 R340). -/
def stfParts (f : LW) (c : Ctx) (m : Mask) (l : Nat) : List Byte × List Nat :=
  if f.tr = 0 then (f.sdata c 16 l, [])
  else
    let g := 16 / f.tr
    let lane (k : Nat) : Nat := l / g * g + k / f.tr
    ((List.range 16).map fun k => (f.sdata c 16 (lane k)).getD (f.tr * (l % g) + k % f.tr) 0,
      (List.range 16).filter fun k => !m.getLsbD (lane k))

/-- STF. -/
def execStf (f : LW) (s : State) : Host.Outcome State Fault Refusal :=
  s.issueWord (.stf f) (State.storeFx (.stf f) f .slice (stfParts f))

/-- STL: not buffered (04 R104). A unit it replaces whole loses its errors (08 R398). -/
def execStl (f : LW) (s : State) : Host.Outcome State Fault Refusal :=
  s.issueWord (.stl f) fun c s =>
    let m := c.guarded (.stl f)
    match c.popWait (.stl f) m s with
    | some r => r
    | none =>
      let xs := f.offsets c m f.msize
      match c.unreachable.orElse fun _ => spanFault 16384 f.msize xs with
      | some e => .trap e
      | none =>
        let whole := xs.flatMap fun x => unitsIn 8 (privAt c.t x.1 x.2.toNat) f.msize
        .done ((s.popped c (.stl f) m).modBlk c.b fun B => { B with
          priv := xs.foldl (fun p x => Mem.write p (privAt c.t x.1 x.2.toNat) (f.sdata c f.msize x.1)) B.priv
          privPoison := B.privPoison.filter fun u => !whole.contains u
          privFlips := B.privFlips.filter fun u => !whole.contains u })

/-- PFB: checks 1 to 3; a lane that fails another, or whose page is absent or not writable, is dropped (13 R341). In a run it
shifts no latch: DESIGN CHOICE (log 59), since 01 R37 does not say whether a lane instruction without a result does. -/
def execPfb (f : LW) (s : State) : Host.Outcome State Fault Refusal :=
  s.issueWord (.pfb f) fun c s =>
    let m := c.guarded (.pfb f)
    match c.popWait (.pfb f) m s with
    | some r => r
    | none =>
      let r := c.cap f.mcap
      let all := f.offsets c m f.msize
      match c.unreachable.orElse fun _ => s.laneCapFault c r 1 (rightsOf true false false) all with
      | some e => .trap e
      | none =>
        let key (x : Nat × Int) : Nat := s.capKey c.task.part r x.2.toNat
        let xs := all.filter fun x => (spanFault r.size f.msize [x]).isNone &&
          (s.pageOf c.blk.core (key x) f.msize true).isNone
        .done (xs.foldl (fun s x => if s.lineHeld c.blk.core (key x) then s
            else (s.fillLine c.blk.core (key x) f.msize (key x)).getD s)
          (s.popped c (.pfb f) m))

/-! ## Atomics -/

/-- op(o, b) of an atomic, by operation and type code (13 R342); no flag. -/
def atomOp (op t o b : Nat) : Nat :=
  match ety t, op with
  | .fl F, 6 => if (F.decode b).isNan then F.cnan else b
  | _, 6 => b
  | .fl F, 0 => (F.add 0 0 o b).1
  | .fl F, 1 => F.minNum o b
  | .fl F, _ => F.maxNum o b
  | .int w _, 0 => (o + b) % 2 ^ w
  | .int w sg, 1 => if intOf w sg b < intOf w sg o then b else o
  | .int w sg, 2 => if intOf w sg o < intOf w sg b then b else o
  | .int _ _, 3 => Nat.land o b
  | .int _ _, 4 => Nat.lor o b
  | .int _ _, _ => Nat.xor o b

/-- What the lanes at one address do to it (05 R150, 04 R130): the values they receive and the new value. Each lane acts
alone in ascending order, but float adds are summed first, with one rounding a step. -/
def combine (cas : Bool) (op t old : Nat) (xs : List (Nat × Nat × Nat)) : List (Nat × Nat) × Nat :=
  match ety t with
  | .fl F =>
    if op = 0 then
      let r := xs.foldl (fun (p : List (Nat × Nat) × Option Nat) x =>
        (p.1 ++ [(x.1, p.2.elim old fun q => (F.add 0 0 old q).1)], some (p.2.elim x.2.1 fun q => (F.add 0 0 q x.2.1).1)))
        ([], none)
      (r.1, r.2.elim old fun q => (F.add 0 0 old q).1)
    else each xs
  | .int _ _ => each xs
where
  /-- Lane by lane. -/
  each (xs : List (Nat × Nat × Nat)) : List (Nat × Nat) × Nat :=
    xs.foldl (fun (p : List (Nat × Nat) × Nat) x =>
      (p.1 ++ [(x.1, p.2)], if cas then (if p.2 = x.2.2 then x.2.1 else p.2) else atomOp op t p.2 x.2.1)) ([], old)

/-- The operands of the one operation a core sends for the lanes of an address, with the expected values (04 R129): the sum
of an add, formed by R130 for floats; else each lane's, in order. -/
def sentOperands (cas : Bool) (op t : Nat) (xs : List (Nat × Nat × Nat)) : List (Nat × Nat) :=
  if op ≠ 0 || cas then xs.map Prod.snd
  else match xs with
    | [] => []
    | x :: r => [(r.foldl (fun q y => match ety t with
        | .fl F => (F.add 0 0 q y.2.1).1
        | .int w _ => (q + y.2.1) % 2 ^ w) x.2.1, 0)]

/-- A slice atomic at its port; in another package one operation, on a value that is free here (09 R236). -/
def State.atomSlice (s : State) (c : Ctx) (cas : Bool) (op t n a : Nat) (xs : List (Nat × Nat × Nat)) :
    List (Nat × Nat) × State :=
  let r := combine cas op t (s.sliceNat a n) xs
  (r.1, if s.here a then s.sliceSet a n r.2
    else s.send (pkgOfSlice a) c.b (.atomic (.slice a) cas op t (sentOperands cas op t xs)))

/-- A bulk atomic at its point of coherence, after the core's line for it has been written back and dropped (05 R140). On an
object of another package it is one operation sent there, behind that write-back (04 R128, 05 R158). -/
def State.atomBulk (s : State) (c : Ctx) (cas : Bool) (op t n k : Nat) (xs : List (Nat × Nat × Nat)) :
    Option (List (Nat × Nat) × State) :=
  let line (j : Nat) : Bool := j / 128 = k / 128
  let (ok, s1) := s.writeBack c.blk.core fun j _ => line j
  if !ok then none
  else
    let s2 := s1.invalidate c.blk.core line
    match s2.keyRead c.blk.core k n with
    | none => none
    | some (bs, s3) =>
      let r := combine cas op t (leNat bs) xs
      match (s3.translate (dieOf c.blk.core) (keyPart k) (keyObj k) (keyCopy k) (keyOff k) true).1 with
      | .far pkg o => some (r.1, s3.send pkg c.b (.atomic (.bulk (keyPart k) o (keyOff k) (keyCopy k ≠ (s3.obj (keyPart k) (keyObj k)).copy false)) cas op t (sentOperands cas op t xs)))
      | _ => (s3.keyWrite c.blk.core c.b k (leBytes n r.2)).map fun s4 => (r.1, s4)

/-- The lanes of an atomic by address, in ascending order of their lowest lane (04 R129). -/
def atomGroups (ps : List (Nat × Nat)) : List (Nat × List Nat) :=
  (ps.map Prod.snd).eraseDups.map fun a => (a, (ps.filter fun p => p.2 = a).map Prod.fst)

/-- An atomic or reduction (13 R342, R343). -/
def State.atomFx (i : Instr) (f : LW) (sp : Space) (cas ret : Bool) (c : Ctx) (s : State) : Res :=
  let m := c.guarded i
  let t := f.t.toNat
  let n := if wide t then 8 else 4
  let op := (f.c.extractLsb' 4 4).toNat
  match c.popWait i m s with
  | some r => r
  | none =>
    let r := c.cap f.mcap
    let xs := f.offsets c m n
    let none' := sp = .bulk && (s.obj c.task.part r.obj).place = 0
    match c.unreachable.orElse fun _ => (s.laneCapFault c r (if sp = .slice then 2 else 1) (rightsOf ret true true) xs).orElse
        fun _ => if none' then some ⟨0x05, firstLane xs, 0⟩
        else s.accessFault c r (if sp = .slice then 2 else 1) (rightsOf ret true true) n xs with
    | some e => .trap e
    | none =>
      let at' (x : Int) : Nat := match sp with
        | .slice => s.capSlice r x.toNat
        | .bulk => s.capKey c.task.part r x.toNat
      let places := xs.map fun x => (x.1, at' x.2)
      let arg (l : Nat) : Nat × Nat × Nat := (l, c.operand f.b t l, if cas then c.regs (wide t) f.d.toNat l else 0)
      if places.any fun p => c.loadAt sp p.2 n then .stall
      else
        let give (s : State) (vs : List (Nat × Nat)) : State :=
          if ret && !i.n then s.onTrp c fun T => T.putWords f.d.toNat (if wide t then 2 else 1) vs else s
        match sp with
        | .slice =>
          match places.find? fun p => s.barred p.2 n with
          | some p => .trap ⟨0x05, p.1, 0⟩
          | none =>
            let s1 := places.foldl (fun s p => s.drainRange c.b .slice p.2 n) s
            let left := match s1.blocks.find c.b with
              | some B => places.any fun p => !(bufTouch B.buf .slice p.2 n).isEmpty
              | none => false
            if left then .park s1
            else match places.find? fun p => s1.slicePoisoned p.2 n with
            | some p => .trap ⟨0x16, p.1, 0⟩
            | none =>
                let s2 := (places.foldl (fun s p => s.meetFlips c p.2 n) (s1.popped c i m))
                let s3 := if places.isEmpty then s2 else s2.modBlk c.b fun B => { B with window := false }
                .done ((atomGroups places).foldl (fun s g =>
                  let r := s.atomSlice c cas op t n g.1 (g.2.map arg)
                  give r.2 r.1) s3)
        | .bulk =>
            let lack (p : Nat × Nat) : Option Xlate := s.pageOf c.blk.core p.2 n true
            match places.find? fun p => lack p = some .bounds with
            | some p => .trap ⟨0x06, p.1, 0⟩
            | none =>
              let s1 := (s.commit c.b).drainAll c.b
              let left := match s1.blocks.find c.b with
                | some B => !B.buf.isEmpty
                | none => false
              if left then .park s1
              else match places.find? fun p => s1.bulkPoisoned c.blk.core p.2 n with
              | some p => .trap ⟨0x16, p.1, 0⟩
              | none =>
                let here := places.filter fun p => (lack p).isNone
                let out := places.filter fun p => (lack p).isSome
                let s2 := here.foldl (fun s p => s.meetBulk c p.2 n) (s1.popped c i (laneMask here))
                let s3 := (atomGroups here).foldl (fun s g =>
                  match s.atomBulk c cas op t n g.1 (g.2.map arg) with
                  | some r => give r.2 r.1
                  | none => s) s2
                if out.isEmpty then .done s3
                else .park ((if c.trp.run.isSome || here.isEmpty then s1 else s3).parkPages c (out.filterMap fun p => (lack p).map fun x => (p.2, x)) true (laneMask out))

/-- ATS. -/
def execAts (f : LW) (s : State) : Host.Outcome State Fault Refusal :=
  s.issueWord (.ats f) (State.atomFx (.ats f) f .slice false true)
/-- ATB. -/
def execAtb (f : LW) (s : State) : Host.Outcome State Fault Refusal :=
  s.issueWord (.atb f) (State.atomFx (.atb f) f .bulk false true)
/-- CASS. -/
def execCass (f : LW) (s : State) : Host.Outcome State Fault Refusal :=
  s.issueWord (.cass f) (State.atomFx (.cass f) f .slice true true)
/-- CASB. -/
def execCasb (f : LW) (s : State) : Host.Outcome State Fault Refusal :=
  s.issueWord (.casb f) (State.atomFx (.casb f) f .bulk true true)
/-- REDS. -/
def execReds (f : LW) (s : State) : Host.Outcome State Fault Refusal :=
  s.issueWord (.reds f) (State.atomFx (.reds f) f .slice false false)
/-- REDB. -/
def execRedb (f : LW) (s : State) : Host.Outcome State Fault Refusal :=
  s.issueWord (.redb f) (State.atomFx (.redb f) f .bulk false false)

/-! ## CBDEC and QPUSH -/

/-- Weight `i` of a cb8 code with its table entry, in quarters (02 R47, R48). -/
def cbWeight (code entry i : Nat) : Int :=
  let par := (List.range 7).foldl (fun p k => p != bit code (1 + k)) false
  let neg := if i < 7 then bit code (1 + i) else par
  let q : Int := 2 * bits entry (2 * i + 1) (2 * i) + code % 2
  if neg then -q else q

/-- CBDEC's result (12 R317): group `g` of the weights, i8x4 as quarters, else exact with zero as +0. -/
def cbdec (t g code entry : Nat) : Nat :=
  packed t fun e =>
    let w := cbWeight code entry (g * lanesIn t + e)
    match ety t with
    | .fl F => (F.deliver 0 0 false false (.fin (w < 0) w.natAbs (-2))).1
    | .int b _ => wrapN b w

/-- CBDEC: each active lane reads its own table entry of the slice region. It is a memory instruction, which takes a pending
ABORTED (DESIGN CHOICE, log 17: 12 R296 does not list that fault), and with no active lane it still makes checks 1 to 3 (DESIGN
CHOICE, log 73). -/
def execCbdec (f : LW) (s : State) : Host.Outcome State Fault Refusal :=
  s.issueWord (.cbdec f) fun c s =>
    let m := c.guarded (.cbdec f)
    match c.popWait (.cbdec f) m s with
    | some r => r
    | none =>
      let r := c.cap (f.c.extractLsb' 0 4).toNat
      let code (l : Nat) : Nat := c.operand f.a 0 l % 2 ^ 16
      let xs : List (Nat × Int) := (lanesOf m).map fun l => (l, ((2 * (code l / 256) : Nat) : Int))
      match c.unreachable.orElse fun _ => s.accessFault c r 2 (rightsOf true false false) 2 xs with
      | some e => .trap e
      | none =>
        let place (l : Nat) : Nat := s.capSlice r (2 * (code l / 256))
        match xs.find? fun x => s.loadPoison c .slice (place x.1) 2 with
        | some x => .trap ⟨0x16, x.1, 0⟩
        | none =>
          if xs.any fun x => c.loadAt .slice (place x.1) 2 then .stall
          else
          let entry (l : Nat) : Nat := leNat (overlay c.blk.buf .slice (place l) (s.sliceRead (place l) 2))
          laneFx (.cbdec f) (.v false f.d.toNat) (fun _ l =>
            (cbdec f.t.toNat (f.m.extractLsb' 0 3).toNat (code l) (entry l), 0)) c
            (xs.foldl (fun s x => s.meetFlips c (place x.1) 2) s)

/-- QPUSH (13 R328, 06 R185). -/
def execQpush (f : LR) (s : State) : Host.Outcome State Fault Refusal :=
  s.issueWord (.qpush f) fun c s =>
    let m := c.guarded (.qpush f)
    let q := (f.b.extractLsb' 0 2).toNat
    match c.popWait (.qpush f) m s with
    | some r => r
    | none =>
      if c.full q m then .park (s.onSplit c fun S => { S with wait := .queue q true m })
      else .done ((s.popped c (.qpush f) m).pushAll c q m fun l => some (BitVec.ofNat 32 (c.operand f.a 0 l)))

end Sys2Proof.Machine
end

