-- ==== Sys2Proof/Machine/CapOps.lean ====
section
/-! DEFINITION. Capability instructions, channels and messages (14 R351 to R357; 07 R208, R209). -/
namespace Sys2Proof.Machine

/-! ## CLD, CNAR, CINF, CCLR -/

/-- A core's port translates a word address (07 R204). -/
def State.waTouch (s : State) (core part wa : Nat) (write : Bool) : State :=
  if bits wa 63 40 = 0 then s
  else s.touch core (bulkKey part (bits wa 63 40) ((s.obj part (bits wa 63 40)).copy false) (bits wa 39 0)) write

/-- Whether bytes at a word address are poisoned at their home (08 R216). -/
def State.waPoisoned (s : State) (part wa n : Nat) : Bool :=
  if bits wa 63 40 = 0 then s.slicePoisoned (bits wa 39 0) n
  else s.homePoisoned ioAsks part (bits wa 63 40) ((s.obj part (bits wa 63 40)).copy false) (bits wa 39 0) n

/-- The issuing split waits for the pages a system structure it uses lacks (04 R107). -/
def State.parkAt (s : State) (c : Ctx) (ks : List (Nat × Xlate)) (write : Bool) : Res :=
  .park (s.parkPages c ks write c.active)

/-- The check of CLD (14 R352): a fault's code and detail. -/
def State.cldFault (s : State) (core : Nat) (K : Task) (i : Nat) : Option (Nat × Nat) :=
  if i ≥ 256 then some (0x06, 0)
  else
    let x := s.tabEntry K i
    let c : CapReg := { bits := BitVec.ofNat 128 x }
    if !s.tabServes K i then some (0x03, 2)
    else if !bit x 128 then some (0x03, 0)
    else if bit x 129 then some (0x0E, bits x 137 130)
    else if !c.wellFormed || !s.capOwned K.part c || (c.kind ≠ 0 && !s.current core K.part c) ||
        (c.kind = 7 && (s.cardBin core c).isNone) then some (0x03, 0)
    else none

/-- CLD: the core caches the object's generation (07 R201). It waits for an absent page of the table (04 R107), and a poisoned
entry is consumed (08 R216). -/
def execCld (f : UW) (s : State) : Host.Outcome State Fault Refusal :=
  s.issueWord (.cld f) fun c s =>
    let i := if f.bit 8 then (c.sr f.a).toNat else f.f 7 0
    let wa := c.task.entryAt i
    let lacks := if i ≥ 256 then [] else s.waLacks c.blk.core c.task.part wa 32 false
    if !lacks.isEmpty then s.parkAt c lacks false
    else if decide (i < 256) && s.waPoisoned c.task.part wa 32 then .trap ⟨0x16, 0, 0⟩
    else match s.cldFault c.blk.core c.task i with
    | some e => .trap ⟨e.1, 0, e.2⟩
    | none =>
      let s := s.waTouch c.blk.core c.task.part wa false
      let x : CapReg := { bits := BitVec.ofNat 128 (s.tabEntry c.task i), tag := some i }
      let s1 := if x.kind = 0 then s
        else s.modCore c.blk.core fun C => { C with gens := C.gens.put (2 ^ 24 * c.task.part + x.obj) x.gen }
      .done (s1.setC c f.cN x)

/-- A capability narrowed (14 R353): a byte offset, a byte length, a rights mask. -/
def CapReg.narrow (c : CapReg) (a n : Nat) (mask : BitVec 12) : CapReg :=
  { c with bits := c.bits.extractLsb' 124 4 ++ (c.rights &&& mask) ++ c.bits.extractLsb' 72 40 ++
      BitVec.ofNat 36 (c.base + a / 16) ++ BitVec.ofNat 36 (n / 16) }

/-- CNAR. -/
def execCnar (f : UW) (s : State) : Host.Outcome State Fault Refusal :=
  s.issueWord (.cnar f) fun c s =>
    let r := c.cap f.cM
    let a := (c.sr f.a).toNat
    let n := (c.sr f.b).toNat
    match s.capFault c r [1, 2, 3, 4, 5, 6, 8] 0x100#12 with
    | some e => .trap e
    | none =>
      if a + n > r.size || (r.kind = 4 && a ≠ 0) then .trap ⟨0x06, 0, 0⟩
      else if a % 16 ≠ 0 || n % 16 ≠ 0 then .trap ⟨0x07, 0, 0⟩
      else .done (s.setC c f.cN (r.narrow a n (BitVec.ofNat 12 (f.f 11 0))))

/-- A field of a capability register (14 Table 14.2). -/
def State.cinf (s : State) (K : Task) (r : CapReg) (f : Nat) : Nat :=
  match f with
  | 0 => r.kind
  | 1 => r.rights.toNat
  | 2 => r.obj
  | 3 => r.gen
  | 4 => r.base
  | 5 => r.len
  | 6 => match r.tag with
    | some i => if r.kind = 4 then bits (s.tabEntry K i) 195 160 else 0
    | none => 0
  | _ => r.tag.getD 0x100

/-- CINF. It needs no right, and any kind will do; a null register has no entry to be valid in (14 R350, R354). -/
def execCinf (f : UW) (s : State) : Host.Outcome State Fault Refusal :=
  s.issueWord (.cinf f) fun c s =>
    let r := c.cap f.cN
    match (if r.kind = 0 then none else s.capFault c r [r.kind] 0x000#12) with
    | some e => .trap e
    | none => .done (s.setS c f.d (BitVec.ofNat 64 (s.cinf c.task r (f.f 2 0))))

/-- CCLR. -/
def execCclr (f : UW) (s : State) : Host.Outcome State Fault Refusal :=
  s.issueWord (.cclr f) fun c s => .done (s.setC c f.cN {})

/-! ## Channels (14 R355) -/

/-- A channel's directory entry (14 Table 14.3); none where the channel does not exist. -/
structure Chan where
  slot : Nat
  slots : Nat
  ring : Nat
  deriving DecidableEq, Repr

/-- Where the directory entry of a channel object stands: a word address. -/
def State.chanAt (s : State) (part obj : Nat) : Nat :=
  ((s.ctl.parts.find part).map fun P => P.cfg.channels + 16 * (obj % 4096)).getD 0

/-- The directory entry of a channel object. -/
def State.chan (s : State) (part obj : Nat) : Option Chan :=
  match s.ctl.parts.find part with
  | none => none
  | some _ =>
    let x := s.waNat part (s.chanAt part obj) 16
    if bit x 0 && bits x 39 16 = obj then some ⟨bits x 11 2, 2 ^ bits x 15 12, bits x 127 64⟩ else none

/-- The head count of a ring. -/
def State.ringHead (s : State) (part : Nat) (ch : Chan) : Nat := s.waNat part ch.ring 4
/-- The tail count of a ring. -/
def State.ringTail (s : State) (part : Nat) (ch : Chan) : Nat := s.waNat part (ch.ring + 8) 4
/-- How many messages a ring holds. -/
def State.ringFill (s : State) (part : Nat) (ch : Chan) : Nat :=
  wrapN 32 ((s.ringTail part ch : Int) - s.ringHead part ch)
/-- The place of a slot by its count: a 16-byte header and then `slot` granules of payload. -/
def Chan.at (ch : Chan) (n : Nat) : Nat := ch.ring + 16 + n % ch.slots * (16 + 16 * ch.slot)

/-- Whether a channel holds a message. -/
def State.hasMsg (s : State) (part obj : Nat) : Bool :=
  match s.chan part obj with
  | some ch => s.ringFill part ch ≠ 0
  | none => false

end Sys2Proof.Machine

namespace Sys2Proof

/-- The header word of a message (14 R356): length, sending core and package. -/
def Msg.header (m : Msg) : Nat := m.data.length + m.core % 2048 * 2 ^ 32 + m.pkg % 64 * 2 ^ 43

end Sys2Proof

namespace Sys2Proof.Machine

/-- The pages of the table entry SEND charges, as far as they are absent. -/
def State.sendLacks (s : State) (c : Ctx) (r : CapReg) : List (Nat × Xlate) :=
  match r.tag with
  | some i => s.waLacks c.blk.core c.task.part (c.task.entryAt i) 32 true
  | none => []

/-- SEND (14 R356): it charges the register and the table entry, and is a commit point and a release at `.pod`; the
message leaves when the release is done. -/
def execSend (f : UW) (s : State) : Host.Outcome State Fault Refusal :=
  s.issueWord (.send f) fun c s =>
    let r := c.cap f.cN
    let p := c.cap f.cM
    let a := (c.sr f.a).toNat
    let n := (c.sr f.b).toNat
    let bad := (c.unreachable.orElse fun _ => s.capFault c r [4] 0x020#12).orElse fun _ =>
      (s.capFault c p [2] 0x001#12).orElse fun _ => if a + n > p.size then some ⟨0x06, 0, 0⟩ else none
    match bad with
    | some e => .trap e
    | none =>
      let left := match r.tag with
        | some i => bits (s.tabEntry c.task i) 195 160
        | none => r.len
      if a % 16 ≠ 0 || n % 16 ≠ 0 then .trap ⟨0x07, 0, 0⟩
      else if n = 0 || decide (n > 4096) then .trap ⟨0x11, 0, 0⟩
      else if n / 16 > r.len || decide (n / 16 > left) then .trap ⟨0x06, 0, 0⟩
      else
        let at' := s.capSlice p a
        if !(s.sendLacks c r).isEmpty then s.parkAt c (s.sendLacks c r) true
        else if s.loadPoison c .slice at' n then .trap ⟨0x16, 0, 0⟩
        else
          let s := s.meetFlips c at' n
          let data := overlay c.blk.buf .slice at' (s.sliceRead at' n)
          let m : Msg := ⟨c.task.part, r.obj, r.gen, c.blk.core, s.ctl.pkg, c.b, c.blk.task, r.tag, data⟩
          let s1 := s.setC c f.cN (r.narrow 0 (16 * (r.len - n / 16)) 0xFFF#12)
          let s2 := match r.tag with
            | some i => (s1.waTouch c.blk.core c.task.part (c.task.entryAt i) true).waWrite c.task.part
                (c.task.entryAt i + 20) (leBytes 5 (left - n / 16 + bits (s.tabEntry c.task i) 199 196 * 2 ^ 36))
            | none => s1
          .done (s2.startRelease c.b [] (.send m))

/-- RECV (14 R357). A payload for a slice of another package is accepted there before the split goes on. -/
def execRecv (f : UW) (s : State) : Host.Outcome State Fault Refusal :=
  s.issueWord (.recv f) fun c s =>
    let r := c.cap f.cN
    let p := c.cap f.cM
    let a := (c.sr f.a).toNat
    let n := (c.sr f.b).toNat
    let part := c.task.part
    match (s.capFault c r [4] 0x040#12).orElse fun _ =>
        (s.capFault c p [2] 0x002#12).orElse fun _ => if a + n > p.size then some ⟨0x06, 0, 0⟩ else none with
    | some e => .trap e
    | none =>
      let dir := s.waLacks c.blk.core part (s.chanAt part r.obj) 16 false
      let head := ((s.chan part r.obj).map fun ch => s.waLacks c.blk.core part ch.ring 16 true).getD []
      if !dir.isEmpty then s.parkAt c dir false
      else if !head.isEmpty then s.parkAt c head true
      else if s.waPoisoned part (s.chanAt part r.obj) 16 || (s.chan part r.obj).any (fun ch => s.waPoisoned part ch.ring 16) then
        .trap ⟨0x16, 0, 0⟩
      else match (if s.hasMsg part r.obj then s.chan part r.obj else none) with
      | none =>
        if f.bit 8 then .park (s.onSplit c fun S => { S with wait := .recv part r.obj })
        else .done ((s.setS c f.d 0).expose c)
      | some ch =>
        let h := s.ringHead part ch
        let lacks := s.waLacks c.blk.core part (ch.at h) (16 + 16 * ch.slot) false
        let hdr := s.waNat part (ch.at h) 8
        let len := hdr % 2 ^ 32
        if !lacks.isEmpty then s.parkAt c lacks false
        else if s.waPoisoned part (ch.at h) 16 then .trap ⟨0x16, 0, 0⟩
        else if len > n then .trap ⟨0x06, 0, 0⟩
        else if s.waPoisoned part (ch.at h + 16) len then .trap ⟨0x16, 0, 0⟩
        else
          let data := (s.waRead part (ch.at h + 16) len).getD (List.replicate len 0)
          let s := (s.waTouch c.blk.core part ch.ring true).waTouch c.blk.core part (ch.at h) false
          let s1 := s.waWrite part ch.ring (leBytes 4 (h + 1))
          let s2 := s1.sliceStore c.b (s.capSlice p a) data
          let s3 := ((s2.setS c f.d (BitVec.ofNat 64 hdr)).invalidate c.blk.core fun _ => true).expose c
          if s.here (s.capSlice p a) || data.isEmpty then .done s3
          else .went (s3.bump.onSplit c fun S => { S with wait := .payload s2.fresh, only := none })

/-! ## Messages on their way (07 R209) -/

/-- Whether a message is the first of its channel on its way. -/
def State.firstMsg (s : State) (m : Msg) : Bool :=
  (s.eng.msgs.find? fun x => x.part = m.part && x.obj = m.obj) = some m

/-- Whether bytes at a word address can be written now: a page that is absent delays what writes them (07 R205). -/
def State.waUsable (s : State) (part wa n : Nat) : Bool :=
  if bits wa 63 40 = 0 then true
  else
    let o := s.obj part (bits wa 63 40)
    (s.homeWrite ioAsks part (bits wa 63 40) (o.copy false) (bits wa 39 0) 0 (List.replicate n 0)).isSome

/-- Whether a channel's home can accept a message: its ring has a slot that holds it, in memory that can be written. -/
def State.takesMsg (s : State) (m : Msg) : Bool :=
  match s.chan m.part m.obj with
  | some ch => s.waUsable m.part ch.ring 16 && s.waUsable m.part (ch.at (s.ringTail m.part ch)) (16 + m.data.length) &&
      decide (s.ringFill m.part ch < ch.slots) && decide (m.data.length ≤ 16 * ch.slot)
  | none => false

/-- Whether a message is refused: its channel was destroyed, or its id reused with a new generation. It waits for an absent page
of the directory. -/
def State.refusesMsg (s : State) (m : Msg) : Bool :=
  let o := s.obj m.part m.obj
  !o.v || o.gen ≠ m.gen || ((s.chan m.part m.obj).isNone && !s.waAbsent m.part (s.chanAt m.part m.obj) 16)

/-- MESSAGE_ARRIVAL: the home queues the message or refuses it; a full ring holds it at its port. -/
def execMessageArrival (m : Msg) (s : State) : Host.Outcome State Fault Refusal :=
  if !s.firstMsg m then .next s
  else
    let s1 := { s with eng := { s.eng with msgs := s.eng.msgs.erase m } }
    if s.refusesMsg m then
      if m.pkg = s.ctl.pkg then .next { s1 with eng := { s1.eng with refused := s1.eng.refused ++ [m] } }
      else .next (s1.send m.pkg m.block (.refusal m))
    else if !s.takesMsg m then .next s
    else match s.chan m.part m.obj with
      | none => .next s
      | some ch =>
        let t := s.ringTail m.part ch
        .next ((s1.waWrite m.part (ch.at t) (leBytes 8 m.header ++ leBytes 8 0 ++ m.data)).waWrite m.part (ch.ring + 8)
          (leBytes 4 (t + 1)))

/-- MESSAGE_REFUSAL: the sender's table entry is marked CHANFAULT, and its block's error word set. -/
def execMessageRefusal (m : Msg) (s : State) : Host.Outcome State Fault Refusal :=
  if !s.eng.refused.contains m then .next s
  else
    let s1 := { s with eng := { s.eng with refused := s.eng.refused.erase m } }
    let s2 := match m.tag, s1.tasks.find m.task with
      | some i, some K => s1.markEntry K i 0x0E
      | _, _ => s1
    .next ((s2.blockErr m.block (some (0x0E, 0)) 0x200#32).event 4 m.core m.part (codeDetail s.tick 0x0E)).tock

/-- RELEASE_ARRIVAL: once the drain is done, the lines are written back; when all of it has been acknowledged, the release
arrives on its guard, or its message leaves (05 R141, R155). -/
def execReleaseArrival (b id : Nat) (s : State) : Host.Outcome State Fault Refusal :=
  match s.blocks.find b with
  | none => .next s
  | some B => match B.releases.find id, s.tasks.find B.task with
    | some r, some K =>
      if !s.mayArrive b B id r then .next s
      else
        let (ok, s1) := s.releaseBack B.core K.part b r.regions
        if !ok || s1.unacked b (fun x => decide (x.ent < r.limit)) then .next s1
        else
          let s2 := s1.modBlk b fun B => { B with releases := B.releases.del id }
          match r.act with
          | .arrive g n => .next (s2.arriveAt b g n 0)
          | .send m => .next { s2 with eng := { s2.eng with msgs := s2.eng.msgs ++ [m] } }
    | _, _ => .next s

end Sys2Proof.Machine
end

