-- ==== Sys2Proof/Machine/Tiles.lean ====
section
/-! DEFINITION. Content checksums of tile-attributed slice regions (03 R95 to R97): what each stored sum is short of the
data it covers is kept as a skew, so that a store or landing that updates the sums with the data leaves it as it is. -/
namespace Sys2Proof.Machine

/-- The tiles of a tile-attributed region that bytes of a slice touch, as slice place divided by 4,096. -/
def State.tilesOf (s : State) (a n : Nat) : List Nat :=
  if s.here a then (unitsOf 4096 (sliceKey a) n).filter fun u => (s.tileRegion? (a / 2 ^ 33 * 2 ^ 33 + 4096 * u)).isSome else []

/-- Whether bytes touch a tile-attributed region. -/
def State.tiled (s : State) (a n : Nat) : Bool := !(s.tilesOf a n).isEmpty

/-- The sums of a table of skews that differ: sum number and difference, for the 64 sums of a unit. -/
def deltas (skew : Tab Word) (u : Nat) : List (Nat × Word) :=
  (List.range 64).filterMap fun i =>
    let d := skew.get 0 (64 * u + i)
    if d = 0 then none else some (i, d)

/-- What verification does (03 Table 3.6). -/
inductive Verdict where
  | clean
  /-- the word at a row and column is reduced by `d` -/
  | word (row col : Nat) (d : Word)
  /-- one sum is made again from the data -/
  | sum
  | bad
  deriving DecidableEq, Repr

/-- The verdict on a unit's deltas: sums 0 to 31 are rows, 32 to 63 columns. -/
def verdict (ds : List (Nat × Word)) : Verdict :=
  match ds with
  | [] => .clean
  | [_] => .sum
  | [(r, d), (c, d')] => if r < 32 && 32 ≤ c && d = d' then .word r (c - 32) d else .bad
  | _ => .bad

/-- The sums of a unit agree with its data again. -/
def mended (skew : Tab Word) (u : Nat) : Tab Word := skew.filter fun p => p.1 / 64 ≠ u

/-- The sums of a tile are made from its data. -/
def State.regenTile (s : State) (u : Nat) : State := { s with mem := { s.mem with skew := mended s.mem.skew u } }

/-- Verifies a tile (03 R97): whether something was repaired, with the state; none for CKSUM. -/
def State.verifyTile (s : State) (core u : Nat) : Option (Bool × State) :=
  match verdict (deltas s.mem.skew u) with
  | .clean => some (false, s)
  | .sum => some (true, (s.regenTile u).corrected core 1)
  | .word r c d =>
    let a := 4096 * u + 128 * r + 4 * c
    let x := BitVec.ofNat 32 (leNat (Mem.read s.mem.slice a 4)) - d
    some (true, ({ (s.regenTile u) with mem := { (s.regenTile u).mem with
      slice := Mem.write s.mem.slice a (leBytes 4 x.toNat) } }).corrected core 1)
  | .bad => none

/-- Verifies the tiles that bytes of a slice touch; none for CKSUM, which changes nothing. -/
def State.verifyTiles (s : State) (core a n : Nat) : Option (Bool × State) :=
  (s.tilesOf a n).foldl (fun r u => r.bind fun (x : Bool × State) => (x.2.verifyTile core u).map fun y => (x.1 || y.1, y.2))
    (some (false, s))

/-- A stored sum of a tile (03 R95): that of its words, less what it is short of. -/
def State.tileSum (s : State) (u i : Nat) : Word :=
  let w (r c : Nat) : Word := BitVec.ofNat 32 (leNat (Mem.read s.mem.slice (4096 * u + 128 * r + 4 * c) 4))
  lanes32.foldl (fun x j => x + if i < 32 then w i j else w j (i - 32)) 0 - s.mem.skew.get 0 (64 * u + i)

end Sys2Proof.Machine
end

