-- ==== Sys2Proof/Machine/Checksums.lean ====
section
/-! DEFINITION. CKGEN, CKVER and CKRD (14 R374), which act at the slice port of a tile-attributed region. -/
namespace Sys2Proof.Machine

/-- The checks of a checksum instruction (14 R374, 03 R96): kind with tile attribution, validity, rights; then, with `sum` the
sum that CKRD names, BOUNDS, ALIGN and GEOM. -/
def State.ckFault (s : State) (c : Ctx) (r : CapReg) (right : BitVec 12) (sum : Option Nat) : Option Raise :=
  let a := s.capSlice r 0
  if r.kind = 2 && (s.tilesOf a (max 1 r.size)).length ≠ (unitsOf 4096 a (max 1 r.size)).length then some ⟨0x04, 0, 0⟩
  else match s.capFault c r [2] 0x000#12 with
  | some e => some e
  | none =>
    if r.rights &&& (right ||| 0x800#12) != right ||| 0x800#12 then some ⟨0x05, 0, 0⟩
    else if sum.any fun k => decide (k > 63) || r.size = 0 then some ⟨0x06, 0, 0⟩
    else if a % 4096 ≠ 0 then some ⟨0x07, 0, 0⟩
    else if r.size % 4096 ≠ 0 then some ⟨0x11, 0, 0⟩
    else none

/-- CKGEN: the block's buffered entries in the region are drained, and every sum is made again; poison in it is consumed (08
R216). -/
def execCkgen (f : UW) (s : State) : Host.Outcome State Fault Refusal :=
  s.issueWord (.ckgen f) fun c s =>
    let r := c.cap f.cN
    match s.ckFault c r 0x002#12 none with
    | some e => .trap e
    | none =>
      let a := s.capSlice r 0
      let s1 := s.drainRange c.b .slice a r.size
      let left := match s1.blocks.find c.b with
        | some B => !(bufTouch B.buf .slice a r.size).isEmpty
        | none => false
      if left then .park s1
      else if s1.slicePoisoned a r.size then .trap ⟨0x16, 0, 0⟩
      else .done ((((s1.meetFlips c a r.size).tilesOf a r.size).foldl (fun s u => s.regenTile u) (s1.meetFlips c a r.size)).modBlk c.b fun B => { B with window := false })

/-- CKVER: every tile is verified; CKSUM is contained. -/
def execCkver (f : UW) (s : State) : Host.Outcome State Fault Refusal :=
  s.issueWord (.ckver f) fun c s =>
    let r := c.cap f.cN
    match s.ckFault c r 0x001#12 none with
    | some e => .trap e
    | none =>
      let a := s.capSlice r 0
      if s.slicePoisoned a r.size then .trap ⟨0x16, 0, 0⟩
      else match (s.meetFlips c a r.size).verifyTiles c.blk.core a r.size with
      | none => .trap ⟨0x0D, 0, 0⟩
      | some (fixed, s1) => .done (if fixed then s1.raise c fCOR else s1)

/-- CKRD: one sum of the tile at the region's base. -/
def execCkrd (f : UW) (s : State) : Host.Outcome State Fault Refusal :=
  s.issueWord (.ckrd f) fun c s =>
    let r := c.cap f.cN
    let k := (c.sr f.a).toNat
    match s.ckFault c r 0x001#12 (some k) with
    | some e => .trap e
    | none => .done (s.setS c f.d ((s.tileSum (sliceKey (s.capSlice r 0) / 4096) k).setWidth 64))

end Sys2Proof.Machine
end

