-- ==== Sys2Proof/Machine/Control.lean ====
section
/-! DEFINITION. Branches, splits, calls, traps, special registers (01 R17 to R32, 11 R278 to R291). -/
namespace Sys2Proof.Machine

end Sys2Proof.Machine

namespace Sys2Proof

open Machine

/-- A branch target: the branch's own word index plus the sign-extended offset (10 R256). -/
def UB.target (f : UB) (pc : Word) : Word := pc + f.off.signExtend 32

end Sys2Proof

namespace Sys2Proof.Machine

/-- The issuing split goes to a word. -/
def State.goto (s : State) (c : Ctx) (pc : Word) : State := s.onSplit c fun S => { S with pc := pc, only := none }

/-! ## Branches and reconvergence -/

/-- Whether the gate of a branch holds. -/
def Ctx.gateHolds (c : Ctx) (f : UB) : Bool := c.gate f.sel.toNat != f.sense

/-- BRA (01 R27). -/
def execBra (f : UB) (s : State) : Host.Outcome State Fault Refusal :=
  s.issueWord (.bra f) fun c s => .went (s.goto c (if c.gateHolds f then f.target c.sp.pc else c.sp.pc + 1))

/-- BRD's division of a split by a set of taken lanes (01 R28). -/
def Troupe.divide (T : Troupe) (e : Nat) (S : Split) (taken : Mask) (target : Word) : Troupe :=
  let rest := S.own &&& ~~~taken
  if taken = 0 then { T with splits := T.splits.put e { S with pc := S.pc + 1 } }
  else if rest = 0 then { T with splits := T.splits.put e { S with pc := target } }
  else match T.freeEntry with
    | some _ => { T with splits := T.splits.put e { S with own := rest, em := S.em &&& rest, pc := S.pc + 1 } }.spawn
        taken taken target
    | none =>
      let T1 := T.tick
      { T1 with
        stack := ⟨S.pc + 1, rest, S.em &&& rest, S.age⟩ :: T1.stack
        splits := T1.splits.put e { S with own := taken, em := taken, pc := target, age := T1.now } }

/-- BRD. -/
def execBrd (f : UB) (s : State) : Host.Outcome State Fault Refusal :=
  s.issueWord (.brd f) fun c s =>
    let p := c.predMask f.sel.toNat
    let taken := c.sp.em &&& c.trp.lm &&& if f.sense then ~~~p else p
    .went (s.onTrp c fun T => T.divide c.e { c.sp with only := none } taken (f.target c.sp.pc))

/-- A TOKEN fault: token in [2:0], cause in [5:3] of the detail (01 Table 1.3). -/
def tokenFault (k cause : Nat) : Raise := ⟨0x09, 0, k + 8 * cause⟩

/-- TOK (01 R29). -/
def execTok (f : UB) (s : State) : Host.Outcome State Fault Refusal :=
  s.issueWord (.tok f) fun c s =>
    let k := f.sel.toNat
    if (c.trp.k.find k).isSome && !(c.trp.atMeet k).isEmpty then .trap (tokenFault k 2)
    else .done (s.onTrp c fun T =>
      let T1 := T.tick
      { T1 with k := T1.k.put k ⟨f.target c.sp.pc, c.sp.own, T1.now⟩ })

/-- MEET (01 R30). -/
def execMeet (f : UB) (s : State) : Host.Outcome State Fault Refusal :=
  s.issueWord (.meet f) fun c s =>
    let k := f.sel.toNat
    match c.trp.k.find k with
    | none => .trap (tokenFault k 0)
    | some t =>
      if t.target ≠ c.sp.pc then .trap (tokenFault k 1)
      else .went (s.onSplit c fun S => { S with wait := .meet k, only := none })

/-- DBNZ (11 R280). -/
def execDbnz (f : UB) (s : State) : Host.Outcome State Fault Refusal :=
  s.issueWord (.dbnz f) fun c s =>
    let n := c.s f.sel.toNat - 1
    .went ((s.onTrp c fun T => T.setS f.sel.toNat n).goto c (if n ≠ 0 then f.target c.sp.pc else c.sp.pc + 1))

/-- EXIT (01 R32). -/
def execExit (f : UR) (s : State) : Host.Outcome State Fault Refusal :=
  s.issueWord (.exit f) fun c s =>
    .went ((s.goto c (c.sp.pc + 1)).onTrp c fun T => T.retire c.e (c.sp.em &&& c.trp.lm))

/-! ## Calls (11 R281 to R284) -/

/-- The return stack of a lane, newest first. -/
def Troupe.rets (T : Troupe) (l : Nat) : List Word := T.ret.get [] l

/-- A call for the owned lanes: a return point is pushed for each; STACK where one has 16 (11 R282). -/
def State.call (s : State) (c : Ctx) (target : Word) : Res :=
  match (lanesOf c.sp.own).find? fun l => decide ((c.trp.rets l).length ≥ 16) with
  | some l => .trap ⟨0x18, l, 0⟩
  | none => .went ((s.onTrp c fun T =>
      { T with ret := (lanesOf c.sp.own).foldl (fun R l => R.set [] l ((c.sp.pc + 1) :: T.rets l)) T.ret }).goto c target)

/-- CALL. -/
def execCall (f : UB) (s : State) : Host.Outcome State Fault Refusal :=
  s.issueWord (.call f) fun c s =>
    if c.gateHolds f then s.call c (f.target c.sp.pc) else .went (s.goto c (c.sp.pc + 1))

/-- JMPX (11 R284). -/
def execJmpx (f : UR) (s : State) : Host.Outcome State Fault Refusal :=
  s.issueWord (.jmpx f) fun c s =>
    let target := (c.sr f.a).setWidth 32
    if f.x.getLsbD 0 then s.call c target else .went (s.goto c target)

/-- RET's groups: the owned lanes by return point, in ascending order of their lowest lane (11 R283). -/
def retGroups (own : Mask) (pt : Nat → Word) : List (Word × Mask) :=
  ((lanesOf own).map pt).eraseDups.map fun w => (w, maskOf fun l => own.getLsbD l && pt l == w)

/-- RET's division: the first group stays, each later one is a new split, younger than those before it. -/
def Troupe.return (T : Troupe) (e : Nat) (S : Split) : Troupe :=
  let pt (l : Nat) : Word := (T.rets l).headD 0
  let T1 := { T with ret := (lanesOf S.own).foldl (fun R l => R.set [] l ((T.rets l).drop 1)) T.ret }
  match retGroups S.own pt with
  | [] => T1
  | (w, m) :: r =>
    r.foldl (fun T g => T.spawn g.2 (S.em &&& g.2) g.1)
      { T1 with splits := T1.splits.put e { S with own := m, em := S.em &&& m, pc := w } }

/-- RET. -/
def execRet (f : UR) (s : State) : Host.Outcome State Fault Refusal :=
  s.issueWord (.ret f) fun c s =>
    match (lanesOf c.sp.own).find? fun l => (c.trp.rets l).isEmpty with
    | some l => .trap ⟨0x18, l, 0⟩
    | none => .went (s.onTrp c fun T => T.return c.e { c.sp with only := none })

/-! ## Hints and traps (11 R285 to R289) -/

/-- YIELD. -/
def execYield (f : UR) (s : State) : Host.Outcome State Fault Refusal :=
  s.issueWord (.yield f) fun c s =>
    .done (s.onTrp c fun T => { T with yielded := true, passed := 0, promoted := false })

/-- NOP. -/
def execNop (f : UR) (s : State) : Host.Outcome State Fault Refusal := s.issueWord (.nop f) fun _ s => .done s

end Sys2Proof.Machine

namespace Sys2Proof

open Machine

/-- The 11-bit code of TRAP and BRK: b and x. -/
def UR.code11 (f : UR) : Nat := f.b.toNat * 32 + f.x.toNat

end Sys2Proof

namespace Sys2Proof.Machine

/-- TRAP. -/
def execTrap (f : UR) (s : State) : Host.Outcome State Fault Refusal :=
  s.issueWord (.trap f) fun _ _ => .trap ⟨0x13, 0, f.code11⟩

/-- Whether the debug gate of a task's partition is open (08 R229). -/
def State.gateOpen (s : State) (K : Task) : Bool := ((s.ctl.parts.find K.part).map Part.gate).getD false

/-- A troupe stops, or with the block's block-stop bit every troupe of the block: each of the others at its next instruction
boundary, or at the first word of the run it is in (08 R230). -/
def Block.stopAt (B : Block) (t : Nat) : Block :=
  { B with troupes := B.troupes.map fun p =>
      if p.1 = t then (p.1, { p.2 with stopped := true }) else if B.stopBit then (p.1, p.2.halt) else p }

/-- BRK: with the gate open the split goes on past it and the troupe stops (08 R230); else a program fault. -/
def execBrk (f : UR) (s : State) : Host.Outcome State Fault Refusal :=
  s.issueWord (.brk f) fun c s =>
    if s.gateOpen c.task then
      .went ((((s.goto c (c.sp.pc + 1)).onTrp c fun T =>
        { T with flt := fltWord ⟨0x14, 0, f.code11, c.sp.pc⟩ c.e, stepping := none }).modBlk c.b fun B => B.stopAt c.t))
    else .trap ⟨0x14, 0, f.code11⟩

/-- ERET: the return from a fault, and then the earliest held fault of another split. -/
def execEret (f : UR) (s : State) : Host.Outcome State Fault Refusal :=
  s.issueWord (.eret f) fun c s =>
    match c.trp.handler with
    | some h =>
      if h.entry = c.e then
        .went (s.onTrp c fun T => (T.eret h (f.x.getLsbD 0)).nextHeld (BitVec.ofNat 32 c.task.launch.trap))
      else .trap ⟨0x01, 0, 11⟩
    | none => .trap ⟨0x01, 0, 11⟩

/-! ## Special registers (01 Table 1.2, 11 R290, R291) -/

/-- The value of a special register. -/
def State.special (s : State) (c : Ctx) (sel : Nat) : Nat :=
  match sel with
  | 0 => c.sp.em.toNat
  | 1 => c.trp.lm.toNat
  | 2 => (c.trp.regs.nf &&& 0x03FF#16).toNat
  | 3 => c.trp.role
  | 4 => c.trp.chk.toNat
  | 5 => c.t % 32
  | 6 => c.blk.id
  | 7 => c.blk.core
  | 8 => quadOf c.blk.core
  | 9 => dieOf c.blk.core
  | 10 => s.ctl.pkg
  | 11 => s.ctl.clk.toNat
  | 12 => c.e
  | 13 => c.trp.flt.toNat
  | 14 => (s.core c.blk.core).cor.toNat
  | _ => (s.writePtr c (sel - 16)).toNat

/-- SRD. -/
def execSrd (f : UR) (s : State) : Host.Outcome State Fault Refusal :=
  s.issueWord (.srd f) fun c s => .done (s.setS c f.d (BitVec.ofNat 64 (s.special c f.a.toNat)))

/-- SWR: `em` within the owned set, `nf` bits [9:0], `chk` for the troupe (other selectors are ILLEGAL as they issue). -/
def execSwr (f : UR) (s : State) : Host.Outcome State Fault Refusal :=
  s.issueWord (.swr f) fun c s =>
    let x := c.sr f.a
    match f.d.toNat with
    | 0 => .done (s.onSplit c fun S => { S with em := x.setWidth 32 &&& S.own })
    | 2 => .done (s.onRegs c fun R => { R with nf := x.setWidth 16 &&& 0x03FF#16 })
    | _ =>
      if x.extractLsb' 0 2 = 3#2 then .trap ⟨0x01, 0, 11⟩
      else .done (s.onTrp c fun T => { T with chk := x.extractLsb' 0 2 })

end Sys2Proof.Machine
end

