-- ==== Sys2Proof/Machine/Population.lean ====
section
/-! DEFINITION. Population instances (01 R33 to R35, 13 R323, R330, R331): opening, arrival, closing, and the birth of
rows. -/
namespace Sys2Proof.Machine

/-! ## Arrival -/

/-- The instance open at a scope of the issuing split. -/
def Ctx.inst (c : Ctx) (block : Bool) : Option Inst := if block then c.blk.inst else c.trp.inst

/-- Changes the instance of a block, or of a troupe. -/
def State.modInst (s : State) (b t : Nat) (block : Bool) (f : Option Inst → Option Inst) : State :=
  if block then s.modBlk b fun B => { B with inst := f B.inst } else s.modTrp b t fun T => { T with inst := f T.inst }

/-- The members an instance would be opened with (01 R33, 13 R323). -/
def Ctx.members (c : Ctx) (block : Bool) (mask : Mask) : Tab Mask :=
  if block then c.blk.troupes.map fun p => (p.1, p.2.lm) else [(c.t, c.trp.lm &&& mask)]

/-- The lowest acting lane that is not a member (13 R323). -/
def Ctx.outsider (c : Ctx) (m : Mask) (members : Tab Mask) : Option Nat :=
  if m &&& ~~~(members.get 0 c.t) = 0 then none else some (lowLane (m &&& ~~~(members.get 0 c.t)))

/-- A split arrives: its members, those among them that are active, and the operands it read (01 R34). -/
def Inst.arrive (I : Inst) (t : Nat) (own act : Mask) (vals : Nat → Nat × Nat) : Inst :=
  let m := I.members.get 0 t
  { I with
    arrived := I.arrived.put t (I.arrived.get 0 t ||| (own &&& m))
    active := I.active.put t (I.active.get 0 t ||| (act &&& m))
    vals := (lanesOf (act &&& m)).foldl (fun v l => v.put (32 * t + l) (vals l)) I.vals }

/-- A split issues a population instruction: it opens the instance of its scope or arrives at it and parks, or parks
behind the instance of another instruction (01 R33, R34). An instance may not open inside a run (10 R253), and a split in the
handler may neither open one nor wait for one (11 R279). `act` are the acting lanes, and `vals` their operands. -/
def State.joinInst (s : State) (c : Ctx) (i : Instr) (block : Bool) (mask act : Mask) (vals : Nat → Nat × Nat) : Res :=
  let arrive (I : Inst) : Res :=
    .went ((s.modInst c.b c.t block fun _ => some (I.arrive c.t c.sp.own act vals)).onSplit c fun S =>
      { S with wait := .pop block true, only := none })
  if i.h && (c.inst block).isNone then .trap ⟨0x01, 0, c.openInRun⟩
  else if (c.trp.handler.map Handler.entry) = some c.e then .trap ⟨0x01, 0, 11⟩
  else match c.inst block with
  | some I =>
    if I.pc = c.sp.pc then arrive I else .park (s.onSplit c fun S => { S with wait := .pop block false })
  | none => arrive { pc := c.sp.pc, size := i.size, block := block, opener := c.t, instr := i, members := c.members block mask }

/-! ## Closing -/

/-- The splits of a troupe that have arrived at the instance of a scope. -/
def Troupe.atPop (T : Troupe) (block : Bool) : List Nat :=
  (T.splits.filter fun (p : Nat × Split) => p.2.wait = .pop block true).map Prod.fst

/-- Splits parked behind a closed instance issue again. -/
def Troupe.wakePop (T : Troupe) (block : Bool) : Troupe :=
  { T with splits := T.splits.map fun (p : Nat × Split) =>
      if p.2.wait = .pop block false then (p.1, { p.2 with wait := .ready }) else p }

/-- The troupes of a block that a scope covers. -/
def Block.scope (B : Block) (block : Bool) (t : Nat) : List Nat := if block then B.troupes.keys else [t]

/-- Closes the instance of a scope: in each troupe the arrived splits merge at `pc`, and splits parked behind it issue
again. The answer names the merged split of each troupe. -/
def State.closeInst (s : State) (b t : Nat) (block : Bool) (pc : Word) : List (Nat × Nat) × State :=
  match s.blocks.find b with
  | none => ([], s)
  | some B =>
    let ts := B.scope block t
    let merged := ts.filterMap fun u => match B.troupes.find u with
      | some T => if (T.atPop block).isEmpty then none else some (u, T.oldest (T.atPop block))
      | none => none
    (merged, ts.foldl (fun s u => s.modTrp b u fun T => (T.merge (T.atPop block) pc).wakePop block)
      (s.modInst b t block fun _ => none))

/-- The troupes whose stepped split has arrived at the instance of a scope, with the split's entry and lanes (08 R231). -/
def State.steppers (s : State) (b t : Nat) (block : Bool) : List (Nat × Nat × Mask) :=
  match s.blocks.find b with
  | none => []
  | some B => (B.scope block t).filterMap fun u => (B.troupes.find u).bind fun T => T.stepping.bind fun e =>
      (T.splits.find e).bind fun S => if S.wait = .pop block true then some (u, e, S.own) else none

/-- Closes an instance without effect: each merged split faults once, at the instruction (13 R331, 06 R188), which ends a
step command. An uncorrectable error is contained by the block. -/
def State.failInst (s : State) (b t : Nat) (I : Inst) (r : Raise) : State :=
  let s0 := (s.steppers b t I.block).foldl (fun s x => s.modTrp b x.1 fun T => { T with stepping := none }) s
  let (es, s1) := s0.closeInst b t I.block I.pc
  if r.code = 0x16 || r.code = 0x0C || r.code = 0x0D then s1.contain b r.code r.detail
  else es.foldl (fun s x => s.takeFault b x.1 x.2 r I.pc I.pc (I.pc + BitVec.ofNat 32 I.size)) s1

/-! ## Rows -/

/-- A row to be born (13 R330): its place, its source, registers it receives, a predicate set to 1, and its row number if
not 32·troupe + lane. -/
structure Birth where
  t : Nat
  l : Nat
  srcT : Nat
  srcL : Nat
  regs : List (Nat × Word) := []
  pred : Nat := 0
  rid : Option Nat := none
  deriving DecidableEq, Repr

/-- Copies a row into a lane: lane registers, predicates and return stack (13 R330). -/
def Troupe.copyRow (T : Troupe) (l : Nat) (src : Troupe) (srcL : Nat) (rid : Option Word) : Troupe :=
  let rs := (T.regs.v.keys ++ src.regs.v.keys).eraseDups
  let ps := (T.regs.p.keys ++ src.regs.p.keys).eraseDups
  let lane : Mask := 1#32 <<< l
  let T1 := rs.foldl (fun T r => T.setV r lane fun _ => src.regs.lane r srcL) T
  let T2 := ps.foldl (fun T k => T.setP k lane (if (src.regs.p.get 0 k).getLsbD srcL then lane else 0)) T1
  { T2 with
    ret := T2.ret.set [] l (src.ret.get [] srcL)
    rid := match rid with
      | some r => T2.rid.put l r
      | none => T2.rid.del l }

/-- A troupe started afresh for spawned rows (13 R330): the uniform registers, gates and capabilities of its first row's
source, one split. -/
def freshTroupe (L : Launch) (t start : Nat) (src : Troupe) (pc : Word) : Troupe :=
  let T := mkTroupe L t start 0
  { T with
    regs := { T.regs with s := src.regs.s, g := src.regs.g, c := src.regs.c }
    splits := [(0, ⟨0, 0, pc, 0, .ready, none⟩)] }

/-- Lanes come to life in a troupe: in a split, or in one of their own. -/
def Troupe.bear (T : Troupe) (e : Option Nat) (m : Mask) (pc : Word) : Troupe :=
  let T1 := { T with lm := T.lm ||| m }
  match e.bind T.splits.find with
  | some S => { T1 with splits := T1.splits.put (e.getD 0) { S with own := S.own ||| m, em := S.em ||| m } }
  | none => T1.spawn m m pc

/-- The rows of a troupe are born (13 R330), in its merged split, else in one of their own; a troupe index without a troupe
is started afresh, with the uniform registers, gates and capabilities the effect has left. `old` is the block as the source
rows stand. -/
def State.births (s : State) (b : Nat) (L : Launch) (old : Tab Troupe) (e : Option Nat) (pc : Word) (t : Nat)
    (xs : List Birth) : State :=
  match xs with
  | [] => s
  | x :: _ =>
    let src (x : Birth) : Troupe := (old.find x.srcT).getD { lm := 0, role := 0 }
    let live := (s.trp? b t).isSome
    let s1 := if live then s
      else s.modBlk b fun B => { B with troupes := B.troupes.put t (freshTroupe L t s.fresh
        ((s.trp? b x.srcT).getD (src x)) pc) }
    let m := maskOf fun l => xs.any fun x => x.l = l
    s1.modTrp b t fun T => T.both fun T =>
      (xs.foldl (fun T x =>
        let lane : Mask := 1#32 <<< x.l
        (x.regs.foldl (fun T r => T.setV r.1 lane fun _ => r.2)
          (T.copyRow x.l (src x) x.srcL (x.rid.map (BitVec.ofNat 32)))).setP x.pred lane lane) T).bear
        (if live then e else some 0) m pc

/-- The members of an instance once another has taken the lanes `gone` of a troupe away: rows that REPACK has moved, the
births `moved`, are members where they are now (01 R9, R34). -/
def Inst.after (I : Inst) (u : Nat) (lm gone : Mask) (moved : List Birth) : Inst :=
  { I with members := I.members.mod u fun m => (m &&& lm &&& ~~~gone) |||
      maskOf fun l => moved.any fun x => x.t = u && x.srcT = u && x.l = l && m.getLsbD x.srcL }

/-- Completes an instance (01 R34): the arrived splits merge and go on at the next instruction, rows that have gone leave the
other open instances and rows that have moved stay in them, troupes left without a row end, the instance's rows are born, and
`gone` lanes that receive none retire. A fresh troupe starts there too, at the instruction's end: DEDUCED (log 79), since R330
writes word index + 1 of instructions that R34 says are two words long. A step command that let one of its members issue ends with it (08 R231). -/
def State.completeInst (s : State) (b t : Nat) (I : Inst) (L : Launch) (old : Tab Troupe) (births : List Birth)
    (gone : Tab Mask) : State :=
  let pc := I.pc + BitVec.ofNat 32 I.size
  let steps := s.steppers b t I.block
  let (merged, s0) := s.closeInst b t I.block pc
  let ts := match s0.blocks.find b with
    | some B => B.scope I.block t
    | none => []
  let moved := match I.instr with
    | .repack _ => births
    | _ => []
  let s1 := ts.foldl (fun s u => match s.trp? b u with
    | some T =>
      let f (I : Inst) : Inst := I.after u T.lm (gone.get 0 u) moved
      s.modBlk b fun B => { B with
        inst := B.inst.map f, troupes := B.troupes.mod u fun T => { T with inst := T.inst.map f } }
    | none => s) s0
  let bs := (births.map Birth.t).eraseDups
  let s2 := bs.foldl (fun s u => match s.trp? b u with
    | some T => if T.lm = 0 then
        s.modBlk b fun B => { B with troupes := B.troupes.del u, nf := B.nf ||| T.regs.nf }
      else s
    | none => s) s1
  let s3 := bs.foldl (fun s u =>
    s.births b L old ((merged.find? fun m => m.1 = u).map Prod.snd) pc u (births.filter fun x => x.t = u)) s2
  let s4 := gone.foldl (fun s g => s.modTrp b g.1 fun T =>
    T.retireLanes (g.2 &&& ~~~(maskOf fun l => births.any fun x => x.t = g.1 && x.l = l))) s3
  steps.foldl (fun s x => s.stepEnds b x.1 x.2.1 x.2.2) (((ts ++ bs).eraseDups).foldl (fun s u => s.settleTrp b u) s4)

end Sys2Proof.Machine
end

