-- ==== Sys2Proof/Machine/XLane.lean ====
section
/-! DEFINITION. Cross-lane instructions (13 R322 to R327; 02 R61, R62). -/
namespace Sys2Proof.Machine

/-! ## Reductions (02 R61, R62) -/

/-- The identity of a reduction (02 R61). -/
def redIdent (op t : Nat) : Nat :=
  match ety t, op with
  | .fl F, 0 => F.sign true
  | .fl F, 1 => F.infCode false
  | .fl F, _ => F.infCode true
  | .int w sg, 1 => wrapN w (intMax w sg)
  | .int w sg, 2 => wrapN w (intMin w sg)
  | .int w _, 3 => 2 ^ w - 1
  | .int _ _, _ => 0

/-- One step of a reduction, with its flags (13 R327). -/
def redStep (op t x y : Nat) : Nat × Flags :=
  match ety t, op with
  | .fl F, 0 => F.add 0 0 x y
  | .fl F, 1 => (F.minNum x y, 0)
  | .fl F, _ => (F.maxNum x y, 0)
  | .int w _, 0 => ((x + y) % 2 ^ w, 0)
  | .int w sg, 1 => (if intOf w sg y < intOf w sg x then y else x, 0)
  | .int w sg, 2 => (if intOf w sg x < intOf w sg y then y else x, 0)
  | .int _ _, 3 => (Nat.land x y, 0)
  | .int _ _, 4 => (Nat.lor x y, 0)
  | .int _ _, _ => (Nat.xor x y, 0)

/-- One level of the pairwise tree. -/
def redLevel (op t : Nat) : List (Nat × Flags) → List (Nat × Flags)
  | x :: y :: r => (let z := redStep op t x.1 y.1; (z.1, z.2 ||| x.2 ||| y.2)) :: redLevel op t r
  | r => r

/-- The five-level tree over 32 values (02 R61). -/
def redTree (op t : Nat) (xs : List (Nat × Flags)) : Nat × Flags :=
  ((List.range 5).foldl (fun ys _ => redLevel op t ys) xs).headD (0, 0)

/-- The place of a troupe in a block-wide tree: compute troupes 0 to 31, a shadow troupe 16 after its partner. -/
def treeIndex (t : Nat) : Nat := if t < 32 then t else t - 16

/-- RED over the positions of a scope (02 R61). -/
def redAll (op t : Nat) (vs : Tab (Nat × Nat)) (block : Bool) (p : Nat) : Nat × Flags :=
  let trp (u : Nat) : Nat × Flags := redTree op t (lanes32.map fun l =>
    ((vs.find (32 * u + l)).elim (redIdent op t) Prod.fst, 0))
  if !block then trp (p / 32)
  else
    let us := (vs.keys.map (· / 32)).eraseDups
    redTree op t ((List.range 32).map fun j => match us.find? fun u => treeIndex u = j with
      | some u => trp u
      | none => (redIdent op t, 0))

/-- SCAN: what position `p` receives (02 R62). -/
def scanAt (op t : Nat) (excl : Bool) (vs : Tab (Nat × Nat)) (p : Nat) : Nat × Flags :=
  (vs.foldl (fun (r : Nat × Nat × Flags) v =>
    if v.1 ≤ p then let z := redStep op t r.1 v.2.1; (z.1, if excl then r.1 else z.1, r.2.2 ||| z.2) else r)
    (redIdent op t, redIdent op t, 0)) |> fun r => r.2

/-! ## Positions -/

/-- SWIZ's source lane (13 R324): mode, segment size, lane and k. -/
def swizSrc (mode s l b : Nat) : Nat :=
  let base := l / s * s
  let j := l % s
  let k := b % 32 % s
  match mode with
  | 0 => base + k
  | 1 => base + (j + k) % s
  | 2 => base + Nat.xor (s - 1 - j) k
  | _ => base + Nat.xor j k

/-- SHX's result in a lane (13 R325). -/
def shxV (k l a x mask : Nat) : Nat :=
  let j := 2 ^ k
  if bit l k then Nat.xor a (Nat.land (Nat.xor (x / 2 ^ j) a) mask)
  else Nat.xor a (Nat.land (Nat.xor (a / 2 ^ j) x) mask * 2 ^ j)

/-- AGREE (13 Table 13.1). -/
def agreeV (mode : Nat) (ps : List Nat) : Bool :=
  match mode with
  | 0 => ps.all (· = 1)
  | 1 => ps.any (· = 1)
  | 2 => ps.all (· = 1) || ps.all (· ≠ 1)
  | _ => decide (2 * ps.countP (· = 1) > ps.length)

/-- A truth value as a number. -/
def num (x : Bool) : Nat := if x then 1 else 0

/-- PEERS (13 Table 13.1): the mask, its lowest lane, the rank in it, or whether all are equal. -/
def peersV (mode : Nat) (vs : Tab (Nat × Nat)) (p : Nat) : Nat :=
  let a (q : Nat) : Nat := (vs.find q).elim 0 Prod.fst
  let m := maskOf fun l => (vs.find (p / 32 * 32 + l)).isSome && a (p / 32 * 32 + l) = a p
  match mode with
  | 0 => m.toNat
  | 1 => lowLane m
  | 2 => (lanesOf m).countP (· < p % 32)
  | _ => num (vs.all fun v => v.2.1 = a p)

/-- The mask of the members with P = 1. -/
def ballotV (vs : Tab (Nat × Nat)) : Nat := (maskOf fun l => vs.any fun v => v.1 % 32 = l && v.2.1 = 1).toNat

end Sys2Proof.Machine

namespace Sys2Proof

open Machine

/-- What a cross-lane instruction delivers at position `p` (32·troupe + lane), from the operands of its active members. -/
def Instr.xlane (i : Instr) (vs : Tab (Nat × Nat)) (p : Nat) : Nat × Flags :=
  let a (q : Nat) : Nat := (vs.find q).elim 0 Prod.fst
  let b (q : Nat) : Nat := (vs.find q).elim 0 Prod.snd
  let row := p / 32 * 32
  match i with
  | .swizSel _ => (a (row + swizSrc 0 32 (p % 32) (b p)), 0)
  | .swiz f =>
    (a (row + swizSrc (f.m.extractLsb' 0 2).toNat (32 / 2 ^ (f.m.extractLsb' 2 3).toNat) (p % 32) (b p)), 0)
  | .shx f =>
    let k := (f.m.extractLsb' 0 3).toNat
    (shxV k (p % 32) (a p) (a (row + Nat.xor (p % 32) (2 ^ k))) (b p), 0)
  | .agree f => (num (agreeV (f.m.extractLsb' 0 2).toNat (vs.map fun v => v.2.1)), 0)
  | .ballot _ => (ballotV vs, 0)
  | .elect _ => (num (vs.all fun v => p ≤ v.1), 0)
  | .rank _ => (vs.countP fun v => v.1 < p && v.2.1 = 1, 0)
  | .peers f => (peersV (f.m.extractLsb' 0 2).toNat vs p, 0)
  | .red f => redAll (f.m.extractLsb' 0 3).toNat f.t.toNat vs (f.m.getLsbD 7) p
  | .scan f => scanAt (f.m.extractLsb' 0 3).toNat f.t.toNat (f.m.getLsbD 3) vs p
  | _ => (0, 0)

/-- Where a cross-lane instruction's result goes; BALLOT's goes to a uniform register. -/
def Instr.xdst (i : Instr) : Dst :=
  match i with
  | .swizSel f => .v false f.d.toNat
  | .swiz f | .red f | .scan f => .v (wide f.t.toNat) f.d.toNat
  | .agree f | .elect f => .p (f.d.extractLsb' 0 3).toNat
  | .shx f | .rank f | .peers f | .ballot f => .v false f.d.toNat
  | _ => .v false 0

/-- The uniform register BALLOT writes. -/
def Instr.xuni (i : Instr) : Option (BitVec 6) :=
  match i with
  | .ballot f => if f.n then none else some (f.d.extractLsb' 0 6)
  | _ => none

/-- The operands of a cross-lane instruction in a lane: a and b, or the predicate that field a names (13 R326). -/
def Instr.xread (i : Instr) (c : Ctx) (l : Nat) : Nat × Nat :=
  let pred (x : BitVec 8) : Nat := num (c.pred (x.extractLsb' 0 3).toNat l != x.getLsbD 3)
  match i with
  | .swizSel f => (c.operand f.a 0 l, c.operand f.b 0 l)
  | .swiz f => (c.operand f.a f.t.toNat l, c.operand f.b 0 l)
  | .shx f => (c.operand f.a f.t.toNat l, c.operand f.b 0 l)
  | .agree f | .ballot f | .rank f => (pred f.a, 0)
  | .peers f | .red f | .scan f => (c.operand f.a f.t.toNat l, 0)
  | _ => (0, 0)

/-- The member mask, and whether the scope is the block (13 R322). -/
def Instr.xscope (i : Instr) (c : Ctx) : Mask × Bool :=
  match i with
  | .swiz f | .shx f | .ballot f | .peers f => (BitVec.ofNat 32 (c.operand f.c 0 0), false)
  | .agree f | .elect f | .rank f | .red f | .scan f =>
    if f.m.getLsbD 7 then (0xFFFFFFFF#32, true) else (BitVec.ofNat 32 (c.operand f.c 0 0), false)
  | _ => (0xFFFFFFFF#32, false)

end Sys2Proof

namespace Sys2Proof.Machine

/-- A cross-lane instruction whose members are all active in the issuing split (13 R323). -/
def xlaneNow (i : Instr) (c : Ctx) (s : State) : Res :=
  let m := c.guarded i
  let vs : Tab (Nat × Nat) := (lanesOf m).map fun l => (32 * c.t + l, i.xread c l)
  match i.xuni with
  | none =>
    match i with
    | .ballot _ => .done (s.onTrp c fun T => T.latch i (Lanes.of fun l =>
        if m.getLsbD l then BitVec.ofNat 64 (ballotV vs) else c.idle l))
    | _ => laneFx i i.xdst (fun c l => i.xlane vs (32 * c.t + l)) c s
  | some d => .done ((s.setS c d (BitVec.ofNat 64 (ballotV vs))).onTrp c fun T => T.latch i (Lanes.of fun l =>
      if m.getLsbD l then BitVec.ofNat 64 (ballotV vs) else c.idle l))

/-- A cross-lane instruction (13 R323): it executes as it issues where every member is active in the issuing split, and
else opens or joins an instance. At `.troupe` scope an acting lane that is no member faults; at `.block` scope a row born since
the instance opened takes no part. -/
def xlaneFx (i : Instr) (c : Ctx) (s : State) : Res :=
  let m := c.guarded i
  let (mask, block) := i.xscope c
  let here := match c.inst block with
    | some I => I.pc = c.sp.pc
    | none => false
  let members := match c.inst block with
    | some I => if I.pc = c.sp.pc then I.members else c.members block mask
    | none => c.members block mask
  match (if block then none else c.outsider m members) with
  | some l => .trap ⟨0x08, l, 0⟩
  | none =>
    match c.popWait i m s with
    | some r => r
    | none =>
      if !block && !here && members.get 0 c.t &&& ~~~m = 0 then xlaneNow i c s
      else s.joinInst c i block mask m fun l => i.xread c l

/-- SWIZ.sel, one word. -/
def execSwizSel (f : LR) (s : State) : Host.Outcome State Fault Refusal := s.issueWord (.swizSel f) (xlaneFx (.swizSel f))
/-- SWIZ. -/
def execSwiz (f : LW) (s : State) : Host.Outcome State Fault Refusal := s.issueWord (.swiz f) (xlaneFx (.swiz f))
/-- SHX. -/
def execShx (f : LW) (s : State) : Host.Outcome State Fault Refusal := s.issueWord (.shx f) (xlaneFx (.shx f))
/-- AGREE. -/
def execAgree (f : LW) (s : State) : Host.Outcome State Fault Refusal := s.issueWord (.agree f) (xlaneFx (.agree f))
/-- BALLOT. -/
def execBallot (f : LW) (s : State) : Host.Outcome State Fault Refusal := s.issueWord (.ballot f) (xlaneFx (.ballot f))
/-- ELECT. -/
def execElect (f : LW) (s : State) : Host.Outcome State Fault Refusal := s.issueWord (.elect f) (xlaneFx (.elect f))
/-- RANK. -/
def execRank (f : LW) (s : State) : Host.Outcome State Fault Refusal := s.issueWord (.rank f) (xlaneFx (.rank f))
/-- PEERS. -/
def execPeers (f : LW) (s : State) : Host.Outcome State Fault Refusal := s.issueWord (.peers f) (xlaneFx (.peers f))
/-- RED. -/
def execRed (f : LW) (s : State) : Host.Outcome State Fault Refusal := s.issueWord (.red f) (xlaneFx (.red f))
/-- SCAN. -/
def execScan (f : LW) (s : State) : Host.Outcome State Fault Refusal := s.issueWord (.scan f) (xlaneFx (.scan f))

end Sys2Proof.Machine
end

