-- ==== Sys2Proof/Machine/Relations.lean ====
section
/-! DEFINITION. Relation instructions (13 R329 to R337; 02 R63), and how an instance executes and completes (01 R34, R35; 06
R186 to R188). -/
namespace Sys2Proof.Machine

/-- Why an executing instance cannot go on: a fault of 13 R331, a page of its object it waits for (01 R35), or a store buffer
that must drain first (05 R139). -/
inductive PopErr where
  | fail (r : Raise)
  | lack (k : Nat) (write : Bool)
  | full
  deriving DecidableEq, Repr

/-- A part of an instance's effect. -/
abbrev PopM := StateT State (Except PopErr)

/-- An instance's fault. -/
def popFail {α : Type} (code detail : Nat) : PopM α := fun _ => .error (.fail ⟨code, 0, detail⟩)

/-! ## Members -/

/-- The rows that take part (13 R330): members that arrived active, in ascending (troupe, lane) order. -/
def Inst.parts (I : Inst) : List (Nat × Nat) := I.active.flatMap fun p => (lanesOf p.2).map fun l => (p.1, l)

/-- A troupe of a table of troupes. -/
def trpOf (ts : Tab Troupe) (t : Nat) : Troupe := (ts.find t).getD { lm := 0, role := 0 }

/-- A 32- or 64-bit value of a row. -/
def rowVal (ts : Tab Troupe) (x : Nat × Nat) (w : Bool) (r : Nat) : Nat :=
  let R := (trpOf ts x.1).regs
  (R.lane r x.2).toNat + if w then 2 ^ 32 * (R.lane (r + 1) x.2).toNat else 0

/-- The lanes of a troupe among some rows. -/
def rowsIn (xs : List (Nat × Nat)) (t : Nat) : Mask := maskOf fun l => xs.any fun x => x.1 = t && x.2 = l

/-- The free lanes of an instance's scope once `gone` rows have retired, ascending (13 R330). -/
def Inst.free (I : Inst) (L : Launch) (ts : Tab Troupe) (gone : List (Nat × Nat)) : List (Nat × Nat) :=
  (if I.block then List.range L.tmax else [I.opener]).flatMap fun t =>
    (lanesOf (~~~((trpOf ts t).lm &&& ~~~(rowsIn gone t)))).map fun l => (t, l)

/-- Changes every troupe with an arrived member. -/
def State.eachArrived (s : State) (b : Nat) (I : Inst) (f : Troupe → Troupe) : State :=
  I.arrived.foldl (fun s p => if p.2 = 0 then s else s.modTrp b p.1 fun T => T.both f) s

/-- Raises numeric flags in every troupe with an arrived member (02 R66). -/
def State.instFlags (s : State) (b : Nat) (I : Inst) (fl : Flags) : State :=
  s.eachArrived b I fun T => { T with regs := { T.regs with nf := T.regs.nf ||| (fl &&& 0x03FF#16) } }

/-! ## GROUP (13 R332, 02 R63) -/

/-- A column pair (10 Table 10.11). -/
structure ColPair where
  reg : Nat
  op : Nat
  ty : Nat
  deriving DecidableEq, Repr

/-- The pairs of a column set; none for a launch without a table. -/
def colPairs (cols : List Byte) (set : Nat) : List ColPair :=
  if cols.isEmpty then []
  else ((List.range 16).map fun j => leNat ((cols.drop (32 * set + 2 * j)).take 2)).filterMap fun x =>
    if bits x 10 7 = 0 then none else some ⟨bits x 6 0, bits x 10 7, bits x 14 11⟩

/-- A NaN made canonical: what a fold delivers (02 R43). -/
def canonical (t x : Nat) : Nat :=
  match ety t with
  | .fl F => if (F.decode x).isNan then F.cnan else x
  | .int _ _ => x

/-- Folds a column of a class, ascending (02 R63). A NaN that is the one member's is delivered canonical, since R43 covers
fold results (DEDUCED, log 61). -/
def colFold (p : ColPair) (xs : List Nat) : Nat × Flags :=
  match p.op with
  | 9 => (xs.length, 0)
  | 7 => (xs.headD 0, 0)
  | 8 => (xs.getLastD 0, 0)
  | _ => match xs with
    | [] => (0, 0)
    | x :: r =>
      let z := r.foldl (fun a y => let z := redStep (p.op - 1) p.ty a.1 y; (z.1, a.2 ||| z.2)) (x, (0 : Flags))
      (canonical p.ty z.1, z.2)

/-- GROUP's effect. -/
def groupFx (f : UW) (b : Nat) (cols : List Byte) (I : Inst) : PopM (List Birth × Tab Mask) := fun s =>
  let ts := ((s.blocks.find b).map Block.troupes).getD []
  let rows := I.parts
  let key (x : Nat × Nat) : Nat := rowVal ts x (f.bit 15) f.v
  let classes := (rows.map key).eraseDups.map fun k => rows.filter fun x => key x = k
  let pairs := colPairs cols (f.f 14 12)
  let folded := classes.flatMap fun m => pairs.map fun p => (m.headD (0, 0), p, colFold p (m.map fun x => rowVal ts x (p.ty = 5) p.reg))
  let s1 := folded.foldl (fun s y =>
    s.modTrp b y.1.1 fun T => T.both fun T => T.setVs (y.2.1.ty = 5) y.2.1.reg (1#32 <<< y.1.2) fun _ => y.2.2.1) s
  let gone := classes.flatMap (·.drop 1)
  let s2 := ts.keys.foldl (fun s t => s.modTrp b t fun T => T.retireLanes (rowsIn gone t)) s1
  .ok (([], []), s2.instFlags b I (folded.foldl (fun g y => g ||| y.2.2.2) 0))

/-! ## Relation objects (13 R329) -/

/-- A relation object as an instance reaches it: whose it is, where it is, and its header. -/
structure Rel where
  b : Nat
  core : Nat
  part : Nat
  cap : CapReg
  space : Space
  rows : Nat := 0
  capacity : Nat := 0
  bb : Nat := 0
  w : Nat := 0
  k64 : Bool := false
  /-- the troupes with an arrived member: they raise COR -/
  trps : List Nat := []
  deriving DecidableEq, Repr

/-- The place of an offset in a relation object. -/
def Rel.place (o : Rel) (s : State) (off : Nat) : Nat :=
  match o.space with
  | .slice => s.capSlice o.cap off
  | .bulk => s.capKey o.part o.cap off

/-- Whether a word at an offset lies within the object's capability (07 R196, 13 R331). -/
def Rel.inside (o : Rel) (off : Nat) : Bool := decide (off + 4 ≤ o.cap.size)

/-- Reads a word of the object as a load of the block (05 R157); single errors it meets are corrected (08 R214). -/
def Rel.read (o : Rel) (off : Nat) : PopM Nat := fun s =>
  let a := o.place s off
  let buf := ((s.blocks.find o.b).map Block.buf).getD []
  if !o.inside off then .error (.fail ⟨0x06, 0, 0⟩)
  else if s.placePoison buf o.core o.space a 4 then .error (.fail ⟨0x16, 0, 0⟩)
  else
    let met := match o.space with
      | .slice => s.correctSlice o.core a 4
      | .bulk => s.correctBulk o.core a 4
    let s1 := if met.1 then o.trps.foldl (fun s t => s.modTrp o.b t fun T => T.both fun T =>
      { T with regs := { T.regs with nf := T.regs.nf ||| fCOR } }) met.2 else s
    match s1.loadBytes o.b o.core o.space a 4 with
    | some (bs, s2) => .ok (leNat bs, s2)
    | none => match s.pageOf o.core a 4 false with
      | some .bounds => .error (.fail ⟨0x06, 0, 0⟩)
      | some .noKey => .error (.fail ⟨0x03, 0, 2⟩)
      | _ => .error (.lack a false)

/-- Writes a word of the object as a buffered store of the block (05 R157). -/
def Rel.write (o : Rel) (off x : Nat) : PopM Unit := fun s =>
  let a := o.place s off
  let put (s : State) : Except PopErr (Unit × State) :=
    let s1 := s.bufStore o.b o.space a (leBytes 4 x)
    if (s1.blocks.find o.b).any fun B => decide (bufSize B.buf > 65536) then .error .full else .ok ((), s1)
  if !o.inside off then .error (.fail ⟨0x06, 0, 0⟩)
  else match o.space with
  | .slice => if s.barred a 4 then .error (.fail ⟨0x05, 0, 0⟩) else put s
  | .bulk => match s.pageOf o.core a 4 true with
    | some .bounds => .error (.fail ⟨0x06, 0, 0⟩)
    | some .noKey => .error (.fail ⟨0x03, 0, 2⟩)
    | some _ => .error (.lack a true)
    | none => put (s.touch o.core a true)

/-- The words of a row: next, key, payload. -/
def Rel.rowWords (o : Rel) : Nat := 1 + (if o.k64 then 2 else 1) + o.w
/-- The offset of row `i`. -/
def Rel.rowAt (o : Rel) (i : Nat) : Nat := 64 + 8 * 2 ^ o.bb + 4 * i * o.rowWords

/-- The bucket of a key (13 R329). -/
def Rel.bucket (o : Rel) (key : Nat) : Nat :=
  let k32 := Nat.xor (key % 2 ^ 32) (key / 2 ^ 32 % 2 ^ 32)
  k32 * 0x9E3779B1 % 2 ^ 32 / 2 ^ (32 - o.bb)

/-- Opens the object named by a capability of the opening troupe: checks 1 to 3, the header, the layout (13 R329). A system
structure takes no store of an unprivileged task (07 R191). -/
def relOpen (b cN : Nat) (rights : BitVec 12) (I : Inst) : PopM Rel := fun s =>
  match s.blocks.find b with
  | none => .error (.fail ⟨0x04, 0, 0⟩)
  | some B =>
    match s.tasks.find B.task with
    | none => .error (.fail ⟨0x04, 0, 0⟩)
    | some K =>
      let r := (trpOf B.troupes I.opener).regs.c.get {} cN
      match s.capCheck B.core K r [5] rights with
      | some e => .error (.fail ⟨e.1, 0, e.2⟩)
      | none =>
        let bulk := (s.obj K.part r.obj).kind = 1
        if rights.getLsbD 1 && bulk && (s.obj K.part r.obj).t && !K.launch.prv then .error (.fail ⟨0x05, 0, 0⟩)
        else if r.size < 64 then .error (.fail ⟨0x06, 0, 0⟩)
        else
          let o : Rel := { b := b, core := B.core, part := K.part, cap := r, space := if bulk then .bulk else .slice
                           trps := (I.arrived.filter fun p => p.2 != 0).map Prod.fst }
          (do
            let h ← (List.range 16).mapM fun i => o.read (4 * i)
            let x (i : Nat) : Nat := h.getD i 0
            let o : Rel := { o with
              rows := x 0, capacity := x 1, bb := x 2 % 32, w := x 3 % 16, k64 := bit (x 3) 4 }
            if o.capacity = 0 || decide (o.capacity > 2 ^ 20) || decide (o.bb > 20) || o.w = 0 || decide (o.w > 8) ||
                decide (o.rows > o.capacity) || x 2 / 32 ≠ 0 || x 3 / 32 ≠ 0 || (h.drop 4).any (· ≠ 0) then popFail 0x11 0
            else if o.rowAt o.capacity > r.size then popFail 0x06 0
            else pure o : PopM Rel) s

/-! ## BUILD (13 R333) -/

/-- Inserts one row, the `i`-th. -/
def Rel.insert (o : Rel) (i key : Nat) (payload : List Nat) : PopM Unit := do
  let row := o.rowAt i
  o.write row 0
  o.write (row + 4) (key % 2 ^ 32)
  if o.k64 then o.write (row + 8) (key / 2 ^ 32)
  let p := row + 4 * (o.rowWords - o.w)
  let _ ← ((List.range o.w).mapM fun j => o.write (p + 4 * j) (payload.getD j 0))
  let h := 64 + 8 * o.bucket key
  let head ← o.read h
  if head = 0 then o.write h (i + 1)
  else do
    let tail ← o.read (h + 4)
    o.write (o.rowAt (wrapN 32 (tail - 1))) (i + 1)
  o.write (h + 4) (i + 1)
  o.write 0 (i + 1)

/-- The order in which a slice's arbiter grants some troupes: a free choice (02 R70). -/
def grantOrder : Nat → Nat → List Nat → List Nat
  | 0, _, xs => xs
  | _ + 1, _, [x] => [x]
  | n + 1, k, xs => match xs[Config.choose k % xs.length]? with
    | some x => x :: grantOrder n (k + 1) (xs.filter (· ≠ x))
    | none => xs

/-- BUILD's effect. -/
def buildFx (f : UW) (b : Nat) (I : Inst) : PopM (List Birth × Tab Mask) := do
  let s0 ← get
  let ts := ((s0.blocks.find b).map Block.troupes).getD []
  let o ← relOpen b f.cN (rightsOf true true false) I
  let w := f.f 11 9 + 1
  if w ≠ o.w || f.bit 8 ≠ o.k64 then popFail 0x11 0
  else
    let order := grantOrder I.active.length s0.tick I.active.keys
    let rows := order.flatMap fun t => (I.parts.filter fun x => x.1 = t)
    if o.rows + rows.length > o.capacity then popFail 0x12 (o.rows + rows.length - o.capacity)
    else do
      let _ ← (rows.zip (List.range rows.length)).mapM fun x =>
        o.insert (o.rows + x.2) (rowVal ts x.1 o.k64 f.v) ((List.range w).map fun j => rowVal ts x.1 false (f.f 7 1 + j))
      pure ([], [])

/-! ## JOIN (13 R334) -/

/-- The rows of a chain whose key matches, from a link on: at most `n` links, none naming a row past `rows`. -/
def Rel.walk (o : Rel) (key : Nat) : Nat → Nat → PopM (List Nat)
  | 0, _ => pure []
  | n + 1, link =>
    if link = 0 || decide (link > o.rows) then pure []
    else do
      let row := o.rowAt (link - 1)
      let lo ← o.read (row + 4)
      let hi ← if o.k64 then o.read (row + 8) else pure 0
      let next ← o.read row
      let r ← o.walk key n next
      pure (if lo + 2 ^ 32 * hi = key then (link - 1) :: r else r)

/-- A probe's entries: the rows that match, from the cursor's row where it stands at this probe; the unmatched row with
`.left`. -/
def Rel.probe (o : Rel) (left : Bool) (key : Nat) (at' : Option Nat) : PopM (List (Option Nat)) := do
  let link ← match at' with
    | some i => pure (i + 1)
    | none => o.read (64 + 8 * o.bucket key)
  let rs ← o.walk key o.capacity link
  pure (if rs.isEmpty && left then [none] else rs.map some)

/-- JOIN's effect. -/
def joinFx (f : UW) (b : Nat) (L : Launch) (I : Inst) : PopM (List Birth × Tab Mask) := do
  let s0 ← get
  let ts := ((s0.blocks.find b).map Block.troupes).getD []
  let o ← relOpen b f.cN (rightsOf true false false) I
  let vD := f.f 7 1
  let M := (f.d.extractLsb' 0 3).toNat
  if f.bit 0 ≠ o.k64 then popFail 0x11 0
  else if vD + o.w ≥ L.regs then popFail 0x01 5
  else do
    let cur := ((s0.blocks.find b).bind Block.cursor).bind fun k => if k.pc = I.pc then some k else none
    let probes := match cur with
      | some k => k.probes.filter I.parts.contains
      | none => I.parts
    let start (q : Nat × Nat) : Option Nat := match cur with
      | some k => if k.probes.head? = some q then k.row else none
      | none => none
    let out ← probes.mapM fun q => do
      let es ← o.probe (f.bit 11) (rowVal ts q o.k64 f.v) (start q)
      pure (es.map fun e => (q, e))
    let out := out.flatten
    let free := I.free L ts []
    let births ← (out.zip free).mapM fun x => do
      let pay ← match x.1.2 with
        | some i => (List.range o.w).mapM fun j => o.read (o.rowAt i + 4 * (o.rowWords - o.w) + 4 * j)
        | none => pure (List.replicate o.w 0)
      let regs := (pay.zip (List.range o.w)).map (fun p => (vD + p.2, BitVec.ofNat 32 p.1)) ++
        [(vD + o.w, match x.1.2 with
          | some i => BitVec.ofNat 32 i
          | none => 0xFFFFFFFF#32)]
      pure ({ t := x.2.1, l := x.2.2, srcT := x.1.1.1, srcL := x.1.1.2, regs := regs, pred := M } : Birth)
    let rest := out.drop free.length
    let cursor : Option Cursor := match rest with
      | [] => none
      | (q, e) :: r => some ⟨I.pc, e, (q :: r.map Prod.fst).eraseDups⟩
    modify fun s =>
      let s1 := ts.keys.foldl (fun s t => s.modTrp b t fun T => T.both fun T => T.setP M (rowsIn probes t) 0) s
      (s1.modBlk b fun B => { B with cursor := cursor })
    modify fun s => (if I.block then ts.keys else [I.opener]).foldl (fun s t =>
      s.modTrp b t fun T => T.both fun T => T.setG (f.f 10 8) !rest.isEmpty) s
    pure (births, [])

/-! ## EXPAND, REPACK, RCOUNT (13 R335 to R337) -/

/-- EXPAND's effect. -/
def expandFx (f : UW) (b : Nat) (L : Launch) (I : Inst) : PopM (List Birth × Tab Mask) := fun s =>
  let ts := ((s.blocks.find b).map Block.troupes).getD []
  let rows := I.parts
  let n (x : Nat × Nat) : Nat := rowVal ts x false f.v
  let vI := f.f 14 8
  match rows.find? fun x => n x > 1024 with
  | some x => .error (.fail ⟨0x11, 0, x.2⟩)
  | none =>
    let gone := rows.filter fun x => n x = 0
    let free := I.free L ts gone
    let copies := rows.flatMap fun x => (List.range (n x - 1)).map fun k => (x, k + 1)
    if copies.length > free.length then .error (.fail ⟨0x12, 0, (copies.length - free.length) % 2 ^ 16⟩)
    else
      let s1 := ts.keys.foldl (fun s t => s.modTrp b t fun T =>
        (T.both fun T => T.setV vI (rowsIn rows t &&& ~~~(rowsIn gone t)) fun _ => 0).retireLanes (rowsIn gone t)) s
      .ok (((copies.zip free).map fun x =>
        { t := x.2.1, l := x.2.2, srcT := x.1.1.1, srcL := x.1.1.2, regs := [(vI, BitVec.ofNat 32 x.1.2)] }, []), s1)

/-- REPACK's effect: the rows that take part move to the lowest lanes that no other row keeps. -/
def repackFx (b : Nat) (L : Launch) (I : Inst) : PopM (List Birth × Tab Mask) := fun s =>
  let ts := ((s.blocks.find b).map Block.troupes).getD []
  let rows := I.parts
  let dests := I.free L ts rows
  let moves := (rows.zip dests).zip (List.range rows.length)
  .ok ((moves.map fun x =>
    { t := x.1.2.1, l := x.1.2.2, srcT := x.1.1.1, srcL := x.1.1.2, rid := if I.block then some x.2 else none },
    ts.keys.map fun t => (t, rowsIn rows t)), s)

/-- RCOUNT's effect. -/
def rcountFx (f : UW) (b : Nat) (I : Inst) : PopM (List Birth × Tab Mask) := fun s =>
  let ts := ((s.blocks.find b).map Block.troupes).getD []
  let n := (if I.block then ts.keys else [I.opener]).foldl (fun n t => n + popcount (trpOf ts t).lm) 0
  .ok (([], []), s.eachArrived b I fun T => T.setS f.d.toNat (BitVec.ofNat 64 n))

/-! ## Cross-lane instances (13 R323) -/

/-- The effect of a cross-lane instruction that opened an instance: results go to active members only. -/
def xinstFx (b : Nat) (I : Inst) : PopM (List Birth × Tab Mask) := fun s =>
  let out (p : Nat) : Nat × Flags := I.instr.xlane I.vals p
  let s1 := I.active.foldl (fun s p => s.modTrp b p.1 fun T => T.both fun T =>
    let T1 := T.pops I.instr p.2
    match I.instr with
    | .ballot _ => match I.instr.xuni with
      | some d => T1.setS d.toNat (BitVec.ofNat 64 (ballotV I.vals))
      | none => T1
    | _ => T1.result I.instr I.instr.xdst p.2 fun l => (out (32 * p.1 + l)).1 % 2 ^ I.instr.xdst.bits) s
  .ok (([], []), s1.instFlags b I (I.vals.foldl (fun g v => g ||| (out v.1).2) 0))

/-- What an instance does once every member has arrived. -/
def Inst.effect (I : Inst) (b : Nat) (K : Task) : PopM (List Birth × Tab Mask) :=
  match I.instr with
  | .group f => groupFx f b K.columns I
  | .build f => buildFx f b I
  | .join f => joinFx f b K.launch I
  | .expand f => expandFx f b K.launch I
  | .repack _ => repackFx b K.launch I
  | .rcount f => rcountFx f b I
  | _ => xinstFx b I

/-! ## Issue -/

/-- A relation instruction issues (13 R330): GROUP, JOIN, EXPAND and REPACK need a kernel without shadow troupes. -/
def relFx (i : Instr) (f : UW) (bar : Bool) (c : Ctx) (s : State) : Res :=
  if bar && c.task.launch.shd then .trap ⟨0x01, 0, 11⟩
  else s.joinInst c i (f.bit 23) 0xFFFFFFFF#32 c.active fun _ => (0, 0)

/-- A JOIN of another word, EXPAND and REPACK discard the cursor (13 R334). -/
def State.dropCursor (s : State) (c : Ctx) (keep : Bool) : State :=
  s.modBlk c.b fun B => { B with cursor := B.cursor.bind fun k => if keep && k.pc = c.sp.pc then some k else none }

/-- GROUP. -/
def execGroup (f : UW) (s : State) : Host.Outcome State Fault Refusal := s.issueWord (.group f) (relFx (.group f) f true)
/-- BUILD. -/
def execBuild (f : UW) (s : State) : Host.Outcome State Fault Refusal := s.issueWord (.build f) (relFx (.build f) f false)
/-- JOIN: vD + 1 must be below `.regs` at issue. -/
def execJoin (f : UW) (s : State) : Host.Outcome State Fault Refusal :=
  s.issueWord (.join f) fun c s =>
    if f.f 7 1 + 1 ≥ c.nregs then .trap ⟨0x01, 0, 5⟩ else relFx (.join f) f true c (s.dropCursor c true)
/-- EXPAND. -/
def execExpand (f : UW) (s : State) : Host.Outcome State Fault Refusal :=
  s.issueWord (.expand f) fun c s => relFx (.expand f) f true c (s.dropCursor c false)
/-- REPACK. -/
def execRepack (f : UW) (s : State) : Host.Outcome State Fault Refusal :=
  s.issueWord (.repack f) fun c s => relFx (.repack f) f true c (s.dropCursor c false)
/-- RCOUNT. -/
def execRcount (f : UW) (s : State) : Host.Outcome State Fault Refusal :=
  s.issueWord (.rcount f) (relFx (.rcount f) f false)

/-! ## Execution and completion (06 R187, R188) -/

/-- The instance open at a scope of a block, and its troupe. -/
def State.instAt (s : State) (b : Nat) (sc : Scope) : Option (Nat × Inst) :=
  match s.blocks.find b with
  | none => none
  | some B => match sc with
    | .block => B.inst.map fun I => (I.opener, I)
    | .troupe t => (B.troupes.find t).bind fun T => T.inst.map fun I => (t, I)

/-- The members still awaited, by troupe. -/
def Block.awaited (B : Block) (I : Inst) : List (Nat × Nat) :=
  I.members.flatMap fun p => match B.troupes.find p.1 with
    | some T => (lanesOf (I.awaited p.1 T.lm)).map fun l => (p.1, l)
    | none => []

/-- What the instance's effect comes to now: the state once it has completed, or why it cannot. -/
def State.runInst (s : State) (b t : Nat) (I : Inst) : Except PopErr State :=
  match s.blocks.find b with
  | none => .ok s
  | some B => match s.tasks.find B.task with
    | none => .ok s
    | some K => match I.effect b K s with
      | .error e => .error e
      | .ok ((births, gone), s1) => .ok (s1.completeInst b t I K.launch B.troupes births gone)

/-- An instance's object has no usable page: the event of 07 R205, and the instance waits. -/
def State.lackPage (s : State) (b t : Nat) (I : Inst) (k : Nat) (write : Bool) : State :=
  let core := ((s.blocks.find b).map Block.core).getD 0
  let code := if write && s.pageOf core k 4 true = some .notWritable then 2 else 1
  let page := keyOff k / 2 ^ pageBits (s.obj (keyPart k) (keyObj k)).psz
  (s.event code core (keyPart k) (keyObj k + 2 ^ 24 * page)).modInst b t I.block fun o =>
    o.map fun I => { I with lack := some (k, write), started := false }

/-- POPULATION_EXECUTE: an instance whose members have all arrived starts; a fault of 13 R331 closes it, a page its object lacks
makes it wait with the whole block (01 R35), and a full store buffer commits and drains first (05 R139). -/
def execPopulationExecute (b : Nat) (sc : Scope) (s : State) : Host.Outcome State Fault Refusal :=
  match s.instAt b sc, s.blocks.find b with
  | some (t, I), some B =>
    if I.started || !B.allArrived I then .next s
    else match s.runInst b t I with
      | .error (.fail r) => .next (s.failInst b t I r)
      | .error (.lack k w) => .next (s.lackPage b t I k w)
      | .error .full => .next (s.overflow b)
      | .ok _ => .next (s.modInst b t I.block fun o => o.map fun I => { I with started := true, lack := none })
  | _, _ => .next s

/-- POPULATION_COMPLETE: a started instance takes effect, its splits merge, and its rows are born (01 R34). -/
def execPopulationComplete (b : Nat) (sc : Scope) (s : State) : Host.Outcome State Fault Refusal :=
  match s.instAt b sc with
  | some (t, I) =>
    if !I.started then .next s
    else match s.runInst b t I with
      | .error (.fail r) => .next (s.failInst b t I r)
      | .error (.lack k w) => .next (s.lackPage b t I k w)
      | .error .full => .next (s.overflow b)
      | .ok s1 => .next s1.tock
  | none => .next s

/-! ## Splits that cannot move (01 R35, 06 R186) -/

/-- Removes from some parked splits those at a MEET that a split outside them can still complete. -/
def Troupe.stuckStep (T : Troupe) (es : List Nat) : List Nat :=
  es.filter fun e => match T.splits.find e with
    | none => false
    | some S => match S.wait with
      | .meet k => match T.k.find k with
        | none => true
        | some t =>
          let there := T.splits.foldl (fun (m : Mask) (p : Nat × Split) => match p.2.wait with
            | .meet j => if j = k then m ||| p.2.own
                else match T.k.find j with
                  | some u => if u.age < t.age then m ||| p.2.own else m
                  | none => m
            | _ => m) 0#32
          let need := t.enrolled &&& T.lm &&& ~~~there
          let held := T.splits.foldl (fun (m : Mask) (p : Nat × Split) => if es.contains p.1 then m ||| p.2.own else m) 0#32
          need &&& ~~~held = 0
      | _ => true

/-- The splits parked at a population instruction, at a MEET that cannot complete, or where `more` holds. Those of a stopped
troupe count as able to move (08 R230). -/
def Troupe.stuckSplits (T : Troupe) (more : Wait → Bool) : List Nat :=
  if T.stopped then [] else (List.range 8).foldl (fun es _ => T.stuckStep es)
    ((T.splits.filter fun (p : Nat × Split) => match p.2.wait with
      | .meet _ => true
      | .pop _ _ => true
      | w => more w).map Prod.fst)

/-- The word index at which the lowest awaited member is parked, when every awaited member is owned by a split that cannot
move (01 R35, 06 R188). -/
def Block.stalled (B : Block) (I : Inst) : Option Word :=
  let stuck (x : Nat × Nat) : Option Split := (B.troupes.find x.1).bind fun T =>
    (T.splits.find? fun (p : Nat × Split) => (T.stuckSplits fun _ => false).contains p.1 && p.2.own.getLsbD x.2).map Prod.snd
  match B.awaited I with
  | [] => none
  | x :: r => if (x :: r).all fun y => (stuck y).isSome then (stuck x).map Split.pc else none

/-- COLLSTALL_CLOSE. -/
def execCollstallClose (b : Nat) (sc : Scope) (s : State) : Host.Outcome State Fault Refusal :=
  match s.instAt b sc, s.blocks.find b with
  | some (t, I), some B => match B.stalled I with
    | some pc => .next (s.failInst b t I ⟨0x0F, 0, pc.toNat⟩)
    | none => .next s
  | _, _ => .next s

/-- Whether a queue pop or push of a split need wait no longer: its word would pop or push now, or fault (06 R185). -/
def State.queueReady (s : State) (b t e q : Nat) (push : Bool) (m : Mask) : Bool :=
  match ({ s with cur := some ⟨b, t, e⟩ }).focus? with
  | none => false
  | some c =>
    if push then !c.full q m
    else match s.fetch c.task c.sp.pc.toNat with
      | .error _ => true
      | .ok i => match c.popWait i m s with
        | some (.park _) => false
        | _ => true

/-- Whether a split's wait can already end: its queue is ready, or every member of the instance it waits at has arrived. -/
def State.canMove (s : State) (b : Nat) (B : Block) (t e : Nat) (S : Split) (T : Troupe) : Bool :=
  B.atFullInst T S || match S.wait with
    | .queue q push m => s.queueReady b t e q push m
    | _ => false

/-- Whether every split of a shadow pair waits on a queue or is parked where it cannot go on. -/
def Block.pairStuck (B : Block) (t : Nat) : Bool :=
  let q (w : Wait) : Bool := match w with
    | .queue _ _ _ => true
    | _ => false
  let all (T : Troupe) : Bool := T.stack.isEmpty && !T.splits.isEmpty && (T.stuckSplits q).length = T.splits.length
  match B.troupes.find t, B.troupes.find (t + 32) with
  | some T, some P => all T && all P && T.splits.any fun (p : Nat × Split) => q p.2.wait
  | _, _ => false

/-- Whether a shadow pair cannot move (06 R186). -/
def State.pairDry (s : State) (b : Nat) (B : Block) (t : Nat) : Bool :=
  B.pairStuck t && [t, t + 32].all fun u => match B.troupes.find u with
    | some T => T.splits.all fun (p : Nat × Split) => !s.canMove b B u p.1 p.2 T
    | none => true

/-- QDRY_DEADLOCK: the compute troupe's youngest split that waits on a queue faults QDRY with detail 1. -/
def execQdryDeadlock (b t : Nat) (s : State) : Host.Outcome State Fault Refusal :=
  match s.blocks.find b with
  | none => .next s
  | some B =>
    if !s.pairDry b B t then .next s
    else match B.troupes.find t with
      | none => .next s
      | some T =>
        match T.youngestSplit fun S => match S.wait with
          | .queue _ _ _ => true
          | _ => false with
        | none => .next s
        | some e => match T.splits.find e with
          | none => .next s
          | some S =>
            let skip := match s.tasks.find B.task with
              | some K => BitVec.ofNat 32 (s.runEnd K 8 S.pc.toNat)
              | none => S.pc
            .next (s.takeFault b t e ⟨0x10, 0, 1⟩ S.pc S.pc skip)

/-- QUEUE_WAKE: a split waiting on a queue becomes ready when its pop or push would no longer wait (06 R185). -/
def execQueueWake (b t e : Nat) (s : State) : Host.Outcome State Fault Refusal :=
  match ((s.trp? b t).bind fun T => T.splits.find e).map Split.wait with
  | some (.queue q push m) =>
    if s.queueReady b t e q push m then .next (s.modSplit b t e fun S => { S with wait := .ready }) else .next s
  | _ => .next s

end Sys2Proof.Machine
end

