-- ==== Sys2Proof/Machine/Engines.lean ====
section
/-! DEFINITION. Engines (04 R119 to R133; 08 R223; 14 R358 to R362): taking chain entries, landings, completion,
collectives, and the instructions on chains. -/
namespace Sys2Proof.Machine

/-! ## Taking an entry -/

/-- The entry at the head of a chain of this package, with who appended it: op, fields (04 R119). -/
def State.headEntry (s : State) (ch : Nat) : Option (Owner × Nat × Entry) :=
  let h := s.chHead ch
  if !s.here ch || !bit h 63 then none
  else
    let a := linkAddr ch h
    (s.eng.owners.find? fun o => o.chain = ch && !o.taken && o.entry = a).map fun o =>
      (o, s.sliceNat a 1, Entry.ofBytes (s.sliceRead a 64))

/-- The class an op belongs to: 0 for NOP, any; none for an op that is not listed (04 Table 4.8). -/
def opClass (op : Nat) : Option Nat :=
  match op with
  | 0x00 => some 0
  | 0x01 | 0x02 | 0x03 => some 1
  | 0x10 | 0x11 | 0x12 => some 2
  | 0x20 | 0x21 | 0x22 | 0x23 => some 3
  | 0x30 => some 4
  | _ => none

/-- Whether an op belongs to a chain's class; on a Parser chain only SUBMIT does (06 R164). -/
def opFits (op cls : Nat) : Bool :=
  match opClass op with
  | some 0 => cls ≠ 4
  | some k => k = cls
  | none => false

/-- Whether a copy channel's entry is held: its partition is halted (08 R225), or its block belongs to the context that is
swapped out, with the channel's progress (08 Table 8.4). -/
def State.heldCopy (s : State) (o : Owner) : Bool :=
  s.chClass o.chain = 1 &&
    ((s.ctl.parts.find o.part).any Part.halted || (o.block.bind fun b => s.blocks.find b.1).any Block.swapped)

/-- Whether the engine may take the head entry: eligible, the chain running, F held back until every earlier entry has
completed (04 R123), and a copy channel not halted (08 R225). -/
def State.mayTake (s : State) (ch : Nat) : Bool :=
  match s.headEntry ch with
  | none => false
  | some (o, _, e) =>
    s.chStatus ch % 256 = 0 && decide (o.seq ≤ s.chAdvanced ch) && (!e.f || s.chSeq ch + 1 = o.seq) && !s.heldCopy o

/-- A failed check: its stage, as R196 numbers them, and the fault code. -/
abbrev Fail := Option (Nat × Nat)

/-- The first failing check of several: the least stage, the first of that stage. -/
def firstFail (xs : List Fail) : Option Nat :=
  (xs.foldl (fun (r : Fail) x => match r, x with
    | none, y => y
    | some p, some q => if q.1 < p.1 then some q else some p
    | some p, none => some p) none).map Prod.snd

/-- A failure of a stage if a condition holds. -/
def failIf (p : Bool) (stage code : Nat) : Fail := if p then some (stage, code) else none

/-- The task whose table an entry's capability indices name: its block's; for an entry an ENGINE node copied, the last task
its graph had started (DESIGN CHOICE, log 64: the spec names a table only for an entry a block appends). -/
def State.ownerTask (s : State) (o : Owner) : Option Task :=
  if o.far.isSome then none else ((o.block.map Prod.snd).or o.task).bind s.tasks.find

/-- The 256 bits of the table entry an index of a chain entry names (04 R122, 07 R197); those of a table of another package
are free values. -/
def State.entTab (s : State) (o : Owner) (i : Nat) : Nat :=
  match s.ownerTask o, o.far with
  | some K, _ => s.tabEntry K i
  | none, some p => leNat ((List.range 32).map fun j => Config.farByte s.tick ((64 + p.1) * 2 ^ 64 + 32 * i + j))
  | none, none => 0

/-- The capability an index of an entry names, and whether its table entry is valid. -/
def State.entCap (s : State) (o : Owner) (i : Nat) : CapReg × Bool :=
  let x := s.entTab o i
  let c : CapReg := { bits := BitVec.ofNat 128 x, tag := some i }
  (c, bit x 128 && c.wellFormed && s.capOwned o.part c)

/-- Whether the issuing block of an entry is privileged: its task, the graph of an ENGINE node, or a free value for another
package (07 R191). -/
def State.entPriv (s : State) (o : Owner) : Bool :=
  match o.block, o.far with
  | some _, _ => ((s.ownerTask o).map fun K => K.launch.prv).getD false
  | none, some p => (Config.farByte s.tick ((64 + p.1) * 2 ^ 64 - 1)).getLsbD 0
  | none, none => o.sup

/-- Checks 1 to 3 of R196 for a capability an entry names, and the F bit of its table entry. -/
def State.entFail (s : State) (o : Owner) (c : CapReg × Bool) (kinds : List Nat) (rights : BitVec 12) : Fail :=
  if !kinds.contains c.1.kind then some (1, 0x04)
  else if !c.2 then some (2, 0x03)
  else match s.capLive (coreOfSlice o.chain) o.part c.1 with
    | some f => some (2, f.1)
    | none =>
      if c.1.tag.any fun i => bit (s.entTab o i) 129 then some (2, 0x0E)
      else failIf (c.1.rights &&& rights != rights) 3 0x05

end Sys2Proof.Machine

namespace Sys2Proof

open Machine

/-- The reduction and the type of an entry (04 R120). -/
def Entry.redOp (e : Entry) : Nat := e.param.toNat % 16
/-- The type code. -/
def Entry.redTy (e : Entry) : Nat := e.param.toNat / 16 % 16
/-- The element size. -/
def Entry.esize (e : Entry) : Nat := if wide e.redTy then 8 else 4
/-- The group id of a collective. -/
def Entry.gid (e : Entry) : Nat := e.group.toNat % 2 ^ 16
/-- The attempt of a collective (08 R223). -/
def Entry.attempt (e : Entry) : Nat := e.group.toNat / 2 ^ 16

/-- Whether the reduction and type codes are among those of R120: and, or and xor take integers. -/
def Entry.redBad (e : Entry) (reduces : Bool) : Bool :=
  !([0, 1, 2, 4, 5, 6].contains e.redTy) ||
    reduces && (decide (e.redOp > 5) || (decide (e.redOp ≥ 3) && [2, 4, 5].contains e.redTy))

end Sys2Proof

namespace Sys2Proof.Machine

/-- A place a capability reaches: a slice address or a bulk key, in the copy of its own right to publish. -/
def State.placeOf (s : State) (part : Nat) (c : CapReg) (off : Nat) : Space × Nat :=
  if c.kind = 1 then (.bulk, s.capKey part c off) else (.slice, s.capSlice c off)

/-- Reads source bytes at a place: through the core's bulk cache for a copy channel, else at the point of coherence (05
R151). Single errors met are corrected, and the core's `cor` counts them: no troupe finds them (08 Table 8.1). -/
def State.engRead (s : State) (cached : Bool) (core : Nat) (p : Space × Nat) (n : Nat) : Option (List Byte × State) :=
  match p.1 with
  | .slice => some (s.sliceRead p.2 n, (s.correctSlice core p.2 n).2)
  | .bulk =>
    if cached then (s.correctBulk core p.2 n).2.bulkRead core p.2 n
    else (s.keyRead core p.2 n).map fun r => (r.1, (r.2.correctHome core p.2 n).2)

/-- Whether source bytes are poisoned. -/
def State.engPoisoned (s : State) (cached : Bool) (core : Nat) (p : Space × Nat) (n : Nat) : Bool :=
  match p.1 with
  | .slice => s.slicePoisoned p.2 n
  | .bulk =>
    if cached then s.bulkPoisoned core p.2 n
    else s.homePoisoned (dieOf core) (keyPart p.2) (keyObj p.2) (keyCopy p.2) (keyOff p.2) n

/-- Whether bytes at an offset from a capability lie within it and, in bulk space, within its object (07 R196, R204). -/
def State.inCap (s : State) (part : Nat) (c : CapReg) (off n : Nat) : Bool :=
  n = 0 || (decide (off + n ≤ c.size) && (c.kind ≠ 1 || decide (c.at + off + n ≤ (s.obj part c.obj).size * 4096)))

/-- The 32-bit words of an index list or a directory, and whether they are poisoned (08 R216): none where a page is
absent. -/
def State.engWords (s : State) (core part : Nat) (c : CapReg) (off n : Nat) : Option (List Nat × Bool) :=
  let p := s.placeOf part c off
  (s.engRead false core p (4 * n)).map fun r =>
    ((List.range n).map fun i => leNat ((r.1.drop (4 * i)).take 4), s.engPoisoned false core p (4 * n))

/-- What the lists of an entry give: its rows, as the source offset (none for a row of zeros or a pattern) and the
destination offset; whether a directory entry is out of bounds or reserved (04 R133); whether poison was read; and which words
of the auxiliary capability were, as offsets and numbers of words. -/
structure Rows where
  rows : List (Option Nat × Nat)
  bounds : Bool := false
  poison : Bool := false
  reads : List (Nat × Nat) := []
  deriving DecidableEq, Repr

/-- The row of GATHERM's code `c` (04 R133), after those before it. -/
def State.mortonRow (s : State) (core part : Nat) (e : Entry) (aux : CapReg) (r : Rows) (c : Nat) : Option Rows :=
  let d := e.param.toNat + 4 * bits c 29 9
  let dst := e.dst.toNat + r.rows.length * e.dstride.toNat
  if !s.inCap part aux d 4 then some { r with rows := r.rows ++ [(none, dst)], bounds := true }
  else (s.engWords core part aux d 1).map fun w =>
    let x := w.1.headD 0
    { rows := r.rows ++ [(if x % 2 ^ 24 = 0 then none
        else some (e.src.toNat + ((x % 2 ^ 24 - 1) * 512 + c % 512) * e.len.toNat), dst)]
      bounds := r.bounds || bits x 31 24 ≠ 0, poison := r.poison || w.2, reads := r.reads ++ [(d, 1)] }

/-- Where the rows of an entry lie (04 Table 4.8, R133), `ok` where its index list is in bounds: one that is not names no
rows of a source or of SCATADD's destination. None where the auxiliary region cannot be read yet. -/
def State.entRows (s : State) (op core part : Nat) (e : Entry) (aux : CapReg) (ok : Bool) : Option Rows :=
  let src := e.src.toNat
  let dst := e.dst.toNat
  let n := e.count.toNat
  let ss := e.sstride.toNat
  let ds := e.dstride.toNat
  let rows (f : Nat → Option Nat × Nat) : List (Option Nat × Nat) := (List.range n).map f
  match op with
  | 0x02 => some { rows := rows fun r => (some (src + r * ss), dst + r * ds) }
  | 0x03 => some { rows := rows fun r => (none, dst + r * ds) }
  | 0x10 | 0x11 | 0x12 =>
    if !ok then some { rows := if op = 0x12 then [] else rows fun i => (none, dst + i * ds) }
    else (s.engWords core part aux e.aux.toNat n).bind fun idx =>
      let q : Rows := { rows := [], poison := idx.2, reads := [(e.aux.toNat, n)] }
      if op = 0x10 then some { q with rows := rows fun i => (some (src + idx.1.getD i 0 * ss), dst + i * ds) }
      else if op = 0x12 then some { q with rows := rows fun i => (some (src + i * ss), dst + idx.1.getD i 0 * ds) }
      else idx.1.foldl (fun r c => r.bind fun r => s.mortonRow core part e aux r c) (some q)
  | _ => some { rows := [(some src, dst)] }

end Sys2Proof.Machine

namespace Sys2Proof

open Machine

/-- The bytes of a row of the source, and of the destination (04 Table 4.8, R121). -/
def Entry.widths (e : Entry) (op g : Nat) : Nat × Nat :=
  let n := e.count.toNat * e.esize
  match op with
  | 0x20 => (n, n)
  | 0x21 => (n, n / g)
  | 0x22 => (n, g * n)
  | 0x23 => (n, n)
  | _ => (e.len.toNat, e.len.toNat)

end Sys2Proof

namespace Sys2Proof.Machine

/-- Whether the group entry of a collective is well formed and names the engine (04 R121). -/
def State.groupBad (s : State) (part core gid : Nat) : Bool :=
  match s.ctl.parts.find part with
  | none => true
  | some P =>
    let x := s.waNat part (P.cfg.groups + 256 * gid) 256
    let g := bits x 6 0
    let ms := s.groupMembers part gid
    !bit x 7 || g = 0 || decide (g > 64) || bits x 127 8 ≠ 0 ||
      ((List.range 64).any fun r => bits x (143 + 16 * r) (137 + 16 * r) ≠ 0 ||
        (decide (r ≥ g) && bits x (143 + 16 * r) (128 + 16 * r) ≠ 0)) ||
      bits x 2047 1152 ≠ 0 || ms.eraseDups.length ≠ ms.length || !ms.contains (s.ctl.pkg, dieOf core)

/-- Whether an op moves bytes. -/
def movesBytes (op : Nat) : Bool := op ≠ 0x00 && op ≠ 0x30

/-- Whether an engine verifies a tile-attributed source: it is read by a copy channel, or goes to bulk space or over the
fabric (03 R97). -/
def State.verifies (s : State) (ch op : Nat) (dst : CapReg) : Bool :=
  s.chClass ch = 1 || (0x20 ≤ op && op ≤ 0x23) || dst.kind = 1 || !s.here dst.at

/-- Whether bytes of slice space lie in tile-attributed regions only; in another package that is a free value of each step
(DESIGN CHOICE, log 65). -/
def State.allTiles (s : State) (a n : Nat) : Bool :=
  if s.here a then (s.tilesOf a n).length = (unitsOf 4096 a n).length else (Config.farByte s.tick (2 ^ 128 + a)).getLsbD 0

/-- Whether a page that the checks of an entry read is absent: of the table entries it names, or of its group's (07 R204; DEDUCED, log 86). -/
def State.entAbsent (s : State) (o : Owner) (op : Nat) (e : Entry) : Bool :=
  let tab (p : Bool) (k : Nat) : Bool := p && (s.ownerTask o).any fun K => s.waAbsent K.part (K.entryAt (e.cap k)) 32
  let moves := movesBytes op
  tab (moves && op ≠ 0x03) 0 || tab moves 1 || tab (0x10 ≤ op && op ≤ 0x12) 2 || tab (e.g || e.a) 3 ||
    ((0x20 ≤ op && op ≤ 0x23) && (s.ctl.parts.find o.part).any fun P => s.waAbsent o.part (P.cfg.groups + 256 * e.gid) 256)

/-- The checks of an entry before it moves a byte (04 R120 to R122, 08 R223): the fault code that stops it, or the running
entry it becomes; none where a page it needs to read is absent. -/
def State.checkEntry (s : State) (o : Owner) (op : Nat) (e : Entry) : Option (Except Nat Running) :=
  let core := coreOfSlice o.chain
  let coll := 0x20 ≤ op && op ≤ 0x23
  let elems := coll || op = 0x12
  let moves := movesBytes op
  let src := s.entCap o (e.cap 0)
  let dst := s.entCap o (e.cap 1)
  let aux := s.entCap o (e.cap 2)
  let grd := s.entCap o (e.cap 3)
  let reads := moves && op ≠ 0x03
  let lists := 0x10 ≤ op && op ≤ 0x12
  let notes := e.g || e.a
  let g := (s.groupMembers o.part e.gid).length
  let w := e.widths op g
  let bad := !opFits op (s.chClass o.chain) || e.ctlBad || (elems && e.redBad (op ≠ 0x22 && op ≠ 0x23)) ||
    (coll && (!notes || s.groupBad o.part core e.gid || (op = 0x21 && g ≠ 0 && e.count.toNat % g ≠ 0)))
  let sys := dst.1.kind = 1 && (s.obj o.part dst.1.obj).t && !s.entPriv o
  let listed := lists && s.inCap o.part aux.1 e.aux.toNat (4 * e.count.toNat)
  let fails1 : List Fail := [failIf bad 0 0x01,
    if reads then s.entFail o src [1, 2] 0x001#12 else none,
    if moves then s.entFail o dst [1, 2] (if op = 0x12 then 0x006#12 else 0x002#12) else none,
    failIf (moves && e.k && dst.1.kind ≠ 2) 1 0x04,
    failIf (moves && sys) 3 0x05,
    if lists then s.entFail o aux [1, 2] 0x001#12 else none,
    if notes then s.entFail o grd [3] 0x008#12 else none]
  if s.entAbsent o op e then none
  else match firstFail fails1 with
  | some k => some (.error k)
  | none =>
    let run (q : Rows) : Except Nat Running :=
      let rows := q.rows
      let big := rows.any fun r => (reads && !(r.1.all fun x => s.inCap o.part src.1 x w.1)) ||
        (moves && !s.inCap o.part dst.1 r.2 w.2)
      let m := e.esize
      let odd := (elems && (e.src.toNat % m ≠ 0 || e.dst.toNat % m ≠ 0)) ||
        (op = 0x12 && (e.len.toNat % m ≠ 0 || e.sstride.toNat % m ≠ 0 || e.dstride.toNat % m ≠ 0)) ||
        (lists && e.aux.toNat % 4 ≠ 0) || (op = 0x11 && e.param.toNat % 4 ≠ 0) || (notes && grd.1.at % 32 ≠ 0)
      let slice (c : CapReg) (off n : Nat) : Bool := c.kind = 2 && s.tiled (s.capSlice c off) n
      let tiledSrc := reads && s.verifies o.chain op dst.1 && rows.any fun r => r.1.any fun x => slice src.1 x w.1
      let untiled := moves && e.k && rows.any fun r => w.2 ≠ 0 &&
        (dst.1.kind ≠ 2 || !s.allTiles (s.capSlice dst.1 r.2) w.2)
      let stale := coll && s.sliceNat (grd.1.at + 18) 2 ≠ e.attempt
      match firstFail [failIf untiled 1 0x04, failIf (tiledSrc && !src.1.has 11) 3 0x05,
          failIf (moves && e.k && !dst.1.has 11) 3 0x05, failIf (big || q.bounds || (lists && !listed)) 4 0x06,
          failIf (notes && decide (grd.1.size < 32)) 4 0x06, failIf odd 5 0x07, failIf stale 6 0x17,
          failIf q.poison 7 0x16] with
      | some k => .error k
      | none => .ok { chain := o.chain, seq := o.seq, op := op, e := e, owner := o, src := src.1, dst := dst.1,
                      guard := if notes then some grd.1.at else none, rows := if moves then rows else [],
                      members := if coll then s.groupMembers o.part e.gid else [],
                      total := if moves then rows.length * w.2 else 0 }
    (s.entRows op core o.part e aux.1 listed).map run

/-- The chain's head passes to the next entry as the engine takes this one (14 R358). -/
def State.takeHead (s : State) (o : Owner) : State :=
  let s1 := s.sliceSet (o.chain + 40) 8 (s.sliceNat (o.entry + 56) 8)
  { s1 with eng := { s1.eng with owners := s1.eng.owners.map fun x => if x = o then { x with taken := true } else x } }

/-- A collective fails at a member whose guard holds the attempt (08 R223): the guard passes to the next attempt, and event
8 is posted where the group spans packages. -/
def State.failGroup (s : State) (r : Running) : State :=
  match r.guard with
  | none => s
  | some g =>
    if s.sliceNat (g + 18) 2 ≠ r.e.attempt then s
    else
      let s1 := s.sliceSet (g + 18) 2 ((r.e.attempt + 1) % 2 ^ 16)
      if r.members.any fun m => m.1 ≠ s.ctl.pkg then
        s1.event 8 (coreOfSlice r.chain) r.owner.part (Config.eventDetail s.tick)
      else s1

/-- Stops an entry that runs or that fails its checks (04 R127); a collective's failure goes to its members. -/
def State.stopEntry (s : State) (r : Running) (code : Nat) : State :=
  let s1 := s.stopChain r.owner code
  if 0x20 ≤ r.op && r.op ≤ 0x23 then (s1.failGroup r).sendAbort r.members r.e.gid r.e.attempt else s1

/-- A collective reads this member's elements as it starts, with whether a tile was repaired; a page that is absent holds it
back. -/
def State.readMine (s : State) (r : Running) : Option (Except Nat (List Byte × Bool × State)) :=
  if !(0x20 ≤ r.op && r.op ≤ 0x23) then some (.ok ([], false, s))
  else
    let core := coreOfSlice r.chain
    let p := s.placeOf r.owner.part r.src r.e.src.toNat
    let n := r.e.count.toNat * r.e.esize
    if s.engPoisoned false core p n then some (.error 0x16)
    else match (if p.1 = .slice then s.verifyTiles core p.2 n else some (false, s)) with
      | none => some (.error 0x0D)
      | some (fixed, s1) => (s1.engRead false core p n).map fun x => .ok (x.1, fixed, x.2)

/-- A chain's partition whose Parser chain it is (06 R164). -/
def State.parserPart (s : State) (ch : Nat) : Option Nat :=
  (s.ctl.parts.find? fun p => p.2.cfg.chain = ch).map Prod.fst

/-- A submission reaches the Parser through its chain, unless it is there already (06 R164). -/
def State.passSubmission (s : State) (r : Running) : State :=
  match s.parserPart r.chain with
  | none => s
  | some p =>
    let x : Pending := ⟨.chain r.owner.entry r.seq, p, r.owner.sup⟩
    s.modPart p fun P => if P.queue.contains x then P else { P with queue := P.queue ++ [x] }

/-- What an entry that has not run is, for its failure: its guard, where that can be told, and its group (08 R223). -/
def State.unstarted (s : State) (o : Owner) (op : Nat) (e : Entry) : Running :=
  let grd := s.entCap o (e.cap 3)
  { chain := o.chain, seq := o.seq, op := op, e := e, owner := o
    guard := if s.here grd.1.at && (s.entFail o grd [3] 0x008#12).isNone then some grd.1.at else none
    members := if 0x20 ≤ op && op ≤ 0x23 then s.groupMembers o.part e.gid else [] }

/-- The single errors in the lists of an entry are corrected as it starts (08 Table 8.1). -/
def State.readLists (s : State) (o : Owner) (op : Nat) (e : Entry) : State :=
  let core := coreOfSlice o.chain
  let aux := (s.entCap o (e.cap 2)).1
  match (if 0x10 ≤ op && op ≤ 0x12 then s.entRows op core o.part e aux true else none) with
  | none => s
  | some q => q.reads.foldl (fun s x => ((s.engRead false core (s.placeOf o.part aux x.1) (4 * x.2)).map Prod.snd).getD s) s

/-- The engine takes the head entry of a chain, if that is the entry named, and it may: it stops the chain, or runs. -/
def State.startEntry (s : State) (ch op : Nat) (e : Entry) : State :=
  match s.headEntry ch with
  | none => s
  | some (o, x, y) =>
    if y ≠ e || !s.mayTake ch || !(x = op || (op = 0 && (opClass x).isNone)) then s
    else
      let gone := s.unstarted o x e
      match s.checkEntry o x e with
      | none => s.tock
      | some (.error k) => ((s.takeHead o).stopEntry gone k).tock
      | some (.ok r) => match s.readMine r with
        | none => s
        | some (.error k) => ((s.takeHead o).stopEntry gone k).tock
        | some (.ok (bs, fixed, sr)) =>
          let s1 := ((sr.readLists o x e).takeHead o).tock
          let r1 := { r with mine := bs, flags := flagIf fixed fCOR, passed := x = 0x30 }
          let s2 := { s1.bump with eng := { s1.eng with running := s1.eng.running.put s1.fresh r1 } }
          if x = 0x30 then s2.passSubmission r1 else s2

/-- ENTRY_NOP: also takes an entry whose op is not listed, which stops its chain (04 R120). -/
def execEntryNop (ch : Nat) (e : Entry) (s : State) : Host.Outcome State Fault Refusal := .next (s.startEntry ch 0x00 e)
/-- COPY. -/
def execCopy (ch : Nat) (e : Entry) (s : State) : Host.Outcome State Fault Refusal := .next (s.startEntry ch 0x01 e)
/-- COPY2D. -/
def execCopy2d (ch : Nat) (e : Entry) (s : State) : Host.Outcome State Fault Refusal := .next (s.startEntry ch 0x02 e)
/-- FILL. -/
def execFill (ch : Nat) (e : Entry) (s : State) : Host.Outcome State Fault Refusal := .next (s.startEntry ch 0x03 e)
/-- GATHER. -/
def execGather (ch : Nat) (e : Entry) (s : State) : Host.Outcome State Fault Refusal := .next (s.startEntry ch 0x10 e)
/-- GATHERM. -/
def execGatherm (ch : Nat) (e : Entry) (s : State) : Host.Outcome State Fault Refusal := .next (s.startEntry ch 0x11 e)
/-- SCATADD. -/
def execScatadd (ch : Nat) (e : Entry) (s : State) : Host.Outcome State Fault Refusal := .next (s.startEntry ch 0x12 e)
/-- ALLRED. -/
def execAllred (ch : Nat) (e : Entry) (s : State) : Host.Outcome State Fault Refusal := .next (s.startEntry ch 0x20 e)
/-- RSCAT. -/
def execRscat (ch : Nat) (e : Entry) (s : State) : Host.Outcome State Fault Refusal := .next (s.startEntry ch 0x21 e)
/-- ALLGATH. -/
def execAllgath (ch : Nat) (e : Entry) (s : State) : Host.Outcome State Fault Refusal := .next (s.startEntry ch 0x22 e)
/-- BCAST. -/
def execBcast (ch : Nat) (e : Entry) (s : State) : Host.Outcome State Fault Refusal := .next (s.startEntry ch 0x23 e)
/-- SUBMIT. -/
def execSubmit (ch : Nat) (e : Entry) (s : State) : Host.Outcome State Fault Refusal := .next (s.startEntry ch 0x30 e)

/-! ## Collectives (04 R121) -/

/-- The running entry of a member's die for the same operation. -/
def State.memberRun (s : State) (r : Running) (die : Nat) : Option Running :=
  (s.eng.running.find? fun x => x.2.op = r.op && x.2.e.group = r.e.group && x.2.e.param = r.e.param &&
    x.2.e.count = r.e.count && x.2.owner.part = r.owner.part && dieOf (coreOfSlice x.2.chain) = die).map Prod.snd

/-- Whether every member of this package has come to a collective. -/
def State.allCome (s : State) (r : Running) : Bool :=
  r.members.all fun m => m.1 ≠ s.ctl.pkg || (s.memberRun r m.2).isSome

/-- Element `i` of rank `k`'s elements; those of a member in another package are free values. -/
def State.memberElem (s : State) (r : Running) (k : Nat) (m : Nat × Nat) (i : Nat) : Nat :=
  let z := r.e.esize
  if m.1 = s.ctl.pkg then
    leNat ((((s.memberRun r m.2).map Running.mine).getD []).drop (z * i) |>.take z)
  else leNat ((List.range z).map fun j => Config.farByte s.tick (z * (64 * i + k) + j))

/-- The pairwise tree over 64 ranks in six levels, element by element (04 R121). -/
def rankTree (op t : Nat) (xs : List Nat) : Nat × Flags :=
  elementwise t fun i =>
    let ys := (List.range 64).map fun k => (if k < xs.length then elem t (xs.getD k 0) i else redIdent op t, (0 : Flags))
    ((List.range 6).foldl (fun zs _ => redLevel op t zs) ys).headD (0, 0)

/-- What a collective lands at this member, and its flags. -/
def State.collective (s : State) (r : Running) : List Byte × Flags :=
  let ms := r.members
  let rk := ms.zip (List.range ms.length)
  let n := r.e.count.toNat
  let z := r.e.esize
  let me := ((rk.find? fun m => m.1 = (s.ctl.pkg, dieOf (coreOfSlice r.chain))).map Prod.snd).getD 0
  let red := (List.range n).map fun i => rankTree r.e.redOp r.e.redTy (rk.map fun m => s.memberElem r m.2 m.1 i)
  let fl : Flags := red.foldl (fun f x => f ||| x.2) 0
  let put (xs : List Nat) : List Byte := xs.flatMap fun x => leBytes z x
  match r.op with
  | 0x20 => (put (red.map Prod.fst), fl)
  | 0x21 => (put (((red.drop (me * (n / ms.length))).take (n / ms.length)).map Prod.fst), fl)
  | 0x22 => (put (rk.flatMap fun m => (List.range n).map fun i => s.memberElem r m.2 m.1 i), 0)
  | _ => (put ((List.range n).map fun i => s.memberElem r 0 (ms.headD (0, 0)) i), 0)

/-- Fixes the results of all members of this package at once, when all have come. -/
def State.resolve (s : State) (r : Running) : State :=
  { s with eng := { s.eng with running := s.eng.running.map fun x =>
      if x.2.op = r.op && x.2.e.group = r.e.group && x.2.e.param = r.e.param && x.2.e.count = r.e.count &&
          x.2.owner.part = r.owner.part && x.2.result.isNone then
        let c := s.collective x.2
        (x.1, { x.2 with result := some c.1, flags := x.2.flags ||| c.2 })
      else x } }

/-! ## Landings (04 R123, R124) -/

/-- Whether a member of a collective's group cannot be reached (08 R223, R224). -/
def State.cutOff (s : State) (r : Running) : Bool :=
  r.members.any fun m => m.1 ≠ s.ctl.pkg && !s.ctl.reach.contains m.1

/-- The bytes of a row of the destination. -/
def Running.width (r : Running) : Nat := if r.rows.length = 0 then 0 else r.total / r.rows.length

/-- The next landing: row, offset in it, length. It is part of one row and at most 4 KiB (08 R225); where it ends is free. -/
def State.nextPiece (s : State) (r : Running) : Nat × Nat × Nat :=
  let w := r.width
  let off := r.done % w
  let most := min (w - off) 4096
  let k := 1 + Config.landing s.tick % most
  (r.done / w, off, if r.op = 0x12 then min most (roundUp k r.e.esize) else k)

/-- The bytes a landing brings, whether a tile was repaired, and the state the reading leaves: none where a page is absent, a
code where the source is poisoned or corrupt. -/
def State.pieceData (s : State) (r : Running) (row off n : Nat) : Option (Except Nat (List Byte × Bool × State)) :=
  let core := coreOfSlice r.chain
  let cached := s.chClass r.chain = 1
  let x := (r.rows.getD row (none, 0)).1
  match r.op, x with
  | 0x03, _ => some (.ok ((List.range n).map fun i => BitVec.ofNat 8 (r.e.param.toNat / 2 ^ (8 * ((off + i) % 4))), false, s))
  | 0x20, _ | 0x21, _ | 0x22, _ | 0x23, _ => some (.ok ((((r.result.getD []).drop off).take n), false, s))
  | _, none => some (.ok (List.replicate n 0, false, s))
  | _, some a =>
    let p := s.placeOf r.owner.part r.src (a + off)
    if s.engPoisoned cached core p n then some (.error 0x16)
    else match (if p.1 = .slice && s.verifies r.chain r.op r.dst then s.verifyTiles core p.2 n else some (false, s)) with
      | none => some (.error 0x0D)
      | some (fixed, s1) => (s1.engRead cached core p n).map fun y => .ok (y.1, fixed, y.2)

/-- The place of a destination byte: the back copy of a shadowed destination with S, else the front (04 R125). -/
def State.dstPlace (s : State) (r : Running) (off : Nat) : Space × Nat :=
  if r.dst.kind = 1 then
    (.bulk, bulkKey r.owner.part r.dst.obj ((s.obj r.owner.part r.dst.obj).copy r.e.s) (r.dst.at + off))
  else (.slice, s.sliceCopy (r.dst.at + off) r.e.s)

/-- SCATADD reduces the elements of a landing into their places (04 R131): the new bytes and the flags. -/
def reduceBytes (op t : Nat) (old new : List Byte) : List Byte × Flags :=
  let z := if wide t then 8 else 4
  (List.range (new.length / z)).foldl (fun (p : List Byte × Flags) i =>
    let at' (bs : List Byte) : Nat := leNat ((bs.drop (z * i)).take z)
    let v := elementwise t fun j => redStep op t (elem t (at' old) j) (elem t (at' new) j)
    (p.1 ++ leBytes z v.1, p.2 ||| v.2)) ([], 0)

/-- Bytes are accepted at their home: the flags and the state, none where a page is absent, a code where SCATADD's destination
is poisoned (08 R398). Those for another package are sent there. A clean copy in the driving core's cache is dropped, so
that its block reads what landed (04 R124). -/
def State.accept (s : State) (r : Running) (p : Space × Nat) (bs : List Byte) : Option (Except Nat (Flags × State)) :=
  let core := coreOfSlice r.chain
  let b := ((r.owner.block).map Prod.fst).getD 0
  let red := r.op = 0x12
  let sum (old : List Byte) : List Byte × Flags := if red then reduceBytes r.e.redOp r.e.redTy old bs else (bs, 0)
  match p.1 with
  | .slice =>
    if !s.here p.2 then some (.ok (0, s.send (pkgOfSlice p.2) b
      (if red then .reduce (.slice p.2) r.e.redOp r.e.redTy bs else .store p.2 bs)))
    else if red && s.slicePoisoned p.2 bs.length then some (.error 0x16)
    else
      let v := sum (s.sliceRead p.2 bs.length)
      some (.ok (v.2, s.sliceWrite p.2 v.1))
  | .bulk =>
    match (s.translate (dieOf core) (keyPart p.2) (keyObj p.2) (keyCopy p.2) (keyOff p.2) true).1 with
    | .far pkg o =>
      let back := keyCopy p.2 ≠ (s.obj (keyPart p.2) (keyObj p.2)).copy false
      some (.ok (0, s.send pkg b (if red then .reduce (.bulk (keyPart p.2) o (keyOff p.2) back) r.e.redOp r.e.redTy bs
        else .bulk (keyPart p.2) o (keyOff p.2) back bs)))
    | _ =>
      if red && s.engPoisoned false core p bs.length then some (.error 0x16)
      else (if red then s.keyRead core p.2 bs.length else some ([], s)).bind fun o =>
        let v := sum o.1
        (o.2.keyWrite core b p.2 v.1).map fun s1 =>
          .ok (v.2, s1.invalidate core fun k => p.2 ≤ k && decide (k < p.2 + bs.length))

/-- How many bytes a channel's entries have landed with every earlier byte landed too, among those not yet recorded. -/
def landedPrefix (rs : Tab Running) (ch : Nat) : Nat :=
  let xs := (rs.filter fun r => r.2.chain = ch).map Prod.snd
  let next (seq : Nat) : Option Running := xs.find? fun r => r.seq = seq
  let first := xs.foldl (fun m r => min m r.seq) ((xs.headD { chain := 0, seq := 0, op := 0, e := ⟨0, 0, 0, 0, 0, 0, 0, 0, 0, 0, 0, 0⟩, owner := ⟨0, 0, none, 0, none, 0, false, false, none, none⟩ }).seq)
  ((List.range xs.length).foldl (fun (p : Nat × Bool) i =>
    if p.2 then p
    else match next (first + i) with
      | some r => (p.1 + r.done, decide (r.done < r.total))
      | none => (p.1, true)) (0, false)).1

/-- The tiles that `n` bytes of a row of the destination, from an offset in it, lie in, as numbered in their own package. -/
def State.dstTiles (s : State) (r : Running) (row off n : Nat) : List Nat :=
  let p := s.dstPlace r ((r.rows.getD row (none, 0)).2 + off)
  if p.1 ≠ .slice then [] else if s.here p.2 then s.tilesOf p.2 n else unitsOf 4096 (sliceKey p.2) n

/-- The tiles in which an entry is still to land once `done` bytes have. -/
def State.tilesLeft (s : State) (r : Running) (done : Nat) : List Nat :=
  let w := r.width
  (List.range r.rows.length).flatMap fun row =>
    if (row + 1) * w ≤ done then [] else s.dstTiles r row (done - row * w) (w - (done - row * w))

/-- The tiles that the next `n` bytes of an entry with K fill. -/
def State.tilesFilled (s : State) (r : Running) (n : Nat) : List Nat :=
  if r.e.k then
    (s.dstTiles r (r.done / r.width) (r.done % r.width) n).filter fun u => !(s.tilesLeft r (r.done + n)).contains u
  else []

/-- Landings owed to the guard are counted as far as none waits for a tile (04 R123). -/
def State.payGuard (s : State) (id : Nat) (open' : List Nat) : State :=
  match s.eng.running.find id with
  | none => s
  | some r =>
    let ready (o : Nat × Marks) : Bool := !o.2.any open'.contains
    let s1 := { s with eng := { s.eng with running := s.eng.running.mod id fun r => { r with owed := r.owed.filter fun o => !ready o } } }
    match r.guard with
    | some g =>
      if r.e.g then (r.owed.filter ready).foldl (fun s o => s.landAt ((r.owner.block.map Prod.fst).getD 0) g o.1 r.flags) s1
      else s1
    | none => s1

/-- What follows once a landing has been accepted (04 R123, R124): the bytes are counted, a copy channel's write pointer passes
them in order, with K the sums of each tile the entry has filled are made again, and the guard counts the bytes whose sums are
made. -/
def State.landed (s : State) (id n : Nat) (fl : Flags) : State :=
  match s.eng.running.find id with
  | none => s
  | some r =>
    let w := r.width
    let tiles := if r.e.k then s.dstTiles r (r.done / w) (r.done % w) n else []
    let left := if r.e.k then s.tilesLeft r (r.done + n) else []
    let before := landedPrefix s.eng.running r.chain
    let s1 := { s with eng := { s.eng with running := s.eng.running.mod id fun r => { r with
      done := r.done + n, flight := 0, flags := r.flags ||| fl, owed := r.owed ++ [(n, tiles)] } } }
    let gain := landedPrefix s1.eng.running r.chain - before
    let s2 := if s.chClass r.chain = 1 then s1.modCore (coreOfSlice r.chain) fun C => { C with
        cwp := C.cwp.put (s.chEngine r.chain) (C.cwp.get 0 (s.chEngine r.chain) + BitVec.ofNat 64 gain) } else s1
    ((if s.here (s.dstPlace r 0).2 then s.tilesFilled r n else []).foldl (fun s u => s.regenTile u) s2).payGuard id left

/-- An operation that carries a landing of an entry, and has the sums made of the tiles that this fills. -/
def Sent.forLanding (ch seq : Nat) (tiles : List Nat) (x : Sent) : Sent := { x with
  land := some (ch, seq)
  op := if tiles.isEmpty then x.op else match x.op with
    | .store a bs => .remade a none bs tiles
    | .reduce (.slice a) op t bs => .remade a (some (op, t)) bs tiles
    | o => o }

/-- Whether an entry names a bulk object under a key slot that is not the partition's (07 R211). -/
def State.lostKey (s : State) (r : Running) : Bool :=
  let lost (c : CapReg) : Bool := c.kind = 1 && !s.keyGiven r.owner.part (s.obj r.owner.part c.obj)
  lost r.dst || (decide (r.op < 0x20) && r.op ≠ 0x03 && lost r.src)

/-- ENGINE_LANDING: a run of destination bytes is accepted and counted; one for another package is counted once that has
acknowledged it. -/
def execEngineLanding (ch seq : Nat) (s : State) : Host.Outcome State Fault Refusal :=
  match s.eng.running.find? fun x => x.2.chain = ch && x.2.seq = seq with
  | none => .next s
  | some (id, r0) =>
    let coll := 0x20 ≤ r0.op && r0.op ≤ 0x23
    if r0.done ≥ r0.total || r0.flight ≠ 0 || s.heldCopy r0.owner then .next s
    else if s.lostKey r0 then .next (s.stopEntry r0 0x03).tock
    else if coll && s.cutOff r0 then .next (s.stopEntry r0 0x17).tock
    else if coll && r0.result.isNone && !s.allCome r0 then .next s
    else
      let s0 := if coll && r0.result.isNone then s.resolve r0 else s
      match s0.eng.running.find id with
      | none => .next s
      | some r =>
        let (row, off, n) := s.nextPiece r
        match s0.pieceData r row off n with
        | none => .next s.tock
        | some (.error k) => .next (s0.stopEntry r k).tock
        | some (.ok (bs, fixed, s1)) =>
          let p := s1.dstPlace r ((r.rows.getD row (none, 0)).2 + off)
          if p.1 = .slice && s1.guarded p.2 n then .next (s1.stopEntry r 0x05).tock
          else match s1.accept r p bs with
            | none => .next s0.tock
            | some (.error k) => .next (s1.stopEntry r k).tock
            | some (.ok (f, s2)) =>
              let fl := f ||| flagIf fixed fCOR
              let sent := s1.eng.sent.length
              if s2.eng.sent.length = sent then .next (s2.landed id n fl).tock
              else .next ({ s2 with eng := { s2.eng with
                sent := s2.eng.sent.take sent ++ (s2.eng.sent.drop sent).map (Sent.forLanding ch seq (s1.tilesFilled r n)),
                running := s2.eng.running.mod id fun r => { r with flight := n, flags := r.flags ||| fl } } }).tock

/-- A landing that cannot be completed stops its chain. -/
def State.stopLanding (s : State) (ch seq code : Nat) : State :=
  match s.eng.running.find? fun x => x.2.chain = ch && x.2.seq = seq with
  | none => s
  | some (_, r) => s.stopEntry r code

/-- A landing in another package has been acknowledged there (05 R158): it is counted, with the flags it raised; a guarded
granule that refused it stops the chain (04 R111). A clean copy in the driving core's cache is dropped first (04 R124). -/
def State.landingBack (s : State) (ch seq : Nat) (reply : FabReply) : State :=
  match s.eng.running.find? fun x => x.2.chain = ch && x.2.seq = seq with
  | none => s
  | some (id, r) =>
    if reply.denied then s.stopEntry r 0x05
    else
      let p := s.dstPlace r ((r.rows.getD (r.done / r.width) (none, 0)).2 + r.done % r.width)
      let s1 := if p.1 = .bulk then s.invalidate (coreOfSlice r.chain) fun k => p.2 ≤ k && decide (k < p.2 + r.flight) else s
      s1.landed id r.flight (BitVec.ofNat 16 reply.flags)

/-- ENTRY_COMPLETION: after the last landing, one arrival with A, then the chain's sequence word (04 R123). A SUBMIT entry
ends with its graph, where G applies too, with no bytes (04 Table 4.8, 06 R164). -/
def execEntryCompletion (ch seq : Nat) (s : State) : Host.Outcome State Fault Refusal :=
  match s.eng.running.find? fun x => x.2.chain = ch && x.2.seq = seq with
  | none => .next s
  | some (id, r) =>
    if r.ended || r.done < r.total || (r.passed && r.result.isNone) then .next s
    else
      let s1 := match r.guard with
        | some g =>
          let b := (r.owner.block.map Prod.fst).getD 0
          let s' := if r.e.g && r.op = 0x30 then s.landAt b g 0 r.flags else s
          if r.e.a then s'.arriveAt b g 1 r.flags else s'
        | none => s
      .next (s1.completeEntry ch id)

/-- Whether an entry is a collective's of a group and attempt, at a die, and its guard holds that attempt (08 R223). -/
def State.holdsAttempt (s : State) (die group attempt : Nat) (r : Running) : Bool :=
  0x20 ≤ r.op && r.op ≤ 0x23 && r.e.gid = group && r.e.attempt = attempt && dieOf (coreOfSlice r.chain) = die &&
    match r.guard with
    | some g => s.sliceNat (g + 18) 2 = attempt
    | none => false

/-- The entries that have been appended and not taken. -/
def State.waiting (s : State) : List Running :=
  (s.eng.owners.filter fun o => !o.taken && s.here o.chain).map fun o =>
    s.unstarted o (s.sliceNat o.entry 1) (Entry.ofBytes (s.sliceRead o.entry 64))

/-- What an abort token does at a die (08 R223): at a member whose guard holds the attempt a running entry stops with ABORTED, and
the guard passes to the next attempt, so that an entry still to start will be stopped; a token for any other attempt is
dropped. -/
def State.abortHere (s : State) (die group attempt : Nat) : State :=
  match s.eng.running.find? fun x => s.holdsAttempt die group attempt x.2 with
  | some (_, r) => (s.stopChain r.owner 0x17).failGroup r
  | none => (s.waiting.find? (s.holdsAttempt die group attempt)).elim s s.failGroup

/-- ABORT_TOKEN. -/
def execAbortToken (die group attempt : Nat) (s : State) : Host.Outcome State Fault Refusal :=
  .next (s.abortHere die group attempt)

/-! ## EAPP, EADV, ESEQ, WPRD (14 R358 to R362) -/

/-- EAPP. -/
def execEapp (f : UW) (s : State) : Host.Outcome State Fault Refusal :=
  s.issueWord (.eapp f) fun c s =>
    let r := c.cap f.cN
    let m := c.cap f.cM
    let off := (c.sr f.a).toNat
    match (s.objFault c r [6] 0x400#12 64).orElse fun _ => s.capFault c m [2] 0x003#12 with
    | some e => .trap e
    | none =>
      let a := s.capSlice m off
      if off + 64 > m.size then .trap ⟨0x06, 0, 0⟩
      else if a % 64 ≠ 0 then .trap ⟨0x07, 0, 0⟩
      else if a / 2 ^ 22 ≠ r.at / 2 ^ 22 then .trap ⟨0x11, 0, 0⟩
      else
        let s1 := s.drainRange c.b .slice a 64
        let left := match s1.blocks.find c.b with
          | some B => !(bufTouch B.buf .slice a 64).isEmpty
          | none => false
        if left then .park s1
        else if s1.here r.at then match s1.readSlice c r.at [(8, 8), (32, 16)] with
          | none => .trap ⟨0x16, 0, 0⟩
          | some s2 =>
            let s3 := s2.append r.at a (some (c.b, c.blk.task)) c.task.part r.tag false none none
            .done (s3.setS c f.d (BitVec.ofNat 64 (s3.chAppended r.at)))
        else
          let s2 := s1.modBlk c.b fun B => { B with farChains := Marks.add B.farChains r.at }
          .done ((s2.send (pkgOfSlice r.at) c.b (.append r.at a c.b c.blk.task r.tag)).setS c f.d (Config.farSeq s.tick))

/-- EADV: the troupe's loads have returned; it ends the relaunch window (08 R217). What a chain of another package has appended
reads here as a free value (09 R236), and its home tests it again (log 76). -/
def execEadv (f : UW) (s : State) : Host.Outcome State Fault Refusal :=
  s.issueWord (.eadv f) fun c s =>
    let r := c.cap f.cN
    let n := (c.sr f.a).toNat
    match s.objFault c r [6] 0x400#12 64 with
    | some e => .trap e
    | none =>
      match s.readSlice c r.at [(8, 16)] with
      | none => .trap ⟨0x16, 0, 0⟩
      | some s =>
        if n > s.chAppended r.at then .trap ⟨0x11, 0, 0⟩
        else if !s.here r.at then .done ((s.send (pkgOfSlice r.at) c.b (.advance r.at n)).expose c)
        else .done ((if n > s.chAdvanced r.at then s.sliceSet (r.at + 16) 8 n else s).expose c)

/-- ESEQ: the sequence word, or the status word. -/
def execEseq (f : UW) (s : State) : Host.Outcome State Fault Refusal :=
  s.issueWord (.eseq f) fun c s =>
    let r := c.cap f.cN
    match s.objFault c r [6] 0x400#12 64 with
    | some e => .trap e
    | none => match s.readSlice c r.at [if f.bit 0 then (4, 4) else (24, 8)] with
      | none => .trap ⟨0x16, 0, 0⟩
      | some s1 =>
        .done (s1.setS c f.d (BitVec.ofNat 64 (if f.bit 0 then s.sliceNat (r.at + 4) 4 else s.sliceNat (r.at + 24) 8)))

/-- WPRD. -/
def execWprd (f : UW) (s : State) : Host.Outcome State Fault Refusal :=
  s.issueWord (.wprd f) fun c s =>
    let r := c.cap f.cN
    match s.objFault c r [6] 0x400#12 64 with
    | some e => .trap e
    | none => match s.readSlice c r.at [(0, 2)] with
      | none => .trap ⟨0x16, 0, 0⟩
      | some s1 =>
        if !s.here r.at || s.chClass r.at ≠ 1 || coreOfSlice r.at ≠ c.blk.core then .trap ⟨0x04, 0, 0⟩
        else .done (s1.setS c f.d (s.writePtr c (s.chEngine r.at)))

/-! ## PUB (04 R126, 05 R154, 14 R361) -/

/-- Whether the destination of a capability is shadowed (04 R125). -/
def State.shadowed (s : State) (part : Nat) (c : CapReg) : Bool :=
  if c.kind = 1 then (s.obj part c.obj).sh else (s.shadow? c.at).any fun h => (s.obj h.part h.obj).sh

/-- Whether an entry that has not completed lands in an object. -/
def State.landingObj (s : State) (part obj : Nat) : Bool :=
  s.eng.running.any fun x => decide (0 < x.2.total) && x.2.dst.kind = 1 && x.2.owner.part = part && x.2.dst.obj = obj

/-- Whether an entry that has not completed lands in the destination of a capability: in its object, or with a row that meets
its shadowed region. -/
def State.landing (s : State) (part : Nat) (c : CapReg) : Bool :=
  if c.kind = 1 then s.landingObj part c.obj
  else (s.shadow? c.at).any fun h => s.eng.running.any fun x => decide (0 < x.2.total) && x.2.dst.kind = 2 &&
    x.2.rows.any fun r => meets (x.2.dst.at + r.2) x.2.width h.base h.len

/-- The object whose table entry tells the copies of a destination apart (07 R200). -/
def State.shadowObj (s : State) (part : Nat) (c : CapReg) : Nat × Nat :=
  if c.kind = 1 then (part, c.obj)
  else match s.shadow? c.at with
    | some h => (h.part, h.obj)
    | none => (part, c.obj)

/-- Front and back change places: F of the object's entry is inverted (04 R126, 07 R200). -/
def State.swapCopies (s : State) (p : Nat × Nat) : State :=
  let a := s.objAddr p.1 p.2 + 2
  s.devRaw a 1 ((BitVec.ofNat 8 (s.devNat a 1) ^^^ 0x80#8).toNat)

/-- The packages marked in the page companions of a bulk object (07 Table 7.8). -/
def State.markedPkgs (s : State) (part obj : Nat) : List Nat :=
  let o := s.obj part obj
  (List.range 64).filter fun p => (List.range o.pages).any fun pg =>
    [0, 1].any fun copy => bit (s.devNat (o.companion copy pg + 1 + p / 8) 1) (p % 8)

/-- PUB: the split is held until PUB_SWAP. -/
def execPub (f : UW) (s : State) : Host.Outcome State Fault Refusal :=
  s.issueWord (.pub f) fun c s =>
    let r := c.cap f.cN
    match s.capFault c r [1, 2] 0x080#12 with
    | some e => .trap e
    | none =>
      if !s.shadowed c.task.part r then .trap ⟨0x04, 0, 0⟩
      else .went ((s.onSplit c fun S => { S with wait := .pub r, only := none }).expose c)

/-- Whether packages have still to acknowledge a swap of the copies of an object of package `home`: those told of it, and the
home where it is another. -/
def State.swapDue (s : State) (home part obj : Nat) : Bool :=
  s.eng.sent.any fun x => x.op = .swapped home part obj || (x.op = .pub part obj && x.dst = home)

/-- Tells packages that the copies of an object of package `home` have changed places. -/
def State.tellSwap (s : State) (b home part obj : Nat) (ps : List Nat) : State :=
  (ps.filter fun q => q ≠ s.ctl.pkg && s.ctl.reach.contains q).foldl (fun s q => s.send q b (.swapped home part obj)) s

/-- PUB_SWAP: no entry is landing in the region any more, and the copies change places, those of a peer object at its home as
well; the packages marked in the companions of a bulk object's pages are told, and the split goes on once they have
acknowledged it. -/
def execPubSwap (b t e : Nat) (s : State) : Host.Outcome State Fault Refusal :=
  let go (s : State) : State := s.modSplit b t e fun S => { S with wait := .ready, pc := S.pc + 2 }
  match s.waitOf b t e, (s.blocks.find b).bind fun B => s.tasks.find B.task with
  | .pub c, some K =>
    if s.landing K.part c then .next s
    else
      let p := s.shadowObj K.part c
      let o := s.obj p.1 p.2
      let s1 := s.swapCopies p
      let (home, id) := if c.kind = 1 && o.tier = 3 then (bits o.root 5 0, bits o.root 29 6) else (s.ctl.pkg, p.2)
      let s2 := if c.kind ≠ 1 then s1
        else if o.tier = 3 then s1.send home b (.pub p.1 id)
        else s1.tellSwap b home p.1 id (s.markedPkgs p.1 p.2)
      if s2.swapDue home p.1 id then .next (s2.modSplit b t e fun S => { S with wait := .swapped home p.1 id }) else .next (go s2)
  | .swapped home part obj, some _ => if s.swapDue home part obj then .next s else .next (go s)
  | _, _ => .next s

end Sys2Proof.Machine
end

