-- ==== Sys2Proof/Machine/Graphs.lean ====
section
/-! DEFINITION. The Parser (06 R163 to R178; 10 R267, R268; 18 R390): submissions, the six kinds of node, gangs; the
placement and end of blocks; and the events that return a troupe or split to issue. -/
namespace Sys2Proof.Machine

/-! ## Submissions (06 R163, R164; 09 R234) -/

/-- Where a submission's 32 bytes stand: a word address. -/
def Part.subAt (P : Part) : Source → Nat
  | .ring true i => P.cfg.super + 32 * (i % max P.cfg.lenS 1)
  | .ring false i => P.cfg.user + 32 * (i % max P.cfg.lenU 1)
  | .chain a _ => a + 8

/-- Writes a submission's status word, and lets the chain entry it came by complete. -/
def State.endSubmission (s : State) (part : Nat) (src : Source) (status : Nat) : State :=
  match s.ctl.parts.find part with
  | none => s
  | some P =>
    let s1 := s.waWrite part (P.subAt src + 16) (leBytes 4 status)
    match src with
    | .ring _ _ => s1
    | .chain _ seq => { s1 with eng := { s1.eng with running := s1.eng.running.map fun r =>
        if r.2.chain = P.cfg.chain && r.2.seq = seq then (r.1, { r.2 with result := some [] }) else r } }

/-- Takes the first submission off a partition's queue. -/
def State.popQueue (s : State) (part : Nat) (x : Pending) : State :=
  s.modPart part fun P =>
    let P1 := { P with queue := P.queue.drop 1 }
    match x.src with
    | .ring true _ => { P1 with headS := P1.headS + 1 }
    | .ring false _ => { P1 with headU := P1.headU + 1 }
    | .chain _ _ => P1

/-- Whether the entry of a submission that came by the Parser chain has been taken; none where its chain has stopped. -/
def State.subReady (s : State) (P : Part) : Source → Option Bool
  | .ring _ _ => some true
  | .chain _ seq =>
    if s.chStatus P.cfg.chain % 256 ≠ 0 then none
    else some (s.eng.running.any fun r => r.2.chain = P.cfg.chain && r.2.seq = seq && r.2.passed)

/-- The graph a submission describes, with a working in-degree for every node (06 R167). -/
def State.loadGraph (s : State) (part : Nat) (x : Pending) (wa sub : Nat) : Graph :=
  let G : Graph := { part := bits sub 83 80, sub := part, nodes := bits sub 63 0, count := bits sub 79 64,
                     super := x.super && bits sub 83 80 = part, serial := bit sub 84, src := x.src, status := wa + 16 }
  let d := (List.range G.count).map fun n => (n, s.nodeNat G n 2 2)
  let now := (d.filter fun p => p.2 = 0).map Prod.fst
  { G with indeg := d, ready := now, since := now.map fun n => (n, s.ctl.clk.toNat) }

/-- GRAPH_START: the first submission of a partition is read and its graph starts; one with S waits for every earlier
graph; one that breaks Table 6.1 completes at once with ILLEGAL. -/
def execGraphStart (part : Nat) (s : State) : Host.Outcome State Fault Refusal :=
  match s.ctl.parts.find part with
  | none => .next s
  | some P => match P.queue.head? with
    | none => .next s
    | some x =>
      let wa := P.subAt x.src
      match s.subReady P x.src with
      | none => .next (s.popQueue part x)
      | some false => .next s
      | some true =>
        if s.ctl.locked || s.waAbsent part wa 32 then .next s
        else
          let sub := s.waNat part wa 32
          let bad := bits sub 79 64 = 0 || (s.ctl.parts.find (bits sub 83 80)).isNone || bits sub 127 85 ≠ 0 ||
            bits sub 255 160 ≠ 0 || (s.waRead part wa 32).isNone
          if bad then .next ((s.popQueue part x).endSubmission part x.src 0x01)
          else if bit sub 84 && s.graphs.any fun g => g.2.sub = part then .next s
          else
            let s1 := s.popQueue part x
            .next ({ s1 with graphs := s1.graphs.put s1.fresh (s.loadGraph part x wa sub) }).bump

/-- Whether a graph has ended: no node runs and none is ready, or none may start (06 R167). -/
def Graph.finished (G : Graph) : Bool := G.running.isEmpty && (G.ready.isEmpty || G.ended.isSome)

/-- GRAPH_COMPLETION: the guard bits its tasks set are cleared, also in other packages and of its shares there (04 R111), and the
submission's status is written. -/
def execGraphCompletion (g : Nat) (s : State) : Host.Outcome State Fault Refusal :=
  match s.graphs.find g with
  | none => .next s
  | some G =>
    if !G.finished then .next s
    else
      let mine (k : Nat) : Bool := ((s.tasks.find k).bind Task.graph).map Prod.fst = some g
      let s0 := (s.tasks.keys.filter mine).foldl State.clearFar s
      let s0 := G.told.foldl (fun s p => s.send p 0 (.gang (.clear g))) s0
      let s1 := { s0 with mem := { s0.mem with guards := s0.mem.guards.filter fun x => !mine x.2 }, graphs := s0.graphs.del g }
      .next (s1.endSubmission G.sub G.src (match G.ended with
        | some (code, n) => code + 256 * n
        | none => 0))

/-! ## Nodes (06 R165 to R167) -/

/-- Whether a ready node may start: of nodes that became ready at the same moment, the lower go first (18 R390). -/
def State.startable (s : State) (g n : Nat) : Bool :=
  match s.graphs.find g with
  | none => false
  | some G =>
    G.ended.isNone && G.ready.contains n &&
      !G.ready.any fun m => decide (m < n) && G.since.find m = G.since.find n

/-- The kind of a node. -/
def State.kindOf (s : State) (G : Graph) (n : Nat) : Nat := s.nodeNat G n 0 1

/-- Whether a reserved field of a node is not 0 (06 Table 6.2). -/
def State.nodeBad (s : State) (G : Graph) (n : Nat) : Bool :=
  s.nodeNat G n 1 1 ≠ 0 || s.nodeNat G n 60 4 ≠ 0 ||
    (s.kindOf G n = 6 && (bits (s.nodeNat G n 32 4) 15 5 ≠ 0 || bits (s.nodeNat G n 32 4) 31 27 ≠ 0 ||
      s.nodeNat G n 44 4 ≠ 0 || bits (s.nodeNat G n 48 8) 39 0 % 32 ≠ 0))

/-- A node starts: it runs from here on. -/
def State.begin (s : State) (g n : Nat) : State :=
  s.modGraph g fun G => { G with ready := Marks.del G.ready n, running := Marks.add G.running n }

/-- Ends a node with a code that states no detail of its own. -/
def State.failNode (s : State) (g n code : Nat) : State := (s.endNode g n code (Config.nodeDetail s.tick) noEdge).tock

/-- Starts a node of a kind if it may start, ending it with ILLEGAL where a reserved field is not 0. -/
def State.nodeFx (s : State) (g n kind : Nat) (f : Graph → State → State) : Host.Outcome State Fault Refusal :=
  match s.graphs.find g with
  | none => .next s
  | some G =>
    if !s.startable g n || s.kindOf G n ≠ kind then .next s
    else if s.nodeBad G n then .next ((s.begin g n).failNode g n 0x01)
    else .next (f G (s.begin g n))

/-! ## Launch descriptors (10 R267, R268) -/

/-- The image of a launch descriptor, taken apart. -/
def Launch.ofNat (x : Nat) : Launch where
  regs := 8 * (bits x 3 0 + 1)
  troupes := bits x 8 4 + 1
  tmax := bits x 13 9 + 1
  role := bits x 15 14
  shd := bit x 16
  trp := bit x 17
  ck := bit x 18
  chk := bits x 20 19
  prv := bit x 21
  blocks := bits x 63 32
  code := bits x 87 64
  entry := bits x 127 96
  shadow := bits x 159 128
  trap := bits x 191 160
  table := bits x 255 192
  args := bits x 319 256
  arglen := bits x 332 320
  spill := if bit x 360 then some (bits x 359 352) else none
  errors := bits x 447 384
  columns := bits x 511 448

/-- Whether a pair of a column-set table is refused (10 R268). Of a pair that is not used only op is read: DESIGN CHOICE (log 82),
since the spec does not say whether its other fields keep their ranges. -/
def pairBad (regs x : Nat) : Bool :=
  let op := bits x 10 7
  let ty := bits x 14 11
  op ≠ 0 && (bit x 15 || decide (bits x 6 0 ≥ regs) || decide (op > 9) ||
    (ty = 5 && (bits x 6 0 % 2 = 1 || bits x 6 0 + 1 ≥ regs)) ||
    !(match op with
      | 1 => [0, 2, 5].contains ty
      | 2 | 3 => [0, 1, 2].contains ty
      | _ => ty = 0))

/-- Whether a column-set table is refused: a bad pair, or a used pair after an unused one (10 R268). -/
def columnsBad (regs : Nat) (bs : List Byte) : Bool :=
  (List.range 8).any fun k =>
    let x (j : Nat) : Nat := leNat ((bs.drop (32 * k + 2 * j)).take 2)
    (List.range 16).any fun j => pairBad regs (x j) || (decide (j > 0) && bits (x j) 10 7 ≠ 0 && bits (x (j - 1)) 10 7 = 0)

/-- The byte offset of the first offending field of a descriptor (10 R267): the byte in which the field begins. -/
def Launch.badField (x : Nat) (bin : Bool) : Option Nat :=
  let L := Launch.ofNat x
  ([(L.tmax < L.troupes || L.role = 3, 1), (L.chk = 3 || bits x 31 22 ≠ 0, 2), (!bin && L.blocks = 0, 4),
    (bits x 95 88 ≠ 0, 11), (!L.shd && L.shadow ≠ 0, 16), (!L.trp && L.trap ≠ 0, 20), (L.args % 16 ≠ 0, 32),
    (decide (L.arglen > 4096), 40), (bits x 351 333 ≠ 0, 41), (bits x 383 361 ≠ 0, 45)].find? fun (p : Bool × Nat) =>
      p.1).map Prod.snd

/-- Whether a tile-attributed region that a table's capabilities reach is no whole number of 4 KiB tiles (03 R95). -/
def State.tilesBad (s : State) (part table : Nat) : Bool :=
  (List.range 256).any fun i =>
    let x := s.waNat part (table + 32 * i) 32
    bit x 128 && bits x 127 124 = 2 &&
      match s.tileRegion? (16 * bits x 71 36) with
      | some r => r.1 % 4096 ≠ 0 || r.2 % 4096 ≠ 0
      | none => false

/-- What a launch descriptor gives in a partition (06 R171, 10 R267): a refusal with code and detail, or the task; none while a
page of what it names is absent, where its fields are in order. -/
def State.launchOf (s : State) (part : Nat) (super bin : Bool) (x : Nat) : Option (Except (Nat × Nat) Task) :=
  let L : Launch := { Launch.ofNat x with prv := bit x 21 && super, blocks := if bin then 0 else bits x 63 32 }
  let none' : Bool := match s.ctl.parts.find part with
    | some P => P.cores.isEmpty
    | none => true
  match Launch.badField x bin with
  | some d => some (.error (0x01, d))
  | none =>
    if L.columns ≠ 0 && s.waAbsent part L.columns 256 then none
    else
      let cols := if L.columns = 0 then some [] else s.waRead part L.columns 256
      if columnsBad L.regs (cols.getD []) then some (.error (0x01, 56))
      else if L.slots > 32 then some (.error (0x11, 1))
      else if L.bytes > 524288 then some (.error (0x11, 2))
      else if none' then some (.error (0x11, 3))
      else if s.waAbsent part L.args L.arglen || s.waAbsent part L.table 8192 then none
      else match s.waRead part L.args L.arglen, cols with
        | some args, some cs =>
          if s.tilesBad part L.table then some (.error (0x11, 6))
          else some (.ok { part := part, launch := L, args := args, columns := cs })
        | _, _ => some (.error (0x06, Config.nodeDetail s.tick))

/-- The task a node's launch descriptor gives (06 R165). -/
def State.readLaunch (s : State) (g n : Nat) (G : Graph) (bin : Bool) : Option (Except (Nat × Nat) Task) :=
  let wa := s.nodeNat G n 16 8
  if wa % 16 ≠ 0 then some (.error (0x07, Config.nodeDetail s.tick))
  else if s.waAbsent G.part wa 64 then none
  else match s.waRead G.part wa 64 with
    | none => some (.error (0x06, Config.nodeDetail s.tick))
    | some bs => (s.launchOf G.part G.super bin (leNat bs)).map fun r => r.map fun K =>
        { K with graph := some (g, n), guard := if bin then 0 else s.nodeNat G n 24 8 }

/-- A launch sets the guard bits of the guards `.guard` gave its kernel, for its task: those that valid entries of its table name
with the rights arrive, wait and bind, where no bit is set (04 R111, 10 R265); a guard in another package, by telling that. That
the table tells which they are is DEDUCED (log 66). -/
def State.launchGuards (s : State) (k : Nat) (K : Task) : State :=
  (List.range 256).foldl (fun s i =>
    let x := s.tabEntry K i
    let c : CapReg := { bits := BitVec.ofNat 128 x }
    if !(bit x 128 && c.kind = 3 && c.rights &&& 0x218#12 = 0x218#12 && s.capOwned K.part c) then s
    else if !s.here c.at then (s.send (pkgOfSlice c.at) 0 (.guardBits c.at k)).farGuard k c.at
    else { s with mem := { s.mem with guards := (unitsOf 32 (sliceKey c.at) 416).foldl (fun m u =>
          if (m.find u).isSome then m else m.put u k) s.mem.guards } }) s

/-- Adds a task; answers its number. -/
def State.addTask (s : State) (K : Task) : Nat × State :=
  (s.fresh, (({ s with tasks := s.tasks.put s.fresh K }).bump).launchGuards s.fresh K)

/-- A node that launches: refused, or its task acted on; it stays ready while its descriptor cannot be read. -/
def State.launchFx (s : State) (g n kind : Nat) (f : Graph → Task → State → State) : Host.Outcome State Fault Refusal :=
  s.nodeFx g n kind fun G s1 => match s1.readLaunch g n G (kind = 6) with
    | none => s
    | some (.error (code, d)) => (s1.endNode g n code d noEdge).tock
    | some (.ok K) => f G K s1

/-! ## KERNEL, COND, WHILE (06 R166 to R170) -/

/-- KERNEL_NODE: a task starts, and its blocks are placed in ascending id while there is room. A node of a reserved kind
ends with ILLEGAL here. -/
def execKernelNode (g n : Nat) (s : State) : Host.Outcome State Fault Refusal :=
  match s.graphs.find g with
  | none => .next s
  | some G =>
    if s.startable g n && (s.kindOf G n = 0 || decide (s.kindOf G n > 6)) then .next ((s.begin g n).failNode g n 0x01)
    else s.launchFx g n 1 fun _ K s =>
      let (k, s1) := s.addTask K
      State.placeAll k false K.launch.blocks s1

/-- BLOCK_PLACEMENT: held blocks of a task, or of a bin, are placed where there is room (06 R170). -/
def execBlockPlacement (task : Nat) (s : State) : Host.Outcome State Fault Refusal :=
  match s.tasks.find task with
  | none => .next s
  | some K =>
    if K.bin.isSome then .next ((s.binsOf task).foldl (fun s x => State.binFill x.1 x.2 (256 + 8) s) s)
    else
      let gang := match K.graph with
        | some (g, n) => ((s.graphs.find g).bind fun G => G.gangs.find n).any fun A => !A.started
        | none => K.gang.isSome
      .next (State.placeAll task gang (K.launch.blocks - K.next) s)

/-- The condition word of a node (06 R168): a failing code, or the word; none while its page is absent. -/
def State.condWord (s : State) (G : Graph) (n : Nat) : Option (Except Nat Nat) :=
  let wa := s.nodeNat G n 16 8
  if wa % 4 ≠ 0 then some (.error 0x07)
  else if s.waAbsent G.part wa 4 then none
  else match s.waRead G.part wa 4 with
    | some bs => some (.ok (leNat bs))
    | none => some (.error 0x06)

/-- COND_NODE: next if the word is not zero, alt if it is. -/
def execCondNode (g n : Nat) (s : State) : Host.Outcome State Fault Refusal :=
  s.nodeFx g n 2 fun G s1 => match s1.condWord G n with
    | none => s
    | some (.error k) => s1.failNode g n k
    | some (.ok w) => (s1.endNode g n 0 0 (if w = 0 then s1.nodeAlt G n else s1.nodeNext G n)).tock

/-- A WHILE reads its word (06 R169): the exit, the limit, or an iteration with the in-degrees of its body reloaded. -/
def State.whileRead (s : State) (g n : Nat) (G : Graph) : Option State :=
  let limit := s.nodeNat G n 32 8
  let it := G.iters.get 0 n
  (s.condWord G n).map fun r => match r with
    | .error k => s.failNode g n k
    | .ok w =>
      let out (s : State) : State := s.modGraph g fun G => { G with iters := G.iters.del n }
      if w = 0 then ((out s).endNode g n 0 0 (s.nodeAlt G n)).tock
      else if limit ≠ 0 && decide (it ≥ limit) then ((out s).endNode g n 0x17 limit noEdge).tock
      else
        let body := s.bodyOf G n
        let s1 := s.modGraph g fun G => { G with
          iters := G.iters.put n (it + 1), loops := Marks.add G.loops n
          indeg := body.foldl (fun d m => d.put m (s.nodeNat G m 2 2)) G.indeg }
        (s1.takeEdge g n (s.nodeBody G n)).tock

/-- WHILE_NODE. -/
def execWhileNode (g n : Nat) (s : State) : Host.Outcome State Fault Refusal :=
  s.nodeFx g n 3 fun G s1 => (s1.whileRead g n G).getD s

/-- Whether a WHILE's iteration is over: every node of its body that would run has finished (06 R169). -/
def State.iterated (s : State) (g n : Nat) : Bool :=
  match s.graphs.find g with
  | none => false
  | some G => G.loops.contains n && G.running.contains n &&
      (s.bodyOf G n).all fun m => !G.running.contains m && (G.ended.isSome || !G.ready.contains m)

/-- WHILE_ITERATION: the word is read again; in a graph that has ended nothing further starts, and the node is over. -/
def execWhileIteration (g n : Nat) (s : State) : Host.Outcome State Fault Refusal :=
  match s.graphs.find g with
  | none => .next s
  | some G =>
    if !s.iterated g n then .next s
    else if G.ended.isSome then
      .next (s.modGraph g fun G => { G with running := Marks.del G.running n, loops := Marks.del G.loops n })
    else .next ((s.whileRead g n G).getD s)

/-! ## ENGINE (06 R164, Table 6.3) -/

/-- Copies an entry into a chain of this package, appended and advanced together, for a graph here, whose table is that of
`task`, or (`far`) in another package; an entry for the Parser chain reaches the Parser (06 R164). -/
def State.copyEntry (s : State) (ch part : Nat) (sup : Bool) (far : Option (Nat × Nat)) (task : Option Nat)
    (bs : List Byte) : State :=
  let a := ch / 2 ^ 22 * 2 ^ 22 + 64 * (Config.entryPlace s.tick % (sliceBytes / 64))
  let s1 := ((s.tock.sliceWrite a bs).append ch a none part none sup far task)
  let s2 := s1.sliceSet (ch + 16) 8 (s1.chAdvanced ch + 1)
  match s2.parserPart ch with
  | none => s2
  | some p => s2.modPart p fun P => { P with queue := P.queue ++ [⟨.chain a (s1.chAppended ch), p, sup⟩] }

/-- The last task a graph has started. -/
def State.lastTask (s : State) (g : Nat) : Option Nat :=
  ((s.tasks.filter fun k => (k.2.graph.map Prod.fst) = some g).getLast?).map Prod.fst

/-- ENGINE_NODE: the entries are copied and the node waits for the last; with none to copy it ends at once with code 0 (DESIGN
CHOICE, log 67: the spec gives no meaning to a count of 0). A chain of another package is sent them, and the node, run again,
reads its words there: what they say is free, a code of 01 Table 1.3 (01 R20). -/
def execEngineNode (g n : Nat) (s : State) : Host.Outcome State Fault Refusal :=
  match s.graphs.find g with
  | none => .next s
  | some G => match G.engines.find n with
    | some (ch, _) =>
      if s.here ch || (Config.farByte s.tick 0).getLsbD 0 then .next s.tock
      else
        let code := (Config.farByte s.tick 1).toNat % 0x19
        if code = 0 then .next (s.endNode g n 0 0 (s.nodeNext G n)).tock else .next (s.failNode g n code)
    | none => s.nodeFx g n 4 fun G s1 =>
      let wa := s.nodeNat G n 16 8
      let ch := bits (s.nodeNat G n 24 8) 39 0
      let cnt := s.nodeNat G n 32 8
      if cnt = 0 then s1.endNode g n 0 0 (s.nodeNext G n)
      else if cnt > 2 ^ 16 then s1.failNode g n 0x06
      else if s.waAbsent G.part wa (64 * cnt) then s
      else match s.waRead G.part wa (64 * cnt) with
        | none => s1.failNode g n 0x06
        | some bs =>
          let es := (List.range cnt).map fun i => (bs.drop (64 * i)).take 64
          if s.here ch then
            if s.chStatus ch % 256 ≠ 0 then s1.failNode g n (s.chStatus ch % 256)
            else
              let sup := G.super && s.parserPart ch = some G.part
              let s2 := es.foldl (fun s e => s.copyEntry ch G.part sup none (s1.lastTask g) e) s1
              s2.modGraph g fun G => { G with engines := G.engines.put n (ch, s2.chAppended ch) }
          else
            (es.foldl (fun s e => s.send (pkgOfSlice ch) 0 (.copied ch e)) s1).modGraph g fun G =>
              { G with engines := G.engines.put n (ch, cnt) }

/-! ## GANG (06 R178) -/

/-- How many blocks of a launch a core holds when empty. -/
def Launch.perCore (L : Launch) : Nat := min (32 / max L.slots 1) (524288 / max L.bytes 1)

/-- The packages of a mask. -/
def maskPkgs (m : Nat) : Marks := (List.range 64).filter fun p => bit m p

/-- Whether a package's clock is not in step (09 R237); what another package's sync bit reads is free. -/
def State.unsynced (s : State) (p : Nat) : Bool :=
  if p = s.ctl.pkg then !s.ctl.sync else Config.farByte s.tick (64 + p) = 0

/-- Tells every other member of a gang something. -/
def State.tellGang (s : State) (A : Gang) (m : GangMsg) : State :=
  (A.mask.filter (· ≠ s.ctl.pkg)).foldl (fun s p => s.send p 0 (.gang m)) s

/-- Whether a share of a launch can never be held by a partition. -/
def State.neverHeld (s : State) (K : Task) : Bool :=
  let cores := ((s.ctl.parts.find K.part).map fun P => P.cores.length).getD 0
  decide (K.launch.perCore * cores < K.launch.blocks)

/-- A gang launch fails: every reserved block is released without issuing, here and at the other members, and the node takes its
err edge. -/
def State.failGang (s : State) (g n code detail : Nat) (A : Gang) : State :=
  let s := A.task.elim s s.clearFar
  let s1 := { s with
    blocks := s.blocks.filter fun b => some b.2.task ≠ A.task
    tasks := s.tasks.filter fun k => some k.1 ≠ A.task
    mem := { s.mem with guards := s.mem.guards.filter fun x => some x.2 ≠ A.task } }
  (s1.tellGang A (.release g n)).endNode g n code detail noEdge

/-- GANG_NODE: this package's share is placed, its troupes held, and every other member is asked to place its own; a share that
can never be held is refused. -/
def execGangNode (g n : Nat) (s : State) : Host.Outcome State Fault Refusal :=
  s.launchFx g n 5 fun G K s =>
    let ms := maskPkgs (s.nodeNat G n 32 8)
    match ms.find? s.unsynced with
    | some p => (s.endNode g n 0x17 p noEdge).tock
    | none =>
      let here := ms.contains s.ctl.pkg
      if here && s.neverHeld K then s.failNode g n 0x11
      else
        let A : Gang := { task := if here then some s.fresh else none, mask := ms, want := s.nodeNat G n 40 8,
                          began := s.ctl.clk.toNat }
        let image := (s.waRead G.part (s.nodeNat G n 16 8) 64).getD []
        let s1 := ((s.modGraph g fun G => { G with
            gangs := G.gangs.put n A, told := (ms.filter (· ≠ s.ctl.pkg)).foldl Marks.add G.told }).tellGang A
          (.ask g n G.part K.guard G.super image)).tock
        if !here then s1
        else
          let (k, s2) := s1.addTask K
          State.placeAll k true K.launch.blocks s2

/-- Whether all the blocks of a gang's share here are resident. -/
def State.gangResident (s : State) (A : Gang) : Bool :=
  match A.task.bind s.tasks.find with
  | some K => decide (K.next ≥ K.launch.blocks)
  | none => false

/-- The start tick of a gang: the greater of the requested tick and the latest reply plus 2 µs. -/
def Gang.tick (A : Gang) : Nat := max A.want (A.latest + 2000)

/-- A member's reply that its share is resident is recorded; with the last, the start tick is sent to every member. -/
def State.gangReply (s : State) (g n pkg tick : Nat) : State :=
  match (s.graphs.find g).bind fun G => G.gangs.find n with
  | none => s
  | some A =>
    if !A.mask.contains pkg || A.started || A.ready.contains pkg then s
    else
      let A1 := { A with ready := Marks.add A.ready pkg, latest := max A.latest tick }
      let s1 := s.modGraph g fun G => { G with gangs := G.gangs.put n A1 }
      if A1.mask.all A1.ready.contains then s1.tellGang A1 (.start g n A1.tick) else s1

/-- Whether the share of another package's gang launch is resident here, and that has not been replied. -/
def State.shareReady (s : State) (A : FarGang) : Bool :=
  !A.replied && (s.tasks.find A.task).any fun K => decide (K.next ≥ K.launch.blocks)

/-- GANG_READY: a member replies with its own pod time once every block of its share is resident: to the graph here, or to the
package that runs the node, where `g` numbers a share held for it. -/
def execGangReady (g n pkg tick : Nat) (s : State) : Host.Outcome State Fault Refusal :=
  match (s.graphs.find g).bind fun G => G.gangs.find n with
  | none => match s.eng.gangs.find g with
    | none => .next s
    | some A =>
      if !s.shareReady A then .next s
      else .next (({ s with eng := { s.eng with gangs := s.eng.gangs.put g { A with replied := true } } }).send A.src 0
        (.gang (.ready A.g A.n s.ctl.clk.toNat)))
  | some A =>
    if pkg ≠ s.ctl.pkg then .next (s.gangReply g n pkg tick)
    else if !s.gangResident A then .next s
    else .next (s.gangReply g n pkg s.ctl.clk.toNat)

/-- Whether the start tick of a gang has come. -/
def State.gangDue (s : State) (A : Gang) : Bool :=
  !A.started && A.mask.all A.ready.contains && decide (s.ctl.clk.toNat ≥ A.tick)

/-- Whether the start tick of a share held for another package has come. -/
def State.shareDue (s : State) (A : FarGang) : Bool := A.start.any fun t => decide (s.ctl.clk.toNat ≥ t)

/-- The troupes of a gang's task are released to the ready set. -/
def State.freeGang (s : State) (k : Nat) : State :=
  { s with blocks := s.blocks.map fun (b : Nat × Block) => (b.1, { b.2 with gang := b.2.gang && decide (b.2.task ≠ k) }) }

/-- GANG_START_TICK: the troupes are released to the ready set. -/
def execGangStartTick (g n : Nat) (s : State) : Host.Outcome State Fault Refusal :=
  match (s.graphs.find g).bind fun G => G.gangs.find n with
  | none => match s.eng.gangs.find g with
    | none => .next s
    | some A =>
      if !s.shareDue A then .next s
      else .next ({ s with eng := { s.eng with gangs := s.eng.gangs.put g { A with start := none } } }.freeGang A.task)
  | some A =>
    if !s.gangDue A then .next s
    else
      let s1 := A.task.elim s s.freeGang
      .next ((s1.modGraph g fun G => { G with gangs := G.gangs.mod n fun A => { A with started := true } }).gangEnd g n)

/-- Whether a member of a gang is overdue: no reply within 1 ms. -/
def State.gangLate (s : State) (A : Gang) (pkg : Nat) : Bool :=
  !A.started && A.mask.contains pkg && !A.ready.contains pkg && decide (s.ctl.clk.toNat ≥ A.began + 1000000)

/-- GANG_TIMEOUT: every reserved block is released without issuing, and the node ends with ABORTED and the member. -/
def execGangTimeout (g n pkg : Nat) (s : State) : Host.Outcome State Fault Refusal :=
  match (s.graphs.find g).bind fun G => G.gangs.find n with
  | none => .next s
  | some A =>
    if !s.gangLate A pkg then .next s else .next (s.failGang g n 0x17 pkg A)

/-- What another package says of a gang launch does here (06 R178); none while a page the launch descriptor names is absent. -/
def State.gangMsg (s : State) (src : Nat) (m : GangMsg) : Option State :=
  let mine (g n : Nat) : Option Nat := (s.eng.gangs.find? fun x => x.2.src = src && x.2.g = g && x.2.n = n).map Prod.fst
  let node (g n : Nat) : Option Gang := ((s.graphs.find g).bind fun G => G.gangs.find n).filter fun A => A.mask.contains src
  match m with
  | .ask g n part guard super image =>
    (s.launchOf part super false (leNat image)).map fun r => match r with
      | .error _ => s.send src 0 (.gang (.refuse g n))
      | .ok K =>
        if s.neverHeld K then s.send src 0 (.gang (.refuse g n))
        else
          let (k, s1) := s.addTask { K with guard := guard, gang := some (src, g, n) }
          let s2 := { s1.bump with eng := { s1.eng with gangs := s1.eng.gangs.put s1.fresh ⟨src, g, n, k, false, none⟩ } }
          State.placeAll k true K.launch.blocks s2
  | .ready g n tick => some (s.gangReply g n src tick)
  | .refuse g n => some (((node g n).filter fun A => !A.started).elim s fun A =>
      s.failGang g n 0x11 (Config.nodeDetail s.tick) A)
  | .start g n tick => some ((mine g n).elim s fun id => { s with eng := { s.eng with
      gangs := s.eng.gangs.mod id fun A => { A with start := some tick } } })
  | .release g n => some ((mine g n).elim s s.dropGang)
  | .clear g => some ((s.eng.gangs.keys.filter fun id => (s.eng.gangs.find id).any fun A => A.src = src && A.g = g).foldl
      State.dropGang s)
  | .done g n err => some ((node g n).elim s fun _ => (s.modGraph g fun G => { G with gangs := G.gangs.mod n fun A =>
      { A with ended := A.ended.put src err } }).gangEnd g n)

/-! ## BIN (06 R172) -/

/-- BIN_NODE: the bin is armed at its home core, or, with spread, at every core of the partition. The one ring is shared by
giving each core's bin `ringcap` records of it, in ascending order of cores: DESIGN CHOICE (log 63), since the spec does not
say how. A bin is armed also where the slice of a core has no room left for its 256 records: DESIGN CHOICE (log 77), since 06
R171 and R172 name no refusal for that. -/
def execBinNode (g n : Nat) (s : State) : Host.Outcome State Fault Refusal :=
  s.launchFx g n 6 fun G K s =>
    let w := s.nodeNat G n 32 4
    let b := bits w 3 0
    let home := bits w 26 16
    let count := s.nodeNat G n 36 4
    let ring := s.nodeNat G n 48 8
    let all := ((s.ctl.parts.find G.part).map Part.cores).getD []
    let cores := if bit w 4 then all else [home]
    if !all.contains home then s.endNode g n 0x11 7 noEdge
    else if cores.any (fun c => (s.bin c b).isSome) then s.endNode g n 0x11 4 noEdge
    else if count = 0 || decide (count > 32 * K.launch.troupes) then s.endNode g n 0x11 5 noEdge
    else
      let (k, s1) := s.addTask { K with bin := some b }
      let cap := if ring = 0 then 0 else s.nodeNat G n 56 4
      let bin (i : Nat) : Bin := { task := k, home := home, count := count, timer := s1.nodeNat G n 40 4,
                                   ring := ring + 32 * cap * i, ringCap := cap }
      (cores.zip (List.range cores.length)).foldl (fun s c =>
        s.modCore c.1 fun C => { C with bins := C.bins.put b (bin c.2) }) s1

/-! ## Blocks and troupes -/

/-- BLOCK_END: the lines the block dirtied are written back, its completion arrival is made with its flags, and it is
gone. -/
def execBlockEnd (b : Nat) (s : State) : Host.Outcome State Fault Refusal :=
  .next (s.endBlock b)

/-- TROUPE_PROMOTION: passed over for 64 consecutive cycles (06 R180). -/
def execTroupePromotion (b t : Nat) (s : State) : Host.Outcome State Fault Refusal :=
  match s.trp? b t with
  | some T => if T.passed ≥ 64 then .next (s.modTrp b t fun T => { T with promoted := true }) else .next s
  | none => .next s

/-- YIELD_END: the troupe is ready again (11 R285). -/
def execYieldEnd (b t : Nat) (s : State) : Host.Outcome State Fault Refusal :=
  .next (s.modTrp b t fun T => { T with yielded := false })

/-- Whether the event of a page a core asked for is still to be recorded (07 R213). -/
def State.askPending (s : State) (core part obj page : Nat) : Bool :=
  s.ctl.events.any fun e => (e.code = 1 || e.code = 2) && e.unit = core && e.part = part && e.detail = obj + 2 ^ 24 * page

/-- Whether the pages a split is parked on have all become usable (07 R205): an access to each now succeeds or faults, and its
event has been recorded (07 R213). -/
def State.pageUsable (s : State) (b part obj : Nat) (pages : List Nat) (back write : Bool) : Bool :=
  match s.blocks.find b with
  | none => false
  | some B =>
    let o := s.obj part obj
    pages.all fun page => !s.askPending B.core part obj page &&
      match (s.translate (dieOf B.core) part obj (o.copy back) (page * 2 ^ pageBits o.psz) write).1,
        (s.translate ioAsks part obj (o.copy back) (page * 2 ^ pageBits o.psz) write).1 with
      | .absent, _ | .notWritable, _ | _, .absent | _, .notWritable => false
      | _, _ => true

/-- PAGE_REPLAY: the unfinished lanes issue again; at a port, where it names no block, a waiting write of the hardware is made
(07 R205). -/
def execPageReplay (b t e : Nat) (s : State) : Host.Outcome State Fault Refusal :=
  if (s.blocks.find b).isNone then .next s.makeLate
  else match s.waitOf b t e with
  | .page part obj pages back write lanes =>
    if s.pageUsable b part obj pages back write then
      .next (s.modSplit b t e fun S => { S with wait := .ready, only := some lanes })
    else .next s
  | _ => .next s

end Sys2Proof.Machine
end

