-- ==== Sys2Proof/Machine/Fabric.lean ====
section
/-! DEFINITION. What other packages do here (04 R115 to R117, 05 R158), links and their failure (08 R224), mesh beats and
the patrol scrub (08 R214). -/
namespace Sys2Proof.Machine

/-! ## The status page (09 R241) -/

/-- The words 0 to 7 of a partition's status page (09 Table 9.2). -/
def Ctl.statusWords (C : Ctl) (p : Nat) (P : Part) : List Nat :=
  let alarm := if C.alarm ≤ 2 then C.alarm else Config.erasedAlarm % 4
  [C.pkg % 64 + C.pods % 128 * 2 ^ 6 + p % 16 * 2 ^ 13,
    C.step % 16 + alarm * 2 ^ 4 + (if C.sync then 2 ^ 6 else 0),
    (List.range 16).foldl (fun w i => if ((C.links.find i).map Lnk.up).getD false then w + 2 ^ i else w) 0,
    C.cap, C.power, Config.firmware % 2 ^ 32, P.cfg.chain % 2 ^ 32, P.cfg.chain / 2 ^ 32]

/-- Writes the status pages as they now read, in plaintext; words 8 to 1,023 read 0. What is written whole loses its errors
(08 R398). -/
def State.publish (s : State) : State :=
  s.ctl.parts.foldl (fun s p =>
    let page (al u : Nat) : Bool := u * al / 4096 = p.2.cfg.status / 4096
    if p.2.cfg.status = 0 then s
    else { s with mem := { s.mem with
      devPoison := s.mem.devPoison.filter fun u => !page 64 u
      devFlips := s.mem.devFlips.filter fun u => !page 64 u
      sidePoison := s.mem.sidePoison.filter fun u => !page 8 u
      sideFlips := s.mem.sideFlips.filter fun u => !page 8 u
      keys := s.mem.keys.filter fun k => k.1 / 32 ≠ p.2.cfg.status / 4096
      dev := Mem.write s.mem.dev p.2.cfg.status
        (((s.ctl.statusWords p.1 p.2).flatMap fun w => leBytes 4 w) ++ List.replicate 4064 0) } }) s

/-! ## Sequenced operations -/

/-- The partition that holds a chain of this package. -/
def State.chPart (s : State) (ch : Nat) : Nat := (s.partOf (coreOfSlice ch)).getD 0

/-- Reads, changes and writes `n` bytes for another package at the place of an atomic or a reduction, with what is replied: a
granule under a guard bit refuses it (04 R111), and poison is not used (08 R216). None while a page is absent. -/
def State.farApply (s : State) (src : Nat) (at' : FabPlace) (n : Nat) (f : List Byte → List Byte × Flags) :
    Option (FabReply × State) :=
  match at' with
  | .slice a =>
    if s.guarded a n then some ({ denied := true }, s)
    else if s.slicePoisoned a n then some ({ poison := true }, s)
    else
      let v := f (s.sliceRead a n)
      some ({ flags := v.2.toNat }, s.sliceWrite a v.1)
  | .bulk part obj off back =>
    let copy := (s.obj part obj).copy back
    if s.homePoisoned (pkgAsks src) part obj copy off n then some ({ poison := true }, s)
    else (s.homeRead (pkgAsks src) part obj copy off n).bind fun r =>
      let v := f r.1
      (r.2.homeWrite (pkgAsks src) part obj copy off 0 v.1).map fun s1 => ({ flags := v.2.toNat }, s1)

/-- The copies of a peer object's object in package `home` have changed places: what the caches here hold of it, clean, is
dropped (04 R126). -/
def State.dropPeer (s : State) (home obj : Nat) : State :=
  s.cores.foldl (fun s c => s.invalidate c.1 fun k =>
    let o := s.obj (keyPart k) (keyObj k)
    o.tier = 3 && bits o.root 5 0 = home && bits o.root 29 6 = obj) s

/-- How the guard bits of a task of another package are marked here. -/
def farSetter (src k : Nat) : Nat := 2 ^ 64 + 64 * k + src

/-- A launch of a task of another package sets the guard bits of a guard here, where none is set (04 R111). -/
def State.farBits (s : State) (g setter : Nat) : State :=
  { s with mem := { s.mem with guards := (unitsOf 32 (sliceKey g) 416).foldl (fun m u =>
      if (m.find u).isSome then m else m.put u setter) s.mem.guards } }

/-- An operation on words of a slice by another package: poison there is not used (08 R216). -/
def State.unpoisoned (s : State) (ps : List (Nat × Nat)) (r : FabReply × State) : Option (FabReply × State) :=
  if ps.any fun p => s.slicePoisoned p.1 p.2 then some ({ poison := true }, s) else some r

/-- PUB of another package on an object of this one (04 R126): once no entry is landing in it its copies change places, and the
reply names the packages, marked in its companions, that are to be told. -/
def State.farPub (s : State) (src part obj : Nat) : Option (FabReply × State) :=
  if s.landingObj part obj then none
  else some ({ tell := (s.markedPkgs part obj).filter (· ≠ src) }, s.swapCopies (part, obj))

/-- What an operation of another package does here, with what its acknowledgement replies; none while a page it needs is
absent. A granule under a guard bit takes no store and no atomic (04 R111); the companion of a page it reaches is marked
(07 R204). -/
def State.applyOp (s : State) (src : Nat) (o : FabOp) : Option (FabReply × State) :=
  let ok (s : State) : Option (FabReply × State) := some ({}, s)
  match o with
  | .store a bs => if s.guarded a bs.length then some ({ denied := true }, s) else ok (s.sliceWrite a bs)
  | .bulk part obj off back bs =>
    (s.homeWrite (pkgAsks src) part obj ((s.obj part obj).copy back) off 0 bs).map fun s => ({}, s)
  | .atomic p cas op t xs =>
    let n := if wide t then 8 else 4
    s.farApply src p n fun old =>
      (leBytes n (combine cas op t (leNat old) (xs.map fun x => (0, x))).2, 0)
  | .reduce p op t bs => s.farApply src p bs.length fun old => reduceBytes op t old bs
  | .remade a red bs us =>
    (match red with
      | some (op, t) => s.farApply src (.slice a) bs.length fun old => reduceBytes op t old bs
      | none => if s.guarded a bs.length then some ({ denied := true }, s) else ok (s.sliceWrite a bs)).map fun (x : FabReply × State) =>
      if x.1.denied || x.1.poison then x else (x.1, us.foldl (fun s u => s.regenTile u) x.2)
  | .arrive g n f => s.unpoisoned [(g, 16), (g + 30, 2)] ({}, s.arriveAt 0 g n (BitVec.ofNat 16 f))
  | .landed g n f => ok (s.landAt 0 g n (BitVec.ofNat 16 f))
  | .expect g n => s.unpoisoned [(g, 16), (g + 30, 2)] ({}, s.expectAt 0 g n)
  | .wait g up => ok (s.waiters 0 g up)
  | .attempt g => ok (s.attemptUp g)
  | .swapped home _ obj => ok (s.dropPeer home obj)
  | .pub part obj => s.farPub src part obj
  | .ginit g a n k => s.unpoisoned [(g + 28, 2)]
      (if s.sliceNat (g + 28) 2 ≠ 0 then ({ geom := true }, s) else ({}, s.initGuard g (farSetter src k) a n))
  | .guardBits g k => ok (s.farBits g (farSetter src k))
  | .cleared k => ok { s with mem := { s.mem with guards := s.mem.guards.filter fun x => x.2 ≠ farSetter src k } }
  | .gbind g x => s.unpoisoned [(g + 20, 4), (s.bindList g, 16 * min (s.bound g) 8)]
      (if s.bound g ≥ 8 && !(List.range 8).any fun i => s.bindEntry g i = x then ({ geom := true }, s) else ({}, s.addBind g x))
  | .gunb g x => s.unpoisoned [(g + 20, 4), (s.bindList g, 16 * min (s.bound g) 8)] ({}, s.dropBind g x)
  | .message m => ok { s with eng := { s.eng with msgs := s.eng.msgs ++ [m] } }
  | .refusal m => ok { s with eng := { s.eng with refused := s.eng.refused ++ [m] } }
  | .append ch e b k tag => s.unpoisoned [(ch + 8, 8), (ch + 32, 16)]
      ({}, s.append ch e none (s.chPart ch) tag false (some (src, b)) (some k))
  | .advance ch n => s.unpoisoned [(ch + 8, 16)]
      (if n > s.chAppended ch then ({ geom := true }, s)
      else ({}, if s.chAdvanced ch < n then s.sliceSet (ch + 16) 8 n else s))
  | .stopped b k tag code => ok (s.reportStop b k tag code)
  | .unlink ch b => ok (s.unlink fun o => o.chain = ch && o.far = some (src, b))
  | .copied ch bs => ok (s.copyEntry ch (s.chPart ch) false (some (src, 0)) none bs)
  | .abort die group attempt => ok (s.abortHere die group attempt)
  | .gang m => (s.gangMsg src m).map fun s => ({}, s)

/-- The last sequence number applied from a source: at a guard, in its window; else for the package (04 R116, 05 R158). -/
def State.lastSeq (s : State) (src : Nat) (o : FabOp) : Nat :=
  match o.guard? with
  | some g => s.sliceNat (s.windowWord g src) 2
  | none => s.eng.seqIn.get 0 src

/-- Records a sequence number as the last applied. -/
def State.setSeq (s : State) (src seq : Nat) (o : FabOp) : State :=
  match o.guard? with
  | some g => s.sliceSet (s.windowWord g src) 2 seq
  | none => { s with eng := { s.eng with seqIn := s.eng.seqIn.put src seq } }

/-- The acknowledgement an operation was given when it was applied. -/
def State.ackOf (s : State) (src seq : Nat) (o : FabOp) : FabReply :=
  ((s.eng.acks.find? fun a => a.1 = src && a.2.1 = o.guard? && a.2.2.1 = seq).map fun a => a.2.2.2).getD {}

/-- An operation arrives: the successor of the last is applied and acknowledged, a duplicate dropped and acknowledged, any other
held until its predecessors have been applied (04 R116). Before it has been provisioned, and after an ERASE, the package takes
nothing (09 R242). -/
def State.receive (s : State) (src seq : Nat) (o : FabOp) : State :=
  let last := s.lastSeq src o
  let held := (src, seq, o)
  let out (s : State) : State := { s with eng := { s.eng with early := s.eng.early.filter fun x => x ≠ held } }
  let hold : State := if s.eng.early.contains held then s else { s with eng := { s.eng with early := s.eng.early ++ [held] } }
  let ack (reply : FabReply) (s : State) : State :=
    { s with eng := { s.eng with acks := (src, o.guard?, seq, reply) :: s.eng.acks } }
  if !s.up || s.ctl.locked then s
  else if seq = seqNext last then match s.applyOp src o with
    | some (reply, s1) => ack reply (out (s1.setSeq src seq o))
    | none => hold
  else if (last + 2 ^ 16 - seq % 2 ^ 16) % 2 ^ 16 < 2 ^ 15 then ack (s.ackOf src seq o) (out s)
  else hold

/-- REMOTE_ARRIVAL. -/
def execRemoteArrival (src seq : Nat) (o : FabOp) (s : State) : Host.Outcome State Fault Refusal := .next (s.receive src seq o).tock

/-- FABRIC_OPERATION. -/
def execFabricOperation (src seq : Nat) (o : FabOp) (s : State) : Host.Outcome State Fault Refusal :=
  .next (s.receive src seq o).tock

/-- Whether a held operation's turn has come. -/
def State.earlyDue (s : State) (src seq : Nat) (o : FabOp) : Bool :=
  (seq = seqNext (s.lastSeq src o) && (s.applyOp src o).isSome) ||
    decide ((s.lastSeq src o + 2 ^ 16 - seq % 2 ^ 16) % 2 ^ 16 < 2 ^ 15)

/-- The held operation an acknowledgement names: remote arrivals are numbered for each guard, the others for each package (04
R115, 05 R158). -/
def State.sentAs (s : State) (dst : Nat) (k : FabId) : Option Sent :=
  s.eng.sent.find? fun x => x.dst = dst && x.seq = k.seq && x.op.guard? = k.guard

/-- What an acknowledgement does beyond letting the operation go: a landing is counted (04 R123); a store that a guarded granule
refused sets RIGHTS in its block's error word (04 R111), one on a guard or chain that its home could not do GEOM (log 76), and
one that met poison is contained (08 R216); the packages a PUB names are told (04 R126). -/
def State.replied (s : State) (x : Sent) (reply : FabReply) : State :=
  match x.land with
  | some (ch, seq) => if reply.poison then s.stopLanding ch seq 0x16 else s.landingBack ch seq reply
  | none =>
    let s0 := match x.op with
      | .pub part obj => s.tellSwap x.b x.dst part obj reply.tell
      | _ => s
    let s1 := if reply.denied then s0.blockErr x.b (some (0x05, 0)) 0
      else if reply.geom then s0.blockErr x.b (some (0x11, 0)) 0 else s0
    if reply.poison then s1.contain x.b 0x16 0 else s1

/-- FABRIC_ACKNOWLEDGEMENT: the sender lets the operation go, and what waited for it goes on. Its flits got through: the counts
of failed retries in a row start again. -/
def execFabricAcknowledgement (dst : Nat) (seq : FabAck) (s : State) : Host.Outcome State Fault Refusal :=
  match s.sentAs dst seq.toFabId with
  | none => .next s
  | some x =>
    let s1 := { s with
      eng := { s.eng with sent := s.eng.sent.erase x }
      ctl := { s.ctl with links := s.ctl.links.map fun (l : Nat × Lnk) => (l.1, { l.2 with retries := 0 }) } }
    .next ((s1.replied x seq.reply).wakeCommits x.b).tock

/-! ## Links (08 R224, 09 R235) -/

/-- The links that are up, as a set of bits. -/
def linksUp (links : Tab Lnk) : Nat := links.foldl (fun n l => if l.2.up then n + 2 ^ l.1 else n) 0

/-- Whether Dycor finds a route to a package over the links that are up: links join packages in any topology, so that where a
link is up it is a free choice (09 R235). -/
def routed (tick : Nat) (links : Tab Lnk) (p : Nat) : Bool := linksUp links ≠ 0 && Config.route tick (linksUp links) p

/-- The time master is computed again: the lowest-numbered package that has a path to every other (09 R237), package 0 where this
one has such paths, since then every package does; where it has not, the master stays. -/
def Ctl.remaster (C : Ctl) : Ctl := if C.reach.length + 1 = C.pods then { C with master := 0 } else C

/-- A package that has lost its last path is out of step until its clock has been set again (09 R237). -/
def Ctl.cutOff (C : Ctl) : Ctl :=
  if C.pods ≤ 1 || !C.reach.isEmpty then C else { C with sync := false, lost := true }

/-- LINK_FLIT_ERROR: the flit is retried; the retries that failed in a row are counted. -/
def execLinkFlitError (link : Nat) (s : State) : Host.Outcome State Fault Refusal :=
  .next { s with ctl := { s.ctl with links := s.ctl.links.mod link fun l => { l with retries := l.retries + 1 } } }

/-- LINK_FAILURE: after 8 failed retries or a loss of lane lock, the link is down until it is retrained, event 7 is posted, and
the routes are computed again. What is unacknowledged stays held, in order, and is sent again over another link; a package no
route leads to any more can no longer be reached. -/
def execLinkFailure (link : Nat) (s : State) : Host.Outcome State Fault Refusal :=
  match s.ctl.links.find link with
  | none => .next s
  | some l =>
    if !l.up then .next s
    else
      let links := s.ctl.links.put link { up := false }
      let s1 := { s with ctl := { s.ctl with links := links, reach := s.ctl.reach.filter (routed s.tick links) }.cutOff.remaster }
      .next ((s1.event 7 2047 0 (Config.eventDetail s.tick)).publish).tock

/-- OPERATION_ABANDONED: an operation to a package no path leads to is given up; its block's error word takes ABORTED and
UNREACH, and its next memory instruction, commit point or WAIT on a remote guard faults. A landing stops its chain. -/
def execOperationAbandoned (dst : Nat) (seq : FabId) (s : State) : Host.Outcome State Fault Refusal :=
  match s.sentAs dst seq with
  | none => .next s
  | some x =>
    if s.ctl.reach.contains dst then .next s
    else
      let s1 := { s with eng := { s.eng with sent := s.eng.sent.erase x } }
      let s2 := match x.land with
        | some (ch, q) => s1.stopLanding ch q 0x17
        | none => s1
      .next (((s2.blockErr x.b (some (0x17, dst)) 0x2000#32).modBlk x.b fun B => { B with unreach := some dst }).wakeCommits
        x.b).tock

/-! ## Beats and scrubbing (08 R214) -/

/-- MESH_BEAT_ERROR: the beat is retried; after 16 retries the hop is mapped out. -/
def execMeshBeatError (core dir : Nat) (s : State) : Host.Outcome State Fault Refusal :=
  let k := 8 * core + dir
  let n := s.ctl.beats.get 0 k + 1
  .next { s with ctl := if n > 16
    then { s.ctl with beats := s.ctl.beats.del k, hops := Marks.add s.ctl.hops k }
    else { s.ctl with beats := s.ctl.beats.put k n } }

/-- PATROL_SCRUB: the single errors of a core's slice are corrected and counted; poison stays (08 R398). -/
def execPatrolScrub (core : Nat) (s : State) : Host.Outcome State Fault Refusal :=
  let mine (u : Nat) : Bool := 8 * u / 2 ^ 22 = core
  .next ({ s with mem := { s.mem with flips := s.mem.flips.filter fun u => !mine u } }.corrected core
    (s.mem.flips.countP mine))

end Sys2Proof.Machine
end

