-- ==== Sys2Proof/Machine/MatNum.lean ====
section
/-! DEFINITION. The arithmetic of the matrix unit: operands as window integers (03 R72 to R74), contributions and checks
of a block (03 R79 to R84), partial entries (R86, R87), scales (R88; 02 R46) and the mix of labels (02 R64). -/
namespace Sys2Proof.Machine

/-! ## Formats (14 Table 14.1, 03 Table 3.2) -/

/-- The element type of a matrix format code. -/
def mfmt (f : Nat) : ETy :=
  match f with
  | 0 => .int 4 true
  | 1 => .int 8 true
  | 2 => .int 16 true
  | 3 => .int 4 false
  | 4 => .int 8 false
  | 5 => .int 16 false
  | 6 => .fl e2m1
  | 7 => .fl e4m3
  | 8 => .fl e5m2
  | 9 => .fl bf16
  | 10 => .fl f16
  | 11 => .fl f32
  | _ => .fl f64

/-- The bits of an element. -/
def mbits (f : Nat) : Nat := (mfmt f).width

/-- The A window. -/
def windowA (f : Nat) : Nat := [4, 8, 16, 5, 9, 17, 6, 12, 12, 16, 16, 28, 56].getD f 0

/-- The B planes. -/
def planes (f : Nat) : Nat := [1, 1, 2, 1, 2, 3, 1, 1, 1, 2, 2, 4, 7, 1].getD f 1

/-- The accumulator type of a legal pair, by its A format (03 Table 3.3): 1 i32, 2 f32, 3 f64. -/
def accType (fa : Nat) : Nat := if fa < 6 then 1 else if fa = 12 then 3 else 2

/-! ## Alignment (03 R73) -/

/-- The class of an element. -/
def Num.cls : Num → Cls
  | .nan => .nan
  | .inf n => .inf n
  | .fin _ m _ => if m = 0 then .zero else .num

/-- floor(log2 |x|) of a finite non-zero element. -/
def Num.log (x : Num) : Option Int :=
  match x with
  | .fin _ m e => if m = 0 then none else some (Nat.log2 m + e)
  | _ => none

/-- Rounds x × 2^k toward zero: the integer, and whether a bit was discarded. -/
def Num.align (k : Int) (x : Num) : Int × Bool :=
  match x with
  | .fin n m e =>
    let s := k + e
    if s ≥ 0 then (signed n (m * 2 ^ s.toNat), false)
    else (signed n (m / 2 ^ (-s).toNat), m % 2 ^ (-s).toNat ≠ 0)
  | _ => (0, false)

/-- A block of float elements in a window of `w` bits. -/
def alignBlk (w : Nat) (xs : List Num) : MBlk :=
  let top := xs.foldl (fun (r : Option Int) x => match r, x.log with
    | some a, some b => some (max a b)
    | none, y => y
    | x, none => x) none
  let ys := match top with
    | none => xs.map fun _ => ((0 : Int), false)
    | some E => xs.map (Num.align ((w : Int) - 2 - E))
  { v := ys.map Prod.fst, e := top.elim 0 fun E => E - ((w : Int) - 2), trn := ys.any Prod.snd,
    cls := xs.map Num.cls, signs := xs.map Num.neg }

/-- A block of integers. -/
def intBlk (e : Int) (xs : List Int) : MBlk :=
  { v := xs, e := e, cls := xs.map fun x => if x = 0 then .zero else .num, signs := xs.map fun x => decide (x < 0) }

/-- A block of element codes of a format, as A or as B. -/
def mkBlk (isA : Bool) (f : Nat) (xs : List Nat) : MBlk :=
  match mfmt f with
  | .int w sg => intBlk 0 (xs.map (intOf w sg))
  | .fl F => alignBlk (if isA then windowA f else 8 * planes f) (xs.map F.decode)

/-! ## One block of one element (03 R79 to R82) -/

/-- What a block contributes to an element. -/
inductive Contrib where
  /-- nothing: the block of a sparse row is empty (03 R90) -/
  | skip
  | num (p : Int) (e : Int)
  /-- NaN or an infinity, with INV where the NaN arises -/
  | spec (v : Num) (f : Flags)
  deriving Repr

/-- Whether a block holds a NaN or an infinity (03 R81). -/
def MBlk.special (b : MBlk) : Bool := b.cls.any fun c => match c with
  | .inf _ => true
  | .nan => true
  | _ => false

/-- The sign of the infinite term of a pair: none for a finite term; an error for ∞ × 0. -/
def infTerm (a : Cls) (sa : Bool) (b : Cls) (sb : Bool) : Option (Option Bool) :=
  match a, b with
  | .inf _, .zero => some none
  | .zero, .inf _ => some none
  | .inf x, .inf y => some (some (x != y))
  | .inf x, _ => some (some (x != sb))
  | _, .inf y => some (some (sa != y))
  | _, _ => none

/-- The contribution of a special block (03 R82). -/
def specialSum (A B : MBlk) : Contrib :=
  let nan (c : Cls) : Bool := c = .nan
  if A.cls.any nan || B.cls.any nan then .spec .nan 0
  else
    let ts := ((A.cls.zip A.signs).zip (B.cls.zip B.signs)).filterMap fun p => infTerm p.1.1 p.1.2 p.2.1 p.2.2
    let s := (ts.filterMap id).eraseDups
    if ts.any Option.isNone then .spec .nan fINV
    else match s with
      | [n] => .spec (.inf n) 0
      | _ => .spec .nan fINV

/-- The exact partial of two blocks. -/
def dot (A B : MBlk) : Int := ((A.v.zip B.v).map fun p => p.1 * p.2).foldl (· + ·) 0

/-- The contribution of a block, with an error `d` left in its partial. -/
def contrib (A : Option MBlk) (B : MBlk) (d : Int) : Contrib :=
  match A with
  | none => .skip
  | some a => if a.special || B.special then specialSum a B else .num (dot a B + d) (a.e + B.e)

/-- The value of an integer times a power of two; zero is +0. -/
def scaled (p e : Int) : Num := .fin (decide (p < 0)) p.natAbs e

/-- Folds a contribution into an accumulator of a type (03 R79). -/
def fold (ty acc : Nat) (c : Contrib) : Nat × Flags :=
  let F := if ty = 3 then f64 else f32
  match c with
  | .skip => (acc, 0)
  | .num p e =>
    if ty = 1 then let r := clampInt 32 true (sextN 32 acc + p); (wrapN 32 r.1, r.2)
    else F.out 0 0 ((F.decode acc).add 0 (scaled p e))
  | .spec v f => let r := F.out 0 0 ((F.decode acc).add 0 v); (r.1, r.2 ||| f)

/-- The partial entry of a contribution (03 Table 3.5), and INV of R86. -/
def entryOf (c : Contrib) : Nat × Flags :=
  match c with
  | .skip => (0x80000000, 0)
  | .num p e => (wrapN 24 p + 2 ^ 24 * wrapN 8 e, 0)
  | .spec v f => (0x80000000 + (match v with
      | .inf false => 1
      | .inf true => 2
      | _ => 3), f)

/-! ## Checks (03 R83, R84) -/

/-- The outcome of a block's check: fold with the errors that stay in partials, or MCHK. -/
inductive Check where
  | fold (fixed : Bool) (left : List Upset)
  | fail
  deriving DecidableEq, Repr

/-- The rows or columns whose residual is not 0, with it. -/
def residuals (us : List (Nat × Int)) : List (Nat × Int) :=
  ((us.map Prod.fst).eraseDups.map fun k => (k, ((us.filter fun u => u.1 = k).map Prod.snd).foldl (· + ·) 0)).filter
    fun p => p.2 ≠ 0

/-- Checks a block against the errors it meets, among the rows and columns that are checked. -/
def checkBlk (on : Bool) (us : List Upset) : Check :=
  let real := us.filter fun u => u.row < 32 && u.col < 512
  if !on then .fold false real
  else match residuals ((us.filter fun u => u.row < 32).map fun u => (u.row, u.amount)),
      residuals ((us.filter fun u => u.col < 512).map fun u => (u.col, u.amount)) with
    | [], [] => .fold false real
    | [(i, r)], [(j, q)] => if r = q then .fold true (⟨0, i, j, -r⟩ :: real) else .fail
    | _, _ => .fail

/-- The error left in a partial. -/
def leftAt (us : List Upset) (i j : Nat) : Int := ((us.filter fun u => u.row = i && u.col = j).map Upset.amount).foldl (· + ·) 0

/-! ## SCACC (03 R88, 02 R46) -/

/-- One step of SCACC: a partial entry and its two scales. -/
def scaleStep (acc ent sA sB : Nat) : Nat × Flags :=
  let a := f32.decode acc
  let p := sextN 24 (ent % 2 ^ 24)
  let e := sextN 8 (ent / 2 ^ 24 % 256)
  let add (v : Num) (f : Flags) : Nat × Flags := let r := f32.out 0 0 (a.add 0 v); (r.1, r.2 ||| f)
  if e = -128 then
    match ent % 4 with
    | 0 => (acc, 0)
    | 1 => add (.inf false) 0
    | 2 => add (.inf true) 0
    | _ => add .nan 0
  else
    let x := bf16.decode sA
    let y := bf16.decode sB
    let neg := (decide (p < 0) != x.neg) != y.neg
    if x.isNan || y.isNan then add .nan fINV
    else if (x.isZero && y.isInf) || (x.isInf && y.isZero) then add .nan fINV
    else if x.isZero || y.isZero then add (.fin neg 0 0) 0
    else if x.isInf || y.isInf then if p = 0 then add .nan fINV else add (.inf neg) 0
    else add (((scaled p e).mul x).1.mul y).1 0

/-! ## BIND (02 R64, 03 R102) -/

/-- The value of a raw element of a tile type. -/
def rawNum (ty x : Nat) : Num :=
  match ty with
  | 1 => intNum (sextN 32 x)
  | 3 => f64.decode x
  | _ => f32.decode x

/-- The mix of coefficients (f32 codes) and raw values of labels, in ascending label order. -/
def mix (ty : Nat) (xs : List (Nat × Nat)) : Nat × Flags :=
  let F := if ty = 3 then f64 else f32
  xs.foldl (fun (a : Nat × Flags) x =>
    let r := F.out 0 0 ((f32.decode x.1).fma 0 (rawNum ty x.2) (F.decode a.1))
    (r.1, r.2 ||| a.2)) (F.sign true, 0)

end Sys2Proof.Machine
end

