-- ==== Sys2Proof/Machine/Matrix.lean ====
section
/-! DEFINITION. The matrix unit (03 R71 to R102; 14 R363 to R373): what each instruction checks and fixes at issue, and
what it does when it reaches the head of the unit's queue. -/
namespace Sys2Proof.Machine

/-! ## The unit -/

/-- The matrix unit of a core. -/
def State.unit (s : State) (core : Nat) : MatUnit := (s.core core).mat

/-- Changes a matrix unit. -/
def State.modUnit (s : State) (core : Nat) (f : MatUnit → MatUnit) : State :=
  s.modCore core fun C => { C with mat := f C.mat }

/-- A label map as MACQ leaves it. -/
def noLabels : List Nat := List.replicate 16 0

/-- The type and label map of a tile as the queued instructions will leave them. -/
def MatUnit.planOf (U : MatUnit) (t : Nat) : Nat × List Nat := U.plan.get (0, noLabels) t

/-- The slots of a tile type (03 R99). -/
def slotsOf (ty : Nat) : Nat := if ty = 3 then 2 else 4

/-- An element of a slot of a tile; an f64 element takes two slots (03 R76). -/
def Tile.el (T : Tile) (slot i j : Nat) : Nat :=
  let w (k : Nat) : Nat := (T.v.get 0 ((k * 32 + i) * 64 + j)).toNat
  if T.ty = 3 then w (2 * slot) + 2 ^ 32 * w (2 * slot + 1) else w slot

/-- Writes an element; the sums follow (03 R98). -/
def Tile.setEl (T : Tile) (slot i j x : Nat) : Tile :=
  let put (v : Tab Word) (k y : Nat) : Tab Word := v.set 0 ((k * 32 + i) * 64 + j) (BitVec.ofNat 32 y)
  if T.ty = 3 then { T with v := put (put T.v (2 * slot) x) (2 * slot + 1) (x / 2 ^ 32) } else { T with v := put T.v slot x }

/-- The rows and columns of a tile. -/
def cells (rows : List Nat) : List (Nat × Nat) := rows.flatMap fun i => (List.range 64).map fun j => (i, j)

/-- A tile of a unit. -/
def MatUnit.tile (U : MatUnit) (t : Nat) : Tile := U.tiles.get {} t

/-- Changes a tile of a unit. -/
def MatUnit.modTile (U : MatUnit) (t : Nat) (f : Tile → Tile) : MatUnit := { U with tiles := U.tiles.put t (f (U.tile t)) }

/-- The entry of a label in a map. -/
def labelAt (m : List Nat) (l : Nat) : Nat := m.getD l 0

/-! ## Verification of tiles (03 R98) -/

/-- Verifies the units of a tile that belong to some slots: none for CKSUM; how many units were repaired. -/
def Tile.verify (T : Tile) (slots : List Nat) : Option (Nat × Tile) :=
  (slots.flatMap fun k => [2 * k, 2 * k + 1]).foldl (fun r u => r.bind fun (x : Nat × Tile) =>
    match verdict (deltas x.2.skew u) with
    | .clean => some x
    | .sum => some (x.1 + 1, { x.2 with skew := mended x.2.skew u })
    | .word i c d =>
      let k := (u / 2 * 32 + i) * 64 + 32 * (u % 2) + c
      some (x.1 + 1, { x.2 with skew := mended x.2.skew u, v := x.2.v.set 0 k (x.2.v.get 0 k - d) })
    | .bad => none) (some (0, T))

/-- The slots of storage of a logical slot. -/
def storage (ty slot : Nat) : List Nat := if ty = 3 then [2 * slot, 2 * slot + 1] else [slot]

/-- Verifies units of a tile of a core: whether any was repaired; each that was counts (03 Table 3.6). -/
def State.verifyUnit (s : State) (core t : Nat) (slots : List Nat) : Option (Bool × State) :=
  (((s.unit core).tile t).verify slots).map fun r =>
    let s1 := s.modUnit core fun U => if U.tiles.find t = none then U else U.modTile t fun _ => r.2
    (decide (r.1 ≠ 0), if r.1 ≠ 0 then s1.corrected core r.1 else s1)

/-! ## Label mapping (03 R99, R100) -/

/-- Maps labels of a tile, in ascending order: the new map and what is to be done; none for SLOTFULL. `own` are all the
labels the instruction needs. -/
def mapLabels (t slots : Nat) (spill : Bool) (own : List Nat) : List Nat → List Nat → Option (List Nat × List SlotAct)
  | [], m => some (m, [])
  | l :: r, m =>
    let x := labelAt m l
    if x ≠ 0 && x ≠ 15 then mapLabels t slots spill own r m
    else
      let back (k : Nat) : SlotAct := if x = 15 then .reload t l k else .clear t k
      match (List.range slots).find? fun k => !m.contains (k + 1) with
      | some k => (mapLabels t slots spill own r (m.set l (k + 1))).map fun y => (y.1, back k :: y.2)
      | none =>
        match (List.range 16).find? fun v => labelAt m v ≠ 0 && labelAt m v ≠ 15 && !own.contains v with
        | some v =>
          if !spill then none
          else
            let k := labelAt m v - 1
            (mapLabels t slots spill own r ((m.set v 15).set l (k + 1))).map fun y => (y.1, .spill t v k :: back k :: y.2)
        | none => none

/-- The labels an action moves to or from the spill region. -/
def SlotAct.offset (size : Nat) : SlotAct → Nat
  | .spill t l _ => (16 * t + l + 1) * size
  | .reload t l _ => (16 * t + l + 1) * size
  | .clear _ _ => 0

/-- What mapping an instruction's labels over several tiles answers: the new plans and the actions, or a fault. -/
def MatUnit.mapTiles (U : MatUnit) (ty : Nat) (tiles labels : List Nat) :
    Except Raise (List (Nat × Nat × List Nat) × List SlotAct) :=
  let size := if ty = 3 then 16384 else 8192
  match tiles.foldl (fun r t => r.bind fun (x : List (Nat × Nat × List Nat) × List SlotAct) =>
      (mapLabels t (slotsOf ty) U.spill.isSome labels labels (U.planOf t).2).map fun y =>
        (x.1 ++ [(t, ty, y.1)], x.2 ++ y.2)) (some ([], [])) with
  | none => .error ⟨0x0B, 0, 0⟩
  | some r =>
    if labels.length > slotsOf ty then .error ⟨0x0B, 0, 0⟩
    else if r.2.any fun a => decide (a.offset size > (U.spill.getD {}).size) then .error ⟨0x06, 0, 0⟩
    else .ok r

/-- Takes over new plans. -/
def MatUnit.takePlans (U : MatUnit) (ps : List (Nat × Nat × List Nat)) : MatUnit :=
  { U with plan := ps.foldl (fun m p => m.put p.1 p.2) U.plan }

/-! ## The spill region (03 R101) -/

/-- Where an element of a label of a tile lies in the spill region. -/
def spillOff (ty t l i j : Nat) : Nat :=
  if ty = 3 then (16 * t + l) * 16384 + 512 * i + 8 * j else (16 * t + l) * 8192 + 256 * i + 4 * j

/-- Writes bytes of a slice or a bulk region at their home; none where a page is absent. -/
def State.putHome (s : State) (core b : Nat) (p : Space × Nat) (bs : List Byte) : Option State :=
  match p.1 with
  | .slice => some (s.sliceStore b p.2 bs)
  | .bulk => (s.keyWrite core b p.2 bs).map fun s1 => s1.invalidate core fun k => p.2 ≤ k && decide (k < p.2 + bs.length)

/-- How an execution goes: on, not yet (a page is absent), or an error to contain, from the state in which it was met (14
R350). -/
inductive Exe (α : Type) where
  | ok (x : α)
  | wait (s : State)
  | bad (s : State) (code detail : Nat)

/-- Chains executions. -/
def Exe.bind {α β : Type} (x : Exe α) (f : α → Exe β) : Exe β :=
  match x with
  | .ok a => f a
  | .wait s => .wait s
  | .bad s c d => .bad s c d

/-- An execution of each of a list in turn. -/
def Exe.each {α : Type} (f : State → α → Exe State) : List α → State → Exe State
  | [], s => .ok s
  | x :: r, s => (f s x).bind fun s1 => Exe.each f r s1

/-- The bytes of an element of a tile type. -/
def elBytes (ty : Nat) : Nat := if ty = 3 then 8 else 4

/-- Reads a label from the spill region, by row and column (03 R101): poison is met as in any source (08 R216). -/
def State.readSpill (s : State) (core part ty t l : Nat) : Exe (List Nat × State) :=
  let z := elBytes ty
  let p := s.placeOf part ((s.unit core).spill.getD {}) (spillOff ty t l 0 0)
  if s.engPoisoned true core p (2048 * z) then .bad s 0x16 0
  else match s.engRead true core p (2048 * z) with
    | none => .wait s
    | some y => .ok ((List.range 2048).map fun k => leNat ((y.1.drop (z * k)).take z), y.2)

/-- Writes a label to the spill region. -/
def State.writeSpill (s : State) (core part b ty t l : Nat) (xs : List Nat) : Option State :=
  s.putHome core b (s.placeOf part ((s.unit core).spill.getD {}) (spillOff ty t l 0 0)) (xs.flatMap (leBytes (elBytes ty)))

/-- Sum `i` of a unit of a tile, as its data has it: rows first, then columns (03 R98). -/
def Tile.unitSum (T : Tile) (u i : Nat) : Word :=
  let w (r c : Nat) : Word := T.v.get 0 ((u / 2 * 32 + r) * 64 + 32 * (u % 2) + c)
  lanes32.foldl (fun x j => x + if i < 32 then w i j else w j (i - 32)) 0

/-- The number of units a label of a tile type takes. -/
def unitsFor (ty : Nat) : Nat := if ty = 3 then 4 else 2

/-- The first unit of a logical slot. -/
def firstUnit (ty slot : Nat) : Nat := unitsFor ty * slot

/-- Where a sum of a spilled label is kept. -/
def spillKey (t l u i : Nat) : Nat := (4 * (16 * t + l) + u) * 64 + i

/-- The units and sums of a label. -/
def labelSums (ty : Nat) : List (Nat × Nat) := (List.range (unitsFor ty)).flatMap fun u => (List.range 64).map fun i => (u, i)

/-- The elements of a slot, row by row. -/
def Tile.slotVals (T : Tile) (k : Nat) : List Nat := (cells lanes32).map fun p => T.el k p.1 p.2

/-- Sets the elements of a slot, row by row. -/
def Tile.setSlot (T : Tile) (k : Nat) (xs : List Nat) : Tile :=
  ((cells lanes32).zip xs).foldl (fun T p => T.setEl k p.1.1 p.1.2 p.2) T

/-- A spilled label as a tile that holds it in slot 0, with what its sidecars are short of the values read. -/
def MatUnit.spilled (U : MatUnit) (ty t l : Nat) (xs : List Nat) : Tile :=
  let T := ({ ty := ty } : Tile).setSlot 0 xs
  { T with skew := (labelSums ty).foldl (fun m x =>
      m.set 0 (64 * x.1 + x.2) (T.unitSum x.1 x.2 - U.spillSums.get 0 (spillKey t l x.1 x.2))) [] }

/-- Keeps the sums of a label's values as its sidecars in the spill region. -/
def MatUnit.keepSums (U : MatUnit) (T : Tile) (slot t l : Nat) : MatUnit :=
  { U with spillSums := (labelSums T.ty).foldl (fun m x =>
      m.set 0 (spillKey t l x.1 x.2) (T.unitSum (firstUnit T.ty slot + x.1) x.2)) U.spillSums }

/-- A spilled label read and verified (03 R98): its values, and whether something was mended, in the region too. -/
def State.loadLabel (s : State) (core part b ty t l : Nat) : Exe (List Nat × Bool × State) :=
  (s.readSpill core part ty t l).bind fun (xs, s1) =>
    match ((s1.unit core).spilled ty t l xs).verify (storage ty 0) with
    | none => .bad s1 0x0D 0
    | some (0, _) => .ok (xs, false, s1)
    | some (n + 1, T) => match s1.writeSpill core part b ty t l (T.slotVals 0) with
      | none => .wait s
      | some s2 => .ok (T.slotVals 0, true, (s2.modUnit core fun U => U.keepSums T 0 t l).corrected core (n + 1))

/-- A slot action (03 R100). -/
def State.slotAct (core part b : Nat) (s : State) (a : SlotAct) : Exe State :=
  match a with
  | .clear t k => .ok (s.modUnit core fun U => U.modTile t fun T =>
      let T1 := T.setSlot k (List.replicate 2048 0)
      { T1 with skew := (storage T.ty k).foldl (fun m x => mended (mended m (2 * x)) (2 * x + 1)) T1.skew })
  | .spill t l k =>
    match s.verifyUnit core t (storage ((s.unit core).tile t).ty k) with
    | none => .bad s 0x0D 0
    | some (_, s1) =>
      let T := (s1.unit core).tile t
      match s1.writeSpill core part b T.ty t l (T.slotVals k) with
      | some s2 => .ok (s2.modUnit core fun U => U.keepSums T k t l)
      | none => .wait s
  | .reload t l k =>
    (s.readSpill core part ((s.unit core).tile t).ty t l).bind fun (xs, s1) =>
      .ok (s1.modUnit core fun U => U.modTile t fun T =>
        let back := (U.spilled T.ty t l xs).skew
        let T1 := T.setSlot k xs
        { T1 with skew := (labelSums T.ty).foldl (fun m x =>
            m.set 0 (64 * (firstUnit T.ty k + x.1) + x.2) (back.get 0 (64 * x.1 + x.2))) T1.skew })

/-- Prepares the tiles of an instruction: type, slot actions, map (03 R76, R100). -/
def State.prepare (s : State) (core part b ty : Nat) (plans : List (Nat × Nat × List Nat)) (acts : List SlotAct) : Exe State :=
  let s1 := s.modUnit core fun U => plans.foldl (fun U p => U.modTile p.1 fun T => { T with ty := ty }) U
  (Exe.each (State.slotAct core part b) acts s1).bind fun s2 =>
    .ok (s2.modUnit core fun U => plans.foldl (fun U p => U.modTile p.1 fun T => { T with map := p.2.2 }) U)

/-! ## Reading operands (14 R367, R368) -/

/-- The store buffer of a block. -/
def State.bufOf (s : State) (b : Nat) : Tab BufEntry := ((s.blocks.find b).map Block.buf).getD []

/-- Source bytes of a matrix instruction of a block, with what its store buffer holds in place of the home's: reads of the unit
are ordered against lane stores as loads are (03 R93, 05 R137, R160). None where a page is absent. -/
def State.matRead (s : State) (core b : Nat) (p : Space × Nat) (n : Nat) : Option (List Byte × State) :=
  (s.engRead true core p n).map fun y => (overlay (s.bufOf b) p.1 p.2 y.1, y.2)

/-- The 32 elements of a block that starts at an element of a place; none where a page is absent. -/
def State.readBlk (s : State) (core part b : Nat) (r : CapReg) (off f : Nat) : Option (List Nat × State) :=
  let w := mbits f
  (s.matRead core b (s.placeOf part r off) (4 * w)).map fun y =>
    let x := leNat y.1
    ((List.range 32).map fun k => x / 2 ^ (w * k) % 2 ^ w, y.2)

/-- The 32 weights of a cb8 block, in quarters: four codes through the table (02 R47 to R49). -/
def State.readCb (s : State) (core part b : Nat) (r tab : CapReg) (off : Nat) : Option (List Int × State) :=
  (s.matRead core b (s.placeOf part r off) 8).map fun y =>
    ((List.range 32).map fun k =>
      let code := leNat ((y.1.drop (2 * (k / 8))).take 2)
      let at' := s.capSlice tab (2 * (code / 256))
      cbWeight code (leNat (overlay (s.bufOf b) .slice at' (s.sliceRead at' 2))) (k % 8), y.2)

/-- What reading a source range does first: poison, single errors, and verification of tiles (03 R97; 08 R214, R216). -/
def State.source (s : State) (core part b : Nat) (r : CapReg) (off n : Nat) : Exe State :=
  let p := s.placeOf part r off
  if n = 0 then .ok s
  else if s.placePoison (s.bufOf b) core p.1 p.2 n then .bad s 0x16 0
  else if p.1 = .slice then match s.verifyTiles core p.2 n with
    | none => .bad s 0x0D 0
    | some (_, s1) => .ok (s1.correctSlice core p.2 n).2
  else .ok s

/-- The source bytes of MLDB. -/
def bBytes (f k n : Nat) : Nat := if f = 13 then k * n / 4 else k * n * mbits f / 8

/-- Loads a bank: quad position `p` of `q` takes its share of K (14 R367). -/
def State.loadBank (s : State) (core blk : Nat) (M : MRec) (p q : Nat) : Exe (Bank × State) :=
  let nb := 8 * M.x
  let K := 32 * nb * q
  let blocks := (List.range nb).flatMap fun b => (List.range (64 * M.y)).map fun j => (b, j)
  ((s.source core M.part blk M.src 0 (bBytes M.fmt K (64 * M.y))).bind fun s1 =>
    if M.fmt = 13 then s1.source core M.part blk M.tab 0 512 else .ok s1).bind fun s1 =>
    let r := blocks.foldl (fun (r : Option (Tab MBlk × State)) bj => r.bind fun x =>
      let k0 := 32 * (p * nb + bj.1)
      let put (m : MBlk) : Tab MBlk := x.1.put (512 * bj.1 + bj.2) m
      if M.fmt = 13 then (x.2.readCb core M.part blk M.src M.tab ((bj.2 * K + k0) / 4)).map fun y => (put (intBlk (-2) y.1), y.2)
      else (x.2.readBlk core M.part blk M.src ((bj.2 * K + k0) * mbits M.fmt / 8) M.fmt).map fun y =>
        (put (mkBlk false M.fmt y.1), y.2)) (some ([], s1))
    match r with
    | none => .wait s
    | some (cs, s2) => .ok ({ fmt := M.fmt, x := M.x, y := M.y, quad := M.quad, cols := cs, loaded := true }, s2)

/-- The units an instruction of a holder works in, by quad position: its own, or the four of the quad. -/
def quadUnits (quad : Bool) (core : Nat) : List Nat := if quad then quadCores (quadOf core) else [core]

/-! ## Issue (14 R350) -/

/-- A field of geometry: 1, 2, 4 or 8. -/
def geo (x : Nat) : Nat := 2 ^ x

/-- An instruction for the unit: the block must hold it (and all four units for a joint one), the queue must have room, and
G needs a recorded guard (03 R71, R92; 14 R366; 06 R179). -/
def matFx (joint g : Bool) (k : MatUnit → Ctx → State → Res) (c : Ctx) (s : State) : Res :=
  let U := s.unit c.blk.core
  if U.holder ≠ some c.b || (joint && !U.quad) then .trap ⟨0x03, 0, 0⟩
  else if g && U.guard.isNone then .trap ⟨0x01, 0, 11⟩
  else if U.queue.length ≥ 4 then .stall
  else k U c s

/-- A blank queue entry of the issuing split. -/
def Ctx.op (c : Ctx) (i : Instr) : MatOp :=
  { instr := i, b := c.b, t := c.t, rows := c.active, labels := [], acts := [], pc := c.sp.pc, e := c.e }

/-- Plans geometry for the units an instruction works in. -/
def State.planUnits (s : State) (c : Ctx) (joint : Bool) (f : MatUnit → MatUnit) : State :=
  (quadUnits joint c.blk.core).foldl (fun s u => s.modUnit u f) s

/-- Whether a unit that the holder of a core's unit works in is still to make its recorded loads again (08 R228). -/
def State.replaying (s : State) (core : Nat) : Bool :=
  (quadUnits (s.unit core).quad core).any fun u => (s.unit u).replay

/-- Puts an entry in the queue, with what it plans. -/
def State.enqueue (s : State) (c : Ctx) (m : MatOp) (f : MatUnit → MatUnit) : Res :=
  .done (s.modUnit c.blk.core fun U => let V := f U; { V with queue := V.queue ++ [m] })

/-- An instruction that waits until every earlier queued one has completed, and every load to be made again in the holder's
units (14 R350, 08 R228). -/
def matNow (k : MatUnit → Ctx → State → Res) (c : Ctx) (s : State) : Res :=
  matFx false false (fun U c s => if U.queue.isEmpty && !s.replaying c.blk.core then k U c s else .stall) c s

/-- The rights a source needs: tile too where it is tile-attributed (03 R96); it lies within its object too (07 R204). -/
def State.srcFault (s : State) (c : Ctx) (r : CapReg) (kinds : List Nat) (n : Nat) : Option Raise :=
  match s.capFault c r kinds 0x001#12 with
  | some e => some e
  | none =>
    if r.kind = 2 && s.tiled (s.capSlice r 0) (max 1 (min n r.size)) && !r.has 11 then some ⟨0x05, 0, 0⟩
    else if !s.inCap c.task.part r 0 n then some ⟨0x06, 0, 0⟩ else none

/-- Whether a slot action reaches the spill region. -/
def SlotAct.spills : SlotAct → Bool
  | .spill _ _ _ | .reload _ _ _ => true
  | .clear _ _ => false

/-- An instruction that reaches the recorded spill region faults where that has been revoked since (07 R201). -/
def State.spillFault (s : State) (c : Ctx) (uses : Bool) : Option Raise :=
  if uses then (s.unit c.blk.core).spill.bind fun r => s.capFault c r [1, 2] 0x003#12 else none

end Sys2Proof.Machine

namespace Sys2Proof

open Machine

/-- The label of row `i` of a product or SCACC. -/
def UW.label (f : UW) (c : Ctx) (i : Nat) : Nat := if f.lblReg then c.reg f.v i else f.lbl

/-- The tiles of a product or SCACC. -/
def UW.tiles (f : UW) : List Nat := (List.range (geo f.yc)).map (f.tile + ·)

/-- The blocks of K of a product: K/32, with K four times as long for a joint one (03 R92). -/
def UW.blocks (f : UW) (joint : Bool) : Nat := (if joint then 32 else 8) * geo f.xc

end Sys2Proof

namespace Sys2Proof.Machine

/-- A GEOM fault of the unit (14 Table 14.6). -/
def geom (cause : Nat) : Raise := ⟨0x11, 0, cause⟩

/-- Maps the labels of the active rows over the tiles of a product or SCACC: label range, tile types, slots. -/
def MatUnit.labelled (U : MatUnit) (f : UW) (c : Ctx) (ty : Nat) :
    Except Raise (List Nat × List (Nat × Nat × List Nat) × List SlotAct) :=
  let rows := lanesOf c.active
  match rows.find? fun i => f.label c i > 15 with
  | some i => .error ⟨0x11, 0, 4 + 128 * i⟩
  | none =>
    match f.tiles.find? fun t => (U.planOf t).1 ≠ 0 && (U.planOf t).1 ≠ ty with
    | some t => .error ⟨0x11, 0, 3 + 16 * t⟩
    | none =>
      if rows.isEmpty then .ok ([], [], [])
      else
        let ls := (List.range 16).filter fun l => rows.any fun i => f.label c i = l
        match U.mapTiles ty f.tiles ls with
        | .error r => .error r
        | .ok (ps, acts) => .ok (lanes32.map fun i => if c.active.getLsbD i then f.label c i else 0, ps, acts)

/-- The geometry checks of a product or SCACC (03 R77, R86). -/
def prodGeom (f : UW) (joint : Bool) : Option Raise :=
  if geo f.xc * geo f.yc * planes f.fb > 8 then some (geom 1)
  else if f.tile + geo f.yc > 8 then some (geom 2)
  else if f.mx && decide (f.f 11 6 + f.blocks joint * geo f.yc > 64) then some (geom 6)
  else none

/-- Whether the operands loaded differ from what a product names (14 R369): GEOM 7 for a joint product whose operands were
not loaded jointly, else 5. -/
def MatUnit.mismatch (U : MatUnit) (f : UW) (joint rowBuf : Bool) : Option Raise :=
  let a := U.planRow
  let b := U.planActive
  let quadOk := (!rowBuf || a.2.2.1 = joint) && b.2.2.2.1 = joint
  if joint && !quadOk then some (geom 7)
  else if !quadOk || (rowBuf && !(a.2.2.2 && a.1 = f.fa && a.2.1 = geo f.xc)) ||
      !(b.2.2.2.2 && b.1 = f.fb && b.2.1 = geo f.xc && b.2.2.1 = geo f.yc) then some (geom 5)
  else none

/-- The same for all the units of a joint product: GEOM 7 before GEOM 5. -/
def State.mismatch (s : State) (core : Nat) (f : UW) (joint rowBuf : Bool) : Option Raise :=
  let rs := (quadUnits joint core).filterMap fun u => (s.unit u).mismatch f joint rowBuf
  (rs.find? fun r => r = geom 7).orElse fun _ => rs.head?

/-- The plans an `.mx` product or one without active rows leaves are those it found. -/
def State.issueProduct (s : State) (c : Ctx) (i : Instr) (f : UW) (U : MatUnit) (joint rowBuf : Bool) (sparse : Tab MBlk) : Res :=
  match (prodGeom f joint).orElse fun _ => s.mismatch c.blk.core f joint rowBuf with
  | some e => .trap e
  | none =>
    if f.mx then s.enqueue c { c.op i with sparse := sparse } id
    else match U.labelled f c (accType f.fa) with
      | .error e => .trap e
      | .ok (ls, ps, acts) => match s.spillFault c (acts.any SlotAct.spills) with
        | some e => .trap e
        | none => s.enqueue c { c.op i with labels := ls, acts := acts, plans := ps, sparse := sparse } fun U => U.takePlans ps

/-- MMA. -/
def execMma (f : UW) (s : State) : Host.Outcome State Fault Refusal :=
  s.issueWord (.mma f) (matFx false f.g fun U c s => s.issueProduct c (.mma f) f U false true [])

/-- QMMA: all four units must be held (03 R92). -/
def execQmma (f : UW) (s : State) : Host.Outcome State Fault Refusal :=
  s.issueWord (.qmma f) (matFx true f.g fun U c s => s.issueProduct c (.qmma f) f U true true [])

/-! ### Sparse rows (03 R90, R91) -/

/-- A number in a sparse region as a block reads it: its buffered stores in place of the home's bytes (03 R93). -/
def State.sparseNat (s : State) (b : Nat) (r : CapReg) (off n : Nat) : Nat :=
  leNat (overlay (s.bufOf b) .slice (s.capSlice r off) (s.sliceRead (s.capSlice r off) n))

/-- The record of an active row: its blocks (none where a bitmap is empty), or the fault it raises. -/
def State.sparseRow (s : State) (b : Nat) (r : CapReg) (f nb i : Nat) : Except Raise (List (Option MBlk)) :=
  let rd (off n : Nat) : Nat := s.sparseNat b r off n
  let w := mbits f
  if 4 * i + 4 > r.size then .error ⟨0x06, 0, i⟩
  else
    let o := rd (4 * i) 4
    let head := 4 + 4 * nb
    if o + head > r.size then .error ⟨0x06, 0, i⟩
    else
      let n := rd o 4
      if o + head + (n * w + 7) / 8 > r.size then .error ⟨0x06, 0, i⟩
      else if o % 16 ≠ 0 then .error ⟨0x07, 0, i⟩
      else
        let bm (b : Nat) : Nat := rd (o + 4 + 4 * b) 4
        let before (b : Nat) : Nat := (List.range b).foldl (fun k x => k + popcount (BitVec.ofNat 32 (bm x))) 0
        if before nb ≠ n then .error ⟨0x0A, 0, i⟩
        else
          let vs := rd (o + head) ((n * w + 7) / 8)
          .ok ((List.range nb).map fun b =>
            if bm b = 0 then none
            else some (mkBlk true f ((List.range 32).map fun k =>
              if bit (bm b) k then
                vs / 2 ^ (w * (before b + popcount (BitVec.ofNat 32 (bm b % 2 ^ k)))) % 2 ^ w
              else 0)))

/-- Verifies the tiles that hold the directory words and the records of active rows, and looks for poison (03 R97; 08
R216): whether something was repaired. -/
def State.sparseSource (s : State) (core b : Nat) (r : CapReg) (f nb : Nat) (rows : List Nat) : Except Nat (Bool × State) :=
  let one (x : Except Nat (Bool × State)) (off n : Nat) : Except Nat (Bool × State) := match x with
    | .error k => .error k
    | .ok (fixed, s) =>
      if off + n > r.size then .ok (fixed, s)
      else if s.placePoison (s.bufOf b) core .slice (s.capSlice r off) n then .error 0x16
      else match s.verifyTiles core (s.capSlice r off) n with
        | none => .error 0x0D
        | some y =>
          let z := y.2.correctSlice core (s.capSlice r off) n
          .ok (fixed || y.1 || z.1, z.2)
  let word (x : Except Nat (Bool × State)) (off : Nat) : Nat := match x with
    | .error _ => 0
    | .ok y => y.2.sparseNat b r off 4
  rows.foldl (fun x i =>
    let x1 := one x (4 * i) 4
    let o := word x1 (4 * i)
    let x2 := one x1 o (4 + 4 * nb)
    one x2 (o + 4 + 4 * nb) ((word x2 o * mbits f + 7) / 8)) (.ok (false, s))

/-- Validates the active rows of an MMAS from a row on, after the blocks `t` of those before: the blocks of all of them, or the
fault of the lowest row that has one. -/
def State.sparseRows (s : State) (c : Ctx) (r : CapReg) (f nb : Nat) (t : Tab MBlk) (rows : List Nat) : Except Raise (Tab MBlk) :=
  rows.foldl (fun (x : Except Raise (Tab MBlk)) i => match x with
    | .error e => .error e
    | .ok t => match s.sparseRow c.b r f nb i with
      | .error e => .error e
      | .ok bs => .ok ((bs.zip (List.range nb)).foldl (fun t p => match p.1 with
        | some m => if (t.find (32 * p.2 + i)).isSome then t else t.put (32 * p.2 + i) m
        | none => t) t)) (.ok t)

/-- The validation of this word that a halt has stopped, if there is one (03 R94): its step and blocks. -/
def MatUnit.resumed (U : MatUnit) (c : Ctx) : Option ((Nat × Nat) × Tab MBlk) :=
  (U.valid.filter fun v => v.b = c.b && v.t = c.t && v.e = c.e && v.pc = c.sp.pc).map fun v => (v.step, v.sparse)

/-- While a partition is being halted the validation of an MMAS may stop at a step, (row, block): what it has validated stays,
and the word, which has not issued, goes on from there (03 R94). -/
def State.stopValid (s : State) (c : Ctx) (nb : Nat) (lo : Nat × Nat) (rows : List Nat) (t : Tab MBlk) : Option State :=
  let x := Config.matStep s.tick c.blk.core
  let hi := (x.1 % 32, x.2.1 % nb)
  if !s.halting c.task.part || !rows.any (fun i => decide (hi.1 ≤ i)) ||
      decide (hi.1 < lo.1) || (hi.1 = lo.1 && decide (hi.2 < lo.2)) then none
  else some (s.modUnit c.blk.core fun U => { U with valid := some ⟨c.b, c.t, c.e, c.sp.pc, hi,
    t.filter fun p => decide (p.1 % 32 < hi.1) || (p.1 % 32 = hi.1 && decide (p.1 / 32 < hi.2))⟩ })

/-- MMAS: the split is held until the rows are validated, so the queue is empty when they are read. -/
def execMmas (f : UW) (s : State) : Host.Outcome State Fault Refusal :=
  s.issueWord (.mmas f) (matFx false f.g fun U c s =>
    let r := c.cap f.cN
    let nb := 8 * geo f.xc
    let fault := if r.kind = 2 && !s.allTiles (s.capSlice r 0) 1 then some ⟨0x04, 0, 0⟩
      else s.capFault c r [2] 0x801#12
    match (prodGeom f false).orElse fun _ => s.mismatch c.blk.core f false false with
    | some e => .trap e
    | none =>
      match fault with
      | some e => .trap e
      | none =>
        if !U.queue.isEmpty then .stall
        else if c.active = 0 then s.issueProduct c (.mmas f) f U false false []
        else
          let (lo, before) := (U.resumed c).getD ((0, 0), [])
          let rows := (lanesOf c.active).filter fun i => decide (lo.1 ≤ i)
          match s.sparseSource c.blk.core c.b r f.fa nb rows with
          | .error k => .trap ⟨k, 0, 0⟩
          | .ok (fixed, s1) =>
            let s2 := if fixed then s1.raise c fCOR else s1
            match s1.sparseRows c r f.fa nb before rows with
            | .error e => .trap e
            | .ok t => match s2.stopValid c nb lo rows t with
              | some s3 => .park s3
              | none => (s2.modUnit c.blk.core fun U => { U with valid := none }).issueProduct c (.mmas f) f U false false t)

/-! ### Loads of operands -/

/-- MLDB. -/
def execMldb (f : UW) (s : State) : Host.Outcome State Fault Refusal :=
  s.issueWord (.mldb f) (matFx f.top false fun _ c s =>
    let r := c.cap f.cN
    let t := c.cap f.cQ
    let K := (if f.top then 1024 else 256) * geo f.xc
    if geo f.xc * geo f.yc * planes f.fb > 8 then .trap (geom 1)
    else match (s.srcFault c r [1, 2] (bBytes f.fb K (64 * geo f.yc))).orElse fun _ =>
        if f.fb = 13 then s.srcFault c t [2] 512 else none with
    | some e => .trap e
    | none => (s.planUnits c f.top fun U => { U with planLoading := (f.fb, geo f.xc, geo f.yc, f.top, true) }).enqueue c
        { c.op (.mldb f) with src := r, src2 := t } id)

/-- MBSW. -/
def execMbsw (f : UW) (s : State) : Host.Outcome State Fault Refusal :=
  s.issueWord (.mbsw f) (matFx f.top false fun _ c s =>
    (s.planUnits c f.top fun U => { U with planActive := U.planLoading, planLoading := U.planActive }).enqueue c
      (c.op (.mbsw f)) id)

/-- MLDA. -/
def execMlda (f : UW) (s : State) : Host.Outcome State Fault Refusal :=
  s.issueWord (.mlda f) (matFx f.top false fun _ c s =>
    let r := c.cap f.cN
    let n := (if f.top then 1024 else 256) * geo f.xc * mbits f.fa / 8
    let at' (i : Nat) : Nat := c.reg f.v i
    let rows := lanesOf c.active
    let tiled := rows.any fun i => r.kind = 2 && s.tiled (s.capSlice r (at' i)) n
    if 256 * geo f.xc * windowA f.fa > 24576 then .trap (geom 8)
    else match s.capFault c r [1, 2] 0x001#12 with
    | some e => .trap e
    | none =>
      if tiled && !r.has 11 then .trap ⟨0x05, 0, 0⟩
      else match rows.find? fun i => !s.inCap c.task.part r (at' i) n with
        | some i => .trap ⟨0x06, i, 0⟩
        | none => match rows.find? fun i => at' i % 16 ≠ 0 with
          | some i => .trap ⟨0x07, i, 0⟩
          | none =>
            (s.planUnits c f.top fun U => { U with planRow := (f.fa, geo f.xc, f.top, true) }).enqueue c
              { c.op (.mlda f) with src := r, addrs := lanes32.map at' } id)

/-! ### SCACC, MWR, MCLR -/

/-- SCACC. -/
def execScacc (f : UW) (s : State) : Host.Outcome State Fault Refusal :=
  s.issueWord (.scacc f) (matFx false f.g fun U c s =>
    let a := c.cap f.cN
    let b := c.cap f.cQ
    let nb := 8 * geo f.xc
    match prodGeom f false with
    | some e => .trap e
    | none => match (s.srcFault c a [1, 2] (64 * nb)).orElse fun _ => s.srcFault c b [1, 2] (128 * geo f.yc * nb) with
      | some e => .trap e
      | none => match U.labelled f c 2 with
        | .error e => .trap e
        | .ok (ls, ps, acts) => match s.spillFault c (acts.any SlotAct.spills) with
          | some e => .trap e
          | none => s.enqueue c { c.op (.scacc f) with src := a, src2 := b, labels := ls, acts := acts, plans := ps } fun U => U.takePlans ps)

/-- MWR. -/
def execMwr (f : UW) (s : State) : Host.Outcome State Fault Refusal :=
  s.issueWord (.mwr f) (matFx false false fun U c s =>
    let ty := f.xc + 1
    let p := U.planOf f.tile
    if p.1 ≠ 0 && p.1 ≠ ty then .trap ⟨0x11, 0, 3 + 16 * f.tile⟩
    else match U.mapTiles ty [f.tile] [f.lbl] with
      | .error e => .trap e
      | .ok (ps, acts) => match s.spillFault c (acts.any SlotAct.spills) with
        | some e => .trap e
        | none => s.enqueue c { c.op (.mwr f) with acts := acts, plans := ps, addrs := lanes32.map fun i => c.regs (ty = 3) f.v i } fun U =>
          U.takePlans ps)

/-- MCLR. -/
def execMclr (f : UW) (s : State) : Host.Outcome State Fault Refusal :=
  s.issueWord (.mclr f) (matFx false false fun _ c s =>
    s.enqueue c (c.op (.mclr f)) fun U => { U with plan := U.plan.put f.tile (0, noLabels) })

/-! ### MRD, SLRD -/

/-- A label's raw elements: from its slot, verified from the spill region, or +0 where it is unused; and whether something
was mended. -/
def State.labelVals (s : State) (core part b t l : Nat) : Exe (List Nat × Bool × State) :=
  let T := (s.unit core).tile t
  match labelAt T.map l with
  | 0 => .ok (List.replicate 2048 0, false, s)
  | 15 => s.loadLabel core part b T.ty t l
  | k + 1 => .ok (T.slotVals k, false, s)

/-- MRD: it waits for the queue, verifies the tile and reads one column of a label. -/
def execMrd (f : UW) (s : State) : Host.Outcome State Fault Refusal :=
  s.issueWord (.mrd f) (matNow fun U c s =>
    let pair := (U.tile f.tile).ty = 3
    if pair && (f.v % 2 = 1 || decide (f.v + 2 > c.nregs)) then .trap ⟨0x01, 0, 5⟩
    else match s.verifyUnit c.blk.core f.tile [0, 1, 2, 3] with
      | none => .trap ⟨0x0D, 0, 0⟩
      | some (fixed, s1) => match s1.spillFault c (labelAt (U.tile f.tile).map f.lbl = 15) with
        | some e => .trap e
        | none => match s1.labelVals c.blk.core c.task.part c.b f.tile f.lbl with
          | .wait _ => .stall
          | .bad _ k d => .trap ⟨k, 0, d⟩
          | .ok (xs, fixed', s2) =>
            .done ((if fixed || fixed' then s2.raise c fCOR else s2).onTrp c fun T =>
              T.setVs pair f.v c.active fun i => xs.getD (64 * i + f.col) 0))

/-- SLRD: the label map, four bits a label. -/
def execSlrd (f : UW) (s : State) : Host.Outcome State Fault Refusal :=
  s.issueWord (.slrd f) (matNow fun _ c s =>
    match s.verifyUnit c.blk.core f.tile [0, 1, 2, 3] with
    | none => .trap ⟨0x0D, 0, 0⟩
    | some (fixed, s1) =>
      let m := ((s1.unit c.blk.core).tile f.tile).map
      let x := (List.range 16).foldl (fun x l => x + labelAt m l * 2 ^ (4 * l)) 0
      .done ((if fixed then s1.raise c fCOR else s1).setS c f.d (BitVec.ofNat 64 x)))

/-! ### BIND, SLFL (14 R372, R373) -/

/-- The checks of a destination of BIND or SLFL: kind, with the attribution of every tile of it (07 R196), validity, rights and
the rest. -/
def State.dstFault (s : State) (c : Ctx) (r : CapReg) (n : Nat) : Option Raise :=
  if r.kind = 2 && !s.allTiles (s.capSlice r 0) (max 1 (min n r.size)) then some ⟨0x04, 0, 0⟩
  else match s.capFault c r [2] 0x000#12 with
  | some e => some e
  | none =>
    if r.rights &&& 0x802#12 != 0x802#12 then some ⟨0x05, 0, 0⟩
    else if n > r.size then some ⟨0x06, 0, 0⟩
    else if s.capSlice r 0 % 4096 ≠ 0 then some ⟨0x07, 0, 0⟩
    else if s.guarded (s.capSlice r 0) n then some ⟨0x05, 0, 0⟩ else none

/-- The bytes of a mix or a flush. -/
def mixBytes (ty : Nat) : Nat := if ty = 3 then 16384 else 8192

/-- BIND: it ends the relaunch window. -/
def execBind (f : UW) (s : State) : Host.Outcome State Fault Refusal :=
  s.issueWord (.bind f) (matFx false f.g fun U c s =>
    let d := c.cap f.cN
    let k := c.cap f.cQ
    let ty := (U.planOf f.tile).1
    match ((s.dstFault c d (mixBytes ty)).orElse fun _ => s.srcFault c k [2] 2048).orElse fun _ =>
        s.spillFault c ((U.planOf f.tile).2.contains 15) with
    | some e => .trap e
    | none =>
      if ty = 0 then .trap ⟨0x11, 0, 3 + 16 * f.tile⟩
      else (s.expose c).enqueue c { c.op (.bind f) with src := d, src2 := k } id)

/-- SLFL: it ends the relaunch window. -/
def execSlfl (f : UW) (s : State) : Host.Outcome State Fault Refusal :=
  s.issueWord (.slfl f) (matFx false f.g fun U c s =>
    let d := c.cap f.cN
    let p := U.planOf f.tile
    match (s.dstFault c d (mixBytes p.1)).orElse fun _ => s.spillFault c (labelAt p.2 f.lbl = 15) with
    | some e => .trap e
    | none => (s.expose c).enqueue c { c.op (.slfl f) with src := d } fun U =>
        { U with plan := U.plan.put f.tile (p.1, p.2.set f.lbl 0) })

/-! ### MACQ, MREL (14 R365, 06 R184) -/

/-- The default spill region of the launch (10 Table 10.10): the capability of its table entry, and whether the entry is
valid. -/
def State.defaultSpill (s : State) (K : Task) : Option (CapReg × Bool) :=
  K.launch.spill.map fun i =>
    let x := s.tabEntry K i
    let r : CapReg := { bits := BitVec.ofNat 128 x, tag := some i }
    (r, bit x 128 && r.wellFormed && s.capOwned K.part r)

/-- The checks of a spill region (14 R365): kind, validity, rights; a system structure takes no spill of an unprivileged task
(07 R191). -/
def State.regionFault (s : State) (c : Ctx) (r : CapReg × Bool) : Option Raise :=
  if (r.1.kind = 1 || r.1.kind = 2) && !r.2 then some ⟨0x03, 0, 0⟩
  else (s.capFault c r.1 [1, 2] 0x003#12).orElse fun _ =>
    if r.1.kind = 1 && (s.obj c.task.part r.1.obj).t && !c.task.launch.prv then some ⟨0x05, 0, 0⟩ else none

/-- MACQ: the request goes to the line of the unit, or of the four of the quad; the split waits for MACQ_GRANT. -/
def execMacq (f : UW) (s : State) : Host.Outcome State Fault Refusal :=
  s.issueWord (.macq f) fun c s =>
    let spill := if f.bit 7 then some (c.cap f.cN, true) else s.defaultSpill c.task
    let guard := if f.bit 6 then some (c.cap f.cG) else none
    if (s.unit c.blk.core).holder = some c.b then .trap ⟨0x01, 0, 11⟩
    else match (spill.bind fun r => s.regionFault c r).orElse fun _ =>
        guard.bind fun r => s.guardFault c r 0x008#12 with
      | some e => .trap e
      | none =>
        let q : MReq := ⟨c.b, c.t, c.e, f.top, spill.map Prod.fst, guard⟩
        .went (((quadUnits f.top c.blk.core).foldl (fun s u => s.modUnit u fun U => { U with requests := U.requests ++ [q] }) s).onSplit
          c fun S => { S with wait := .macq, only := none })

/-- MREL. -/
def execMrel (f : UW) (s : State) : Host.Outcome State Fault Refusal :=
  s.issueWord (.mrel f) (matNow fun U c s =>
    .done ((quadUnits U.quad c.blk.core).foldl (fun s u => s.modUnit u MatUnit.release) s))

/-- Whether the request at the head of a core's line can be granted: its units are free and it is first in all their
lines. -/
def State.mayGrant (s : State) (core : Nat) (q : MReq) : Bool :=
  (quadUnits q.quad core).all fun u => (s.unit u).holder.isNone && (s.unit u).requests.head? = some q

/-- MACQ_GRANT: the units are cleared and held, and the split goes on. -/
def execMacqGrant (core : Nat) (s : State) : Host.Outcome State Fault Refusal :=
  match (s.unit core).requests with
  | [] => .next s
  | q :: _ =>
    match s.blocks.find q.b with
    | none => .next (s.modUnit core fun U => { U with requests := U.requests.drop 1 })
    | some B =>
      if !s.mayGrant core q then .next s
      else .next (((quadUnits q.quad core).foldl (fun s u => s.modUnit u fun U =>
          { ({} : MatUnit) with requests := U.requests.drop 1, upset := U.upset, holder := some q.b, quad := q.quad,
                                lead := B.core, spill := q.spill, guard := q.guard }) s).modSplit q.b q.t q.e fun S =>
          if S.wait = .macq then { S with wait := .ready, pc := S.pc + 2 } else S)

/-! ## Execution -/

/-- The accumulators of an instruction: row, column, tile and slot. -/
def MatUnit.places (U : MatUnit) (rows labels : List Nat) (base y : Nat) : List (Nat × Nat × Nat × Nat) :=
  rows.flatMap fun i => (List.range (64 * y)).map fun j =>
    (i, j, base + j / 64, labelAt (U.tile (base + j / 64)).map (labels.getD i 0) - 1)

/-- Whether a step lies before another (03 R94). -/
def stepBefore (a b : Nat × Nat × Nat) : Bool :=
  decide (a.1 < b.1) || (a.1 = b.1 && (decide (a.2.1 < b.2.1) || (a.2.1 = b.2.1 && decide (a.2.2 < b.2.2))))

/-- The steps of an instruction that the unit takes: from where the step counter stands, up to a halt (03 R94). -/
structure Span where
  lo : Nat × Nat × Nat := (0, 0, 0)
  hi : Option (Nat × Nat × Nat) := none
  deriving DecidableEq, Repr

/-- Whether a step is among them. -/
def Span.has (w : Span) (x : Nat × Nat × Nat) : Bool := !stepBefore x w.lo && w.hi.all fun h => stepBefore x h

/-- Whether a block of a product is folded in them: once its last row and bit are done. -/
def Span.folds (w : Span) (b : Nat) : Bool := decide (w.lo.1 ≤ b) && w.hi.all fun h => decide (b < h.1)

/-- What a product takes: for each global block, its number, the unit it lies in, its local number, and the outcome of its
check. -/
structure ProdBlk where
  glob : Nat
  pos : Nat
  blk : Nat
  chk : Check

/-- Operand blocks of a product: A of a row (none: the block of a sparse row is empty), B of a column. -/
def State.opA (s : State) (units : List Nat) (sparse : Option (Tab MBlk)) (pos blk i : Nat) : Option MBlk :=
  match sparse with
  | some t => t.find (32 * blk + i)
  | none => some ((s.unit (units.getD pos 0)).rowBuf.rows.get (intBlk 0 (List.replicate 32 0)) (32 * blk + i))

/-- B of a column. -/
def State.opB (s : State) (units : List Nat) (pos blk j : Nat) : MBlk :=
  (s.unit (units.getD pos 0)).active.cols.get (intBlk 0 (List.replicate 32 0)) (512 * blk + j)

/-- The blocks of a product with their checks. One that every active row skips is not checked (03 R90). -/
def State.prodBlks (s : State) (units : List Nat) (sparse : Option (Tab MBlk)) (rows : List Nat) (x cols : Nat) (on : Bool) :
    List ProdBlk :=
  let all := (List.range units.length).flatMap fun p => (List.range (8 * x)).map fun b => (p, b)
  all.map fun pb =>
    let spA (i : Nat) : Bool := match s.opA units sparse pb.1 pb.2 i with
      | none => true
      | some m => m.special
    let used := rows.any fun i => (s.opA units sparse pb.1 pb.2 i).isSome
    let us := (s.unit (units.getD pb.1 0)).upset.filter fun u =>
      used && u.block = pb.2 && (u.row = 32 || (rows.contains u.row && (!on || !spA u.row))) &&
        (u.col = 512 || (decide (u.col < cols) && (!on || !(s.opB units pb.1 pb.2 u.col).special)))
    ⟨pb.1 * (8 * x) + pb.2, pb.1, pb.2, checkBlk on us⟩

/-- Whether operands of a used block raise TRN, and whether a block is special (03 R73, R82). -/
def State.prodFlags (s : State) (units : List Nat) (sparse : Option (Tab MBlk)) (rows : List Nat) (cols : Nat) (bs : List ProdBlk) :
    Flags :=
  bs.foldl (fun f pb =>
    let as := rows.filterMap fun i => s.opA units sparse pb.pos pb.blk i
    if as.isEmpty then f
    else
      let ms := as ++ (List.range cols).map fun j => s.opB units pb.pos pb.blk j
      f ||| flagIf (ms.any MBlk.trn) fTRN ||| flagIf (ms.any MBlk.special) (fSPEC ||| fVOID)) 0

/-- ORs the flags of a completed instruction into the troupe that issued it, or, once it has ended, into its block's (02
R66, 14 R350). -/
def State.lateFlags (s : State) (b t : Nat) (f : Flags) : State :=
  match s.trp? b t with
  | some _ => s.modTrp b t fun T => T.both fun T => { T with regs := { T.regs with nf := T.regs.nf ||| (f &&& 0x03FF#16) } }
  | none => s.modBlk b fun B => { B with nf := B.nf ||| (f &&& 0x03FF#16) }

/-- Whether a block's check fails. -/
def ProdBlk.fails (b : ProdBlk) : Bool := b.chk = .fail

/-- Whether a block was corrected. -/
def ProdBlk.fixed (b : ProdBlk) : Bool := match b.chk with
  | .fold x _ => x
  | .fail => false

/-- The errors a block's partials keep. -/
def ProdBlk.left (b : ProdBlk) : List Upset := match b.chk with
  | .fold _ l => l
  | .fail => []

/-- The corrections of a product count at the core whose blocks they were, and the errors met are gone (03 R84, R92). -/
def State.settleBlks (s : State) (units : List Nat) (bs : List ProdBlk) : State :=
  (units.zip (List.range units.length)).foldl (fun s u =>
    let mine := bs.filter fun b => b.pos = u.2
    let n := mine.countP ProdBlk.fixed
    let s1 := s.modUnit u.1 fun U => { U with upset := U.upset.filter fun e => !mine.any fun b => b.blk = e.block }
    if n = 0 then s1 else s1.corrected u.1 n) s

/-- A product over the blocks of a span (03 R78 to R86, R92): the state, flags, or the error to contain, from the state in which
every block before the failing one has been folded. -/
def State.runProduct (s : State) (core part : Nat) (m : MatOp) (f : UW) (joint : Bool) (sparse : Option (Tab MBlk)) (on : Bool)
    (w : Span) : Exe (State × Flags) :=
  let rows := lanesOf m.rows
  if rows.isEmpty then .ok (s, 0)
  else
    let units := quadUnits joint core
    let y := geo f.yc
    let cols := 64 * y
    let ty := accType f.fa
    let prep := if f.mx || w.lo.1 ≠ 0 then .ok s else s.prepare core part m.b ty m.plans m.acts
    prep.bind fun s1 =>
      let all := (s1.prodBlks units sparse rows (geo f.xc) cols on).filter fun b => w.folds b.glob
      let bs := all.takeWhile fun b => !b.fails
      let con (b : ProdBlk) (i j : Nat) : Contrib :=
        contrib (s1.opA units sparse b.pos b.blk i) (s1.opB units b.pos b.blk j) (leftAt b.left i j)
      let fl := s1.prodFlags units sparse rows cols bs ||| flagIf (!on) fVOID ||| flagIf (bs.any ProdBlk.fixed) fCOR
      let s2 := s1.settleBlks units bs
      let done : State × Flags :=
        if f.mx then
          let ents := bs.flatMap fun b => lanes32.flatMap fun i => (List.range cols).map fun j =>
            ((f.f 11 6 + b.glob * y + j / 64) * 2048 + i * 64 + j % 64,
              if rows.contains i then entryOf (con b i j) else (0x80000000, 0))
          (s2.modUnit core fun U => { U with partials := ents.foldl (fun t e =>
              t.set 0x80000000#32 e.1 (BitVec.ofNat 32 e.2.1)) U.partials },
            ents.foldl (fun g e => g ||| e.2.2) fl)
        else
          let out := ((s2.unit core).places rows m.labels f.tile y).map fun p =>
            (p, bs.foldl (fun (a : Nat × Flags) b => let r := fold ty a.1 (con b p.1 p.2.1); (r.1, r.2 ||| a.2))
              (((s2.unit core).tile p.2.2.1).el p.2.2.2 p.1 (p.2.1 % 64), 0))
          (s2.modUnit core fun U => out.foldl (fun U q =>
              U.modTile q.1.2.2.1 fun T => T.setEl q.1.2.2.2 q.1.1 (q.1.2.1 % 64) q.2.1) U,
            out.foldl (fun g q => g ||| q.2.2) fl)
      match all.find? ProdBlk.fails with
      | some b => .bad done.1 0x0C (b.blk + if joint then 2 ^ 14 * b.pos else 0)
      | none => .ok done

/-- Reads the scales at some places of a scale region, each with its checks (03 R97; 08 R216). -/
def State.readScales (s : State) (core part b : Nat) (r : CapReg) : List Nat → Exe (Tab Nat × State)
  | [] => .ok ([], s)
  | k :: ks => (s.readScales core part b r ks).bind fun (t, s1) => (s1.source core part b r (2 * k) 2).bind fun s2 =>
    match s2.matRead core b (s2.placeOf part r (2 * k)) 2 with
    | none => .wait s
    | some y => .ok (t.put k (leNat y.1), y.2)

/-- Whether a partial entry is a marker, whose scales are never read (03 R87 to R89). -/
def isMarker (ent : Nat) : Bool := ent / 2 ^ 24 % 256 = 0x80

/-- SCACC over the rows and blocks of a span (03 R88): the scales of markers are not read (R89). -/
def State.runScacc (s : State) (core part : Nat) (m : MatOp) (f : UW) (w : Span) : Exe (State × Flags) :=
  let rows := lanesOf m.rows
  let nb := f.blocks false
  let y := geo f.yc
  if rows.isEmpty then .ok (s, 0)
  else
    let ent (s : State) (i j b : Nat) : Nat :=
      ((s.unit core).partials.get 0x80000000#32 ((f.f 11 6 + b * y + j / 64) * 2048 + i * 64 + j % 64)).toNat
    let cells := rows.flatMap fun i => (List.range nb).filterMap fun b => if w.has (i, b, 0) then some (i, b) else none
    let used (i b : Nat) : List Nat := (List.range (64 * y)).filter fun j => !isMarker (ent s i j b)
    let as := cells.filterMap fun x => if (used x.1 x.2).isEmpty then none else some (x.1 * nb + x.2)
    let bs := (cells.flatMap fun x => (used x.1 x.2).map fun j => j * nb + x.2).eraseDups
    (s.readScales core part m.b m.src as).bind fun (ta, s1) => (s1.readScales core part m.b m.src2 bs).bind fun (tb, s2) =>
      (if w.lo = (0, 0, 0) then s2.prepare core part m.b 2 m.plans m.acts else .ok s2).bind fun s3 =>
        let U := s3.unit core
        let out := (U.places rows m.labels f.tile y).map fun p =>
          (p, (cells.filter fun x => x.1 = p.1).foldl (fun (a : Nat × Flags) x =>
            let r := scaleStep a.1 (ent s p.1 p.2.1 x.2) (ta.get 0 (p.1 * nb + x.2)) (tb.get 0 (p.2.1 * nb + x.2))
            (r.1, r.2 ||| a.2)) ((U.tile p.2.2.1).el p.2.2.2 p.1 (p.2.1 % 64), 0))
        .ok (s3.modUnit core fun U => out.foldl (fun U q =>
            U.modTile q.1.2.2.1 fun T => T.setEl q.1.2.2.2 q.1.1 (q.1.2.1 % 64) q.2.1) U,
          out.foldl (fun g q => g ||| q.2.2) 0)

/-- The byte of an element in the layout of BIND (14 R372). -/
def mixOff (ty i j : Nat) : Nat :=
  if ty = 3 then 4096 * (j / 16) + 128 * i + 8 * (j % 16) else 4096 * (j / 32) + 128 * i + 4 * (j % 32)

/-- Writes 128 bytes of a tile: here, or in another package, where its sums are made as it lands. -/
def State.putRow (s : State) (b a : Nat) (bs : List Byte) : State :=
  if s.here a then s.sliceWrite a bs else s.send (pkgOfSlice a) b (.remade a none bs [sliceKey a / 4096])

/-- Writes rows of 64 elements in the layout of BIND at a region, and makes its sidecars (03 R96). -/
def State.putMix (s : State) (b ty : Nat) (d : CapReg) (rows : List (Nat × List Nat)) : State :=
  let a := s.capSlice d 0
  let w := if ty = 3 then 16 else 32
  let s1 := rows.foldl (fun s x => (List.range (64 / w)).foldl (fun s h =>
    s.putRow b (a + mixOff ty x.1 (w * h)) (((x.2.drop (w * h)).take w).flatMap (leBytes (elBytes ty)))) s) s
  if rows.isEmpty then s1 else (s1.tilesOf a (mixBytes ty)).foldl (fun s u => s.regenTile u) s1

/-- The values of some labels of a tile, in order, and whether something was mended. -/
def State.manyLabels (s : State) (core part b t : Nat) : List Nat → Exe (List (Nat × List Nat) × Bool × State)
  | [] => .ok ([], false, s)
  | l :: ls => (s.labelVals core part b t l).bind fun (xs, x, s1) =>
    (s1.manyLabels core part b t ls).bind fun (r, y, s2) => .ok ((l, xs) :: r, x || y, s2)

/-- BIND over the rows of a span (02 R64, 03 R102). -/
def State.runBind (s : State) (core part : Nat) (m : MatOp) (f : UW) (w : Span) : Exe (State × Flags) :=
  let rows := (lanesOf m.rows).filter fun i => w.has (f.tile, i, 0)
  if rows.isEmpty then .ok (s, 0)
  else (s.source core part m.b m.src2 0 2048).bind fun s0 => match s0.verifyUnit core f.tile [0, 1, 2, 3] with
    | none => .bad s0 0x0D 0
    | some (fixed, s1) =>
      let T := (s1.unit core).tile f.tile
      let ls := (List.range 16).filter fun l => labelAt T.map l ≠ 0
      (s1.manyLabels core part m.b f.tile ls).bind fun (vs, mended', s2) =>
        let coeff (i l : Nat) : Nat := s2.sparseNat m.b m.src2 (4 * (16 * i + l)) 4
        let out := rows.map fun i => (i, (List.range 64).map fun j =>
          mix T.ty (vs.map fun v => (coeff i v.1, v.2.getD (64 * i + j) 0)))
        .ok (s2.putMix m.b T.ty m.src (out.map fun x => (x.1, x.2.map Prod.fst)),
          out.foldl (fun g x => x.2.foldl (fun g y => g ||| y.2) g) (flagIf (fixed || mended') fCOR))

/-- SLFL (14 R373). -/
def State.runSlfl (s : State) (core part : Nat) (m : MatOp) (f : UW) : Exe (State × Flags) :=
  (s.labelVals core part m.b f.tile f.lbl).bind fun (xs, fixed, s1) =>
    let T := (s1.unit core).tile f.tile
    let s2 := s1.putMix m.b T.ty m.src (lanes32.map fun i => (i, (xs.drop (64 * i)).take 64))
    .ok (s2.modUnit core fun U => if T.map.isEmpty then U else U.modTile f.tile fun T => { T with map := T.map.set f.lbl 0 },
      flagIf fixed fCOR)

/-- MLDA (14 R368): each unit takes its share of every active row. -/
def State.runMlda (s : State) (core part : Nat) (m : MatOp) (f : UW) : Exe (State × Flags) :=
  let units := quadUnits f.top core
  let nb := 8 * geo f.xc
  let rows := lanesOf m.rows
  let n := 4 * mbits f.fa * nb * units.length
  let ver := Exe.each (fun s i => s.source core part m.b m.src (m.addrs.getD i 0) n) rows s
  ver.bind fun s1 =>
    let todo := (List.range units.length).flatMap fun p => (List.range nb).flatMap fun b => rows.map fun i => (p, b, i)
    let got := todo.foldl (fun (r : Option (List (Nat × Nat × MBlk) × State)) q => r.bind fun x =>
      (x.2.readBlk core part m.b m.src (m.addrs.getD q.2.2 0 + 4 * mbits f.fa * (q.1 * nb + q.2.1)) f.fa).map fun y =>
        (x.1 ++ [(q.1, 32 * q.2.1 + q.2.2, mkBlk true f.fa y.1)], y.2)) (some ([], s1))
    match got with
    | none => .wait s
    | some (ms, s2) =>
      .ok ((units.zip (List.range units.length)).foldl (fun s u => s.modUnit u.1 fun U => { U with rowBuf :=
        { fmt := f.fa, x := geo f.xc, quad := f.top, loaded := true,
          rows := (ms.filter fun q => q.1 = u.2).foldl (fun t q => t.put q.2.1 q.2.2) U.rowBuf.rows } }) s2, 0)

/-- MLDB (14 R367). -/
def State.runMldb (s : State) (core part : Nat) (m : MatOp) (f : UW) : Exe (State × Flags) :=
  let units := quadUnits f.top core
  let M : MRec := ⟨m.src, m.src2, f.fb, geo f.xc, geo f.yc, f.top, part⟩
  (Exe.each (fun s u => (s.loadBank core m.b M u.2 units.length).bind fun r => .ok (r.2.modUnit u.1 fun U =>
    { U with loading := r.1, recs := U.recs.put 1 M })) (units.zip (List.range units.length)) s).bind fun s1 => .ok (s1, 0)

/-- MBSW: banks and their records change places (14 R367). -/
def MatUnit.swapBanks (U : MatUnit) : MatUnit :=
  let put (t : Tab MRec) (k : Nat) (x : Option MRec) : Tab MRec := match x with
    | some r => t.put k r
    | none => t
  { U with active := U.loading, loading := U.active, recs := put (put [] 0 (U.recs.find 1)) 1 (U.recs.find 0) }

/-- MWR (14 R371). -/
def State.runMwr (s : State) (core part : Nat) (m : MatOp) (f : UW) : Exe (State × Flags) :=
  let ty := f.xc + 1
  (s.prepare core part m.b ty m.plans m.acts).bind fun s1 =>
    .ok (s1.modUnit core fun U => U.modTile f.tile fun T =>
      (lanesOf m.rows).foldl (fun T i => T.setEl (labelAt T.map f.lbl - 1) i f.col (m.addrs.getD i 0)) T, 0)

/-- What a queued instruction does, over the steps of a span where it has steps (03 R94). -/
def State.runMat (s : State) (core part : Nat) (m : MatOp) (on : Bool) (w : Span) : Exe (State × Flags) :=
  match m.instr with
  | .mldb f => s.runMldb core part m f
  | .mbsw f => .ok ((quadUnits f.top core).foldl (fun s u => s.modUnit u MatUnit.swapBanks) s, 0)
  | .mlda f => s.runMlda core part m f
  | .mma f => s.runProduct core part m f false none on w
  | .qmma f => s.runProduct core part m f true none on w
  | .mmas f => s.runProduct core part m f false (some m.sparse) on w
  | .scacc f => s.runScacc core part m f w
  | .mwr f => s.runMwr core part m f
  | .mclr f => .ok (s.modUnit core fun U => { U with tiles := U.tiles.del f.tile }, 0)
  | .bind f => s.runBind core part m f w
  | .slfl f => s.runSlfl core part m f
  | _ => .ok (s, 0)

/-- Runs the unit with the core's corrections counted apart: COR is raised where there were any (03 R97, R98). -/
def State.counting (s : State) (core : Nat) (f : State → Exe (State × Flags)) : Exe (State × Flags) :=
  let old := (s.core core).cor.toNat
  let back (s : State) : State := (s.modCore core fun C => { C with cor := BitVec.ofNat 32 old }).corrected core (s.core core).cor.toNat
  match f (s.modCore core fun C => { C with cor := 0 }) with
  | .ok (s1, fl) => .ok (back s1, fl ||| flagIf ((s1.core core).cor ≠ 0) fCOR)
  | .wait s1 => .wait (back s1)
  | .bad s1 c d => .bad (back s1) c d

/-- A free step of a queued instruction, at which a halt may find it: none where it restarts from its start (08 Table 8.3). -/
def MatOp.haltAt (m : MatOp) (x : Nat × Nat × Nat) : Option (Nat × Nat × Nat) :=
  match m.instr with
  | .mma f | .mmas f => some (x.1 % f.blocks false, x.2.1 % 32, x.2.2 % 64)
  | .qmma f => some (x.1 % f.blocks true, x.2.1 % 32, x.2.2 % 64)
  | .scacc f => some (x.1 % 32, x.2.1 % f.blocks false, 0)
  | .bind f => some (f.tile, x.2.1 % 32, 0)
  | _ => none

/-- Whether a queued instruction makes the G arrival. -/
def MatOp.g (m : MatOp) : Bool :=
  match m.instr with
  | .mma f | .qmma f | .mmas f | .scacc f | .bind f | .slfl f => f.g
  | _ => false

/-- Whether an instruction is a product: its steps go by blocks (03 R94). -/
def MatOp.products (m : MatOp) : Bool :=
  match m.instr with
  | .mma _ | .qmma _ | .mmas _ => true
  | _ => false

/-- A halt stops a core's unit at a step boundary of the instruction in progress, as far as it has come: the step counter keeps
it, with the flags raised (03 R94, 08 R225, Table 8.3). -/
def State.haltUnit (s : State) (core : Nat) : State :=
  match (s.unit core).queue with
  | [] => s
  | m :: _ =>
    match (s.blocks.find m.b).bind (fun B => s.tasks.find B.task), m.haltAt (Config.matStep s.tick core) with
    | some K, some x =>
      let lo := (s.unit core).step
      let hi := if stepBefore x lo then lo else x
      let stop (s : State) (f : Flags) : State := s.modUnit core fun U => { U with
        step := hi
        queue := match U.queue with
          | q :: r => { q with fl := q.fl ||| f } :: r
          | [] => [] }
      if s.replaying core || m.ran then s
      else if stepBefore hi (1, 0, 0) && m.products || hi = (0, 0, 0) then stop s 0
      else match s.counting core fun s => s.runMat core K.part m K.launch.ck ⟨lo, some hi⟩ with
        | .ok (s1, f) => stop s1 f
        | _ => s
    | _, _ => s

/-- The arrival of a queued instruction with G, flags first (14 R366). It leaves the block, so it ends the relaunch window: no
flag of an abandoned attempt may reach a guard (02 R68). DEDUCED (log 70): R217 does not list it. -/
def State.arriveG (s : State) (b g : Nat) (f : Flags) : State :=
  (s.arriveAt b g 1 f).modBlk b fun B => { B with window := false }

/-- The instruction at the head of the queue is done: it ORs its flags, and makes its arrival (14 R366). -/
def State.matDone (s : State) (core : Nat) (m : MatOp) : State :=
  let s2 := (s.modUnit core fun U => { U with queue := U.queue.drop 1, step := (0, 0, 0) }).lateFlags m.b m.t m.fl
  match (s2.unit core).guard with
  | some g => if m.g then s2.arriveG m.b g.at m.fl else s2
  | none => s2

/-- Whether the instruction at the head of a unit's queue has run and waits for its writes to be accepted (14 R366). -/
def State.matHeld (s : State) (core : Nat) : Bool :=
  (s.unit core).queue.head?.any fun m => m.ran && s.unacked m.b fun _ => true

/-- MATRIX_COMPLETION: the instruction at the head of the queue runs on from its step and completes, ORs its flags, with COR
where it mended something that `cor` counts (03 R97, R98), and makes its arrival once what it wrote in other packages has been
accepted there (14 R366); an error it finds is contained (14 R350, 08 R216). -/
def execMatrixCompletion (core : Nat) (s : State) : Host.Outcome State Fault Refusal :=
  match (s.unit core).queue with
  | [] => .next s
  | m :: r =>
    match (s.blocks.find m.b).bind fun B => s.tasks.find B.task with
    | none => .next (s.modUnit core fun U => { U with queue := r })
    | some K =>
      if s.replaying core || s.matHeld core then .next s
      else if m.ran then .next (s.matDone core m).tock
      else match s.counting core fun s => s.runMat core K.part m K.launch.ck ⟨(s.unit core).step, none⟩ with
        | .wait s1 => .next s1.tock
        | .bad s1 code d => .next (s1.contain m.b code d).tock
        | .ok (s1, f) =>
          let m1 := { m with fl := f ||| m.fl }
          if m.g && s1.unacked m.b (fun _ => true) then
            .next (s1.modUnit core fun U => { U with queue := { m1 with ran := true } :: r }).tock
          else .next (s1.matDone core m1).tock

/-- MLDB_REPLAY: after a swap-in the recorded loads are made again from their sources; a tile mended on the way raises COR in
the flags of the holding block (08 R228; DESIGN CHOICE, log 72). -/
def execMldbReplay (core : Nat) (s : State) : Host.Outcome State Fault Refusal :=
  let U := s.unit core
  if !U.replay then .next s
  else
    let p := if U.quad then quadPos core else 0
    let q := if U.quad then 4 else 1
    let go (s : State) := Exe.each (fun s (kr : Nat × MRec) => (s.loadBank core (U.holder.getD 0) kr.2 (if kr.2.quad then p else 0) (if kr.2.quad then q else 1)).bind
      fun r => .ok (r.2.modUnit core fun U => if kr.1 = 0 then { U with active := r.1 } else { U with loading := r.1 })) U.recs s
    match s.counting core fun s => (go s).bind fun s1 => .ok (s1, 0) with
    | .ok (s1, f) => .next ((s1.modBlk (U.holder.getD 0) fun B => { B with nf := B.nf ||| f }).modUnit core fun U =>
        { U with replay := false })
    | .wait _ => .next s.tock
    | .bad s1 code d => .next ((match U.holder with
        | some b => s1.contain b code d
        | none => s1).modUnit core fun U => { U with replay := false })

end Sys2Proof.Machine
end

