-- ==== Sys2Proof/Machine/Host.lean ====
section
/-! DEFINITION. Host, Dycor and bring-up (09): events, doorbells, management commands, SPDM, the security alarm (07 R212),
the clock, power, pre-emption and swaps (08 R225 to R228), debug (08 R229 to R232). -/
namespace Sys2Proof.Machine

/-- Changes package control. -/
def State.modCtl (s : State) (f : Ctl → Ctl) : State := { s with ctl := f s.ctl }

/-! ## Events (07 R213) -/

/-- The bytes of a record (07 Table 7.10). -/
def Event.record (e : Event) (seq : DWord) : List Byte :=
  leBytes 8 seq.toNat ++ leBytes 8 e.time.toNat ++
    leBytes 8 (e.code % 256 + e.unit % 2 ^ 11 * 2 ^ 8 + e.part % 32 * 2 ^ 19) ++ leBytes 8 e.detail

/-- Whether an event is the package's: an alarm or a link failover. -/
def Event.package (e : Event) : Bool := e.code = 6 || e.code = 7

/-- The word address of a partition's next event slot. -/
def Part.eventAt (P : Part) : Nat := P.cfg.events + 32 * (P.evFill % max P.cfg.eventCap 1)

/-- Whether the ring an event goes to has a free slot, in memory that can be written: the code of a slot that has been read is
0. -/
def State.eventRoom (s : State) (e : Event) : Bool :=
  e.package || match s.ctl.parts.find e.part with
    | none => true
    | some P => P.cfg.eventCap ≠ 0 && s.waUsable e.part P.eventAt 32 && s.waNat e.part (P.eventAt + 16) 1 = 0

/-- EVENT_RECORD: the arbiter takes the first event of a source, numbers it, and writes its record to the ring of its
partition, or to Dycor's. -/
def execEventRecord (src : Nat) (s : State) : Host.Outcome State Fault Refusal :=
  match s.ctl.events.find? fun e => e.src = src with
  | none => .next s
  | some e =>
    if !s.eventRoom e then .next s
    else
      let bs := e.record s.ctl.evSeq
      let s1 := s.modCtl fun C => { C with events := C.events.erase e, evSeq := C.evSeq + 1 }
      match e.package, s.ctl.parts.find e.part with
      | false, some P => .next ((s1.waWrite e.part P.eventAt bs).modPart e.part fun P => { P with evFill := P.evFill + 1 })
      | _, _ => .next (s1.modCtl fun C => { C with dycorRing := C.dycorRing ++ [bs] })

/-! ## Doorbells (09 R234) -/

/-- DOORBELL_WRITE: the entries up to the new tail reach the Parser; a tail behind the current one, or too far ahead of the
Parser's head, is ignored and sets E. A ring that is not set up, and a package that is not provisioned, take nothing. -/
def execDoorbellWrite (part : Nat) (sup : Bool) (v : DWord) (s : State) : Host.Outcome State Fault Refusal :=
  match s.ctl.parts.find part with
  | none => .next s
  | some P =>
    let tail := if sup then P.tailS else P.tailU
    let head := if sup then P.headS else P.headU
    let base := if sup then P.cfg.super else P.cfg.user
    let len := if sup then P.cfg.lenS else P.cfg.lenU
    let n := v.setWidth 32
    let setE (e : Bool) (P : Part) : Part := if sup then { P with errS := e } else { P with errU := e }
    if !s.up || n = tail then .next s
    else if base = 0 || s.ctl.locked || decide ((n - head).toNat < (tail - head).toNat) ||
        decide ((n - head).toNat > len) then .next (s.modPart part (setE true))
    else
      let new := (List.range (n - tail).toNat).map fun i => (⟨.ring sup (tail.toNat + i), part, sup⟩ : Pending)
      .next (s.modPart part fun P =>
        let P1 := setE false { P with queue := P.queue ++ new }
        if sup then { P1 with tailS := n } else { P1 with tailU := n })

/-! ## The security alarm (07 R212) -/

/-- The number of an alarm level. -/
def levelNo : AlarmLevel → Nat
  | .note => 1
  | .halt => 2
  | .erase => 3

/-- An alarm is raised: the highest is kept, and event 6 posted with the level. -/
def State.alarmAt (s : State) (level part : Nat) : State :=
  ((s.modCtl fun C => { C with alarm := max C.alarm level }).event 6 2047 part level).publish

/-- The matrix units of a partition's cores halt at a step boundary (03 R94). -/
def State.haltUnits (s : State) (part : Nat) : State :=
  (s.cores.keys.filter fun c => s.partOf c = some part).foldl State.haltUnit s

/-- Every core of a partition halts at an instruction boundary, its matrix unit at a step boundary: a run in progress goes back
to its first word (08 R225, 01 R36). What a PREEMPT that was halting it is answered is left to the caller. -/
def State.haltPart (s0 : State) (part : Nat) : State :=
  let s := s0.haltUnits part
  { s with blocks := s.blocks.map fun (b : Nat × Block) =>
      if ((s.tasks.find b.2.task).map Task.part) = some part then
        (b.1, { b.2 with troupes := b.2.troupes.map fun (t : Nat × Troupe) => (t.1, match t.2.run with
          | some r => t.2.abandon r.e
          | none => t.2) })
      else b }.modPart part fun P => { P with halted := true, halting := false }

/-- ERASE: no key, no slice byte and no context is left (07 Table 7.9); bring-up is entered again at its stage 5 (09 R242). -/
def State.erase (s : State) : State :=
  { s with
    blocks := []
    tasks := []
    cores := []
    graphs := []
    mem := { s.mem with slice := [], guards := [], tiles := [], skew := [], shadows := [], slicePoison := [], flips := [] }
    eng := { s.eng with
      running := [], owners := [], early := [], msgs := [], refused := [], otinv := [], late := [], gangs := [] }
    ctl := { s.ctl with
      keySlots := [], locked := true, stage := 5
      parts := s.ctl.parts.map fun (p : Nat × Part) => (p.1, { p.2 with halted := true, alarmed := true, queue := [] }) } }

/-- Dycor answers a command. -/
def State.reply (s : State) (status : Nat) : State := s.modCtl fun C => { C with replies := status :: C.replies }

/-- Dycor answers a PREEMPT that was halting a partition of those named: they are halted (09 R239). -/
def State.answerHalts (s : State) (hit : Nat → Bool) : State :=
  let s1 := if s.ctl.parts.any (fun p => hit p.1 && p.2.halting) then s.reply 0 else s
  let answered (p : Nat × Part) : Nat × Part := if hit p.1 then (p.1, { p.2 with halting := false }) else p
  s1.modCtl fun C => { C with parts := C.parts.map answered }

/-- What an alarm does. A PREEMPT still in progress on a partition it halts is answered. -/
def State.alarmFx (s : State) (level part : Nat) : State :=
  let s1 := s.alarmAt level part
  if level ≤ 1 then s1
  else
    let s2 := s1.answerHalts fun p => p = part || decide (level = 3)
    let s3 := ((s2.haltPart part).modPart part fun P => { P with alarmed := true }).modCtl fun C => { C with spdm := 0 :: C.spdm }
    if level = 2 then s3 else s3.erase.publish

/-- SECURITY_ALARM. -/
def execSecurityAlarm (level : AlarmLevel) (part : Nat) (s : State) : Host.Outcome State Fault Refusal :=
  .next (s.alarmFx (levelNo level) part)

/-! ## Management commands (09 R239) -/

/-- A command on a partition: outside a session it fails with status 3 and a NOTE (09 R238), whose event names partition 0 where
the command concerns none (DESIGN CHOICE, log 78: CAP and LINK; the spec names no partition); on a partition a HALT alarm
halted it is refused. Before bring-up is over none is taken (09 R242). -/
def State.command (s : State) (ses : Bool) (part : Option Nat) (f : State → State) : Host.Outcome State Fault Refusal :=
  if !s.up then .next s
  else if !(ses && s.ctl.session) then .next ((s.alarmAt 1 (part.getD 0)).reply 3)
  else if ((part.bind s.ctl.parts.find).map Part.alarmed).getD false then .next (s.reply 1)
  else .next (f s)

/-- A number that is a power of two. -/
def pow2 (n : Nat) : Bool := (List.range 17).any fun k => n = 2 ^ k

/-- Whether what PARTITION is to assign is no possible assignment. -/
def State.cfgBad (s : State) (c : PartCfg) : Bool :=
  decide (c.part > 15) || c.quads.any (fun q => decide (q ≥ 336)) || c.slots.any (fun k => k = 0 || decide (k ≥ 1024)) ||
    [c.lenU, c.lenS].any (fun n => !pow2 n || decide (n < 2)) || c.status = 0 || c.status % 4096 ≠ 0 ||
    s.ctl.parts.any (fun p => p.1 ≠ c.part && p.2.cfg.objtab = c.objtab) ||
    (match (({ cfg := c } : Part).cores).head? with
      | some k => c.chain / 2 ^ 22 ≠ s.ctl.pkg * 2 ^ 11 + k || c.chain % 64 ≠ 0 || decide (c.chain % 2 ^ 22 + 64 > sliceBytes)
      | none => c.chain ≠ 0)

/-- The partitions an assignment changes: the one named, and those that give up a quad or a key slot. -/
def State.changed (s : State) (c : PartCfg) : List Nat :=
  (s.ctl.parts.filter fun p => p.1 = c.part ||
    p.2.cfg.quads.any c.quads.contains || p.2.cfg.slots.any c.slots.contains).map Prod.fst

/-- Whether a partition has a resident block. -/
def State.resident (s : State) (part : Nat) : Bool :=
  s.blocks.any fun b => ((s.tasks.find b.2.task).map Task.part) = some part

/-- Clears the slice and the contexts of cores that change hands (07 R192). -/
def State.clearCores (s : State) (cs : List Nat) : State :=
  let mine (k : Nat) : Bool := cs.contains (k / 2 ^ 22)
  { s with
    cores := s.cores.filter fun c => !cs.contains c.1
    mem := { s.mem with
      slice := s.mem.slice.filter fun x => !mine x.1
      guards := s.mem.guards.filter fun x => !mine (32 * x.1)
      tiles := s.mem.tiles.filter fun x => !mine x.1
      skew := s.mem.skew.filter fun x => !mine (4096 * (x.1 / 64))
      shadows := s.mem.shadows.filter fun h => !mine (sliceKey h.base)
      slicePoison := s.mem.slicePoison.filter fun u => !mine (8 * u)
      flips := s.mem.flips.filter fun u => !mine (8 * u) } }

/-- A partition is formed: its Parser chain's descriptor is placed, its rings and rotating orders start afresh, and nothing
of an earlier object table stays cached, or waits to be written through it. -/
def State.form (s : State) (c : PartCfg) : State :=
  let old := s.ctl.parts.find c.part
  let P : Part := { cfg := c, halted := (old.map Part.halted).getD false, gate := (old.map Part.gate).getD false }
  let s1 := s.modCtl fun C => { C with parts := C.parts.put c.part P }
  let s2 := if c.quads.isEmpty then s1 else s1.sliceWrite c.chain (leBytes 64 4)
  { s2 with
    mem := { s2.mem with tlb := s2.mem.tlb.filter fun x => x.1 / 2 ^ 61 % 16 ≠ c.part }
    eng := { s2.eng with late := s2.eng.late.filter fun w => w.part ≠ c.part }
    cores := s2.cores.map fun (k : Nat × Core) => (k.1, { k.2 with gens := k.2.gens.filter fun g => g.1 / 2 ^ 24 ≠ c.part }) }

/-- The package is provisioned: graphs are taken from then on, and the status page shows the alarms raised since (07 R212, 09
R241, R242; log 68). -/
def Ctl.provision (C : Ctl) : Ctl := { C with alarm := if C.locked then 0 else C.alarm, locked := false }

/-- PARTITION. An assignment provisions the package. -/
def execPartition (ses : Bool) (c : PartCfg) (s : State) : Host.Outcome State Fault Refusal :=
  s.command ses (some c.part) fun s =>
    let ch := s.changed c
    if ch.any s.resident then s.reply 2
    else if s.cfgBad c then s.reply 1
    else
      let own (s : State) (k : Nat) : Option Nat := s.partOf k
      let moved := (List.range 1344).filter fun k =>
        let now := if c.quads.contains (quadOf k) then some c.part
          else if own s k = some c.part then none else own s k
        now ≠ own s k
      let s1 := s.clearCores moved
      let s2 := s1.modCtl fun C => { C with parts := C.parts.map fun (p : Nat × Part) =>
        if p.1 = c.part then p else (p.1, { p.2 with cfg := { p.2.cfg with
          quads := p.2.cfg.quads.filter fun q => !c.quads.contains q
          slots := p.2.cfg.slots.filter fun k => !c.slots.contains k } }) }
      let s3 := s2.modCtl fun C => { C with keySlots := C.keySlots.filter fun k =>
        !(c.slots.contains k.1 && !((s.ctl.parts.find c.part).map fun P => P.cfg.slots.contains k.1).getD false) }
      (((s3.form c).modCtl Ctl.provision).publish).reply 0

/-- KEYSET: a key slot of the partition is loaded, or zeroised. A key loaded provisions the package. -/
def execKeyset (ses : Bool) (part slot : Nat) (key : Option Nat) (s : State) : Host.Outcome State Fault Refusal :=
  s.command ses (some part) fun s => match s.ctl.parts.find part with
    | none => s.reply 1
    | some P =>
      if !P.cfg.slots.contains slot then s.reply 1
      else match key with
        | none => (s.modCtl fun C => { C with keySlots := C.keySlots.del slot }).reply 0
        | some k => ((s.modCtl fun C => { C.provision with keySlots := C.keySlots.put slot k }).publish).reply 0

/-- PREEMPT: answered once every core has halted; a partition already halted answers at once. -/
def execPreempt (ses : Bool) (part : Nat) (s : State) : Host.Outcome State Fault Refusal :=
  s.command ses (some part) fun s => match s.ctl.parts.find part with
    | none => s.reply 1
    | some P => if P.halted then s.reply 0 else s.modPart part fun P => { P with halting := true }

/-- PREEMPT_HALT_COMPLETE. -/
def execPreemptHaltComplete (part : Nat) (s : State) : Host.Outcome State Fault Refusal :=
  match s.ctl.parts.find part with
  | none => .next s
  | some P => if P.halting then .next ((s.haltPart part).reply 0) else .next s

/-- The eight units of each tile of a matrix unit are verified as its context is saved (03 R98). A repair raises COR in the
flags of the holding block (DESIGN CHOICE, log 72: no troupe's instruction finds it); an error that cannot be mended meets the
block. -/
def State.saveTiles (s : State) (core : Nat) : State :=
  (s.core core).mat.tiles.keys.foldl (fun s t =>
    match s.verifyUnit core t [0, 1, 2, 3], (s.core core).mat.holder with
    | some (true, s1), some b => s1.modBlk b fun B => { B with nf := B.nf ||| fCOR }
    | some r, _ => r.2
    | none, some b => s.contain b 0x0D 0
    | none, none => s) s

/-- What a context held wrong in the context store and the swap area is met as it comes back: single errors are corrected and
counted, with COR in the flags of the block (DESIGN CHOICE, log 87: no troupe's access finds them); poison meets the block (08
R214, R216, R227). -/
def State.restored (s : State) (b : Nat) : State :=
  match s.blocks.find b with
  | none => s
  | some B =>
    let s1 := if B.ctxFlips.isEmpty then s
      else (s.modBlk b fun B => { B with ctxFlips := [], nf := B.nf ||| fCOR }).corrected B.core B.ctxFlips.length
    if B.ctxPoison.isEmpty then s1 else (s1.modBlk b fun B => { B with ctxPoison := [] }).contain b 0x16 0

/-- The active and the inactive context of a core change places (08 R227): its blocks, matrix unit and write pointers. B is
loaded again from its records (08 R228). -/
def State.swapCore (s : State) (core : Nat) : State :=
  let s1 := s.saveTiles core
  let fresh (U : MatUnit) : MatUnit := { U with
    active := {}, loading := {}, replay := !U.recs.isEmpty, requests := U.requests }
  let s2 := s1.modCore core fun C => { C with mat := fresh C.matX, matX := C.mat, cwp := C.cwpX, cwpX := C.cwp }
  let back := (s2.blocks.filter fun (b : Nat × Block) => b.2.core = core && b.2.swapped).map Prod.fst
  back.foldl State.restored { s2 with blocks := s2.blocks.map fun (b : Nat × Block) =>
      if b.2.core = core then (b.1, { b.2 with swapped := !b.2.swapped }) else b }

/-- SWAP. -/
def execSwap (ses : Bool) (part : Nat) (s : State) : Host.Outcome State Fault Refusal :=
  s.command ses (some part) fun s => match s.ctl.parts.find part with
    | none => s.reply 1
    | some P => if !P.halted then s.reply 1 else (P.cores.foldl State.swapCore s).reply 0

/-- Whether the package has been attested since the last HALT alarm: a CHALLENGE or GET_MEASUREMENTS was answered. -/
def Ctl.attested (C : Ctl) : Bool := (C.spdm.takeWhile (· ≠ 0)).any fun k => k = 6 || k = 7

/-- RESUME: the halted cores issue again; after a HALT alarm only once the package has been attested (07 R212). -/
def execResume (ses : Bool) (part : Nat) (s : State) : Host.Outcome State Fault Refusal :=
  if !s.up then .next s
  else if !(ses && s.ctl.session) then .next ((s.alarmAt 1 part).reply 3)
  else match s.ctl.parts.find part with
    | none => .next (s.reply 1)
    | some P =>
      if P.alarmed && !s.ctl.attested then .next (s.reply 1)
      else .next ((s.modPart part fun P => { P with halted := false, alarmed := false }).reply 0)

/-- CAP. -/
def execCapCmd (ses : Bool) (watts : Nat) (s : State) : Host.Outcome State Fault Refusal :=
  s.command ses none fun s =>
    if watts < 1200 || watts > 2900 then s.reply 1
    else ((s.modCtl fun C => { C with cap := watts }).publish).reply 0

/-- LINK: a failed link is trained again, and the routes are computed again (09 R235). -/
def execLinkCmd (ses : Bool) (link : Nat) (s : State) : Host.Outcome State Fault Refusal :=
  s.command ses none fun s => match s.ctl.links.find link with
    | none => s.reply 1
    | some _ =>
      let links := s.ctl.links.put link { up := true }
      ((s.modCtl fun C => ({ C with
        links := links
        reach := (List.range C.pods).filter fun p =>
          p ≠ C.pkg && (C.reach.contains p || routed s.tick links p) } : Ctl).remaster).publish.reply 0).tock

/-! ## Debug (08 R229 to R232) -/

/-- The stop state of a troupe is cleared. -/
def Troupe.goOn (T : Troupe) : Troupe := { T with stopped := false, stepping := none }

/-- The stop states of some troupes of a block are cleared: one all of whose splits came to park at a MEET while it was stopped
faults as it goes on (01 R31, 08 R230). -/
def State.goOn (s : State) (b : Nat) (p : Nat → Bool) : State :=
  let ts := (((s.blocks.find b).map fun B => B.troupes.keys).getD []).filter p
  ts.foldl (fun s t => s.settleTrp b t)
    (s.modBlk b fun B => { B with troupes := B.troupes.map fun (x : Nat × Troupe) => if p x.1 then (x.1, x.2.goOn) else x })

/-- Whether a block is of a partition and has a troupe. -/
def State.owns (s : State) (part b t : Nat) : Bool :=
  (s.trp? b t).isSome && ((s.blocks.find b).bind fun B => (s.tasks.find B.task).map Task.part) = some part

/-- DEBUG: with the gate closed no troupe can stop. -/
def execDebugCmd (ses : Bool) (part : Nat) (o : DebugOp) (s : State) : Host.Outcome State Fault Refusal :=
  s.command ses (some part) fun s => match s.ctl.parts.find part with
    | none => s.reply 1
    | some P => match o with
      | .gate true => (s.modPart part fun P => { P with gate := true }).reply 0
      | .gate false =>
        let mine := (s.blocks.filter fun (b : Nat × Block) => ((s.tasks.find b.2.task).map Task.part) = some part).map Prod.fst
        ((mine.foldl (fun s b => s.goOn b fun _ => true) s).modPart part fun P => { P with gate := false }).reply 0
      | .stop b t => if !P.gate || !s.owns part b t then s.reply 1 else (s.modTrp b t Troupe.halt).reply 0
      | .go b t =>
        if !P.gate || !s.owns part b t then s.reply 1
        else (s.goOn b fun x => x = t || (s.blocks.find b).any Block.stopBit).reply 0
      | .blockStop b on =>
        if !P.gate || !((s.blocks.find b).bind fun B => (s.tasks.find B.task).map Task.part) = some part then s.reply 1
        else (s.modBlk b fun B => { B with stopBit := on }).reply 0

/-- The partition of a block. -/
def State.partOfBlock (s : State) (b : Nat) : Option Nat := (s.blocks.find b).bind fun B => (s.tasks.find B.task).map Task.part

/-- STEP_COMMAND: one split of a stopped troupe may issue one instruction or one run. -/
def execStepCommand (ses : Bool) (b t e : Nat) (s : State) : Host.Outcome State Fault Refusal :=
  s.command ses (s.partOfBlock b) fun s => match (s.partOfBlock b).bind s.ctl.parts.find, s.trp? b t with
    | some P, some T =>
      if !P.gate || !T.stopped || (T.splits.find e).isNone then s.reply 1
      else (s.modTrp b t fun T => { T with stepping := some e }).reply 0
    | _, _ => s.reply 1

/-! ## SPDM (09 R238) -/

/-- Answers a request, once bring-up is over: 1 GET_VERSION to 9 FINISH, in the order of 09 R238. One that fails, or comes before those it follows,
raises NOTE, whose event names partition 0 (DESIGN CHOICE, log 78: no partition is concerned). GET_VERSION starts afresh; the capabilities and algorithms follow it in turn, the others follow those; FINISH
closes a key exchange and opens the session. -/
def State.spdm (s : State) (k : Nat) (ok : Bool) : Host.Outcome State Fault Refusal :=
  let since := s.ctl.spdm.filter (· ≠ 0)
  let done := since.takeWhile (· ≠ 1)
  let ready := match k with
    | 1 => true
    | 2 => since.head? = some 1
    | 3 => since.head? = some 2
    | 9 => done.head? = some 8 && done.contains 3
    | _ => done.contains 3
  if !s.up then .next s
  else if !ok || !ready then .next (s.alarmAt 1 0)
  else .next (s.modCtl fun C => { C with
    spdm := k :: C.spdm, session := if k = 1 then false else if k = 9 then true else C.session })

/-- GET_VERSION. -/
def execGetVersion (ok : Bool) (s : State) : Host.Outcome State Fault Refusal := s.spdm 1 ok
/-- GET_CAPABILITIES. -/
def execGetCapabilities (ok : Bool) (s : State) : Host.Outcome State Fault Refusal := s.spdm 2 ok
/-- NEGOTIATE_ALGORITHMS. -/
def execNegotiateAlgorithms (ok : Bool) (s : State) : Host.Outcome State Fault Refusal := s.spdm 3 ok
/-- GET_DIGESTS. -/
def execGetDigests (ok : Bool) (s : State) : Host.Outcome State Fault Refusal := s.spdm 4 ok
/-- GET_CERTIFICATE. -/
def execGetCertificate (ok : Bool) (s : State) : Host.Outcome State Fault Refusal := s.spdm 5 ok
/-- CHALLENGE. -/
def execChallenge (ok : Bool) (s : State) : Host.Outcome State Fault Refusal := s.spdm 6 ok
/-- GET_MEASUREMENTS. -/
def execGetMeasurements (ok : Bool) (s : State) : Host.Outcome State Fault Refusal := s.spdm 7 ok
/-- KEY_EXCHANGE. -/
def execKeyExchange (ok : Bool) (s : State) : Host.Outcome State Fault Refusal := s.spdm 8 ok
/-- FINISH. -/
def execFinish (ok : Bool) (s : State) : Host.Outcome State Fault Refusal := s.spdm 9 ok

/-! ## Clock and power (09 R237, R240) -/

/-- How far a clock may be slewed since the last exchange with the master: 1 ns per µs. -/
def Ctl.slewable (C : Ctl) : Int := ((C.clk - C.synced).toNat / 1000 : Nat)

/-- CLOCK_SYNC: the offset of `clk` from the master's, as an exchange with it measures it. A clock that rejoins behind the
master is stepped forward, once; one that is behind is slewed forward, by what the time since the last exchange allows; one
that is ahead runs slower over the time to come, which is part of how many ns a step takes, and its offset is as it stands
until the next exchange measures it again (DESIGN CHOICE, log 69). `clk` is never stepped back. Without a path to the master
there is no exchange. -/
def execClockSync (offset : Int) (s : State) : Host.Outcome State Fault Refusal :=
  if s.ctl.stage < 5 || (s.ctl.master ≠ s.ctl.pkg && !s.ctl.reach.contains s.ctl.master) then .next s
  else
    let C := s.ctl
    let forward : Int := if offset ≥ 0 then 0 else if C.lost then -offset else min (-offset) C.slewable
    let left : Int := offset + forward
    let clk := C.clk + BitVec.ofInt 64 forward
    .next ((s.modCtl fun C => { C with
      clk := clk, synced := clk, offset := left, lost := false
      sync := decide (-20 ≤ left) && decide (left ≤ 20) }).publish)

/-- TIME_MASTER_TAKEOVER: the next lowest-numbered package takes over. -/
def execTimeMasterTakeover (pkg : Nat) (s : State) : Host.Outcome State Fault Refusal :=
  let next := (List.range s.ctl.pods).find? fun p =>
    decide (s.ctl.master < p) && (p = s.ctl.pkg || s.ctl.reach.contains p)
  if next = some pkg then .next (s.modCtl fun C => { C with master := pkg }) else .next s

/-- POWER_STEP: a clock step from 0 to 8, chosen from the measured power. -/
def execPowerStep (n watts : Nat) (s : State) : Host.Outcome State Fault Refusal :=
  if n > 8 then .next s else .next ((s.modCtl fun C => { C with step := n, power := watts }).publish)

/-! ## Bring-up (09 R242) -/

/-- POWER_GOOD: stage 1 begins. -/
def execPowerGood (s : State) : Host.Outcome State Fault Refusal :=
  if s.ctl.stage = 0 then .next (s.modCtl fun C => { C with stage := 1 }) else .next s

/-- Partition 0 as bring-up forms it: every quad, no key slot, only the supervisor ring open. -/
def bootCfg (pkg : Nat) : PartCfg where
  part := 0
  quads := List.range 336
  slots := []
  objtab := Config.boot 0
  events := Config.boot 1
  eventCap := Config.boot 2
  user := 0
  super := Config.boot 3
  lenU := 2
  lenS := 2 ^ (1 + Config.boot 4 % 16)
  chain := pkg * 2 ^ 33 + 64 * (Config.boot 5 % 2 ^ 15)
  channels := Config.boot 6
  groups := Config.boot 7
  peers := []
  plaintext := Config.bootPlain
  status := 4096 * (1 + Config.boot 8 % 2 ^ 20)

/-- What a stage has done as it ends. The package numbers of a pod run from 0 without gaps (DESIGN CHOICE, log 80: the pod
configuration gives each a number from 0 to 63). The time master is the lowest-numbered package with a path to every other (09 R237): package
0 where this one has such paths, since then every package does. After stage 5 graphs are taken once the package has been
provisioned (09 R242; log 68). -/
def State.endStage (s : State) : State :=
  match s.ctl.stage with
  | 1 => s.modCtl fun C => { C with stage := 2 }
  | 2 =>
    let s1 := { s with cores := [], mem := { s.mem with
      slice := [], guards := [], tiles := [], skew := [], shadows := [], slicePoison := [], flips := [] } }
    s1.modCtl fun C => { C with stage := 3 }
  | 3 =>
    let pods := 1 + Config.pods % 64
    let pkg := Config.pkg % pods
    let links : Tab Lnk := (List.range 16).map fun i => (i, { up := Config.linkUp i })
    let reach := (List.range pods).filter fun p => p ≠ pkg && routed s.tick links p
    (s.modCtl fun C => { C with
      stage := 4, pkg := pkg, pods := pods, reach := reach, links := links
      master := if reach.length + 1 = pods then 0 else Config.master % pods }).tock
  | 4 => s.modCtl fun C => { C with
      stage := 5, clk := Config.bootClk, synced := Config.bootClk, sync := true, offset := 0, lost := false }
  | 5 =>
    let s1 := s.modCtl fun C => { C with stage := 6, parts := [], locked := true }
    (s1.form (bootCfg s.ctl.pkg)).publish
  | _ => s

/-- BRINGUP_STAGE_END: the next stage begins; a stage that fails stops bring-up and raises the alarm its cause calls for. -/
def execBringupStageEnd (cause : Nat) (s : State) : Host.Outcome State Fault Refusal :=
  if s.ctl.failed.isSome || s.ctl.stage = 0 || s.ctl.stage > 5 then .next s
  else if cause = 0 then .next s.endStage
  else
    let k := s.ctl.stage
    .next ((s.alarmFx (1 + Config.stageAlarm k cause % 3) 0).modCtl fun C => { C with failed := some (k, cause), stage := k })

end Sys2Proof.Machine
end

