-- ==== Sys2Proof/Machine/Solver.lean ====
section
/-! DEFINITION. The solver sequencer (14 R375 to R381, 17 R387). -/
namespace Sys2Proof.Machine

/-! ## Configuration (14 Table 14.8) -/

/-- Word `i` of a configuration. -/
def cfgWord (bs : List Byte) (i : Nat) : Nat := leNat ((bs.drop (4 * i)).take 4)

/-- A configuration in force. -/
structure SqCfg where
  w : Nat → Nat

/-- The configuration of a block's 288 bytes. -/
def sqCfg (bs : List Byte) : SqCfg := ⟨cfgWord bs⟩

/-- Stages. -/
def SqCfg.s (C : SqCfg) : Nat := bits (C.w 0) 3 0
/-- The order in the step factor. -/
def SqCfg.q (C : SqCfg) : Nat := bits (C.w 0) 7 4
/-- History depth. -/
def SqCfg.H (C : SqCfg) : Nat := bits (C.w 0) 10 8
/-- Vector length. -/
def SqCfg.n (C : SqCfg) : Nat := C.w 1
/-- A stage time fraction, from stage 1. -/
def SqCfg.c (C : SqCfg) (j : Nat) : Nat := C.w (9 + j)
/-- A weight of the solution. -/
def SqCfg.b (C : SqCfg) (i : Nat) : Nat := C.w (17 + i)
/-- A weight of the embedded solution. -/
def SqCfg.bh (C : SqCfg) (i : Nat) : Nat := C.w (25 + i)
/-- A stage coefficient. -/
def SqCfg.a (C : SqCfg) (j i : Nat) : Nat := C.w (34 + (j - 1) * (j - 2) / 2 + (i - 1))
/-- The size of a sample's vectors (14 R376). -/
def SqCfg.sigma (C : SqCfg) : Nat := roundUp (4 * C.n * (2 + C.s + C.H)) 16

/-- An f32 code as a value. -/
def fv (x : Nat) : Num := f32.decode x
/-- Whether an f32 code is finite. -/
def finite (x : Nat) : Bool := !(fv x).isNan && !(fv x).isInf
/-- The f32 code of 1. -/
def one32 : Nat := 0x3F800000
/-- Whether a ≤ b, for f32 codes; false with a NaN. -/
def fle (a b : Nat) : Bool := !(fv a).isNan && !(fv b).isNan && !(fv b).lt (fv a)
/-- Whether a < b. -/
def flt32 (a b : Nat) : Bool := (fv a).lt (fv b)

/-- Whether word `i` of a configuration keeps its rule (14 R375). -/
def SqCfg.wordOk (C : SqCfg) (i : Nat) : Bool :=
  let x := C.w i
  if i = 0 then 1 ≤ C.s && C.s ≤ 8 && 1 ≤ C.q && C.H ≤ 4 && x < 2 ^ 11
  else if i = 1 then 1 ≤ x && x ≤ 65536
  else if i = 2 then finite x && fle 0 x && !((fv x).isZero && (fv (C.w 3)).isZero)
  else if i = 3 then finite x && fle 0 x
  else if i = 4 then flt32 0 x && fle x one32
  else if i = 5 then flt32 0 x && fle x one32
  else if i = 6 then fle one32 x
  else if i = 7 then finite x && flt32 0 x && fle x (C.w 8)
  else if i = 8 then finite x
  else if i = 9 then 1 ≤ x && x ≤ 255
  else if i < 18 then finite x
  else if i < 26 then finite x && (i - 18 < C.s || (fv x).isZero)
  else if i < 34 then finite x && (i - 26 < C.s || (fv x).isZero)
  else if i < 62 then finite x
  else if i < 64 then x = 0
  else if i < 68 then finite x
  else x = 0

/-- The lowest word that breaks a rule. -/
def SqCfg.broken (C : SqCfg) : Option Nat := (List.range 72).find? fun i => !C.wordOk i

/-- SQCFG. -/
def execSqcfg (f : UW) (s : State) : Host.Outcome State Fault Refusal :=
  s.issueWord (.sqcfg f) fun c s =>
    let r := c.cap f.cN
    match s.capFault c r [2, 8] 0x001#12 with
    | some e => .trap e
    | none =>
      if r.size < 288 then .trap ⟨0x06, 0, 0⟩
      else
        let a := s.capSlice r 0
        if s.loadPoison c .slice a 288 then .trap ⟨0x16, 0, 0⟩
        else
          let bs := overlay c.blk.buf .slice a (s.sliceRead a 288)
          match (sqCfg bs).broken with
          | some i => .trap ⟨0x11, 0, i⟩
          | none => .done ((s.meetFlips c a 288).modBlk c.b fun B => { B with sqCfg := some bs })

/-! ## Samples (14 R376, R377) -/

/-- Reads words of the solver region as the block's loads do. -/
def State.sqRead (s : State) (b : Nat) (r : CapReg) (off n : Nat) : List Nat :=
  let a := s.capSlice r off
  let bs := overlay (((s.blocks.find b).map Block.buf).getD []) .slice a (s.sliceRead a (4 * n))
  (List.range n).map fun i => leNat ((bs.drop (4 * i)).take 4)

/-- Writes words of the solver region as the block's stores do. -/
def State.sqWrite (s : State) (b : Nat) (r : CapReg) (off : Nat) (xs : List Nat) : State :=
  (xs.zip (List.range xs.length)).foldl (fun s p => s.bufStore b .slice (s.capSlice r (off + 4 * p.2)) (leBytes 4 p.1)) s

/-- A sample as the sequencer works on it. -/
structure Sq where
  b : Nat
  r : CapReg
  cfg : SqCfg
  e : Nat

/-- Where vector `k` of a sample lies: 0 x, 1 xs, 1 + i the derivative of stage i, 2 + s + r history slot r. -/
def Sq.vec (q : Sq) (k : Nat) : Nat := 8192 + q.e * q.cfg.sigma + 4 * q.cfg.n * k

/-- The entry of a sample. -/
def Sq.entry (q : Sq) (s : State) : List Nat := s.sqRead q.b q.r (32 * q.e) 8

/-- A vector of a sample. -/
def Sq.read (q : Sq) (s : State) (k : Nat) : List Nat := s.sqRead q.b q.r (q.vec k) q.cfg.n

/-- The status field of an entry. -/
def sqStatus (ent : List Nat) : Nat := ent.getD 4 0 % 256

/-- The named samples, each once, in ascending order of the first lane that names it (14 R377). -/
def sqNamed (c : Ctx) (v : Nat) : List Nat := ((lanesOf c.active).map fun l => c.reg v l).eraseDups

/-- How far a sample's entry and vectors reach in the region. -/
def sqEnd (C : Option SqCfg) (e : Nat) : Nat :=
  match C with
  | some C => max (32 * e + 32) (8192 + (e + 1) * C.sigma)
  | none => 32 * e + 32

/-- Check 3 of R377 for sample numbers, then check 4. -/
def sqRange (C : Option SqCfg) (c : Ctx) (v size : Nat) (geom : Bool) : Option Raise :=
  match (lanesOf c.active).find? fun l => c.reg v l > 255 with
  | some l => some ⟨0x11, 0, l⟩
  | none =>
    if geom then some ⟨0x11, 0, 0⟩
    else ((lanesOf c.active).find? fun l => sqEnd C (c.reg v l) > size).map fun l => ⟨0x06, 0, l⟩

/-- Where a solver instruction stands: at its first sample, or where a halt has stopped it (17 R388). -/
def Ctx.sqAt (c : Ctx) : SqHold := (c.trp.sq.filter fun h => h.e = c.e && h.pc = c.sp.pc).getD { e := c.e, pc := c.sp.pc }

/-- The places that a solver instruction reads of the samples it is still to process, with their lengths: the entries, and of a
running sample the vectors `vecs`. -/
def State.sqPlaces (s : State) (c : Ctx) (C : SqCfg) (r : CapReg) (v : Nat) (vecs : SqCfg → List Nat → List Nat) :
    List (Nat × Nat) :=
  ((sqNamed c v).drop c.sqAt.next).flatMap fun e =>
    let q : Sq := ⟨c.b, r, C, e⟩
    let ent := q.entry s
    (s.capSlice r (32 * e), 32) ::
      if sqStatus ent ≠ 1 then [] else (vecs C ent).map fun k => (s.capSlice r (q.vec k), 4 * C.n)

/-- The checks of SQSTG, SQDEC and SQHIS, in order: the configuration and region in force, with the state once single errors in
what is read have been corrected, or the fault (14 R377); a region revoked since it was bound faults (07 R201). -/
def State.sqReady (s : State) (c : Ctx) (v : Nat) (geom : SqCfg → Bool) (vecs : SqCfg → List Nat → List Nat) :
    Except Raise (SqCfg × CapReg × State) :=
  match c.blk.sqCfg, c.blk.sqReg with
  | none, _ => .error ⟨0x01, 0, 11⟩
  | _, none => .error ⟨0x03, 0, 0⟩
  | some bs, some r =>
    let C := sqCfg bs
    match (s.capFault c r [8] 0x003#12).orElse fun _ => sqRange (some C) c v r.size (geom C) with
    | some e => .error e
    | none =>
      let ps := s.sqPlaces c C r v vecs
      if ps.any fun p => s.loadPoison c .slice p.1 p.2 then .error ⟨0x16, 0, 0⟩
      else .ok (C, r, ps.foldl (fun s p => s.meetFlips c p.1 p.2) s)

/-- How many of its samples a solver instruction has processed when it stops: all of them, but where its partition is being
halted a free number (17 R388). -/
def State.sqStop (s : State) (c : Ctx) (v : Nat) : Nat :=
  let n := (sqNamed c v).length
  if s.halting c.task.part then (Config.matStep s.tick c.blk.core).1 % (n + 1) else n

/-- Acts on each named sample in turn from where the instruction stands; `f` answers the new state and what is held of the
sample. What is held once all have been processed goes to `k`; where a halt stops it before, that stays with the troupe, and the
word has not issued (17 R388). -/
def State.sqEach (s : State) (c : Ctx) (v : Nat) (f : State → Nat → SqHold → State × SqHold) (k : State → SqHold → State) : Res :=
  let h0 := c.sqAt
  let names := sqNamed c v
  let y := ((names.take (s.sqStop c v)).drop h0.next).foldl (fun (x : State × SqHold) e =>
    let z := f x.1 e x.2
    (z.1, { z.2 with next := z.2.next + 1 })) (s, h0)
  if y.2.next < names.length then .park (y.1.onTrp c fun T => { T with sq := some y.2 })
  else .done (k (y.1.onTrp c fun T => { T with sq := none }) y.2)

/-- Acts on a running sample, ORing flags; one that is not running is passed over (14 R377). -/
def sqRunning (c : Ctx) (C : SqCfg) (r : CapReg) (f : State → Sq → SqHold → State × SqHold) (s : State) (e : Nat) (h : SqHold) :
    State × SqHold :=
  let q : Sq := ⟨c.b, r, C, e⟩
  if sqStatus (q.entry s) ≠ 1 then (s, h) else f s q h

/-- A sample that only raises flags. -/
def sqFlags (f : State → Sq → State × Flags) (s : State) (q : Sq) (h : SqHold) : State × SqHold :=
  let y := f s q
  (y.1, { h with flags := h.flags ||| y.2 })

/-! ## SQLOAD (14 R378, 17 R387) -/

/-- Starts a sample. -/
def sqStart (ent : List Nat) : List Nat :=
  let t := ent.getD 0 0
  let h := ent.getD 1 0
  let tend := ent.getD 2 0
  if finite t && finite h && finite tend && flt32 t tend && flt32 0 h then
    (((ent.set 3 0).set 4 (1 + 2 ^ 22 * (ent.getD 4 0 / 2 ^ 22))).set 5 0).set 6 0
  else ent.set 4 (3 + 256 * (ent.getD 4 0 / 256))

/-- SQLOAD. -/
def execSqload (f : UW) (s : State) : Host.Outcome State Fault Refusal :=
  s.issueWord (.sqload f) fun c s =>
    let r := c.cap f.cN
    match s.capFault c r [8] 0x003#12 with
    | some e => .trap e
    | none =>
      if !s.here r.at || coreOfSlice r.at ≠ c.blk.core then .trap ⟨0x11, 0, 0⟩
      else match sqRange (c.blk.sqCfg.map sqCfg) c f.v r.size false with
        | some e => .trap e
        | none =>
          let at' (e : Nat) : Nat := s.capSlice r (32 * e)
          let left := (sqNamed c f.v).drop c.sqAt.next
          if left.any fun e => s.loadPoison c .slice (at' e) 32 then .trap ⟨0x16, 0, 0⟩
          else ((left.foldl (fun s e => s.meetFlips c (at' e) 32) s).modBlk c.b fun B => { B with sqReg := some r }).sqEach c f.v
            (fun s e h => (s.sqWrite c.b r (32 * e) (sqStart (s.sqRead c.b r (32 * e) 8)), h)) fun s _ => s

/-! ## SQSTG (14 R379) -/

/-- The fused sum of terms onto an element, with one rounding a term. -/
def sqSum (x : Nat) (ts : List (Nat × Nat)) : Nat × Flags :=
  ts.foldl (fun (a : Nat × Flags) t => let r := f32.fma 0 t.1 t.2 a.1; (r.1, r.2 ||| a.2)) (x, 0)

/-- A vector whose element m is x[m] with the terms coefficient × vector[m] summed onto it. -/
def sqMix (n : Nat) (x : List Nat) (ts : List (Nat × List Nat)) : List Nat × Flags :=
  let ys := (List.range n).map fun m => sqSum (x.getD m 0) (ts.map fun t => (t.1, t.2.getD m 0))
  (ys.map Prod.fst, ys.foldl (fun f y => f ||| y.2) 0)

/-- A stage input. -/
def sqStage (j : Nat) (s : State) (q : Sq) : State × Flags :=
  let ent := q.entry s
  let h := ent.getD 1 0
  let hc := (List.range (j - 1)).map fun i => (f32.mul 0 0 h (q.cfg.a j (i + 1)), q.read s (2 + i))
  let y := sqMix q.cfg.n (q.read s 0) (hc.map fun t => (t.1.1, t.2))
  let ch := f32.mul 0 0 (q.cfg.c j) h
  let ts := f32.add 0 0 (ent.getD 0 0) ch.1
  let s1 := s.sqWrite q.b q.r (q.vec 1) y.1
  (s1.sqWrite q.b q.r (32 * q.e + 28) [ts.1], hc.foldl (fun f t => f ||| t.1.2) (y.2 ||| ch.2 ||| ts.2))

/-- SQSTG. -/
def execSqstg (f : UW) (s : State) : Host.Outcome State Fault Refusal :=
  s.issueWord (.sqstg f) fun c s =>
    let j := f.f 2 0 + 1
    match s.sqReady c f.v (fun C => decide (j > C.s)) fun _ _ => 0 :: (List.range (j - 1)).map (2 + ·) with
    | .error e => .trap e
    | .ok (C, r, s1) => s1.sqEach c f.v (sqRunning c C r (sqFlags (sqStage j))) fun s h => s.raise c h.flags

/-! ## SQDEC (14 R380) -/

/-- A value rounded once to f32. -/
def rne32 (st : Bool) (v : Num) (f : Flags) : Nat × Flags := let r := f32.deliver 0 0 false st v; (r.1, r.2 ||| f)

/-- RNE32(a / b). -/
def fdiv32 (a b : Num) : Nat × Flags := let r := a.div b; rne32 r.1.2 r.1.1 r.2

/-- FMIN(FMAX(x, lo), hi). -/
def clamp32 (x lo hi : Nat) : Nat := f32.minNum (f32.maxNum x lo) hi

/-- What an element contributes: the new value, the squared error added to the sum, and flags. -/
def sqErr (C : SqCfg) (x : Nat) (sum : Nat) (bs bhs : List (Nat × Nat)) : Nat × Nat × Flags :=
  let y := sqSum x bs
  let z := sqSum x bhs
  let d := rne32 false ((fv y.1).add 0 (fv z.1).minus).1 ((fv y.1).add 0 (fv z.1).minus).2
  let m := f32.maxNum (x % 2 ^ 31) (y.1 % 2 ^ 31)
  let sc := f32.mul 0 0 (C.w 3) m
  let tol := f32.add 0 0 (C.w 2) sc.1
  let e := fdiv32 (fv d.1) (fv tol.1)
  let sq := f32.mul 0 0 e.1 e.1
  let t := f32.add 0 0 sum sq.1
  (y.1, t.1, y.2 ||| z.2 ||| d.2 ||| sc.2 ||| tol.2 ||| e.2 ||| sq.2 ||| t.2)

/-- The step factor of an error norm. -/
def sqFactor (C : SqCfg) (err : Nat) : Nat × Flags :=
  if (fv err).isZero then (C.w 6, 0)
  else
    let lg := f32.log2 err
    let ex := fdiv32 (fv lg.1).minus (intNum (C.q + 1))
    let p := f32.exp2 ex.1
    let m := f32.mul 0 0 p.1 (C.w 4)
    (clamp32 m.1 (C.w 5) (C.w 6), lg.2 ||| ex.2 ||| p.2 ||| m.2)

/-- Decides a sample's step: the state, the flags, whether it was accepted, and whether it is left running. -/
def sqDecide (s : State) (q : Sq) : State × Flags × Bool × Bool :=
  let C := q.cfg
  let ent := q.entry s
  let h := ent.getD 1 0
  let tend := ent.getD 2 0
  let x := q.read s 0
  let ks := (List.range C.s).map fun i => q.read s (2 + i)
  let bs := (List.range C.s).map fun i => f32.mul 0 0 h (C.b (i + 1))
  let bhs := (List.range C.s).map fun i => f32.mul 0 0 h (C.bh (i + 1))
  let f0 := (bs ++ bhs).foldl (fun (f : Flags) p => f ||| p.2) 0
  let all := (List.range C.n).foldl (fun (r : List Nat × Nat × Flags) m =>
    let col := ks.map fun k => k.getD m 0
    let y := sqErr C (x.getD m 0) r.2.1 ((bs.map Prod.fst).zip col) ((bhs.map Prod.fst).zip col)
    (r.1 ++ [y.1], y.2.1, r.2.2 ||| y.2.2)) ([], 0, f0)
  let mean := fdiv32 (fv all.2.1) (intNum C.n)
  let err := f32.sqrt mean.1
  let fac := sqFactor C err.1
  let ok := fle err.1 one32
  let t := if ok then f32.add 0 0 (ent.getD 0 0) h else (ent.getD 0 0, 0)
  let w4 := ent.getD 4 0
  let rejects := bits w4 15 8 + 1
  let hf := f32.mul 0 0 h fac.1
  let lft := rne32 false ((fv tend).add 0 (fv t.1).minus).1 ((fv tend).add 0 (fv t.1).minus).2
  let hn := f32.minNum (clamp32 hf.1 (C.w 7) (C.w 8)) lft.1
  let st := if fle tend t.1 then 2
    else if (!ok && decide (rejects > C.w 9)) || (fv err.1).isNan then 3 else 1
  let rej := if ok then 0 else min rejects 255
  let ent1 := [t.1, hn, tend, err.1, st + 256 * rej + 65536 * (w4 / 65536),
    if ok then (ent.getD 5 0 + 1) % 2 ^ 32 else ent.getD 5 0, if ok then ent.getD 6 0 else (ent.getD 6 0 + 1) % 2 ^ 32]
  let s1 := if ok then s.sqWrite q.b q.r (q.vec 0) all.1 else s
  (s1.sqWrite q.b q.r (32 * q.e) ent1,
    all.2.2 ||| mean.2 ||| err.2 ||| fac.2 ||| t.2 ||| hf.2 ||| lft.2, ok, decide (st = 1))

/-- A sample's step decided, and what is held of it: whether it was accepted, and whether it counts toward sD. -/
def sqStep (s : State) (q : Sq) (h : SqHold) : State × SqHold :=
  let d := sqDecide s q
  (d.1, { h with flags := h.flags ||| d.2.1, ran := h.ran ++ [(q.e, d.2.2.1)], count := h.count + if d.2.2.2 then 1 else 0 })

/-- SQDEC. -/
def execSqdec (f : UW) (s : State) : Host.Outcome State Fault Refusal :=
  s.issueWord (.sqdec f) fun c s =>
    match s.sqReady c f.v (fun _ => false) fun C _ => 0 :: (List.range C.s).map (2 + ·) with
    | .error e => .trap e
    | .ok (C, r, s1) => s1.sqEach c f.v (sqRunning c C r sqStep) fun s h =>
      let ran (l : Nat) : Option Bool := (h.ran.find? fun p => p.1 = c.reg f.v l).map Prod.snd
      let m := c.active &&& maskOf fun l => (ran l).isSome
      ((s.onTrp c fun T => T.setP (f.f 10 8) m (maskOf fun l => (ran l).getD false)).setS c f.d (BitVec.ofNat 64 h.count)).raise c
        h.flags

/-! ## SQHIS (14 R381) -/

/-- Copies the last derivative into the ring. -/
def sqPush (s : State) (q : Sq) : State × Flags :=
  let w4 := (q.entry s).getD 4 0
  let hp := bits w4 21 19
  let hc := bits w4 18 16
  let H := q.cfg.H
  let x := w4 % 2 ^ 16 + 2 ^ 16 * min (hc + 1) H + 2 ^ 19 * ((hp + 1) % H) + 2 ^ 22 * (w4 / 2 ^ 22)
  ((s.sqWrite q.b q.r (q.vec (2 + q.cfg.s + hp)) (q.read s (1 + q.cfg.s))).sqWrite q.b q.r (32 * q.e + 16) [x], 0)

/-- Forms a stage input from the history. -/
def sqHistory (s : State) (q : Sq) : State × Flags :=
  let ent := q.entry s
  let hp := bits (ent.getD 4 0) 21 19
  let hc := bits (ent.getD 4 0) 18 16
  let H := q.cfg.H
  let ts := (List.range (min hc H)).map fun r =>
    (f32.mul 0 0 (ent.getD 1 0) (q.cfg.w (64 + r)), q.read s (2 + q.cfg.s + (hp + 2 * H - 1 - r) % H))
  let y := sqMix q.cfg.n (q.read s 0) (ts.map fun t => (t.1.1, t.2))
  let s1 := s.sqWrite q.b q.r (q.vec 1) y.1
  (s1.sqWrite q.b q.r (32 * q.e + 28) [ent.getD 0 0], ts.foldl (fun f t => f ||| t.1.2) y.2)

/-- The vectors SQHIS reads: the last derivative, or x and the history held. -/
def sqHisVecs (mix : Bool) (C : SqCfg) (ent : List Nat) : List Nat :=
  let hp := bits (ent.getD 4 0) 21 19
  if mix then 0 :: (List.range (min (bits (ent.getD 4 0) 18 16) C.H)).map fun r => 2 + C.s + (hp + 2 * C.H - 1 - r) % C.H
  else [1 + C.s]

/-- SQHIS. -/
def execSqhis (f : UW) (s : State) : Host.Outcome State Fault Refusal :=
  s.issueWord (.sqhis f) fun c s =>
    match s.sqReady c f.v (fun C => C.H == 0) (sqHisVecs (f.bit 0)) with
    | .error e => .trap e
    | .ok (C, r, s1) => s1.sqEach c f.v (sqRunning c C r (sqFlags fun s q => if f.bit 0 then sqHistory s q else sqPush s q))
        fun s h => s.raise c h.flags

end Sys2Proof.Machine
end

