-- ==== Sys2Proof/Machine/Uniform.lean ====
section
/-! DEFINITION. Uniform arithmetic and the bridge between lanes and uniforms (11 R270 to R277). Uniform arithmetic is 64-bit
and wraps; it raises no flag (11 R269). -/
namespace Sys2Proof.Machine

/-! ## One-word arithmetic (11 Table 11.1) -/

/-- A uniform instruction on a and b. -/
def urFx (f : UR) (g : DWord → DWord → DWord) : Ctx → State → Res := uniFx f.d fun c => g (c.sr f.a) (c.sr f.b)

/-- The high half of a product, signed or unsigned. -/
def smulhV (u : Bool) (a b : DWord) : DWord :=
  if u then BitVec.ofNat 64 (a.toNat * b.toNat / 2 ^ 64) else BitVec.ofInt 64 (a.toInt * b.toInt / 2 ^ 64)
/-- Shift left; 0 for counts of 64 or more. -/
def sshlV (a : DWord) (n : Nat) : DWord := if n ≥ 64 then 0 else a <<< n
/-- Logical shift right. -/
def sshrV (a : DWord) (n : Nat) : DWord := if n ≥ 64 then 0 else a >>> n
/-- Arithmetic shift right. -/
def ssarV (a : DWord) (n : Nat) : DWord := a.sshiftRight (min n 63)
/-- Less than, signed or unsigned. -/
def sless (u : Bool) (a b : DWord) : Bool := if u then a.ult b else a.slt b

/-- SADD. -/
def execSadd (f : UR) (s : State) : Host.Outcome State Fault Refusal := s.issueWord (.sadd f) (urFx f fun a b => a + b)
/-- SSUB. -/
def execSsub (f : UR) (s : State) : Host.Outcome State Fault Refusal := s.issueWord (.ssub f) (urFx f fun a b => a - b)
/-- SMUL. -/
def execSmul (f : UR) (s : State) : Host.Outcome State Fault Refusal := s.issueWord (.smul f) (urFx f fun a b => a * b)
/-- SMULH. -/
def execSmulh (f : UR) (s : State) : Host.Outcome State Fault Refusal :=
  s.issueWord (.smulh f) (urFx f (smulhV (f.x.getLsbD 0)))
/-- SAND. -/
def execSand (f : UR) (s : State) : Host.Outcome State Fault Refusal := s.issueWord (.sand f) (urFx f fun a b => a &&& b)
/-- SOR. -/
def execSor (f : UR) (s : State) : Host.Outcome State Fault Refusal := s.issueWord (.sor f) (urFx f fun a b => a ||| b)
/-- SXOR. -/
def execSxor (f : UR) (s : State) : Host.Outcome State Fault Refusal := s.issueWord (.sxor f) (urFx f fun a b => a ^^^ b)
/-- SSHL. -/
def execSshl (f : UR) (s : State) : Host.Outcome State Fault Refusal :=
  s.issueWord (.sshl f) (urFx f fun a b => sshlV a b.toNat)
/-- SSHR. -/
def execSshr (f : UR) (s : State) : Host.Outcome State Fault Refusal :=
  s.issueWord (.sshr f) (urFx f fun a b => sshrV a b.toNat)
/-- SSAR. -/
def execSsar (f : UR) (s : State) : Host.Outcome State Fault Refusal :=
  s.issueWord (.ssar f) (urFx f fun a b => ssarV a b.toNat)
/-- SMIN. -/
def execSmin (f : UR) (s : State) : Host.Outcome State Fault Refusal :=
  s.issueWord (.smin f) (urFx f fun a b => if sless (f.x.getLsbD 0) a b then a else b)
/-- SMAX. -/
def execSmax (f : UR) (s : State) : Host.Outcome State Fault Refusal :=
  s.issueWord (.smax f) (urFx f fun a b => if sless (f.x.getLsbD 0) a b then b else a)
/-- SMOV. -/
def execSmov (f : UR) (s : State) : Host.Outcome State Fault Refusal := s.issueWord (.smov f) (urFx f fun a _ => a)
/-- SPOPC. -/
def execSpopc (f : UR) (s : State) : Host.Outcome State Fault Refusal :=
  s.issueWord (.spopc f) (urFx f fun a _ => BitVec.ofNat 64 (popcount a))
/-- SCLZ. -/
def execSclz (f : UR) (s : State) : Host.Outcome State Fault Refusal :=
  s.issueWord (.sclz f) (urFx f fun a _ => BitVec.ofNat 64 (clz a))

/-- SCMP's conditions (11 R271). -/
def scmpCond (k : Nat) (u : Bool) (a b : DWord) : Bool :=
  match k with
  | 0 => a = b
  | 1 => a ≠ b
  | 2 => sless u a b
  | 3 => !sless u b a
  | 4 => sless u b a
  | _ => !sless u a b

/-- SCMP. -/
def execScmp (f : UR) (s : State) : Host.Outcome State Fault Refusal :=
  s.issueWord (.scmp f) fun c s =>
    .done (s.setG c (f.d.extractLsb' 0 3).toNat
      (scmpCond (f.x.extractLsb' 0 3).toNat (f.x.getLsbD 3) (c.sr f.a) (c.sr f.b)))

/-- SSEL (11 R272). -/
def execSsel (f : UR) (s : State) : Host.Outcome State Fault Refusal :=
  s.issueWord (.ssel f) (uniFx f.d fun c =>
    if c.gate (f.x.extractLsb' 0 3).toNat != f.x.getLsbD 3 then c.sr f.a else c.sr f.b)

/-! ## Immediates (11 R273, R274) -/

/-- A UI instruction on a and its immediate. -/
def uiFx (f : UI) (g : DWord → DWord) : Ctx → State → Res := uniFx f.d fun c => g (c.sr f.a)

/-- SADD.i. -/
def execSaddI (f : UI) (s : State) : Host.Outcome State Fault Refusal :=
  s.issueWord (.saddI f) (uiFx f fun a => a + f.imm.signExtend 64)
/-- SAND.i. -/
def execSandI (f : UI) (s : State) : Host.Outcome State Fault Refusal :=
  s.issueWord (.sandI f) (uiFx f fun a => a &&& f.imm.signExtend 64)
/-- SSHL.i. -/
def execSshlI (f : UI) (s : State) : Host.Outcome State Fault Refusal :=
  s.issueWord (.sshlI f) (uiFx f fun a => sshlV a (f.imm.extractLsb' 0 6).toNat)
/-- SSHR.i. -/
def execSshrI (f : UI) (s : State) : Host.Outcome State Fault Refusal :=
  s.issueWord (.sshrI f) (uiFx f fun a => sshrV a (f.imm.extractLsb' 0 6).toNat)
/-- SMOV.i. -/
def execSmovI (f : UI) (s : State) : Host.Outcome State Fault Refusal :=
  s.issueWord (.smovI f) (uiFx f fun _ => f.imm.signExtend 64)
/-- SMOVI: zero-extends, or sign-extends with selector 1 (11 R274). -/
def execSmovi (f : UW) (s : State) : Host.Outcome State Fault Refusal :=
  s.issueWord (.smovi f) (uniFx f.d fun _ => if f.a = 0 then f.w.setWidth 64 else f.w.signExtend 64)

/-! ## Bit fields and single lanes (11 R275 to R277) -/

/-- SBFE. -/
def sbfeV (sg : Bool) (pos len : Nat) (a : DWord) : DWord :=
  if len = 0 then 0
  else if sg then BitVec.ofInt 64 (sextN len (a.toNat / 2 ^ pos)) else BitVec.ofNat 64 (a.toNat / 2 ^ pos % 2 ^ len)

/-- SBFE. -/
def execSbfe (f : UW) (s : State) : Host.Outcome State Fault Refusal :=
  s.issueWord (.sbfe f) (uniFx f.d fun c => sbfeV (f.bit 13) (f.f 5 0) (f.f 12 6) (c.sr f.a))

/-- VGET: 0 where the lane is not live. -/
def execVget (f : UW) (s : State) : Host.Outcome State Fault Refusal :=
  s.issueWord (.vget f) (uniFx f.d fun c =>
    if c.trp.lm.getLsbD (laneNamed f c) then BitVec.ofNat 64 (c.regs f.top f.v (laneNamed f c)) else 0)

/-- VPUT: nothing where the lane is not active in the issuing split. -/
def execVput (f : UW) (s : State) : Host.Outcome State Fault Refusal :=
  s.issueWord (.vput f) fun c s =>
    .done (s.onTrp c fun T =>
      T.setVs f.top f.v ((1#32 <<< laneNamed f c) &&& c.sp.em &&& c.trp.lm) fun _ => (c.sr f.b).toNat)

end Sys2Proof.Machine
end

