-- ==== Sys2Proof/Machine/Dispatch.lean ====
section
/-! DEFINITION. One arm for each constructor of `Instr`: its meaning. -/
namespace Sys2Proof.Machine

/-- What an instruction does to the state. -/
def exec (i : Instr) (s : State) : Host.Outcome State Fault Refusal :=
  match i with
  | .iadd f => Sys2Proof.Machine.execIadd f s
  | .isub f => Sys2Proof.Machine.execIsub f s
  | .imul f => Sys2Proof.Machine.execImul f s
  | .imulh f => Sys2Proof.Machine.execImulh f s
  | .imin f => Sys2Proof.Machine.execImin f s
  | .imax f => Sys2Proof.Machine.execImax f s
  | .and f => Sys2Proof.Machine.execAnd f s
  | .or f => Sys2Proof.Machine.execOr f s
  | .xor f => Sys2Proof.Machine.execXor f s
  | .andn f => Sys2Proof.Machine.execAndn f s
  | .shl f => Sys2Proof.Machine.execShl f s
  | .shr f => Sys2Proof.Machine.execShr f s
  | .sar f => Sys2Proof.Machine.execSar f s
  | .popc f => Sys2Proof.Machine.execPopc f s
  | .clz f => Sys2Proof.Machine.execClz f s
  | .brev f => Sys2Proof.Machine.execBrev f s
  | .mov f => Sys2Proof.Machine.execMov f s
  | .faddF32 f => Sys2Proof.Machine.execFaddF32 f s
  | .fmulF32 f => Sys2Proof.Machine.execFmulF32 f s
  | .fminF32 f => Sys2Proof.Machine.execFminF32 f s
  | .fmaxF32 f => Sys2Proof.Machine.execFmaxF32 f s
  | .swizSel f => Sys2Proof.Machine.execSwizSel f s
  | .qpush f => Sys2Proof.Machine.execQpush f s
  | .imulhTyped f => Sys2Proof.Machine.execImulhTyped f s
  | .iminTyped f => Sys2Proof.Machine.execIminTyped f s
  | .imaxTyped f => Sys2Proof.Machine.execImaxTyped f s
  | .imad f => Sys2Proof.Machine.execImad f s
  | .iabs f => Sys2Proof.Machine.execIabs f s
  | .icmp f => Sys2Proof.Machine.execIcmp f s
  | .sel f => Sys2Proof.Machine.execSel f s
  | .lut3 f => Sys2Proof.Machine.execLut3 f s
  | .bfe f => Sys2Proof.Machine.execBfe f s
  | .bfi f => Sys2Proof.Machine.execBfi f s
  | .bsel f => Sys2Proof.Machine.execBsel f s
  | .movi f => Sys2Proof.Machine.execMovi f s
  | .iaddi f => Sys2Proof.Machine.execIaddi f s
  | .andi f => Sys2Proof.Machine.execAndi f s
  | .ori f => Sys2Proof.Machine.execOri f s
  | .xori f => Sys2Proof.Machine.execXori f s
  | .faddi f => Sys2Proof.Machine.execFaddi f s
  | .fmuli f => Sys2Proof.Machine.execFmuli f s
  | .fadd f => Sys2Proof.Machine.execFadd f s
  | .fmul f => Sys2Proof.Machine.execFmul f s
  | .ffma f => Sys2Proof.Machine.execFfma f s
  | .fmin f => Sys2Proof.Machine.execFmin f s
  | .fmax f => Sys2Proof.Machine.execFmax f s
  | .fcmp f => Sys2Proof.Machine.execFcmp f s
  | .frnd f => Sys2Proof.Machine.execFrnd f s
  | .fscl f => Sys2Proof.Machine.execFscl f s
  | .fcls f => Sys2Proof.Machine.execFcls f s
  | .frcp f => Sys2Proof.Machine.execFrcp f s
  | .frsq f => Sys2Proof.Machine.execFrsq f s
  | .fsqrt f => Sys2Proof.Machine.execFsqrt f s
  | .fexp2 f => Sys2Proof.Machine.execFexp2 f s
  | .flog2 f => Sys2Proof.Machine.execFlog2 f s
  | .cvt f => Sys2Proof.Machine.execCvt f s
  | .pack f => Sys2Proof.Machine.execPack f s
  | .unpk f => Sys2Proof.Machine.execUnpk f s
  | .cbdec f => Sys2Proof.Machine.execCbdec f s
  | .qscl f => Sys2Proof.Machine.execQscl f s
  | .qnt f => Sys2Proof.Machine.execQnt f s
  | .salsel f => Sys2Proof.Machine.execSalsel f s
  | .swiz f => Sys2Proof.Machine.execSwiz f s
  | .shx f => Sys2Proof.Machine.execShx f s
  | .agree f => Sys2Proof.Machine.execAgree f s
  | .ballot f => Sys2Proof.Machine.execBallot f s
  | .elect f => Sys2Proof.Machine.execElect f s
  | .rank f => Sys2Proof.Machine.execRank f s
  | .peers f => Sys2Proof.Machine.execPeers f s
  | .red f => Sys2Proof.Machine.execRed f s
  | .scan f => Sys2Proof.Machine.execScan f s
  | .ldl f => Sys2Proof.Machine.execLdl f s
  | .stl f => Sys2Proof.Machine.execStl f s
  | .lds f => Sys2Proof.Machine.execLds f s
  | .sts f => Sys2Proof.Machine.execSts f s
  | .ldb f => Sys2Proof.Machine.execLdb f s
  | .stb f => Sys2Proof.Machine.execStb f s
  | .ldk f => Sys2Proof.Machine.execLdk f s
  | .ldf f => Sys2Proof.Machine.execLdf f s
  | .stf f => Sys2Proof.Machine.execStf f s
  | .pfb f => Sys2Proof.Machine.execPfb f s
  | .ats f => Sys2Proof.Machine.execAts f s
  | .atb f => Sys2Proof.Machine.execAtb f s
  | .cass f => Sys2Proof.Machine.execCass f s
  | .casb f => Sys2Proof.Machine.execCasb f s
  | .reds f => Sys2Proof.Machine.execReds f s
  | .redb f => Sys2Proof.Machine.execRedb f s
  | .sadd f => Sys2Proof.Machine.execSadd f s
  | .ssub f => Sys2Proof.Machine.execSsub f s
  | .smul f => Sys2Proof.Machine.execSmul f s
  | .smulh f => Sys2Proof.Machine.execSmulh f s
  | .sand f => Sys2Proof.Machine.execSand f s
  | .sor f => Sys2Proof.Machine.execSor f s
  | .sxor f => Sys2Proof.Machine.execSxor f s
  | .sshl f => Sys2Proof.Machine.execSshl f s
  | .sshr f => Sys2Proof.Machine.execSshr f s
  | .ssar f => Sys2Proof.Machine.execSsar f s
  | .smin f => Sys2Proof.Machine.execSmin f s
  | .smax f => Sys2Proof.Machine.execSmax f s
  | .scmp f => Sys2Proof.Machine.execScmp f s
  | .ssel f => Sys2Proof.Machine.execSsel f s
  | .smov f => Sys2Proof.Machine.execSmov f s
  | .spopc f => Sys2Proof.Machine.execSpopc f s
  | .sclz f => Sys2Proof.Machine.execSclz f s
  | .saddI f => Sys2Proof.Machine.execSaddI f s
  | .sandI f => Sys2Proof.Machine.execSandI f s
  | .sshlI f => Sys2Proof.Machine.execSshlI f s
  | .sshrI f => Sys2Proof.Machine.execSshrI f s
  | .smovI f => Sys2Proof.Machine.execSmovI f s
  | .smovi f => Sys2Proof.Machine.execSmovi f s
  | .sbfe f => Sys2Proof.Machine.execSbfe f s
  | .vget f => Sys2Proof.Machine.execVget f s
  | .vput f => Sys2Proof.Machine.execVput f s
  | .bra f => Sys2Proof.Machine.execBra f s
  | .brd f => Sys2Proof.Machine.execBrd f s
  | .tok f => Sys2Proof.Machine.execTok f s
  | .meet f => Sys2Proof.Machine.execMeet f s
  | .call f => Sys2Proof.Machine.execCall f s
  | .ret f => Sys2Proof.Machine.execRet f s
  | .jmpx f => Sys2Proof.Machine.execJmpx f s
  | .dbnz f => Sys2Proof.Machine.execDbnz f s
  | .exit f => Sys2Proof.Machine.execExit f s
  | .yield f => Sys2Proof.Machine.execYield f s
  | .nop f => Sys2Proof.Machine.execNop f s
  | .trap f => Sys2Proof.Machine.execTrap f s
  | .brk f => Sys2Proof.Machine.execBrk f s
  | .eret f => Sys2Proof.Machine.execEret f s
  | .srd f => Sys2Proof.Machine.execSrd f s
  | .swr f => Sys2Proof.Machine.execSwr f s
  | .post f => Sys2Proof.Machine.execPost f s
  | .bintake f => Sys2Proof.Machine.execBintake f s
  | .clkrd f => Sys2Proof.Machine.execClkrd f s
  | .otinv f => Sys2Proof.Machine.execOtinv f s
  | .ginit f => Sys2Proof.Machine.execGinit f s
  | .arrive f => Sys2Proof.Machine.execArrive f s
  | .wait f => Sys2Proof.Machine.execWait f s
  | .tryw f => Sys2Proof.Machine.execTryw f s
  | .expect f => Sys2Proof.Machine.execExpect f s
  | .gbind f => Sys2Proof.Machine.execGbind f s
  | .gunb f => Sys2Proof.Machine.execGunb f s
  | .gflg f => Sys2Proof.Machine.execGflg f s
  | .fence f => Sys2Proof.Machine.execFence f s
  | .commit f => Sys2Proof.Machine.execCommit f s
  | .group f => Sys2Proof.Machine.execGroup f s
  | .build f => Sys2Proof.Machine.execBuild f s
  | .join f => Sys2Proof.Machine.execJoin f s
  | .expand f => Sys2Proof.Machine.execExpand f s
  | .repack f => Sys2Proof.Machine.execRepack f s
  | .rcount f => Sys2Proof.Machine.execRcount f s
  | .cld f => Sys2Proof.Machine.execCld f s
  | .cnar f => Sys2Proof.Machine.execCnar f s
  | .cinf f => Sys2Proof.Machine.execCinf f s
  | .cclr f => Sys2Proof.Machine.execCclr f s
  | .send f => Sys2Proof.Machine.execSend f s
  | .recv f => Sys2Proof.Machine.execRecv f s
  | .eapp f => Sys2Proof.Machine.execEapp f s
  | .eadv f => Sys2Proof.Machine.execEadv f s
  | .eseq f => Sys2Proof.Machine.execEseq f s
  | .pub f => Sys2Proof.Machine.execPub f s
  | .wprd f => Sys2Proof.Machine.execWprd f s
  | .macq f => Sys2Proof.Machine.execMacq f s
  | .mrel f => Sys2Proof.Machine.execMrel f s
  | .mldb f => Sys2Proof.Machine.execMldb f s
  | .mbsw f => Sys2Proof.Machine.execMbsw f s
  | .mlda f => Sys2Proof.Machine.execMlda f s
  | .mma f => Sys2Proof.Machine.execMma f s
  | .qmma f => Sys2Proof.Machine.execQmma f s
  | .mmas f => Sys2Proof.Machine.execMmas f s
  | .scacc f => Sys2Proof.Machine.execScacc f s
  | .mrd f => Sys2Proof.Machine.execMrd f s
  | .mwr f => Sys2Proof.Machine.execMwr f s
  | .mclr f => Sys2Proof.Machine.execMclr f s
  | .bind f => Sys2Proof.Machine.execBind f s
  | .slrd f => Sys2Proof.Machine.execSlrd f s
  | .slfl f => Sys2Proof.Machine.execSlfl f s
  | .ckgen f => Sys2Proof.Machine.execCkgen f s
  | .ckver f => Sys2Proof.Machine.execCkver f s
  | .ckrd f => Sys2Proof.Machine.execCkrd f s
  | .sqcfg f => Sys2Proof.Machine.execSqcfg f s
  | .sqload f => Sys2Proof.Machine.execSqload f s
  | .sqstg f => Sys2Proof.Machine.execSqstg f s
  | .sqdec f => Sys2Proof.Machine.execSqdec f s
  | .sqhis f => Sys2Proof.Machine.execSqhis f s
  | .entryNop ch e => Sys2Proof.Machine.execEntryNop ch e s
  | .copy ch e => Sys2Proof.Machine.execCopy ch e s
  | .copy2d ch e => Sys2Proof.Machine.execCopy2d ch e s
  | .fill ch e => Sys2Proof.Machine.execFill ch e s
  | .gather ch e => Sys2Proof.Machine.execGather ch e s
  | .gatherm ch e => Sys2Proof.Machine.execGatherm ch e s
  | .scatadd ch e => Sys2Proof.Machine.execScatadd ch e s
  | .allred ch e => Sys2Proof.Machine.execAllred ch e s
  | .rscat ch e => Sys2Proof.Machine.execRscat ch e s
  | .allgath ch e => Sys2Proof.Machine.execAllgath ch e s
  | .bcast ch e => Sys2Proof.Machine.execBcast ch e s
  | .submit ch e => Sys2Proof.Machine.execSubmit ch e s
  | .engineLanding ch seq => Sys2Proof.Machine.execEngineLanding ch seq s
  | .entryCompletion ch seq => Sys2Proof.Machine.execEntryCompletion ch seq s
  | .abortToken die group attempt => Sys2Proof.Machine.execAbortToken die group attempt s
  | .storeEntryDrain b id => Sys2Proof.Machine.execStoreEntryDrain b id s
  | .releaseArrival b id => Sys2Proof.Machine.execReleaseArrival b id s
  | .loadReturn b t id => Sys2Proof.Machine.execLoadReturn b t id s
  | .guardWake b t e => Sys2Proof.Machine.execGuardWake b t e s
  | .trywTimeout b t e => Sys2Proof.Machine.execTrywTimeout b t e s
  | .remoteArrival src seq o => Sys2Proof.Machine.execRemoteArrival src seq o s
  | .fabricOperation src seq o => Sys2Proof.Machine.execFabricOperation src seq o s
  | .fabricAcknowledgement dst seq => Sys2Proof.Machine.execFabricAcknowledgement dst seq s
  | .linkFailure link => Sys2Proof.Machine.execLinkFailure link s
  | .operationAbandoned dst seq => Sys2Proof.Machine.execOperationAbandoned dst seq s
  | .patrolScrub core => Sys2Proof.Machine.execPatrolScrub core s
  | .pageReplay b t e => Sys2Proof.Machine.execPageReplay b t e s
  | .shootdown id target => Sys2Proof.Machine.execShootdown id target s
  | .otinvCompletion id => Sys2Proof.Machine.execOtinvCompletion id s
  | .pubSwap b t e => Sys2Proof.Machine.execPubSwap b t e s
  | .messageArrival m => Sys2Proof.Machine.execMessageArrival m s
  | .messageRefusal m => Sys2Proof.Machine.execMessageRefusal m s
  | .postCompletion b t e => Sys2Proof.Machine.execPostCompletion b t e s
  | .binTimer core bin => Sys2Proof.Machine.execBinTimer core bin s
  | .binDrain core bin => Sys2Proof.Machine.execBinDrain core bin s
  | .blockPlacement task => Sys2Proof.Machine.execBlockPlacement task s
  | .blockEnd b => Sys2Proof.Machine.execBlockEnd b s
  | .troupePromotion b t => Sys2Proof.Machine.execTroupePromotion b t s
  | .yieldEnd b t => Sys2Proof.Machine.execYieldEnd b t s
  | .queueWake b t e => Sys2Proof.Machine.execQueueWake b t e s
  | .qdryDeadlock b t => Sys2Proof.Machine.execQdryDeadlock b t s
  | .populationExecute b sc => Sys2Proof.Machine.execPopulationExecute b sc s
  | .populationComplete b sc => Sys2Proof.Machine.execPopulationComplete b sc s
  | .collstallClose b sc => Sys2Proof.Machine.execCollstallClose b sc s
  | .macqGrant core => Sys2Proof.Machine.execMacqGrant core s
  | .matrixCompletion core => Sys2Proof.Machine.execMatrixCompletion core s
  | .mldbReplay core => Sys2Proof.Machine.execMldbReplay core s
  | .graphStart part => Sys2Proof.Machine.execGraphStart part s
  | .graphCompletion g => Sys2Proof.Machine.execGraphCompletion g s
  | .kernelNode g n => Sys2Proof.Machine.execKernelNode g n s
  | .condNode g n => Sys2Proof.Machine.execCondNode g n s
  | .whileNode g n => Sys2Proof.Machine.execWhileNode g n s
  | .whileIteration g n => Sys2Proof.Machine.execWhileIteration g n s
  | .engineNode g n => Sys2Proof.Machine.execEngineNode g n s
  | .gangNode g n => Sys2Proof.Machine.execGangNode g n s
  | .gangReady g n pkg tick => Sys2Proof.Machine.execGangReady g n pkg tick s
  | .gangStartTick g n => Sys2Proof.Machine.execGangStartTick g n s
  | .gangTimeout g n pkg => Sys2Proof.Machine.execGangTimeout g n pkg s
  | .binNode g n => Sys2Proof.Machine.execBinNode g n s
  | .eventRecord src => Sys2Proof.Machine.execEventRecord src s
  | .preemptHaltComplete part => Sys2Proof.Machine.execPreemptHaltComplete part s
  | .linkFlitError link => Sys2Proof.Machine.execLinkFlitError link s
  | .meshBeatError core dir => Sys2Proof.Machine.execMeshBeatError core dir s
  | .doorbellWrite part sup v => Sys2Proof.Machine.execDoorbellWrite part sup v s
  | .partition ses c => Sys2Proof.Machine.execPartition ses c s
  | .keyset ses part slot key => Sys2Proof.Machine.execKeyset ses part slot key s
  | .preempt ses part => Sys2Proof.Machine.execPreempt ses part s
  | .swap ses part => Sys2Proof.Machine.execSwap ses part s
  | .resume ses part => Sys2Proof.Machine.execResume ses part s
  | .capCmd ses watts => Sys2Proof.Machine.execCapCmd ses watts s
  | .debugCmd ses part o => Sys2Proof.Machine.execDebugCmd ses part o s
  | .stepCommand ses b t e => Sys2Proof.Machine.execStepCommand ses b t e s
  | .linkCmd ses link => Sys2Proof.Machine.execLinkCmd ses link s
  | .getVersion ok => Sys2Proof.Machine.execGetVersion ok s
  | .getCapabilities ok => Sys2Proof.Machine.execGetCapabilities ok s
  | .negotiateAlgorithms ok => Sys2Proof.Machine.execNegotiateAlgorithms ok s
  | .getDigests ok => Sys2Proof.Machine.execGetDigests ok s
  | .getCertificate ok => Sys2Proof.Machine.execGetCertificate ok s
  | .challenge ok => Sys2Proof.Machine.execChallenge ok s
  | .getMeasurements ok => Sys2Proof.Machine.execGetMeasurements ok s
  | .keyExchange ok => Sys2Proof.Machine.execKeyExchange ok s
  | .finish ok => Sys2Proof.Machine.execFinish ok s
  | .securityAlarm level part => Sys2Proof.Machine.execSecurityAlarm level part s
  | .clockSync offset => Sys2Proof.Machine.execClockSync offset s
  | .timeMasterTakeover pkg => Sys2Proof.Machine.execTimeMasterTakeover pkg s
  | .powerStep n watts => Sys2Proof.Machine.execPowerStep n watts s
  | .powerGood => Sys2Proof.Machine.execPowerGood s
  | .bringupStageEnd cause => Sys2Proof.Machine.execBringupStageEnd cause s

end Sys2Proof.Machine
end

