-- ==== Sys2Proof/Machine/Sched.lean ====
section
/-! DEFINITION. What may happen next: the internal events that are enabled, and the troupes that may issue (06 R179 to
R183). -/
namespace Sys2Proof.Machine

/-! ## What a halt suspends (08 R225) -/

/-- Whether a partition's cores run. -/
def State.runs (s : State) (part : Nat) : Bool :=
  match s.ctl.parts.find part with
  | some P => !P.halted
  | none => false

/-- Whether a block is in an active context of a partition that runs. -/
def State.live (s : State) (B : Block) : Bool :=
  !B.swapped && match s.tasks.find B.task with
    | some K => s.runs K.part
    | none => false

/-- Whether a core's partition runs. -/
def State.coreRuns (s : State) (core : Nat) : Bool :=
  match s.partOf core with
  | some p => s.runs p
  | none => false

/-- An event, if it is enabled. -/
def when (p : Bool) (i : Instr) : List Instr := if p then [i] else []

/-! ## Events of blocks -/

/-- The events that end the wait of a split. -/
def State.splitEvents (s : State) (b t e : Nat) (w : Wait) (part : Nat) : List Instr :=
  match w with
  | .guard g n => when (s.phaseHolds g n || s.slicePoisoned g 4) (.guardWake b t e)
  | .tryw g n _ dl => when (s.phaseHolds g n || s.slicePoisoned g 4) (.guardWake b t e) ++ when (decide (s.ctl.clk.toNat ≥ dl)) (.trywTimeout b t e)
  | .recv p o => when (s.hasMsg p o) (.guardWake b t e)
  | .page p o pg back wr _ => when (s.pageUsable b p o pg back wr) (.pageReplay b t e)
  | .pub c => when (!s.landing part c) (.pubSwap b t e)
  | .swapped h p o => when (!s.swapDue h p o) (.pubSwap b t e)
  | .post => [.postCompletion b t e]
  | .queue q push m => when (s.queueReady b t e q push m) (.queueWake b t e)
  | .ready | .meet _ | .pop _ _ | .commit _ | .payload _ | .macq | .otinv _ | .held => []

/-- Whether the page an instance lacks has become usable (01 R35), and its event has been recorded (07 R213). -/
def State.instReady (s : State) (core : Nat) (I : Inst) : Bool :=
  match I.lack with
  | none => true
  | some (k, w) => !s.askPending core (keyPart k) (keyObj k) (s.pageNo k) &&
    match (s.translate (dieOf core) (keyPart k) (keyObj k) (keyCopy k) (keyOff k) w).1 with
    | .absent | .notWritable => false
    | _ => true

/-- The events of an open instance. -/
def State.instEvents (s : State) (b : Nat) (B : Block) (sc : Scope) (I : Inst) : List Instr :=
  if I.started then [.populationComplete b sc]
  else if B.allArrived I then when (s.instReady B.core I) (.populationExecute b sc)
  else when (B.stalled I).isSome (.collstallClose b sc)

/-- The events of a troupe. -/
def State.troupeEvents (s : State) (b : Nat) (B : Block) (part t : Nat) (T : Troupe) : List Instr :=
  (T.loads.map fun (p : Nat × Load) => Instr.loadReturn b t p.1) ++
    (T.splits.flatMap fun (p : Nat × Split) => s.splitEvents b t p.1 p.2.wait part) ++
    (match T.inst with
      | some I => s.instEvents b B (.troupe t) I
      | none => []) ++
    when (decide (T.passed ≥ 64) && !T.promoted) (.troupePromotion b t) ++ when T.yielded (.yieldEnd b t) ++
    when (decide (t < 32) && s.pairDry b B t) (.qdryDeadlock b t)

/-- The events of a block. -/
def State.blockEvents (s : State) (b : Nat) (B : Block) : List Instr :=
  if !s.live B then []
  else
    let part := ((s.tasks.find B.task).map Task.part).getD 0
    (B.buf.flatMap fun (e : Nat × BufEntry) => when (s.mayDrain b B.buf e.1 e.2) (.storeEntryDrain b e.1)) ++
      (B.releases.flatMap fun (r : Nat × Release) => when (s.mayArrive b B r.1 r.2) (.releaseArrival b r.1)) ++
      (B.troupes.flatMap fun (t : Nat × Troupe) => s.troupeEvents b B part t.1 t.2) ++
      (match B.inst with
        | some I => s.instEvents b B .block I
        | none => []) ++
      when (s.ending B b) (.blockEnd b) ++ when B.backReady (.storeEntryDrain b s.fresh)

/-! ## Events of cores, graphs, engines -/

/-- The events of a core. -/
def State.coreEvents (s : State) (core : Nat) (C : Core) : List Instr :=
  (C.bins.flatMap fun (x : Nat × Bin) =>
    when (x.2.deadline.any (fun d => decide (s.ctl.clk.toNat ≥ d)) && !x.2.held.isEmpty) (.binTimer core x.1) ++
      when (s.binDrains x.2 x.1 || (x.2.home = core && s.binDone x.2.task)) (.binDrain core x.1)) ++
    (if !s.coreRuns core then []
    else when (C.mat.requests.head?.any (s.mayGrant core)) (.macqGrant core) ++
      when (!C.mat.queue.isEmpty && !s.replaying core && !s.matHeld core) (.matrixCompletion core) ++ when C.mat.replay (.mldbReplay core)) ++
    when (s.mem.flips.any fun u => 8 * u / 2 ^ 22 = core) (.patrolScrub core)

/-- The event that starts a ready node. -/
def State.nodeEvent (s : State) (g n : Nat) (G : Graph) : Instr :=
  match s.kindOf G n with
  | 2 => .condNode g n
  | 3 => .whileNode g n
  | 4 => .engineNode g n
  | 5 => .gangNode g n
  | 6 => .binNode g n
  | _ => .kernelNode g n

/-- The events of a graph. -/
def State.graphEvents (s : State) (g : Nat) (G : Graph) : List Instr :=
  (G.ready.flatMap fun n => when (s.startable g n) (s.nodeEvent g n G)) ++
    (G.loops.flatMap fun n => when (s.iterated g n) (.whileIteration g n)) ++
    (G.engines.flatMap fun (x : Nat × Nat × Nat) => when (!s.here x.2.1) (.engineNode g x.1)) ++
    (G.gangs.flatMap fun (x : Nat × Gang) =>
      when (!x.2.started && !x.2.ready.contains s.ctl.pkg && s.gangResident x.2) (.gangReady g x.1 s.ctl.pkg s.ctl.clk.toNat) ++
        when (s.gangDue x.2) (.gangStartTick g x.1) ++
        x.2.mask.flatMap fun p => when (s.gangLate x.2 p) (.gangTimeout g x.1 p)) ++
    when G.finished (.graphCompletion g)

/-- Whether a held block of a task, or a full bin, can be placed. -/
def State.placeable (s : State) (task : Nat) (K : Task) : Bool :=
  if K.bin.isSome then (s.binsOf task).any fun x => match s.bin x.1 x.2 with
    | some B => decide (B.held.length ≥ B.count) && (s.binCore x.1 K).isSome
    | none => false
  else decide (K.next < K.launch.blocks) &&
    ((s.ctl.parts.find K.part).bind fun P => s.chooseCore P K.launch).isSome

/-- The events of engines. -/
def State.engineEvents (s : State) : List Instr :=
  (((s.eng.owners.filter fun o => !o.taken).map Owner.chain).eraseDups.flatMap fun ch =>
    if !s.mayTake ch then []
    else match s.headEntry ch with
      | some (_, op, e) => [(entryInstr op ch e).getD (.entryNop ch e)]
      | none => []) ++
    s.eng.running.flatMap fun (x : Nat × Running) =>
      let r := x.2
      if s.heldCopy r.owner || r.ended then []
      else if r.done < r.total then
        when (decide (r.flight = 0) && (!(0x20 ≤ r.op && r.op ≤ 0x23) || r.result.isSome || s.cutOff r || s.allCome r)) (.engineLanding r.chain r.seq)
      else when (!r.passed || r.result.isSome) (.entryCompletion r.chain r.seq)

/-- The events of partitions. -/
def State.partEvents (s : State) (part : Nat) (P : Part) : List Instr :=
  when (!P.queue.isEmpty && !s.ctl.locked) (.graphStart part) ++ when P.halting (.preemptHaltComplete part)

/-- The events of the fabric, the shoot-downs, messages and the event arbiter. -/
def State.packageEvents (s : State) : List Instr :=
  (s.eng.otinv.flatMap fun (x : Nat × Otinv) =>
    if x.2.holders.isEmpty then [Instr.otinvCompletion x.1]
    else (x.2.holders.filter fun h => h < 8 && !x.2.gen && !s.dieBusy h x.2 || 100 ≤ h).map fun h => .shootdown x.1 h) ++
    (s.eng.msgs.flatMap fun m => when (s.firstMsg m && (s.refusesMsg m || s.takesMsg m)) (.messageArrival m)) ++
    (s.eng.refused.map Instr.messageRefusal) ++
    (s.eng.early.flatMap fun x => when (s.earlyDue x.1 x.2.1 x.2.2)
      (if x.2.2.guard?.isSome then .remoteArrival x.1 x.2.1 x.2.2 else .fabricOperation x.1 x.2.1 x.2.2)) ++
    (((s.ctl.events.map Event.src).eraseDups).flatMap fun k =>
      when ((s.ctl.events.find? fun e => e.src = k).any s.eventRoom) (.eventRecord k)) ++
    (s.ctl.links.flatMap fun (l : Nat × Lnk) => when (l.2.up && decide (l.2.retries ≥ 9)) (.linkFailure l.1)) ++
    (s.eng.sent.flatMap fun x =>
      when (!s.ctl.reach.contains x.dst) (.operationAbandoned x.dst ⟨x.op.guard?, x.seq⟩)) ++
    s.eng.gangs.flatMap fun (x : Nat × FarGang) =>
      when (s.shareReady x.2) (.gangReady x.1 0 s.ctl.pkg s.ctl.clk.toNat) ++ when (s.shareDue x.2) (.gangStartTick x.1 0)

/-- All internal events that are enabled. -/
def State.events (s : State) : List Instr :=
  (s.blocks.flatMap fun (b : Nat × Block) => s.blockEvents b.1 b.2) ++
    (s.cores.flatMap fun (c : Nat × Core) => s.coreEvents c.1 c.2) ++
    (s.graphs.flatMap fun (g : Nat × Graph) => s.graphEvents g.1 g.2) ++
    (s.tasks.flatMap fun (k : Nat × Task) => when (s.placeable k.1 k.2) (.blockPlacement k.1)) ++
    when (s.eng.late.any s.lateDue) (.pageReplay (max s.fresh (Tab.fresh s.blocks)) 0 0) ++
    s.engineEvents ++ (s.ctl.parts.flatMap fun (p : Nat × Part) => s.partEvents p.1 p.2) ++ s.packageEvents

end Sys2Proof.Machine

namespace Sys2Proof

/-- A management command: one waits until the last is answered (09 R239). -/
def Instr.command : Instr → Bool
  | .partition _ _ | .keyset _ _ _ _ | .preempt _ _ | .swap _ _ | .resume _ _ | .capCmd _ _ | .debugCmd _ _ _
  | .stepCommand _ _ _ _ | .linkCmd _ _ => true
  | _ => false

end Sys2Proof

namespace Sys2Proof.Machine

/-- The oldest event from outside, if it can be taken. An instruction word comes from no one outside: it stays. -/
def State.outside (s : State) : Option Instr :=
  match s.inputs with
  | [] => none
  | i :: _ => if i.isWord || (i.command && s.ctl.parts.any fun p => p.2.halting) then none else some i

/-! ## Issue (06 R179 to R181) -/

/-- What is fetched for the issuing split, if it may issue: the word's own fetch or decoding fault, or the fault of a run
that breaks a rule, met at the run's first word (10 R253, R262). -/
def State.preIssue (s : State) (c : Ctx) : Except Raise Instr :=
  match s.fetch c.task c.sp.pc.toNat with
  | .error r => .error r
  | .ok i =>
    if i.h && c.trp.run.isNone && (c.causes i).all (fun k => decide (k > 10)) then
      match s.runFault c.task c.trp c.sp.pc.toNat with
      | some d => .error ⟨0x01, 0, d⟩
      | none => .ok i
    else .ok i

/-- Whether the run that begins or goes on at a word holds a uniform-set instruction. -/
def State.runUniform (s : State) (K : Task) : Nat → Nat → Bool
  | 0, _ => false
  | n + 1, pc => match s.fetch K pc with
    | .error _ => false
    | .ok i => !i.isLane || (i.h && s.runUniform K n (pc + i.size))

/-- A troupe that is ready: its split, whether the instruction is lane-set, whether a run in progress delays it, and its
rank, least first. -/
structure Bid where
  r : Ref
  lane : Bool
  delayed : Bool
  rank : List Nat
  deriving DecidableEq, Repr

/-- The split a troupe issues from: the one in a run, the one a step command names, else the youngest that is ready (01 R24,
R36; 08 R231). -/
def Troupe.chosen (T : Troupe) : Option Nat :=
  let ready (e : Nat) : Bool := (T.splits.find e).any fun S => S.wait = .ready
  if T.yielded then none
  else match (if T.stopped then T.stepping else match T.run with
      | some r => some r.e
      | none => T.youngestSplit fun S => S.wait = .ready) with
    | some e => if ready e then some e else none
    | none => none

/-- Where a role stands in the ranking: loader, storer, compute (06 R180). -/
def roleRank (role : Nat) : Nat :=
  match role with
  | 1 => 0
  | 2 => 1
  | _ => 2

/-- Whether another troupe of a core has a run in progress that holds a uniform-set instruction (06 R181). -/
def State.uniformRun (s : State) (core b t : Nat) : Bool :=
  (s.blocksOn core).any fun x => x.2.troupes.any fun (y : Nat × Troupe) =>
    !(x.1 = b && y.1 = t) && match y.2.run, s.tasks.find x.2.task with
      | some r, some K => s.runUniform K 8 r.first.toNat
      | _, _ => false

/-- Whether a page that an instance's object lacks holds up the block (01 R35, 07 R205). -/
def Block.lacking (B : Block) : Bool :=
  (B.inst.toList ++ B.troupes.filterMap fun p => p.2.inst).any fun I => I.lack.isSome

/-- Whether the matrix unit can accept a word of the block that holds it: its queue has room for four, and an MRD, SLRD, MREL
or the validation of an MMAS comes when every earlier entry has completed (06 R179, 14 R350). -/
def State.matAccepts (s : State) (c : Ctx) (i : Instr) : Bool :=
  let U := s.unit c.blk.core
  U.holder ≠ some c.b || match i with
    | .mldb _ | .mbsw _ | .mlda _ | .mma _ | .qmma _ | .scacc _ | .mwr _ | .mclr _ | .bind _ | .slfl _ => decide (U.queue.length < 4)
    | .mmas _ => U.queue.isEmpty
    | .mrd _ | .slrd _ | .mrel _ => U.queue.isEmpty && !s.replaying c.blk.core
    | _ => true

/-- The bid of a troupe, if it is ready (06 R179, R180): one whose word was found not able to issue, earlier accesses being
outstanding, is not until something else has happened. -/
def State.bid (s : State) (core b : Nat) (B : Block) (t : Nat) (T : Troupe) : Option Bid :=
  if B.gang || B.lacking || (s.core core).stalls.contains (b, t) then none
  else match T.chosen with
    | none => none
    | some e =>
      let r : Ref := ⟨b, t, e⟩
      match ({ s with cur := some r }).focus? with
      | none => none
      | some c =>
        let rank := [if T.run.isSome then 0 else 1, if T.promoted || decide (T.passed ≥ 64) then 0 else 1, roleRank T.role,
          T.start, b, t]
        match s.fetch c.task c.sp.pc.toNat with
        | .error _ => some ⟨r, false, false, rank⟩
        | .ok i =>
          if (c.causes i).isEmpty && (c.interlock i || s.trails c i || !s.matAccepts c i) then none
          else some ⟨r, i.isLane, i.h && T.run.isNone && s.runUniform c.task 8 c.sp.pc.toNat && s.uniformRun core b t, rank⟩

/-- The order of ranks. -/
def rankLt : List Nat → List Nat → Bool
  | a :: x, b :: y => decide (a < b) || (a = b && rankLt x y)
  | _, _ => false

/-- The highest-ranked of some bids. -/
def bestBid : List Bid → Option Bid
  | [] => none
  | x :: r => some (r.foldl (fun y z => if rankLt z.rank y.rank then z else y) x)

/-- What may happen next: an internal event, the oldest event from outside, or an issue in a slot of a core, of a new cycle
or not, with the troupes it passes over; or a word that issues once more in its slot (08 R215), whose results stand already. -/
inductive Move where
  | event (i : Instr)
  | input (i : Instr)
  | issue (core slot : Nat) (cycle : Bool) (r : Ref) (skipped : List (Nat × Nat))
  | again (core slot : Nat) (cycle : Bool) (p : Nat × Nat) (skipped : List (Nat × Nat))
  deriving DecidableEq, Repr

/-- The slots held by the troupes that are in a run (01 R36, 06 R181). -/
def State.holds (s : State) (core : Nat) : Tab (Nat × Nat) :=
  (s.core core).hold.filter fun h => ((s.trp? h.2.1 h.2.2).bind Troupe.run).isSome

/-- Whether a troupe may issue in a slot: another troupe's run does not hold it, and its own run holds no other lane
slot. -/
def mayTakeSlot (hold : Tab (Nat × Nat)) (slot : Nat) (p : Nat × Nat) : Bool :=
  (match hold.find slot with
    | some h => h = p
    | none => true) && (2 ≤ slot || hold.all fun h => h.2 ≠ p || h.1 = slot || h.1 = 2)

/-- A core's slots in which a word is to issue again, with how often, and its troupe, still there. -/
def State.owed (s : State) (core : Nat) : Tab (Nat × Nat × Nat) :=
  (s.core core).again.filter fun x => (s.trp? x.2.2.1 x.2.2.2).isSome && (s.blocks.find x.2.2.1).any fun B => B.core = core && !B.swapped

/-- The troupe of a bid. -/
def Bid.id (x : Bid) : Nat × Nat := (x.r.b, x.r.t)

/-- The troupes that an issue of troupe `p` in a slot passes over: those eligible for the slot, and those a run in progress
delays: one holds a slot of their kind, or keeps their own run from starting (06 R180, R181). -/
def passedOver (hold : Tab (Nat × Nat)) (left : List Bid) (slot : Nat) (p : Nat × Nat) : List (Nat × Nat) :=
  (left.filter fun y => y.id ≠ p && (y.delayed || y.lane = decide (slot < 2) ||
    hold.any fun h => h.2 ≠ y.id && y.lane = decide (h.1 < 2))).map Bid.id

/-- The issue in one slot: lane slots 0 and 1, the uniform slot 2: the word that issued there again, where that is owed, else the
highest-ranked of the troupes that have not issued in the cycle, and are to issue nothing again in it. -/
def slotMove (core : Nat) (hold : Tab (Nat × Nat)) (owed : Tab (Nat × Nat × Nat)) (bids : List Bid) (issued : List (Nat × Nat))
    (cycle : Bool) (slot : Nat) : Option Move :=
  let left := bids.filter fun x => !issued.contains x.id && owed.all fun y => y.2.2 ≠ x.id
  match owed.find slot with
  | some y => some (.again core slot cycle y.2 (passedOver hold left slot y.2))
  | none =>
    (bestBid (left.filter fun x => x.lane = decide (slot < 2) && !x.delayed && mayTakeSlot hold slot x.id)).map fun x =>
      .issue core slot cycle x.r (passedOver hold left slot x.id)

/-- A cycle of a core ends: troupes passed over in it count it, the others start again at 0; one that has counted 64 stays
promoted until it issues (06 R180). -/
def State.endCycle (s : State) (core : Nat) : State :=
  let C := s.core core
  { s with blocks := s.blocks.map fun (b : Nat × Block) =>
      if b.2.core ≠ core || b.2.swapped then b
      else (b.1, { b.2 with troupes := b.2.troupes.map fun (t : Nat × Troupe) =>
        if C.issued.contains (b.1, t.1) then (t.1, { t.2 with passed := 0, promoted := false })
        else (t.1, { t.2 with passed :=
          if C.passed.contains (b.1, t.1) then t.2.passed + 1 else if 64 ≤ t.2.passed then t.2.passed else 0 }) }) }

/-- The bids of a core's troupes. -/
def State.bids (s : State) (core : Nat) : List Bid :=
  (s.blocksOn core).flatMap fun x => x.2.troupes.filterMap fun (y : Nat × Troupe) => s.bid core x.1 x.2 y.1 y.2

/-- The next issue of a core: in the slots left of this cycle, else in a new one. -/
def State.coreMove (s : State) (core : Nat) : Option Move :=
  if !s.coreRuns core then none
  else
    let C := s.core core
    let bids := s.bids core
    let move := slotMove core (s.holds core) (s.owed core)
    (((List.range 3).drop C.slot).findSome? fun k => move bids C.issued false k).orElse fun _ =>
      let next := (s.endCycle core).bids core
      (List.range 3).findSome? fun k => move next [] true k

/-- Everything that may happen next. -/
def State.moves (s : State) : List Move :=
  (s.events.map Move.event) ++ (s.outside.toList.map Move.input) ++
    (((s.blocks.map fun (b : Nat × Block) => b.2.core).eraseDups).filterMap s.coreMove)

/-- What happens next: one of the moves, by a free choice. -/
def State.choice (s : State) : Option Move :=
  match s.moves with
  | [] => none
  | [m] => some m
  | m :: ms => some ((m :: ms).getD (Config.choose s.tick % (m :: ms).length) m)

/-- A slot of a core is taken by a troupe, once of the times it is owed; slots whose run has ended are held no longer. -/
def State.takeSlot (s : State) (core slot : Nat) (cycle : Bool) (p : Nat × Nat) (skipped : List (Nat × Nat)) : State :=
  let s1 := if cycle then s.endCycle core else s
  let old (xs : List (Nat × Nat)) : List (Nat × Nat) := if cycle then [] else xs
  s1.modCore core fun C => { C with
    slot := slot + 1, issued := old C.issued ++ [p], passed := (old C.passed ++ skipped).eraseDups
    hold := s.holds core
    again := (s.owed core).filterMap fun x =>
      if x.1 ≠ slot then some x else if x.2.1 ≤ 1 then none else some (x.1, x.2.1 - 1, x.2.2) }

/-- How often a word issues beyond once: a lane word once more where `chk` is 2, and as often again where a check of the pipes
has it repeated (08 R214, R215; DESIGN CHOICE, log 85: its results stand at its first issue). -/
def State.repeats (s : State) (c : Ctx) (i : Instr) : Nat :=
  let n := if i.isLane && c.trp.chk = 2 then 2 else 1
  match s.pipeCheck c i with
  | .ok (false, _) => n - 1
  | _ => 2 * n - 1

/-- A run that a word has begun holds the slot in which that issued (01 R36). -/
def State.holdSlot (s : State) (core slot : Nat) (r : Ref) : State :=
  if ((s.trp? r.b r.t).bind Troupe.run).isSome && (s.core core).hold.all fun h => h.2 ≠ (r.b, r.t) then
    s.modCore core fun C => { C with hold := C.hold.put slot (r.b, r.t) }
  else s

/-- Time passes: the clock, which no core reads the same in two steps (09 R237), and the counter of free values. -/
def State.pass (s : State) : State :=
  { s with tick := s.tick + 1, ctl := { s.ctl with clk := s.ctl.clk + BitVec.ofNat 64 (1 + Config.passes s.tick) } }

/-- Something has happened: the words found not able to issue are looked at again. -/
def State.stir (s : State) : State :=
  { s with cores := s.cores.map fun c => if c.2.stalls.isEmpty then c else (c.1, { c.2 with stalls := [] }) }

/-- The state in which a move is made. -/
def State.enter (s : State) (m : Move) : State :=
  match m with
  | .event _ => s.pass.stir
  | .input _ => { s.pass.stir with inputs := s.inputs.drop 1 }
  | .issue core slot cycle r skipped => { (s.pass.takeSlot core slot cycle (r.b, r.t) skipped) with cur := some r }
  | .again core slot cycle p skipped => (s.pass.takeSlot core slot cycle p skipped).stir

/-- The word that has issued is to issue again in its slot as often as its checks call for. -/
def State.oweAgain (s : State) (core slot : Nat) (r : Ref) (s1 : State) : State :=
  match s.focus? with
  | none => s1
  | some c => match s.preIssue c with
    | .error _ => s1
    | .ok i => match if (c.causes i).isEmpty then s.repeats c i else 0 with
      | 0 => s1
      | n => s1.modCore core fun C => { C with again := C.again.put slot (n, r.b, r.t) }

/-- The state in which an issue from `s` leaves the machine, when the word has come to `s1`: a word that could not issue has
taken no slot, and its troupe is left out until something else has happened; else all are looked at again. -/
def State.leave (s : State) (m : Move) (s1 : State) : State :=
  match m with
  | .issue core slot _ r _ =>
    if s1.cur.isNone then s.pass.modCore core fun C => { C with stalls := C.stalls ++ [(r.b, r.t)] }
    else ((s.enter m).oweAgain core slot r (s1.holdSlot core slot r)).stir
  | .event _ | .input _ | .again _ _ _ _ _ => s1

end Sys2Proof.Machine
end

