-- ==== Sys2Proof/Machine/Step.lean ====
section
/-! DEFINITION. One step of the package: one internal event, one event from outside, or the issue of one instruction word;
with nothing to do, only time passes. -/
namespace Sys2Proof.Machine

/-- A chosen split issues the word at its program counter, or takes the fault its fetch raises (10 R262, R263). -/
def State.issue (s : State) : Host.Outcome State Fault Refusal :=
  match s.focus? with
  | none => .next s
  | some c => match s.preIssue c with
    | .error r => .next (s.raiseFault c r c.sp.pc)
    | .ok i => exec i s

/-- Makes a move. -/
def State.act (s : State) (m : Move) : Host.Outcome State Fault Refusal :=
  match m with
  | .event i => exec i s
  | .input i => exec i s
  | .issue _ _ _ _ _ => s.issue
  | .again _ _ _ _ _ => .next s

/-- One step. -/
def step (s : State) : Host.Outcome State Fault Refusal :=
  match s.choice with
  | none => .next s.pass
  | some m => match (s.enter m).act m with
    | .next s1 => .next (s.leave m s1)
    | o => o

/-! ## Loading an instruction from outside -/

/-- Places the bytes of an instruction at a word of a code object. -/
def State.putCode (s : State) (o pc : Nat) (bs : List Byte) : State :=
  { s with mem := { s.mem with
      code := Mem.write s.mem.code (2 ^ 40 * o + 4 * pc) bs
      codeLen := s.mem.codeLen.put o (max (s.mem.codeLen.get 0 o) (pc + 2)) } }

/-- The launch of the block that `State.withFetchWord` sets up: one troupe, 128 registers, entry 0. -/
def loadLaunch : Launch where
  regs := 128
  troupes := 1
  tmax := 1
  role := 0
  shd := false
  trp := false
  ck := true
  chk := 0
  prv := false
  blocks := 1
  code := 1
  entry := 0
  shadow := 0
  trap := 0
  table := 0
  args := 0
  arglen := 0
  spill := none
  errors := 0
  columns := 0

/-- The partition it runs in: the first quad. -/
def loadPart : PartCfg where
  part := 0
  quads := [0]
  slots := []
  objtab := 0
  events := 0
  eventCap := 0
  user := 0
  super := 0
  lenU := 2
  lenS := 2
  chain := 0
  channels := 0
  groups := 0
  peers := []
  plaintext := true
  status := 0

/-- A package that holds one block of one troupe on core 0, about to issue its first instruction, and nothing else to do:
what bring-up, a launch and a placement come to. -/
def State.loaded (s : State) : State :=
  { s with
    cur := none
    inputs := []
    blocks := [(1, mkBlock loadLaunch 1 0 0 0 none)]
    tasks := [(1, { part := 0, launch := loadLaunch, next := 1 })]
    cores := []
    graphs := []
    mem := { s.mem with flips := [] }
    eng := { s.eng with running := [], owners := [], sent := [], early := [], msgs := [], refused := [], otinv := [], late := [], gangs := [] }
    ctl := { s.ctl with parts := [(0, { cfg := loadPart })], events := [], links := [], stage := 6 } }

/-- The state with an instruction placed where the next step fetches: at the word the one split that is about to issue
points to; a package with something else to do, or nothing, is first loaded. -/
def State.withFetchWord (s : State) (nbits w : Nat) : State :=
  let bs := leBytes 8 (w % 2 ^ nbits)
  match s.moves with
  | [.issue _ _ _ r _] => match ({ s with cur := some r }).focus? with
    | some c => s.putCode (2 ^ 24 * c.task.part + c.task.launch.code) c.sp.pc.toNat bs
    | none => s.loaded.putCode 1 0 bs
  | _ => s.loaded.putCode 1 0 bs

end Sys2Proof.Machine
end

