-- ==== Sys2Proof/WellFormed.lean ====
section
/-! DEFINITION. Which instructions are well formed: the fields stand for words, no field an entry leaves unused is set,
and no static cause of ILLEGAL of 10 Table 10.8 applies. Steps that are no instruction words are always well formed. -/
namespace Sys2Proof

/-- The record of a two-word uniform instruction keeps 0 in [31:24] of `w`, where the fn stands, but for SMOVI, whose
selector is 0 or 1 (10 R259). -/
def Instr.canonical (i : Instr) : Bool :=
  match i.form with
  | .uw _ _ f => f.w &&& 0xFF000000#32 == 0
  | .us f => f.a ≤ 1#6
  | _ => true

/-- An instruction whose words break no static rule: cause 3 (`unused`) and causes 4 to 7 and 11 (`staticCause`). -/
def Instr.WellFormed (i : Instr) : Prop := i.canonical = true ∧ i.unused = false ∧ i.staticCause = none

/-- The Boolean check of `WellFormed`. -/
def Instr.wellFormed (i : Instr) : Bool := i.canonical && !i.unused && i.staticCause.isNone

/-- The check decides well-formedness. -/
theorem Instr.wellFormed_iff (i : Instr) : i.wellFormed = true ↔ i.WellFormed := by
  simp [Instr.wellFormed, Instr.WellFormed, and_assoc]

end Sys2Proof
end

