-- ==== Sys2Proof/Safety.lean ====
section
/-! DEFINITION. What counts as a safe run: one in which every step answers a next state; and the invariant claims rest on:
the memories of the package stay in their canonical form. -/
namespace Sys2Proof.Machine

/-- A state from which every run goes on: no number of steps ends in a fault or a refusal. -/
def Safe (s : State) : Prop := ∀ k, ∃ t, Host.Core.run Sys2Proof.core k s = .next t

/-- The memories are in canonical form: addresses rising, and no byte listed that an unlisted address reads as. -/
def State.MemWf (s : State) : Prop :=
  Memory.wf s.mem.slice = true ∧ Memory.wf s.mem.dev = true ∧ Memory.wf s.mem.code = true

/-! ## When a word issues, and what it leaves -/

/-- The chosen split is `c`, and nothing keeps `i` from issuing: it has no cause of ILLEGAL, waits for no load, reads no
poison and no single error, the core's lane pipes and uniform pipe hold no error, and neither an unfinished access of another
split nor an absent page of a capability's table entry holds it up. -/
abbrev Ready (s : State) (c : Ctx) (i : Instr) : Prop :=
  s.focus? = some c ∧ c.causes i = [] ∧ c.interlock i = false ∧ c.poisonRead i = none ∧ c.flipsRead i = [] ∧
    (s.core c.blk.core).pipe = none ∧ (s.core c.blk.core).upipe = none ∧ s.unheld c i = true

/-- `t` is `s` but for the issuing troupe, which is `T`: memory, cores, tasks, graphs, engines, package control, every
other block and troupe, and the rest of the block are as they were. -/
structure OnlyTroupe (s t : State) (c : Ctx) (T : Troupe) : Prop where
  rest : { t with blocks := s.blocks } = s
  blocks : ∀ b, b ≠ c.b → t.blocks.find b = s.blocks.find b
  block : ∃ B, t.blocks.find c.b = some B ∧ { B with troupes := c.blk.troupes } = c.blk ∧
    B.troupes.find c.t = some T ∧ ∀ k, k ≠ c.t → B.troupes.find k = c.blk.troupes.find k

/-- A troupe whose issuing split has gone on to the next word: its pc, the run in progress (10 R253) and a step command
that ends (08 R231). -/
def Ctx.after (c : Ctx) (i : Instr) (T : Troupe) : Troupe :=
  ({ T with splits := T.splits.mod c.e fun S => { S with pc := c.sp.pc + BitVec.ofNat 32 i.size, only := none } }.stepRun
    i).endStep

/-- The run a word belongs to, as it stands before the word. -/
def Ctx.run0 (c : Ctx) : Run := c.trp.run.getD ⟨c.e, c.sp.pc, 0, [], c.trp.regs, c.trp.poison, c.trp.flips⟩

/-- The word a lane result puts into register `r` of lane `l`; none for a register that is no destination. -/
def Dst.word (d : Dst) (out : Nat → Nat) (r l : Nat) : Option Word :=
  match d with
  | .v pair k => if r = k then some (BitVec.ofNat 32 (out l))
    else if pair = true ∧ r = k + 1 then some (BitVec.ofNat 32 (out l / 2 ^ 32)) else none
  | .p _ => none

/-- Whether a unit of a troupe keeps its poison or single error when a result is written in the lanes of `m` (08 R398): not
where the whole unit is written. -/
def Dst.keeps (d : Dst) (m : Mask) (u : Nat) : Bool :=
  match d with
  | .v pair r => !inLanes r m u && !(pair && inLanes (r + 1) m u)
  | .p k => k = 0 || !(u = 8192 + k && m = 0xFFFFFFFF#32)

/-- The poisoned units of a troupe, or those with a single error, after a lane instruction: its pops move queue entries up, and
its result replaces units. -/
def unitsAfter (i : Instr) (d : Dst) (m : Mask) (us : Marks) : Marks :=
  let p := i.popped.foldl (fun us q => poppedUnits q m us) us
  if i.n then p else p.filter (d.keeps m)

/-- What a lane instruction leaves in its troupe: `out` in the destination in the lanes of `m` (nothing where N = 1), `fl`
joined to `nf`, the queues it names popped in those lanes, the result in the latches of its run; and nothing else. -/
structure LaneResult (c : Ctx) (i : Instr) (d : Dst) (m : Mask) (out : Nat → Nat) (fl : Flags) (T : Troupe) : Prop where
  lanes : ∀ r l, l < 32 → T.regs.lane r l =
    if i.n = false ∧ m.getLsbD l = true then (d.word out r l).getD (c.trp.regs.lane r l) else c.trp.regs.lane r l
  preds : ∀ k l, l < 32 → (T.regs.p.get 0 k).getLsbD l =
    if i.n = false ∧ d = .p k ∧ k ≠ 0 ∧ m.getLsbD l = true then decide (out l % 2 ^ 32 = 1)
    else (c.trp.regs.p.get 0 k).getLsbD l
  uniform : T.regs.s = c.trp.regs.s ∧ T.regs.g = c.trp.regs.g ∧ T.regs.c = c.trp.regs.c
  flags : T.regs.nf = c.trp.regs.nf ||| (fl &&& 0x03FF#16)
  queues : ∀ q l, l < 32 → T.q.get [] (32 * q + l) =
    if q ∈ i.popped ∧ m.getLsbD l = true then (c.trp.q.get [] (32 * q + l)).drop 1 else c.trp.q.get [] (32 * q + l)
  poison : T.poison = unitsAfter i d m c.trp.poison
  flips : T.flips = unitsAfter i d m c.trp.flips
  latches : ∃ x : Lanes DWord, (∀ l, l < 32 → m.getLsbD l = true → x.get 0 l = BitVec.ofNat 64 (out l % 2 ^ d.bits)) ∧
    T.run = if i.h then some { c.run0 with latches := (x :: c.run0.latches).take 4 } else c.trp.run
  rest : { T with
    regs := c.trp.regs, q := c.trp.q, poison := c.trp.poison, flips := c.trp.flips, run := c.trp.run } = c.trp

/-- A word completes where `pre` holds: only the issuing troupe changes, to `T` with the split gone on, and `post` says
what `T` is. -/
def WordCompletes (i : Instr) (pre : State → Ctx → Prop) (post : State → Ctx → Troupe → Prop) : Prop :=
  ∀ s c, Ready s c i → pre s c →
    ∃ t T, exec i s = .next t ∧ OnlyTroupe s t c (c.after i T) ∧ post s c T

/-- A word that sets its split's pc or state itself completes: only the issuing troupe changes, to `T` with no run in
progress, then the tokens and the population of the troupe are evaluated (`settleTrp`), and a step command ends where that
leaves the lanes of the split (`stepEnds`). -/
def WentCompletes (i : Instr) (pre : State → Ctx → Prop) (post : State → Ctx → Troupe → Prop) : Prop :=
  ∀ s c, Ready s c i → pre s c →
    ∃ u T, exec i s = .next ((u.settleTrp c.b c.t).stepEnds c.b c.t c.e c.sp.own) ∧
      OnlyTroupe s u c { T with run := none } ∧ post s c T

/-- What a uniform instruction leaves in its troupe: `x` in uniform register `d`, unpoisoned; and nothing else. -/
structure UniResult (c : Ctx) (i : Instr) (d : Nat) (x : DWord) (T : Troupe) : Prop where
  value : ∀ r, T.regs.s.get 0 r = if r = d then x else c.trp.regs.s.get 0 r
  poison : ∀ u, u ∈ T.poison ↔ u ∈ c.trp.poison ∧ u / 2 ≠ 2048 + d
  flips : ∀ u, u ∈ T.flips ↔ u ∈ c.trp.flips ∧ u / 2 ≠ 2048 + d
  rest : { T with
    regs := { T.regs with s := c.trp.regs.s }, poison := c.trp.poison, flips := c.trp.flips } = (c.opened i).trp

/-- A uniform instruction that only writes a uniform register completes with the value `x`. -/
def UniCompletes (i : Instr) (d : BitVec 6) (x : State → Ctx → DWord) : Prop :=
  WordCompletes i (fun _ _ => True) fun s c T => UniResult c i d.toNat (x s c) T

/-- The issuing split, at a new pc: what a branch leaves of the troupe. -/
def Ctx.movedTo (c : Ctx) (T : Troupe) (pc : Word) : Prop :=
  (∀ e, T.splits.find e = if e = c.e then some { c.sp with pc := pc, only := none } else c.trp.splits.find e) ∧
    { T with splits := c.trp.splits, run := c.trp.run } = c.trp

/-- A word that issues and raises a fault at its own place: the fault is taken (08 R221), and that is all. -/
def Traps (s : State) (c : Ctx) (i : Instr) (r : Raise) : Prop :=
  exec i s = .next ((s.onTrp c fun T => T.openRun i c.e c.sp.pc).raiseFault (c.opened i) r c.sp.pc)

/-- The issuing split, its block's relaunch window at an end (08 R217). -/
def Ctx.exposed (c : Ctx) : Ctx := { c with blk := { c.blk with window := false } }

/-- What a load of values `v` leaves in the registers of the issuing troupe: `words` registers from `d` on, in the lanes of
`m`; every other word as it was. -/
def LoadsWords (c : Ctx) (T : Troupe) (d words : Nat) (m : Mask) (v : Nat → Nat) : Prop :=
  (∀ r l, l < 32 → T.regs.lane r l =
    if m.getLsbD l = true ∧ d ≤ r ∧ r < d + words then BitVec.ofNat 32 (v l / 2 ^ (32 * (r - d)))
    else c.trp.regs.lane r l) ∧ { T.regs with v := c.trp.regs.v } = c.trp.regs

/-- What a queue `q` of the partner has gained: an entry in each lane of `m` whose partner lane lives; no mark of poison or of
a single error is new. -/
def QueueGains (t : State) (c : Ctx) (q : Nat) (m : Mask) (x : Nat → Option Word) : Prop :=
  ∀ P, c.blk.troupes.find c.partner = some P → ∃ Q, t.trp? c.b c.partner = some Q ∧
    { Q with q := P.q, poison := P.poison, flips := P.flips } = P ∧
    (∀ u, (u ∈ Q.poison → u ∈ P.poison) ∧ (u ∈ Q.flips → u ∈ P.flips)) ∧ ∀ j l, l < 32 → Q.q.get [] (32 * j + l) =
      if j = q ∧ m.getLsbD l = true ∧ P.lm.getLsbD l = true then P.q.get [] (32 * j + l) ++ [x l]
      else P.q.get [] (32 * j + l)

/-- The newest value of a byte after some stores, in their order, over what it was. -/
def storedByte (xs : List (Nat × List Byte)) (old : Option Byte) (a : Nat) : Option Byte :=
  xs.foldl (fun x p => if p.1 ≤ a ∧ a < p.1 + p.2.length then p.2[a - p.1]? else x) old

/-- The slice bytes of `t` are those of `s` but at the addresses `p` names, where they are free to differ. -/
def SliceBut (s t : State) (p : Nat → Prop) : Prop :=
  ∀ a, ¬ p a → Tab.get 0#8 t.mem.slice a = Tab.get 0#8 s.mem.slice a

/-- `t` is `s` but for slice bytes at the keys `p` names, with the poison and single errors of units written whole: every
block, core and task, device memory, guard bits and the rest stand. -/
def OnlySlice (s t : State) (p : Nat → Prop) : Prop :=
  { t with mem := { t.mem with
      slice := s.mem.slice, slicePoison := s.mem.slicePoison, flips := s.mem.flips } } = s ∧ SliceBut s t p

/-- What the end of node `n` of graph `g`, which stands as `G`, leaves (06 R166, R167): its code and detail are written, it
runs no more, and the edge of its code is taken: `dst` with code 0, else its error edge, where none ends the graph. -/
def EndsNode (s u : State) (g n : Nat) (G : Graph) (code detail dst : Nat) : Prop :=
  let w := s.nodeCode G n code detail
  let e := if code = 0 then dst else w.nodeErr G n
  let d := G.indeg.get 0 e
  ∃ H, u.graphs.find g = some H ∧ n ∉ H.running ∧ u.blocks = s.blocks ∧ u.tasks = s.tasks ∧
    (e = noEdge → u.mem = w.mem ∧ H.indeg = G.indeg ∧
      (code = 0 → H.ended = G.ended ∧ H.ready = G.ready) ∧
      (code ≠ 0 → H.ended = some (G.ended.getD (code, n)) ∧ H.ready = [])) ∧
    (e ≠ noEdge → G.ended = none → e ∉ G.loops →
      (1 < d → u.mem = w.mem ∧ H.indeg.get 0 e = d - 1 ∧ H.ready = G.ready ∧ H.ended = none) ∧
      (d = 1 → u.mem = w.mem ∧ H.indeg.get 0 e = 0 ∧ H.ready = Marks.add G.ready e ∧ H.ended = none) ∧
      (d = 0 → H.ended = some (0x01, n)) ∧ ∀ m, m ≠ e → H.indeg.get 0 m = G.indeg.get 0 m)

/-- A graph as it stands when its node `n` has just started. -/
def Graph.started (G : Graph) (n : Nat) : Graph :=
  { G with ready := Marks.del G.ready n, running := Marks.add G.running n }

/-- A node of a kind that may start now, with its reserved fields 0. -/
abbrev Starts (s : State) (g n kind : Nat) (G : Graph) : Prop :=
  s.graphs.find g = some G ∧ s.startable g n = true ∧ s.kindOf G n = kind ∧ s.nodeBad G n = false

/-- A 32-bit function of operands a and b of a one-word lane instruction, as a lane's value; no flag. -/
def wordsAB (f : LR) (g : Word → Word → Word) (c : Ctx) (l : Nat) : Nat × Flags :=
  ((g (BitVec.ofNat 32 (c.operand f.a 0 l)) (BitVec.ofNat 32 (c.operand f.b 0 l))).toNat, 0)

/-- The same for operands a, b and c of a two-word lane instruction. -/
def wordsABC (f : LW) (g : Word → Word → Word → Word) (c : Ctx) (l : Nat) : Nat × Flags :=
  ((g (BitVec.ofNat 32 (c.operand f.a 0 l)) (BitVec.ofNat 32 (c.operand f.b 0 l))
    (BitVec.ofNat 32 (c.operand f.c 0 l))).toNat, 0)

/-- The same for the operand and the constant of a LIMM instruction. -/
def wordsImm (f : LI) (g : Word → Word → Word) (c : Ctx) (l : Nat) : Nat × Flags :=
  ((g (BitVec.ofNat 32 (c.operand f.b 0 l)) f.imm).toNat, 0)

/-- A lane instruction completes: it answers a next state in which only the issuing troupe has changed, its split has
gone on, and the troupe holds the result. -/
def LaneCompletes (i : Instr) (d : Dst) (val : Ctx → Nat → Nat × Flags) : Prop :=
  ∀ s c, Ready s c i → c.popWait i (c.guarded i) s = none →
    ∃ t T, exec i s = .next t ∧ OnlyTroupe s t c (c.after i T) ∧
      LaneResult c i d (c.guarded i) (fun l => (val c l).1)
        ((lanesOf (c.guarded i)).foldl (fun g l => g ||| (val c l).2) 0) T

end Sys2Proof.Machine
end

