-- ==== Sys2Proof/Certificates/Slice0/Obligations.lean ====
section
/-! DEFINITION. The statements for the provers. -/

open Sys2Proof Sys2Proof.Machine

/-! ## Words -/

/-- 10 R243, R249 to R262: decoding the words `encode` gives for a well-formed instruction gives it back, as words and as
little-endian bytes with what follows left over; and every word that decodes is the one `encode` gives. -/
def Obligations.DecodeAndEncodeAgree : Prop :=
  (∀ i : Instr, i.isWord = true → i.WellFormed → decode (encode i).1 (encode i).2 = .ok i) ∧
  (∀ (i : Instr) (r : List Byte), i.isWord = true → i.WellFormed →
    decodeBytes (leBytes 4 (encode i).1.toNat ++ (if i.size = 2 then leBytes 4 (encode i).2.toNat else []) ++ r) =
      some (i, r)) ∧
  ∀ (w v : Word) (i : Instr), decode w v = .ok i → i.isWord = true ∧ i.unused = false ∧ i.canonical = true ∧
    i.size = wordsOf w ∧ (encode i).1 = w ∧ (i.size = 2 → (encode i).2 = v)

/-- Words that the spec writes out (10 R244 to R262: its examples, and the place of each field) decode to the instructions
they stand for: of the formats LR, W2, LIMM, UR, UB, two-word uniform and SLIMM; and the worked case of a reserved
opcode. -/
def Obligations.WordsOfTheSpecDecode : Prop :=
  decode 0x00030102#32 0#32 = .ok (.iadd ⟨false, false, 3, 1, 2⟩) ∧
  decode 0x000392FF#32 0#32 = .ok (.iadd ⟨false, false, 3, 0x92, 0xFF⟩) ∧
  decode 0x050484D2#32 0#32 = .ok (.shl ⟨false, false, 4, 0x84, 0xD2⟩) ∧
  decode 0x61000102#32 0#32 = .ok (.imul ⟨true, true, 0, 1, 2⟩) ∧
  decode 0x1F030101#32 0x000003E8#32 = .ok (.iaddi ⟨false, false, 3, 1, 1000⟩) ∧
  decode 0x18020104#32 0x05000002#32 = .ok (.icmp ⟨false, false, 2, 1, 4, 0, 0, false, 0, 2⟩) ∧
  decode 0x18840102#32 0x02072B01#32 = .ok (.ffma ⟨false, false, 4, 1, 2, 7, 2, true, 3, 1⟩) ∧
  decode 0x1A860400#32 0x02012002#32 = .ok (.lds ⟨false, false, 6, 4, 0, 1, 2, false, 0, 2⟩) ∧
  decode 0x1A800402#32 0x03011000#32 = .ok (.sts ⟨false, false, 0, 4, 2, 1, 1, false, 0, 0⟩) ∧
  decode 0x8D000003#32 0#32 = .ok (.tok ⟨false, false, 0, false, 3⟩) ∧
  decode 0x8CA80002#32 0#32 = .ok (.brd ⟨false, false, 2, true, 2⟩) ∧
  decode 0x8D800000#32 0#32 = .ok (.meet ⟨false, false, 0, false, 0⟩) ∧
  decode 0x90000000#32 0#32 = .ok (.exit ⟨false, false, 0, 0, 0, 0⟩) ∧
  decode 0x9A8A0000#32 0x02000000#32 = .ok (.clkrd ⟨false, false, 5, 0, 0, 0, 0⟩) ∧
  decode 0x9F080800#32 0xFFFFFFFB#32 = .ok (.smovi ⟨false, false, 4, 1, 0, 0, 0xFFFFFFFB⟩) ∧
  ∀ x : BitVec 23, decode (0x0B800000#32 ||| x.setWidth 32) 0#32 = .error 1

/-! ## Steps -/

/-- A step whose move is an issue runs the instruction that the words at the program counter decode to, in the state
the issue enters: the split chosen, its slot of the core taken, one tick of time and free values on, memory as it was.
A word outside the code object, or that decodes to none, raises its fault there (10 R262, R263); a run that breaks a
rule of 10 R253 faults at its first word. What follows the issue (`leave`) concerns the core's slots alone: a run that
has begun holds its slot (01 R36), a lane word under `chk` 2 owes it a second issue (08 R215), and a word that could
not issue (06 R179: no split is left chosen) has changed nothing, while its troupe is left out until something else
happens. A second issue changes no register and no memory. Any other move runs its event; with none, time passes.
Where the spec leaves this open, it is the model's reading: logs 2, 3, 47, 85. -/
def Obligations.StepRunsTheDecodedInstruction : Prop :=
  ∀ s : State,
    (s.choice = none → step s = .next s.pass) ∧
    (∀ i, s.choice = some (.event i) → step s = exec i s.pass.stir) ∧
    (∀ i, s.choice = some (.input i) → step s = exec i { s.pass.stir with inputs := s.inputs.drop 1 }) ∧
    (∀ k, { s.stir.core k with stalls := (s.core k).stalls } = s.core k) ∧ { s.stir with cores := s.cores } = s ∧
    (∀ core slot cycle p skipped, s.choice = some (.again core slot cycle p skipped) →
      ∃ t, step s = .next t ∧ { t with blocks := s.blocks, cores := s.cores, tick := s.tick, ctl := s.ctl } = s ∧
        { t.ctl with clk := s.ctl.clk } = s.ctl ∧
        ∀ b t' T, s.trp? b t' = some T → ∃ U, t.trp? b t' = some U ∧
          { U with passed := T.passed, promoted := T.promoted } = T) ∧
    ∀ core slot cycle r skipped, s.choice = some (.issue core slot cycle r skipped) →
      let t := s.enter (.issue core slot cycle r skipped)
      let ends (o : Host.Outcome State Fault Refusal) : Host.Outcome State Fault Refusal := match o with
        | .next u => .next (s.leave (.issue core slot cycle r skipped) u)
        | o => o
      (∀ u : State, u.cur ≠ none → let w := s.leave (.issue core slot cycle r skipped) u
        { w with cores := u.cores } = u ∧
          ∀ k, { w.core k with
            hold := (u.core k).hold, stalls := (u.core k).stalls, again := (u.core k).again } = u.core k) ∧
      (∀ u : State, u.cur = none → let w := s.leave (.issue core slot cycle r skipped) u
        { w with cores := s.cores, tick := s.tick, ctl := s.ctl } = s ∧ { w.ctl with clk := s.ctl.clk } = s.ctl ∧
          ∀ k, { w.core k with stalls := (s.core k).stalls } = s.core k) ∧
      t.mem = s.mem ∧ t.eng = s.eng ∧ t.tasks = s.tasks ∧ t.graphs = s.graphs ∧ t.inputs = s.inputs ∧ t.cur = some r ∧
      t.tick = s.tick + 1 ∧ { t.ctl with clk := s.ctl.clk } = s.ctl ∧
      (∀ b t' T, s.trp? b t' = some T → ∃ U, t.trp? b t' = some U ∧
        { U with passed := T.passed, promoted := T.promoted } = T) ∧
      ∀ c, t.focus? = some c →
        let pc := c.sp.pc.toNat
        (t.codeWord c.task pc = none → step s = ends (.next (t.raiseFault c ⟨0x06, 0, 0⟩ c.sp.pc))) ∧
        (∀ w, t.codeWord c.task pc = some w → wordsOf w = 2 → t.codeWord c.task (pc + 1) = none →
          step s = ends (.next (t.raiseFault c ⟨0x06, 0, 0⟩ c.sp.pc))) ∧
        ∀ w v, t.codeWord c.task pc = some w →
          (wordsOf w = 2 → t.codeWord c.task (pc + 1) = some v) → (wordsOf w ≠ 2 → v = 0) →
          (∀ k, decode w v = .error k → step s = ends (.next (t.raiseFault c ⟨0x01, 0, k⟩ c.sp.pc))) ∧
          ∀ i, decode w v = .ok i →
            let first : Prop := i.h = true ∧ c.trp.run = none ∧ ∀ k ∈ c.causes i, 10 < k
            (∀ d, first → t.runFault c.task c.trp pc = some d →
              step s = ends (.next (t.raiseFault c ⟨0x01, 0, d⟩ c.sp.pc))) ∧
            (¬ first ∨ t.runFault c.task c.trp pc = none → step s = ends (exec i t))

/-- No step faults or is refused: from every state every run goes on. Where the spec leaves this open, it is the
model's reading: log 49. -/
def Obligations.EveryStateIsSafe : Prop := ∀ s : State, Safe s

/-- Every step keeps the memories in canonical form, from every state in which they are. Where the spec leaves this
open, it is the model's reading: log 1. -/
def Obligations.StepKeepsMemoryCanonical : Prop := ∀ s t : State, s.MemWf → step s = .next t → t.MemWf

/-- Reset: the memories hold the canonical form and every byte reads 0 (notes/assumptions/1.md), no block, task,
graph, chain entry or partition exists, power is not yet good, no session is open, no alarm stands and nothing happens
until an event from outside (09 R242; the values are the model's where notes/assumptions/8.md says so). Where the spec
leaves this open, it is the model's reading: logs 1, 8. -/
def Obligations.ResetIsQuiet : Prop :=
  State.reset.MemWf ∧ (∀ a, Tab.get 0#8 State.reset.mem.slice a = 0) ∧ (∀ a, Tab.get 0#8 State.reset.mem.dev a = 0) ∧
    State.reset.blocks = [] ∧ State.reset.tasks = [] ∧ State.reset.graphs = [] ∧ State.reset.eng.running = [] ∧
    State.reset.ctl.parts = [] ∧ State.reset.ctl.stage = 0 ∧ State.reset.ctl.session = false ∧
    State.reset.ctl.alarm = 0 ∧ State.reset.ctl.failed = none ∧ step State.reset = .next State.reset.pass

/-! ## Faults -/

/-- 10 R262, 01 R38, 08 R398: an instruction word with a cause of ILLEGAL raises it, the lowest first, and has no
other effect; one whose operand or destination waits for a load does not issue: nothing changes, and no split is left
chosen; one that reads a poisoned register raises POISON at the lowest such lane; one of the lane pipes that a check
catches in a lasting error raises MCHK at its lane (08 R215). Where the spec leaves this open, it is the model's
reading: logs 9, 14, 15, 16. -/
def Obligations.WordsTrapOrWaitBeforeTheirEffect : Prop :=
  ∀ (i : Instr) (s : State) (c : Ctx), i.isWord = true → s.focus? = some c →
    (∀ k, (c.causes i).head? = some k →
      exec i s = .next (s.raiseFault c ⟨0x01, 0, k⟩ (if k % 16 = 10 then c.first else c.sp.pc)) ∧
      ∀ j ∈ c.causes i, k % 16 ≤ j % 16) ∧
    (c.causes i = [] → c.interlock i = true → exec i s = .next { s with cur := none }) ∧
    (c.causes i = [] → c.interlock i = false → s.unheld c i = true → ∀ l, c.poisonRead i = some l →
      exec i s = .next (s.raiseFault c ⟨0x16, l, 0⟩ c.sp.pc)) ∧
    (c.causes i = [] → c.interlock i = false → s.unheld c i = true → c.poisonRead i = none → i.isLane = true → ∀ p l,
      (s.core c.blk.core).pipe = some (p, true) → (pipeHits c.trp.chk (c.guarded i) p).head? = some l →
      exec i s = .next (s.raiseFault c ⟨0x0C, l, 0⟩ c.sp.pc))

/-- 08 R216 to R222, 01 Table 1.3: a program fault abandons its run, writes `flt`, and sends its split to the handler,
where ERET will retry the word or run or skip it; while another split is in the handler it is held; without a handler,
or in it, the block is killed, with its code in the task's error word: it is gone at once, unless committed stores,
lines it dirtied or operations it sent are still on their way to their homes, for which it waits without a troupe. An
uncorrectable error relaunches the block while its window is open, three times at most, and else kills it. Where the
spec leaves this open, it is the model's reading: logs 13, 36, 75. -/
def Obligations.FaultsAreDeliveredHeldOrEndTheBlock : Prop :=
  ∀ (s : State) (c : Ctx) (r : Raise) (pc : Word), s.focus? = some c →
    let t := s.raiseFault c r pc
    let first := (c.trp.run.map Run.first).getD c.sp.pc
    let contained : Prop := r.code = 0x16 ∨ r.code = 0x0C ∨ r.code = 0x0D
    let flt (T : Troupe) : Prop := T.flt.toNat = r.code % 256 + r.lane % 32 * 2 ^ 8 + c.e % 8 * 2 ^ 13 + pc.toNat * 2 ^ 16 +
      r.detail % 2 ^ 16 * 2 ^ 48
    let skips (x : Word) : Prop := ∀ w, c.trp.run = none → s.codeWord c.task c.sp.pc.toNat = some w →
      w.getLsbD 30 = false → x = c.sp.pc + BitVec.ofNat 32 (wordsOf w)
    let regs (T : Troupe) : Prop := T.run = none ∧
      T.regs = ((c.trp.run.map fun R => { R.saved with nf := c.trp.regs.nf }).getD c.trp.regs)
    let plain (b : Nat) (u : State) : Option Block := (u.blocks.find b).map fun B => { B with err := 0 }
    let killed (h : Bool) : Prop :=
      (∃ e, e ∈ t.ctl.events ∧ e.code = 5 ∧ e.detail % 256 = r.code % 256 ∧ (h = true → c.trp.handler.isSome = true)) ∧
      ((∀ x ∈ s.eng.gangs, x.2.task ≠ c.blk.task) → (∀ b, b ≠ c.b → plain b t = plain b s) ∧
        ∃ K, t.tasks.find c.blk.task = some K ∧
          K.err = (if c.task.err ≠ 0 then c.task.err else BitVec.ofNat 32 (r.code + 256 * c.blk.id)) ∧
          ((t.blocks.find c.b = none ∧ K.ended = c.task.ended + 1) ∨
            ∃ B, t.blocks.find c.b = some B ∧ K.ended = c.task.ended ∧ B.killed = some r.code ∧ B.troupes = [] ∧
              B.inst = none ∧ B.releases = [] ∧ B.window = false ∧ (∀ x ∈ B.buf, x.2.committed = true) ∧
              ((∃ x ∈ c.blk.buf, x.2.committed = true) ∨ t.unacked c.b (fun _ => true) = true ∨
                (∃ x ∈ t.cores, ∃ q ∈ x.2.mat.queue, q.b = c.b) ∨
                ∃ x ∈ (s.core c.blk.core).cache, x.2.by c.b = true)))
    (¬ contained → r.code ≠ 0x17 → c.trp.handler = none → c.task.launch.trp = true → ∃ T x, OnlyTroupe s t c T ∧
      T.splits.find c.e = some { c.sp with pc := BitVec.ofNat 32 c.task.launch.trap, wait := .ready, only := none } ∧
      (∀ e, e ≠ c.e → T.splits.find e = c.trp.splits.find e) ∧ T.handler = some ⟨c.e, first, x⟩ ∧ skips x ∧ flt T ∧
      regs T ∧ T.lm = c.trp.lm ∧ T.q = c.trp.q) ∧
    (¬ contained → r.code ≠ 0x17 → ∀ h, c.trp.handler = some h → h.entry ≠ c.e → c.task.launch.trp = true →
      ∃ T x, OnlyTroupe s t c T ∧ T.splits.find c.e = some { c.sp with pc := first, wait := .held, only := none } ∧
        T.held = c.trp.held ++ [(c.e, ⟨r.code, r.lane, r.detail, pc⟩, first, x)] ∧ skips x ∧ T.handler = some h ∧
        T.flt = c.trp.flt ∧ regs T) ∧
    (¬ contained → (∀ h, c.trp.handler = some h → h.entry ≠ c.e) → c.task.launch.trp = false → killed false) ∧
    (¬ contained → ∀ h, c.trp.handler = some h → h.entry = c.e → killed true) ∧
    (contained → c.blk.window = false ∨ 3 ≤ c.blk.attempts → killed false) ∧
    (contained → c.blk.window = true → c.blk.attempts < 3 → c.blk.records = [] →
      ∃ B, t.blocks.find c.b = some B ∧ B.id = c.blk.id ∧ B.task = c.blk.task ∧ B.attempts = c.blk.attempts + 1 ∧
        B.buf = [] ∧ B.window = true ∧ B.err.toNat % 256 = r.code % 256 ∧ B.inst = none ∧ B.priv = [] ∧
        (∀ k T, B.troupes.find k = some T → T.regs = {} ∧ T.lm = 0xFFFFFFFF#32 ∧ T.run = none) ∧
        ∀ b, b ≠ c.b → t.blocks.find b = s.blocks.find b)

/-! ## Lane instructions -/

/-- 12 R297, Table 12.1: what each one-word integer lane instruction writes; it raises no flag and changes nothing else. -/
def Obligations.OneWordIntegerLaneResults : Prop :=
  ∀ f : LR,
    LaneCompletes (.iadd f) (.v false f.d.toNat) (wordsAB f fun a b => a + b) ∧
    LaneCompletes (.isub f) (.v false f.d.toNat) (wordsAB f fun a b => a - b) ∧
    LaneCompletes (.imul f) (.v false f.d.toNat) (wordsAB f fun a b => a * b) ∧
    LaneCompletes (.imulh f) (.v false f.d.toNat) (wordsAB f fun a b => BitVec.ofInt 32 (a.toInt * b.toInt / 2 ^ 32)) ∧
    LaneCompletes (.imin f) (.v false f.d.toNat) (wordsAB f fun a b => if a.slt b then a else b) ∧
    LaneCompletes (.imax f) (.v false f.d.toNat) (wordsAB f fun a b => if a.slt b then b else a) ∧
    LaneCompletes (.and f) (.v false f.d.toNat) (wordsAB f fun a b => a &&& b) ∧
    LaneCompletes (.or f) (.v false f.d.toNat) (wordsAB f fun a b => a ||| b) ∧
    LaneCompletes (.xor f) (.v false f.d.toNat) (wordsAB f fun a b => a ^^^ b) ∧
    LaneCompletes (.andn f) (.v false f.d.toNat) (wordsAB f fun a b => a &&& ~~~b) ∧
    LaneCompletes (.shl f) (.v false f.d.toNat) (wordsAB f fun a b => a <<< b.toNat) ∧
    LaneCompletes (.shr f) (.v false f.d.toNat) (wordsAB f fun a b => a >>> b.toNat) ∧
    LaneCompletes (.sar f) (.v false f.d.toNat) (wordsAB f fun a b => a.sshiftRight b.toNat) ∧
    LaneCompletes (.popc f) (.v false f.d.toNat) (wordsAB f fun a b => BitVec.ofNat 32 (popcount a) + b) ∧
    LaneCompletes (.clz f) (.v false f.d.toNat) (wordsAB f fun a _ => a.clz) ∧
    LaneCompletes (.brev f) (.v false f.d.toNat) (wordsAB f fun a _ => a.reverse) ∧
    LaneCompletes (.mov f) (.v false f.d.toNat) (wordsAB f fun a _ => a)

/-- 12 R299: the typed integer instructions, element by element: the exact result wraps to the element's width, or with
m[0] of IMAD and IABS is clamped to the type's range and raises SAT where that changes it. -/
def Obligations.TypedIntegerLaneResults : Prop :=
  ∀ f : LW,
    let w := (intTy f.t.toNat).1
    let sg := (intTy f.t.toNat).2
    let x (k : BitVec 8) (c : Ctx) (l e : Nat) : Int := intOf w sg (elem f.t.toNat (c.operand k f.t.toNat l) e)
    let wraps (z : Int) : Nat × Flags := (wrapN w z, 0)
    let clamps (z : Int) : Nat × Flags :=
      if f.m.getLsbD 0 then
        (wrapN w (max (intMin w sg) (min z (intMax w sg))), flagIf (decide (z < intMin w sg ∨ intMax w sg < z)) fSAT)
      else (wrapN w z, 0)
    LaneCompletes (.imulhTyped f) (.v (wide f.t.toNat) f.d.toNat)
      (fun c l => elementwise f.t.toNat fun e => wraps (x f.a c l e * x f.b c l e / 2 ^ w)) ∧
    LaneCompletes (.iminTyped f) (.v (wide f.t.toNat) f.d.toNat)
      (fun c l => elementwise f.t.toNat fun e => wraps (min (x f.a c l e) (x f.b c l e))) ∧
    LaneCompletes (.imaxTyped f) (.v (wide f.t.toNat) f.d.toNat)
      (fun c l => elementwise f.t.toNat fun e => wraps (max (x f.a c l e) (x f.b c l e))) ∧
    LaneCompletes (.imad f) (.v (wide f.t.toNat) f.d.toNat)
      (fun c l => elementwise f.t.toNat fun e => clamps (x f.a c l e * x f.b c l e + x f.c c l e)) ∧
    LaneCompletes (.iabs f) (.v (wide f.t.toNat) f.d.toNat)
      (fun c l => elementwise f.t.toNat fun e => clamps |x f.a c l e|)

/-- 12 R300, R301: ICMP writes its predicate by the condition m[2:0] on signed operands, or unsigned ones with m[3]; SEL
takes a where the predicate that c names (negated by its bit 3) holds, else b. -/
def Obligations.CompareAndSelectLaneResults : Prop :=
  ∀ f : LW,
    let w := if wide f.t.toNat then 64 else 32
    let v (k : BitVec 8) (c : Ctx) (l : Nat) : Int :=
      if f.m.getLsbD 3 then c.operand k f.t.toNat l % 2 ^ w else (BitVec.ofNat w (c.operand k f.t.toNat l)).toInt
    LaneCompletes (.icmp f) (.p (f.d.extractLsb' 0 3).toNat) (fun c l =>
      (if (match (f.m.extractLsb' 0 3).toNat with
        | 0 => v f.a c l = v f.b c l
        | 1 => v f.a c l ≠ v f.b c l
        | 2 => v f.a c l < v f.b c l
        | 3 => v f.a c l ≤ v f.b c l
        | 4 => v f.b c l < v f.a c l
        | _ => v f.b c l ≤ v f.a c l : Bool) then 1 else 0, 0)) ∧
    LaneCompletes (.sel f) (.v (wide f.t.toNat) f.d.toNat) (fun c l =>
      (if c.pred (f.c.extractLsb' 0 3).toNat l != f.c.getLsbD 3 then c.operand f.a f.t.toNat l
        else c.operand f.b f.t.toNat l, 0))

/-- 12 R302 to R306: LUT3, BFE, BFI and BSEL bit by bit and byte by byte, and the integer LIMM instructions. -/
def Obligations.BitFieldAndImmediateLaneResults : Prop :=
  (∀ f : LW,
    LaneCompletes (.lut3 f) (.v false f.d.toNat) (wordsABC f fun a b c => maskOf fun i =>
      f.m.getLsbD ((a.getLsbD i).toNat + 2 * (b.getLsbD i).toNat + 4 * (c.getLsbD i).toNat)) ∧
    LaneCompletes (.bfe f) (.v false f.d.toNat) (wordsABC f fun a b c =>
      let pos := b.toNat % 256
      let len := c.toNat % 256
      if pos ≥ 32 ∨ len = 0 then 0
      else
        let x := a.extractLsb' pos (min (pos + len) 32 - pos)
        if f.m.getLsbD 0 then x.signExtend 32 else x.setWidth 32) ∧
    LaneCompletes (.bfi f) (.v false f.d.toNat) (wordsABC f fun a b c =>
      let pos := c.toNat % 256
      let len := (c.extractLsb' 8 8).toNat
      maskOf fun i => if pos ≤ i ∧ i < pos + len then b.getLsbD (i - pos) else a.getLsbD i) ∧
    LaneCompletes (.bsel f) (.v false f.d.toNat) (wordsABC f fun a b c =>
      let ab : DWord := b ++ a
      let pick (k : Nat) : BitVec 8 :=
        match (c.extractLsb' (4 * k) 4).toNat with
        | 8 => 0x00#8
        | 9 => 0xFF#8
        | 10 => 0x80#8
        | 11 => 0x7F#8
        | n => if n < 8 then ab.extractLsb' (8 * n) 8
          else if ab.getLsbD (16 * (n - 12) + 15) then 0xFF#8 else 0x00#8
      pick 3 ++ pick 2 ++ pick 1 ++ pick 0)) ∧
  ∀ f : LI,
    LaneCompletes (.movi f) (.v false f.d.toNat) (wordsImm f fun _ k => k) ∧
    LaneCompletes (.iaddi f) (.v false f.d.toNat) (wordsImm f fun a k => a + k) ∧
    LaneCompletes (.andi f) (.v false f.d.toNat) (wordsImm f fun a k => a &&& k) ∧
    LaneCompletes (.ori f) (.v false f.d.toNat) (wordsImm f fun a k => a ||| k) ∧
    LaneCompletes (.xori f) (.v false f.d.toNat) (wordsImm f fun a k => a ^^^ k)

/-- 12 R298, R306 to R312: the floating-point arithmetic instructions, element by element: the exact value of 02 R44
and R45, rounded once by the word's mode, on operands whose signs the modifiers change first. Where the spec leaves
this open, it is the model's reading: logs 10, 58. -/
def Obligations.FloatArithmeticLaneResults : Prop :=
  (∀ f : LR,
    let op (g : Nat → Nat → Nat × Flags) (c : Ctx) (l : Nat) : Nat × Flags := g (c.operand f.a 2 l) (c.operand f.b 2 l)
    LaneCompletes (.faddF32 f) (.v false f.d.toNat) (op (f32.add 0 0)) ∧
    LaneCompletes (.fmulF32 f) (.v false f.d.toNat) (op (f32.mul 0 0)) ∧
    LaneCompletes (.fminF32 f) (.v false f.d.toNat) (op fun a b => (f32.minNum a b, 0)) ∧
    LaneCompletes (.fmaxF32 f) (.v false f.d.toNat) (op fun a b => (f32.maxNum a b, 0))) ∧
  (∀ f : LI,
    LaneCompletes (.faddi f) (.v false f.d.toNat) (fun c l => f32.add 0 0 (c.operand f.b 2 l) f.imm.toNat) ∧
    LaneCompletes (.fmuli f) (.v false f.d.toNat) (fun c l => f32.mul 0 0 (c.operand f.b 2 l) f.imm.toNat)) ∧
  ∀ f : LW,
    let F := fmtOf f.t.toNat
    LaneCompletes (.fadd f) (.v (wide f.t.toNat) f.d.toNat)
      (fun c l => elementwise f.t.toNat fun e => F.add f.mode (f.rand c l e) (f.ea c l e) (f.eb c l e)) ∧
    LaneCompletes (.fmul f) (.v (wide f.t.toNat) f.d.toNat)
      (fun c l => elementwise f.t.toNat fun e => F.mul f.mode (f.rand c l e) (f.ea c l e) (f.eb c l e)) ∧
    LaneCompletes (.ffma f) (.v (wide f.t.toNat) f.d.toNat)
      (fun c l => elementwise f.t.toNat fun e => F.fma f.mode (f.ea c l e) (f.eb c l e) (f.ec c l e)) ∧
    LaneCompletes (.fmin f) (.v (wide f.t.toNat) f.d.toNat)
      (fun c l => elementwise f.t.toNat fun e => (F.minNum (f.ea c l e) (f.eb c l e), 0)) ∧
    LaneCompletes (.fmax f) (.v (wide f.t.toNat) f.d.toNat)
      (fun c l => elementwise f.t.toNat fun e => (F.maxNum (f.ea c l e) (f.eb c l e), 0)) ∧
    LaneCompletes (.fcmp f) (.p (f.d.extractLsb' 0 3).toNat) (fun c l =>
      (if fcmpCond (f.m.extractLsb' 0 4).toNat (F.decode (f.ea c l 0)) (F.decode (f.eb c l 0)) then 1 else 0, 0)) ∧
    LaneCompletes (.frnd f) (.v (wide f.t.toNat) f.d.toNat) (fun c l => F.rint f.mode (f.ea c l 0)) ∧
    LaneCompletes (.fscl f) (.v (wide f.t.toNat) f.d.toNat)
      (fun c l => F.scale f.mode (sextN 32 (c.operand f.b 0 l)) (f.ea c l 0)) ∧
    LaneCompletes (.fcls f) (.v false f.d.toNat) (fun c l => (F.classify (f.ea c l 0), 0))

/-- 12 R313 to R320: the functions of 02 Table 2.6, and the conversions and quantisation of class CONV. Where the spec
leaves this open, it is the model's reading: logs 10, 57, 58, 83. -/
def Obligations.FloatFunctionAndConversionLaneResults : Prop :=
  ∀ f : LW,
    let F := fmtOf f.t.toNat
    let t := f.t.toNat
    let src := (f.m.extractLsb' 0 4).toNat
    LaneCompletes (.frcp f) (.v (wide t) f.d.toNat) (fun c l => F.rcp (f.ea c l 0)) ∧
    LaneCompletes (.frsq f) (.v (wide t) f.d.toNat) (fun c l => F.rsq (f.ea c l 0)) ∧
    LaneCompletes (.fsqrt f) (.v (wide t) f.d.toNat) (fun c l => F.sqrt (f.ea c l 0)) ∧
    LaneCompletes (.fexp2 f) (.v (wide t) f.d.toNat) (fun c l => F.exp2 (f.ea c l 0)) ∧
    LaneCompletes (.flog2 f) (.v (wide t) f.d.toNat) (fun c l => F.log2 (f.ea c l 0)) ∧
    LaneCompletes (.cvt f) (.v (wide t) f.d.toNat) (fun c l => elementwise t fun e =>
      convert f.cmode (if f.cmode = 4 then randBits (c.operand f.c 0 l) e else 0) f.sat (ety src) (ety t)
        (elem src (c.operand f.a src l) e)) ∧
    LaneCompletes (.pack f) (.v false f.d.toNat) (fun c l =>
      let j := (f.m.extractLsb' 0 3).toNat
      let a := convert f.cmode 0 f.sat (packSrc t) (ety t) (c.operand f.a (packCode t) l)
      let b := convert f.cmode 0 f.sat (packSrc t) (ety t) (c.operand f.b (packCode t) l)
      (setElem t (setElem t (if lanesIn t = 2 then 0 else c.operand f.c t l) (2 * j) a.1) (2 * j + 1) b.1,
        a.2 ||| b.2)) ∧
    LaneCompletes (.unpk f) (.v (wide t) f.d.toNat) (fun c l =>
      ((convert 0 0 false (ety src) (ety t) (elem src (c.operand f.a src l) (f.m.extractLsb' 4 3).toNat)).1, 0)) ∧
    LaneCompletes (.qscl f) (.v false f.d.toNat) (fun c l => qscl t (c.operand f.a 2 l)) ∧
    LaneCompletes (.qnt f) (.v false f.d.toNat) (fun c l =>
      let q := quantise f.cmode t f.sat (c.operand f.a 2 l) (c.operand f.b 0 l)
      (setElem t (c.operand f.c t l) (f.m.extractLsb' 0 3).toNat q.1, q.2)) ∧
    LaneCompletes (.salsel f) (.v false f.d.toNat)
      (fun c l => salsel f.cmode t (c.operand f.a 2 l) (c.operand f.b 0 l))

/-- 12 R317, 13 R328: CBDEC reads its lane's table entry of the slice region, the block's own stores first, and writes
the weights of its group; QPUSH appends a to the partner's queue in the lanes whose partner lane lives, where there is
room. Where the spec leaves this open, it is the model's reading: logs 11, 17. -/
def Obligations.CodebookAndQueuePushComplete : Prop :=
  (∀ (f : LW) s c, Ready s c (.cbdec f) → c.popWait (.cbdec f) (c.guarded (.cbdec f)) s = none →
    c.blk.unreach = none → s.mem.flips = [] →
    let m := c.guarded (.cbdec f)
    let cap := c.cap (f.c.extractLsb' 0 4).toNat
    let code (l : Nat) : Nat := c.operand f.a 0 l % 2 ^ 16
    let place (l : Nat) : Nat := s.capSlice cap (2 * (code l / 256))
    s.accessFault c cap 2 (rightsOf true false false) 2 ((lanesOf m).map fun l => (l, ((2 * (code l / 256) : Nat) : Int))) =
      none →
    (∀ l ∈ lanesOf m, s.loadPoison c .slice (place l) 2 = false ∧ c.loadAt .slice (place l) 2 = false) →
    ∃ t T, exec (.cbdec f) s = .next t ∧ OnlyTroupe s t c (c.after (.cbdec f) T) ∧
      LaneResult c (.cbdec f) (.v false f.d.toNat) m (fun l =>
        cbdec f.t.toNat (f.m.extractLsb' 0 3).toNat (code l)
          (leNat (overlay c.blk.buf .slice (place l) (s.sliceRead (place l) 2)))) 0 T) ∧
  ∀ (f : LR) s c, Ready s c (.qpush f) → c.popWait (.qpush f) (c.guarded (.qpush f)) s = none →
    let m := c.guarded (.qpush f)
    let q := (f.b.extractLsb' 0 2).toNat
    c.full q m = false →
    ∃ t, exec (.qpush f) s = .next t ∧
      (∀ P, c.blk.troupes.find c.partner = some P → ∃ Q, t.trp? c.b c.partner = some Q ∧
        { Q with q := P.q, poison := P.poison, flips := P.flips } = P ∧
        (∀ u, (u ∈ Q.poison → u ∈ P.poison) ∧ (u ∈ Q.flips → u ∈ P.flips)) ∧
        ∀ j l, l < 32 → Q.q.get [] (32 * j + l) =
          if j = q ∧ m.getLsbD l = true ∧ P.lm.getLsbD l = true then
            P.q.get [] (32 * j + l) ++ [some (BitVec.ofNat 32 (c.operand f.a 0 l))]
          else P.q.get [] (32 * j + l)) ∧
      (∀ b, b ≠ c.b → t.blocks.find b = s.blocks.find b) ∧ { t with blocks := s.blocks } = s

/-- 13 R323: a cross-lane instruction of troupe scope whose members are all active in the issuing split executes as it
issues, from the operands of its active members, and BALLOT writes its mask to a uniform register. 13 R324 to R327, 02
R61, R62, Table 13.1: what the swizzles, SHX, the votes, PEERS, RED over its pairwise tree and SCAN over the lanes in
order deliver at `.troupe` scope in lane `l`, from the operands `a`, `b` of the active members. Where the spec leaves
this open, it is the model's reading: log 12. -/
def Obligations.CrossLaneExecutesWithItsValues : Prop :=
  (∀ (i : Instr) s c, Ready s c i → c.popWait i (c.guarded i) s = none →
     let m := c.guarded i
     let vs : Tab (Nat × Nat) := (lanesOf m).map fun l => (32 * c.t + l, i.xread c l)
     c.trp.inst = none → (i.xscope c).2 = false → c.trp.lm &&& (i.xscope c).1 = m →
     (match i with
       | .swizSel _ | .swiz _ | .shx _ | .agree _ | .elect _ | .rank _ | .peers _ | .red _ | .scan _ =>
         ∃ t T, exec i s = .next t ∧ OnlyTroupe s t c (c.after i T) ∧
           LaneResult c i i.xdst m (fun l => (i.xlane vs (32 * c.t + l)).1)
             ((lanesOf m).foldl (fun g l => g ||| (i.xlane vs (32 * c.t + l)).2) 0) T
       | .ballot f =>
         ∃ t T, exec i s = .next t ∧ OnlyTroupe s t c (c.after i T) ∧
           (∀ r, T.regs.s.get 0 r = if f.n = false ∧ r = (f.d.extractLsb' 0 6).toNat then
             (maskOf fun l => m.getLsbD l && (i.xread c l).1 == 1).setWidth 64 else c.trp.regs.s.get 0 r) ∧
           { T.regs with s := c.trp.regs.s } = c.trp.regs ∧ T.q = c.trp.q
       | _ => True)) ∧
  (∀ (m : Mask) (u : Nat) (v : Nat → Nat × Nat) (l : Nat), l < 32 → m.getLsbD l = true →
     let vs : Tab (Nat × Nat) := (lanesOf m).map fun l => (32 * u + l, v l)
     let a (j : Nat) : Nat := if j < 32 ∧ m.getLsbD j = true then (v j).1 else 0
     let p (j : Nat) : Bool := m.getLsbD j && (v j).1 == 1
     (∀ f, ((Instr.swizSel f).xlane vs (32 * u + l)).1 = a ((v l).2 % 32)) ∧
     (∀ f : LW,
       let seg := 32 / 2 ^ (f.m.extractLsb' 2 3).toNat
       let k := (v l).2 % 32 % seg
       ((Instr.swiz f).xlane vs (32 * u + l)).1 = a (l / seg * seg + match (f.m.extractLsb' 0 2).toNat with
         | 0 => k
         | 1 => (l % seg + k) % seg
         | 2 => Nat.xor (seg - 1 - l % seg) k
         | _ => Nat.xor (l % seg) k)) ∧
     (∀ f : LW, ((Instr.rank f).xlane vs (32 * u + l)).1 = (List.range l).countP p) ∧
     (∀ f : LW, ((Instr.elect f).xlane vs (32 * u + l)).1 = num (decide (∀ j, j < l → m.getLsbD j = false))) ∧
     (∀ f : LW, ((Instr.agree f).xlane vs (32 * u + l)).1 = num (match (f.m.extractLsb' 0 2).toNat with
       | 0 => (lanesOf m).all p
       | 1 => (lanesOf m).any p
       | 2 => (lanesOf m).all p || (lanesOf m).all fun j => !p j
       | _ => decide (2 * (lanesOf m).countP p > (lanesOf m).length))) ∧
     (∀ f : LW,
       let like (j : Nat) : Bool := m.getLsbD j && (v j).1 == (v l).1
       let r := ((Instr.peers f).xlane vs (32 * u + l)).1
       match (f.m.extractLsb' 0 2).toNat with
       | 0 => r = (maskOf like).toNat
       | 1 => like r = true ∧ ∀ j, j < r → like j = false
       | 2 => r = (List.range l).countP like
       | _ => r = num ((lanesOf m).all fun j => (v j).1 == (v l).1)) ∧
     (∀ f : LW, (f.m.extractLsb' 0 3).toNat < 5 →
       let k := (f.m.extractLsb' 0 3).toNat
       let x := a (Nat.xor l (2 ^ k))
       ((Instr.shx f).xlane vs (32 * u + l)).1 =
         if l.testBit k then a l ^^^ (((x >>> 2 ^ k) ^^^ a l) &&& (v l).2)
         else a l ^^^ ((((a l >>> 2 ^ k) ^^^ x) &&& (v l).2) <<< 2 ^ k)) ∧
     (∀ f : LW, f.m.getLsbD 7 = false →
       let op := (f.m.extractLsb' 0 3).toNat
       ∀ tree : Nat → Nat → Nat × Flags,
         (∀ i, tree 0 i = (if i < 32 ∧ m.getLsbD i = true then (v i).1 else redIdent op f.t.toNat, 0)) →
         (∀ n i, tree (n + 1) i =
           let x := tree n i
           let y := tree n (i + 2 ^ n)
           let z := redStep op f.t.toNat x.1 y.1
           (z.1, z.2 ||| x.2 ||| y.2)) →
         (Instr.red f).xlane vs (32 * u + l) = tree 5 0) ∧
     ∀ f : LW,
       let op := (f.m.extractLsb' 0 3).toNat
       let fold (js : List Nat) : Nat :=
         js.foldl (fun r j => (redStep op f.t.toNat r (v j).1).1) (redIdent op f.t.toNat)
       ((Instr.scan f).xlane vs (32 * u + l)).1 =
         fold ((lanesOf m).filter fun j => if f.m.getLsbD 3 then decide (j < l) else decide (j ≤ l)))

/-! ## Uniform instructions -/

/-- 11 R270, R272 to R276: what each uniform instruction writes to its register; it raises no flag and changes nothing
else. 11 R271, R277: SCMP writes its condition to a gate and never to g0; VPUT writes one lane where it is active in
the issuing split, and nothing where it is not. -/
def Obligations.UniformRegistersGatesAndLanes : Prop :=
  ((∀ f : UR,
     let bin (g : DWord → DWord → DWord) (_ : State) (c : Ctx) : DWord := g (c.sr f.a) (c.sr f.b)
     let less (a b : DWord) : Bool := if f.x.getLsbD 0 then a.ult b else a.slt b
     UniCompletes (.sadd f) f.d (bin fun a b => a + b) ∧
     UniCompletes (.ssub f) f.d (bin fun a b => a - b) ∧
     UniCompletes (.smul f) f.d (bin fun a b => a * b) ∧
     UniCompletes (.smulh f) f.d (bin fun a b => if f.x.getLsbD 0 then BitVec.ofNat 64 (a.toNat * b.toNat / 2 ^ 64)
       else BitVec.ofInt 64 (a.toInt * b.toInt / 2 ^ 64)) ∧
     UniCompletes (.sand f) f.d (bin fun a b => a &&& b) ∧
     UniCompletes (.sor f) f.d (bin fun a b => a ||| b) ∧
     UniCompletes (.sxor f) f.d (bin fun a b => a ^^^ b) ∧
     UniCompletes (.sshl f) f.d (bin fun a b => a <<< b.toNat) ∧
     UniCompletes (.sshr f) f.d (bin fun a b => a >>> b.toNat) ∧
     UniCompletes (.ssar f) f.d (bin fun a b => a.sshiftRight b.toNat) ∧
     UniCompletes (.smin f) f.d (bin fun a b => if less a b then a else b) ∧
     UniCompletes (.smax f) f.d (bin fun a b => if less a b then b else a) ∧
     UniCompletes (.smov f) f.d (bin fun a _ => a) ∧
     UniCompletes (.spopc f) f.d (bin fun a _ => BitVec.ofNat 64 (popcount a)) ∧
     UniCompletes (.sclz f) f.d (bin fun a _ => a.clz) ∧
     UniCompletes (.ssel f) f.d (fun _ c =>
       if c.gate (f.x.extractLsb' 0 3).toNat != f.x.getLsbD 3 then c.sr f.a else c.sr f.b)) ∧
   (∀ f : UI,
     UniCompletes (.saddI f) f.d (fun _ c => c.sr f.a + f.imm.signExtend 64) ∧
     UniCompletes (.sandI f) f.d (fun _ c => c.sr f.a &&& f.imm.signExtend 64) ∧
     UniCompletes (.sshlI f) f.d (fun _ c => c.sr f.a <<< (f.imm.setWidth 6).toNat) ∧
     UniCompletes (.sshrI f) f.d (fun _ c => c.sr f.a >>> (f.imm.setWidth 6).toNat) ∧
     UniCompletes (.smovI f) f.d (fun _ _ => f.imm.signExtend 64)) ∧
   ∀ f : UW,
     UniCompletes (.smovi f) f.d (fun _ _ => if f.a = 0 then f.w.setWidth 64 else f.w.signExtend 64) ∧
     UniCompletes (.sbfe f) f.d (fun _ c =>
       let x := (c.sr f.a).extractLsb' (f.f 5 0) (f.f 12 6)
       if f.bit 13 then x.signExtend 64 else x.setWidth 64) ∧
     UniCompletes (.vget f) f.d (fun _ c =>
       let l := if f.bit 15 then f.f 4 0 else (c.sr f.a).toNat % 32
       if c.trp.lm.getLsbD l then
         if f.top then c.trp.regs.lane (f.v + 1) l ++ c.trp.regs.lane f.v l else (c.trp.regs.lane f.v l).setWidth 64
       else 0)) ∧
  ((∀ f : UR, WordCompletes (.scmp f) (fun _ _ => True) fun _ c T =>
     let a := c.sr f.a
     let b := c.sr f.b
     let less (a b : DWord) : Bool := if f.x.getLsbD 3 then a.ult b else a.slt b
     (∀ k, k < 8 → T.regs.g.getLsbD k =
       if k ≠ 0 ∧ k = (f.d.extractLsb' 0 3).toNat then
         match (f.x.extractLsb' 0 3).toNat with
         | 0 => decide (a = b)
         | 1 => decide (a ≠ b)
         | 2 => less a b
         | 3 => !less b a
         | 4 => less b a
         | _ => !less a b
       else c.trp.regs.g.getLsbD k) ∧
     { T with regs := { T.regs with g := c.trp.regs.g } } = (c.opened (.scmp f)).trp) ∧
   ∀ f : UW, WordCompletes (.vput f) (fun _ _ => True) fun _ c T =>
     let n := if f.bit 15 then f.f 4 0 else (c.sr f.a).toNat % 32
     (∀ r l, l < 32 → T.regs.lane r l =
       if l = n ∧ (c.sp.em &&& c.trp.lm).getLsbD l = true then
         if r = f.v then (c.sr f.b).setWidth 32
         else if f.top = true ∧ r = f.v + 1 then ((c.sr f.b) >>> 32).setWidth 32 else c.trp.regs.lane r l
       else c.trp.regs.lane r l) ∧
     { T.regs with v := c.trp.regs.v } = c.trp.regs ∧
     { T with regs := c.trp.regs, poison := c.trp.poison, flips := c.trp.flips } = (c.opened (.vput f)).trp)

/-! ## Control -/

/-- 01 R27, 11 R280, R284, R281: BRA goes to its target where its gate holds, DBNZ counts down and goes where the
count is not 0, and JMPX without its link bit goes to the word a register names; CALL with a false gate falls through.
01 R28: BRD with no lane taken falls through, with every owned lane taken goes to its target, and else divides the
split: where a hardware entry is free the taken lanes go to the target in the lowest free entry, and the others fall
through; where none is, the split goes to the target with the taken lanes, renewed in age, and the others wait on the
split stack. -/
def Obligations.BranchesGoOrDivide : Prop :=
  ((∀ f : UB, WentCompletes (.bra f) (fun _ _ => True) fun _ c T =>
     c.movedTo { T with run := c.trp.run } (if c.gate f.sel.toNat != f.sense then c.sp.pc + f.off.signExtend 32
       else c.sp.pc + 1)) ∧
   (∀ f : UB, WentCompletes (.dbnz f) (fun _ _ => True) fun _ c T =>
     let n := c.s f.sel.toNat - 1
     (∀ r, T.regs.s.get 0 r = if r = f.sel.toNat then n else c.trp.regs.s.get 0 r) ∧
     c.movedTo
       { T with
         regs := { T.regs with s := c.trp.regs.s }, poison := c.trp.poison, flips := c.trp.flips, run := c.trp.run }
       (if n ≠ 0 then c.sp.pc + f.off.signExtend 32 else c.sp.pc + 1)) ∧
   (∀ f : UR, f.x.getLsbD 0 = false → WentCompletes (.jmpx f) (fun _ _ => True) fun _ c T =>
     c.movedTo { T with run := c.trp.run } ((c.sr f.a).setWidth 32)) ∧
   (∀ f : UB, WentCompletes (.call f) (fun _ c => (c.gate f.sel.toNat != f.sense) = false) fun _ c T =>
     c.movedTo { T with run := c.trp.run } (c.sp.pc + 1))) ∧
  (∀ f : UB, WentCompletes (.brd f) (fun _ _ => True) fun _ c T =>
     let p := c.predMask f.sel.toNat
     let taken := c.sp.em &&& c.trp.lm &&& if f.sense then ~~~p else p
     let target := c.sp.pc + f.off.signExtend 32
     T.regs = c.trp.regs ∧ T.lm = c.trp.lm ∧
     (taken = 0 → T.splits.find c.e = some { c.sp with pc := c.sp.pc + 1, only := none } ∧
       ∀ e, e ≠ c.e → T.splits.find e = c.trp.splits.find e) ∧
     (taken ≠ 0 → c.sp.own &&& ~~~taken = 0 → T.splits.find c.e = some { c.sp with pc := target, only := none } ∧
       ∀ e, e ≠ c.e → T.splits.find e = c.trp.splits.find e) ∧
     (taken ≠ 0 → c.sp.own &&& ~~~taken ≠ 0 → ∀ e', c.trp.freeEntry = some e' →
       T.splits.find c.e = some { c.sp with
         own := c.sp.own &&& ~~~taken, em := c.sp.em &&& (c.sp.own &&& ~~~taken), pc := c.sp.pc + 1, only := none } ∧
       T.splits.find e' = some ⟨taken, taken, target, c.trp.now + 1, .ready, none⟩ ∧
       ∀ e, e ≠ c.e → e ≠ e' → T.splits.find e = c.trp.splits.find e) ∧
     (taken ≠ 0 → c.sp.own &&& ~~~taken ≠ 0 → c.trp.freeEntry = none →
       T.splits.find c.e = some { c.sp with
         own := taken, em := taken, pc := target, age := c.trp.now + 1, only := none } ∧
       T.stack = ⟨c.sp.pc + 1, c.sp.own &&& ~~~taken, c.sp.em &&& (c.sp.own &&& ~~~taken), c.sp.age⟩ :: c.trp.stack ∧
       ∀ e, e ≠ c.e → T.splits.find e = c.trp.splits.find e))

/-- 11 R281, R282, R284: a call pushes the next word on the return stack of every owned lane and goes to its target;
with a lane that holds 16 return points it faults STACK, and nothing is pushed. 11 R283: RET pops one return point of
every owned lane. Where all the owned lanes return to one word the split goes there whole; where the words differ, the
group of the lowest lane stays in the split, and each later group becomes a split of its own, each younger than the
one before, in a free entry or, where none is left, on the split stack. With an empty return stack it faults STACK. -/
def Obligations.CallsAndReturns : Prop :=
  (let pushes (i : Instr) (holds : Ctx → Bool) (target : Ctx → Word) : Prop :=
     WentCompletes i (fun _ c => holds c = true ∧ ∀ l ∈ lanesOf c.sp.own, (c.trp.ret.get [] l).length < 16) fun _ c T =>
       (∀ l, l < 32 → T.ret.get [] l = if c.sp.own.getLsbD l = true then (c.sp.pc + 1) :: c.trp.ret.get [] l
         else c.trp.ret.get [] l) ∧
       c.movedTo { T with ret := c.trp.ret, run := c.trp.run } (target c)
   (∀ f : UB, pushes (.call f) (fun c => c.gate f.sel.toNat != f.sense) (fun c => c.sp.pc + f.off.signExtend 32)) ∧
   (∀ f : UR, pushes (.jmpx f) (fun _ => f.x.getLsbD 0) (fun c => (c.sr f.a).setWidth 32)) ∧
   ∀ (f : UB) s c l, Ready s c (.call f) → (c.gate f.sel.toNat != f.sense) = true →
     (lanesOf c.sp.own).find? (fun l => decide (16 ≤ (c.trp.ret.get [] l).length)) = some l →
     exec (.call f) s = .next ((s.onTrp c fun T => T.openRun (.call f) c.e c.sp.pc).raiseFault (c.opened (.call f))
       ⟨0x18, l, 0⟩ c.sp.pc)) ∧
  ((∀ f : UR, WentCompletes (.ret f) (fun _ c => ∀ l ∈ lanesOf c.sp.own, c.trp.ret.get [] l ≠ []) fun _ c T =>
     (∀ l, l < 32 → T.ret.get [] l = if c.sp.own.getLsbD l = true then (c.trp.ret.get [] l).drop 1
       else c.trp.ret.get [] l) ∧
     T.regs = c.trp.regs ∧ T.lm = c.trp.lm ∧
     (∀ w, c.sp.own ≠ 0 → c.sp.em &&& c.sp.own = c.sp.em → (∀ l ∈ lanesOf c.sp.own, (c.trp.ret.get [] l).head? = some w) →
       c.movedTo { T with ret := c.trp.ret, run := c.trp.run } w) ∧
     let pt (l : Nat) : Word := (c.trp.ret.get [] l).headD 0
     let groups : List (Word × Mask) :=
       ((lanesOf c.sp.own).map pt).eraseDups.map fun w => (w, maskOf fun l => c.sp.own.getLsbD l && pt l == w)
     (∀ g, groups[0]? = some g →
       T.splits.find c.e = some { c.sp with own := g.2, em := c.sp.em &&& g.2, pc := g.1, only := none }) ∧
     (∀ k g, groups[k + 1]? = some g →
       (∃ e, e ≠ c.e ∧ c.trp.splits.find e = none ∧
         T.splits.find e = some ⟨g.2, c.sp.em &&& g.2, g.1, c.trp.now + (k + 1), .ready, none⟩) ∨
       (⟨g.1, g.2, c.sp.em &&& g.2, c.trp.now + (k + 1)⟩ ∈ T.stack ∧ T.freeEntry = none)) ∧
     ∀ e S, e ≠ c.e → c.trp.splits.find e = some S → T.splits.find e = some S) ∧
   ∀ (f : UR) s c l, Ready s c (.ret f) → (lanesOf c.sp.own).find? (fun l => (c.trp.ret.get [] l).isEmpty) = some l →
     exec (.ret f) s = .next ((s.onTrp c fun T => T.openRun (.ret f) c.e c.sp.pc).raiseFault (c.opened (.ret f))
       ⟨0x18, l, 0⟩ c.sp.pc))

/-- 01 R29 to R31: TOK arms its token with its target, the owned set and the newest age; MEET at the target of an
armed token parks the split; a TOK over a token with a parked split, a MEET of an unarmed token and one elsewhere than
at its target fault TOKEN with causes 2, 0 and 1. 01 R30, R31: where no token completes, some split can move, lanes
live and no fault waits for a free handler, evaluating a troupe changes nothing that is read: its splits, tokens,
lanes and registers stand, in it and in every other troupe. -/
def Obligations.TokensArmMeetAndSettle : Prop :=
  ((∀ f : UB, WordCompletes (.tok f)
     (fun _ c => c.trp.k.find f.sel.toNat = none ∨ c.trp.atMeet f.sel.toNat = []) fun _ c T =>
     (∀ k, T.k.find k = if k = f.sel.toNat then some ⟨c.sp.pc + f.off.signExtend 32, c.sp.own, c.trp.now + 1⟩
       else c.trp.k.find k) ∧
     { T with k := c.trp.k, now := c.trp.now } = (c.opened (.tok f)).trp) ∧
   (∀ (f : UB) (k : Token), WentCompletes (.meet f)
     (fun _ c => c.trp.k.find f.sel.toNat = some k ∧ k.target = c.sp.pc) fun _ c T =>
     (∀ e, T.splits.find e = if e = c.e then some { c.sp with wait := .meet f.sel.toNat, only := none }
       else c.trp.splits.find e) ∧
     { T with splits := c.trp.splits, run := c.trp.run } = c.trp) ∧
   let faults (i : Instr) (s : State) (c : Ctx) (detail : Nat) : Prop :=
     exec i s = .next ((s.onTrp c fun T => T.openRun i c.e c.sp.pc).raiseFault (c.opened i) ⟨0x09, 0, detail⟩ c.sp.pc)
   ∀ (f : UB) s c,
     (Ready s c (.tok f) → c.trp.k.find f.sel.toNat ≠ none → c.trp.atMeet f.sel.toNat ≠ [] →
       faults (.tok f) s c (f.sel.toNat + 16)) ∧
     (Ready s c (.meet f) → c.trp.k.find f.sel.toNat = none → faults (.meet f) s c f.sel.toNat) ∧
     (Ready s c (.meet f) → ∀ k, c.trp.k.find f.sel.toNat = some k → k.target ≠ c.sp.pc →
       faults (.meet f) s c (f.sel.toNat + 8))) ∧
  (∀ (s : State) (b t : Nat) (T : Troupe) (B : Block), s.blocks.find b = some B → B.troupes.find t = some T → T.youngest = none → T.stuck = false → T.lm ≠ 0 →
     (T.handler = none → T.held = []) →
     (∀ I, B.inst = some I → ∀ p ∈ I.members, p.1 = t → p.2 &&& T.lm = p.2) →
     (∀ I, T.inst = some I → ∀ p ∈ I.members, p.1 = t → p.2 &&& T.lm = p.2) →
     let u := s.settleTrp b t
     { u with blocks := s.blocks } = s ∧ (∀ j, j ≠ b → u.blocks.find j = s.blocks.find j) ∧
       ∃ B', u.blocks.find b = some B' ∧ { B' with troupes := B.troupes } = B ∧
         ∀ k, B'.troupes.find k = B.troupes.find k)

/-- 01 R32: EXIT takes the active lanes of its split out of `lm` and out of the split; a split left without a lane leaves
its entry, and one left with some has them all in its execution mask. -/
def Obligations.ExitRetiresTheActiveLanes : Prop :=
  ∀ f : UR, WentCompletes (.exit f) (fun _ c => c.trp.stack = []) fun _ c T =>
    let gone := c.sp.em &&& c.trp.lm
    T.lm = c.trp.lm &&& ~~~gone ∧ T.regs = c.trp.regs ∧ T.k = c.trp.k ∧
    (∀ e, e ≠ c.e → T.splits.find e = c.trp.splits.find e) ∧
    T.splits.find c.e =
      if c.sp.own &&& ~~~gone = 0 then none
      else some { c.sp with own := c.sp.own &&& ~~~gone, em := c.sp.own &&& ~~~gone, pc := c.sp.pc + 1, only := none }

/-- 11 R285, R286: NOP only goes on; YIELD goes on and gives the other troupes the next turn. 11 R287, R288, 08 R230:
TRAP faults TRAP with its code as detail, and so does BRK with the debug gate closed; with the gate open BRK writes
`flt`, goes on past itself and stops its troupe, or every troupe of the block with the block-stop bit. 08 R221: ERET
of the split in the handler ends the handler and resumes the split by retry, or by skip with its bit; the earliest
held fault is then delivered. Elsewhere ERET faults ILLEGAL, cause 11. Where the spec leaves this open, it is the
model's reading: logs 3, 13, 50. -/
def Obligations.NopsTrapsAndHandlerReturn : Prop :=
  ((∀ f : UR, WordCompletes (.nop f) (fun _ _ => True) fun _ c T => T = (c.opened (.nop f)).trp) ∧
   ∀ f : UR, WordCompletes (.yield f) (fun _ _ => True) fun _ c T =>
     T = { (c.opened (.yield f)).trp with yielded := true, passed := 0, promoted := false }) ∧
  ((∀ (f : UR) s c, Ready s c (.trap f) →
     exec (.trap f) s = .next ((s.onTrp c fun T => T.openRun (.trap f) c.e c.sp.pc).raiseFault (c.opened (.trap f))
       ⟨0x13, 0, f.b.toNat * 32 + f.x.toNat⟩ c.sp.pc)) ∧
   (∀ (f : UR) s c, Ready s c (.brk f) → s.gateOpen c.task = false →
     exec (.brk f) s = .next ((s.onTrp c fun T => T.openRun (.brk f) c.e c.sp.pc).raiseFault (c.opened (.brk f))
       ⟨0x14, 0, f.b.toNat * 32 + f.x.toNat⟩ c.sp.pc)) ∧
   ∀ (f : UR) s c, Ready s c (.brk f) → s.gateOpen c.task = true →
     ∃ u : State, exec (.brk f) s = .next ((u.settleTrp c.b c.t).stepEnds c.b c.t c.e c.sp.own) ∧ { u with blocks := s.blocks } = s ∧
       ∃ (B : Block) (T : Troupe), u.blocks.find c.b = some B ∧ B.troupes.find c.t = some T ∧
         T.stopped = true ∧ T.flt = fltWord ⟨0x14, 0, f.b.toNat * 32 + f.x.toNat, c.sp.pc⟩ c.e ∧
         T.splits.find c.e = some { c.sp with pc := c.sp.pc + 1, only := none } ∧ T.regs = c.trp.regs ∧
         (c.blk.stopBit = true → ∀ p ∈ B.troupes, p.2.stopped = true)) ∧
  ((∀ f : UR, WentCompletes (.eret f) (fun _ c => (c.trp.handler.map Handler.entry) = some c.e) fun _ c T =>
     ∃ h, c.trp.handler = some h ∧
       (c.trp.held = [] → T.handler = none ∧ T.regs = c.trp.regs ∧
         ∀ e, T.splits.find e = if e = c.e then
           some { c.sp with pc := if f.x.getLsbD 0 then h.skip else h.retry } else c.trp.splits.find e) ∧
       ∀ e fl retry skip r, c.trp.held = (e, fl, retry, skip) :: r →
         T.handler = some ⟨e, retry, skip⟩ ∧ T.held = r ∧ T.flt = fltWord fl e) ∧
   ∀ (f : UR) s c, Ready s c (.eret f) → (c.trp.handler.map Handler.entry) ≠ some c.e →
     exec (.eret f) s = .next ((s.onTrp c fun T => T.openRun (.eret f) c.e c.sp.pc).raiseFault (c.opened (.eret f))
       ⟨0x01, 0, 11⟩ c.sp.pc))

/-- 01 Table 1.2, 11 R290: SRD reads every special register. 11 R291: SWR writes `em` within the owned set, the flag
bits of `nf`, and `chk`; value 3 for `chk` faults ILLEGAL. Where the spec leaves this open, it is the model's reading:
log 60. -/
def Obligations.SpecialRegistersReadAndWrite : Prop :=
  (∀ f : UR, UniCompletes (.srd f) f.d fun s c =>
     match f.a.toNat with
     | 0 => c.sp.em.setWidth 64
     | 1 => c.trp.lm.setWidth 64
     | 2 => (c.trp.regs.nf &&& 0x03FF#16).setWidth 64
     | 3 => BitVec.ofNat 64 c.trp.role
     | 4 => c.trp.chk.setWidth 64
     | 5 => BitVec.ofNat 64 (c.t % 32)
     | 6 => BitVec.ofNat 64 c.blk.id
     | 7 => BitVec.ofNat 64 c.blk.core
     | 8 => BitVec.ofNat 64 (quadOf c.blk.core)
     | 9 => BitVec.ofNat 64 (dieOf c.blk.core)
     | 10 => BitVec.ofNat 64 s.ctl.pkg
     | 11 => s.ctl.clk
     | 12 => BitVec.ofNat 64 c.e
     | 13 => c.trp.flt
     | 14 => (s.core c.blk.core).cor.setWidth 64
     | k => (s.core c.blk.core).cwp.get 0 (k - 16) - c.blk.cwpBase.get 0 (k - 16)) ∧
  ((∀ f : UR, f.d = 0 → ∀ s c, Ready s c (.swr f) → ∃ t T, exec (.swr f) s = .next t ∧
     OnlyTroupe s t c (c.after (.swr f) T) ∧
     (∀ e, T.splits.find e = if e = c.e then some { c.sp with em := (c.sr f.a).setWidth 32 &&& c.sp.own }
       else c.trp.splits.find e) ∧ { T with splits := c.trp.splits } = (c.opened (.swr f)).trp) ∧
   (∀ f : UR, f.d = 2 → WordCompletes (.swr f) (fun _ _ => True) fun _ c T =>
     T = { (c.opened (.swr f)).trp with regs := { c.trp.regs with nf := (c.sr f.a).setWidth 16 &&& 0x03FF#16 } }) ∧
   (∀ f : UR, f.d = 4 → WordCompletes (.swr f) (fun _ c => (c.sr f.a).extractLsb' 0 2 ≠ 3#2) fun _ c T =>
     T = { (c.opened (.swr f)).trp with chk := (c.sr f.a).extractLsb' 0 2 }) ∧
   ∀ (f : UR) s c, f.d = 4 → Ready s c (.swr f) → (c.sr f.a).extractLsb' 0 2 = 3#2 →
     exec (.swr f) s = .next ((s.onTrp c fun T => T.openRun (.swr f) c.e c.sp.pc).raiseFault (c.opened (.swr f))
       ⟨0x01, 0, 11⟩ c.sp.pc))

/-! ## Memory -/

/-- 13 R339, 04 R104, R105: LDL and LDK read at once, LDL the lane's private window and LDK argument space, at x +
sext(m)·size; an offset that passes the end faults BOUNDS and one that is no multiple of the size ALIGN, on the lowest
lane, and LDL of a window's unit that cannot be corrected POISON (08 R216). With the queue bit the value enters the
partner's queue. Where the spec leaves this open, it is the model's reading: logs 11, 17, 73. -/
def Obligations.LocalAndArgumentLoads : Prop :=
  let loads (i : Instr) (f : LW) (len : Ctx → Nat) (byte : Ctx → Nat → Nat → Byte) (whole : Ctx → Prop)
      (bad : Ctx → Nat → Nat → Bool) : Prop :=
    ∀ s c, Ready s c i → c.popWait i (c.guarded i) s = none → c.blk.unreach = none → whole c →
      let m := c.guarded i
      let at' (l : Nat) : Int := (c.operand f.a 0 l : Int) + f.m.toInt * f.msize
      let v (l : Nat) : Nat := loadExt (f.t = 0) f.msize
        (leNat ((List.range f.msize).map fun k => byte c l ((at' l).toNat + k)))
      let inside : Prop := ∀ l ∈ lanesOf m, 0 ≤ at' l ∧ at' l + f.msize ≤ len c
      let good : Prop := ∀ l ∈ lanesOf m, bad c l (at' l).toNat = false
      (inside → (∀ l ∈ lanesOf m, at' l % f.msize = 0) → good → f.queue = none →
        ∃ t T, exec i s = .next t ∧ OnlyTroupe s t c (c.after i T) ∧
          LoadsWords c T f.d.toNat (if i.n then 0 else f.words) m v) ∧
      (inside → (∀ l ∈ lanesOf m, at' l % f.msize = 0) → good → ∀ q, f.queue = some q → c.full q m = false →
        ∃ t, exec i s = .next t ∧ QueueGains t c q m (fun l => some (BitVec.ofNat 32 (v l))) ∧
          { t with blocks := s.blocks } = s) ∧
      ((f.queue.map fun q => c.full q m) ≠ some true →
        (∀ l, (lanesOf m).find? (fun l => decide (at' l < 0 ∨ (len c : Int) < at' l + f.msize)) = some l →
          Traps s c i ⟨0x06, l, 0⟩) ∧
        (inside → ∀ l, (lanesOf m).find? (fun l => decide (at' l % f.msize ≠ 0)) = some l → Traps s c i ⟨0x07, l, 0⟩) ∧
        (inside → (∀ l ∈ lanesOf m, at' l % f.msize = 0) →
          ∀ l, (lanesOf m).find? (fun l => bad c l (at' l).toNat) = some l → Traps s c i ⟨0x16, l, 0⟩))
  (∀ f, loads (.ldl f) f (fun _ => 16384) (fun c l a => Tab.get 0#8 c.blk.priv (16384 * (32 * c.t + l) + a))
    (fun c => c.blk.privFlips = []) fun c l a =>
      (unitsOf 8 (16384 * (32 * c.t + l) + a) f.msize).any c.blk.privPoison.contains) ∧
  ∀ f, loads (.ldk f) f (fun c => c.task.launch.arglen) (fun c _ a => c.task.args.getD a 0) (fun _ => True) fun _ _ _ => false

/-- 13 R339, R340: LDS, LDF and LDB whose checks hold, outside a run, go out: a load in flight names each active
lane's place, and the registers change only when it returns; with the queue bit slots of the partner's queue are
reserved. For LDB the die may mark companions and cache translations (07 R204). Inside a run, or with N = 1, a slice
load that no earlier load of its places is in flight for (05 R135) reads at once, the block's own stores before the
slice. 13 R341: PFB changes no register, no memory value and no ordering: apart from the queue entries its operands
pop and its split, which goes on, only the issuing core's bulk cache differs, which keeps every byte it held (a dirty
one, and one of a line it held whole, as it was); where the lines can be read with the translations at hand, device
memory stands whole, and each passing lane's line is held. A translation made for a fill marks its page's companion
(07 R204), as every translation does. Where the spec leaves this open, it is the model's reading: logs 14, 17, 19, 59.
-/
def Obligations.SharedLoadsGoOutAndPrefetchFills : Prop :=
  (let loads (i : Instr) (f : LW) (sp : Space) (tr : Nat) : Prop :=
     ∀ s c, Ready s c i → c.popWait i (c.guarded i) s = none → c.blk.unreach = none → s.mem.flips = [] →
       let m := c.guarded i
       let xs := f.offsets c m f.msize
       let r := c.cap f.mcap
       let at' (x : Int) : Nat := match sp with
         | .slice => s.capSlice r x.toNat
         | .bulk => s.capKey c.task.part r x.toNat
       let places := xs.map fun x => (x.1, at' x.2)
       let L : Load := { space := sp, lanes := places, size := f.msize, signed := f.t = 0, words := f.words,
                         d := f.d.toNat, queue := f.queue, transpose := tr }
       s.accessFault c r (if sp = .slice then 2 else 1) (rightsOf true false false) f.msize xs = none →
       (∀ p ∈ places, s.loadPoison c sp p.2 f.msize = false) →
       (sp = .bulk → s.mem.devFlips = [] ∧ s.mem.sideFlips = [] ∧ (s.core c.blk.core).cacheFlips = [] ∧ (s.core c.blk.core).cachePoison = [] ∧
         ∀ p ∈ places, s.held c.blk.core p.2 f.msize = true ∨ s.pageOf c.blk.core p.2 f.msize false = none) →
       (f.queue = none → i.h = false → c.trp.run = none → i.n = false →
         ∃ u t T, { u with mem := s.mem } = s ∧ u.mem.slice = s.mem.slice ∧ u.mem.code = s.mem.code ∧ (sp = .slice → u = s) ∧
           exec i s = .next t ∧ OnlyTroupe u.bump t c (c.after i T) ∧ T.regs = c.trp.regs ∧
           ∀ id, T.loads.find id = if id = s.fresh then some L else c.trp.loads.find id) ∧
       (∀ q, f.queue = some q → c.full q m = false → i.h = false → c.trp.run = none → i.n = false →
         ∃ t, exec i s = .next t ∧ QueueGains t c q m (fun _ => none) ∧
           ∃ T, t.trp? c.b c.t = some T ∧ T.loads.find s.fresh = some L) ∧
       (sp = .slice → tr = 0 → f.queue = none → (i.h = true ∨ c.trp.run ≠ none ∨ i.n = true) →
         (∀ p ∈ places, c.loadAt sp p.2 f.msize = false) →
         ∃ t T, exec i s = .next t ∧ OnlyTroupe s t c (c.after i T) ∧
           LoadsWords c T f.d.toNat (if i.n then 0 else f.words) m fun l =>
             loadExt (f.t = 0) f.msize (leNat (overlay c.blk.buf .slice (laneVal places l)
               (s.sliceRead (laneVal places l) f.msize))))
   (∀ f, loads (.lds f) f .slice 0) ∧ (∀ f, loads (.ldf f) f .slice f.tr) ∧ ∀ f, loads (.ldb f) f .bulk 0) ∧
  (∀ (f : LW) s c, Ready s c (.pfb f) → c.popWait (.pfb f) (c.guarded (.pfb f)) s = none → c.blk.unreach = none →
     let xs := f.offsets c (c.guarded (.pfb f)) f.msize
     let r := c.cap f.mcap
     let key (x : Nat × Int) : Nat := s.capKey c.task.part r x.2.toNat
     let C := s.core c.blk.core
     let lineHeld (k : Nat) : Prop := ∀ i, i < 128 → C.cache.find (k / 128 * 128 + i) ≠ none
     s.laneCapFault c r 1 (rightsOf true false false) xs = none → (cacheLines C.cache).length ≤ 992 →
     ∃ u t T, exec (.pfb f) s = .next t ∧ OnlyTroupe u t c (c.after (.pfb f) T) ∧ T.regs = c.trp.regs ∧
       { T with q := c.trp.q, poison := c.trp.poison, flips := c.trp.flips } = (c.opened (.pfb f)).trp ∧
       { u with mem := s.mem, cores := s.cores } = s ∧ { u.mem with dev := s.mem.dev, tlb := s.mem.tlb } = s.mem ∧
       (∀ k, k ≠ c.blk.core → u.core k = s.core k) ∧
       { u.core c.blk.core with cache := C.cache, cachePoison := C.cachePoison } = C ∧
       (∀ k x, C.cache.find k = some x → ∃ y, (u.core c.blk.core).cache.find k = some y ∧
         (x.dirty ≠ none ∨ lineHeld k → y = x)) ∧
       ((∀ x ∈ xs, ∃ bs, s.keyRead c.blk.core (key x / 128 * 128) 128 = some (bs, s)) → u.mem = s.mem ∧
         ∀ x ∈ xs, 0 ≤ x.2 → x.2 + f.msize ≤ r.size → x.2 % f.msize = 0 →
           s.pageOf c.blk.core (key x) f.msize true = none →
           ∀ i, i < 128 → (u.core c.blk.core).cache.find (key x / 128 * 128 + i) ≠ none))

/-- 13 R339, R340, 05 R135, R137, 08 R216: a load that returns reads its places, the newest store of the block before
the home's byte (the slice's, or the one the core's cache holds), fills its registers or its reserved queue slots,
transposing with `.tr`, and is no longer in flight; a bulk line that the cache does not hold is fetched, clean, from
the point of coherence. It waits for an earlier load of its troupe that meets its places, and a place poisoned since
it issued is consumed. Where the spec leaves this open, it is the model's reading: logs 11, 14, 74. -/
def Obligations.ReturningLoadsFillTheirRegisters : Prop :=
  ∀ (s : State) (b t id : Nat) (B : Block) (T : Troupe) (L : Load), s.blocks.find b = some B → B.troupes.find t = some T →
    T.loads.find id = some L → ∃ u : State, exec (.loadReturn b t id) s = .next u ∧
    let waits : Bool := T.loads.any fun p => p.1 < id && p.2.space = L.space &&
      p.2.lanes.any fun x => L.lanes.any fun y => x.2 < y.2 + L.size && y.2 < x.2 + p.2.size
    let bad : Bool := L.lanes.any fun x => s.placePoison B.buf B.core L.space x.2 L.size
    let cache := (s.core B.core).cache
    let stored (a : Nat) : Option Byte := bufByte B.buf L.space a
    let at' (x i : Nat) : Byte := (stored (x + i)).getD (match L.space with
      | .slice => (s.sliceRead x L.size).getD i 0
      | .bulk => (cache.find (x + i)).elim 0 CByte.val)
    let raw := L.lanes.map fun x => (x.1, leNat ((List.range L.size).map fun i => at' x.2 i))
    let v (l : Nat) : Nat := if L.transpose = 0 then loadExt L.signed L.size (laneVal raw l)
      else transposed L.transpose raw l
    let near : Prop := L.space = .slice ∨ ∀ x ∈ L.lanes,
      (∀ i, i < L.size → stored (x.2 + i) ≠ none) ∨ ∀ i, i < L.size → cache.find (x.2 + i) ≠ none
    let fills (w : Nat → Nat) (U : Troupe) : Prop := U.loads = T.loads.del id ∧ { U.regs with v := T.regs.v } = T.regs ∧
      ∀ r l, l < 32 → U.regs.lane r l =
        if (laneMask L.lanes).getLsbD l = true ∧ L.d ≤ r ∧ r < L.d + L.words then BitVec.ofNat 32 (w l / 2 ^ (32 * (r - L.d)))
        else T.regs.lane r l
    (waits = true → u = s) ∧
    (waits = false → bad = true → u = s.contain b 0x16 0) ∧
    (waits = false → bad = false → near → L.queue = none →
      ∃ U, u.trp? b t = some U ∧ fills v U ∧ { u with blocks := s.blocks } = s) ∧
    (waits = false → bad = false → near → ∀ q, L.queue = some q → (L.lanes.map Prod.fst).Nodup → (∀ x ∈ L.lanes, x.1 < 32) →
      ∀ P, B.troupes.find (if t < 32 then t + 32 else t - 32) = some P →
      ∃ Q, u.trp? b (if t < 32 then t + 32 else t - 32) = some Q ∧ { Q with q := P.q } = P ∧
        { u with blocks := s.blocks } = s ∧
        ∀ j l, l < 32 → Q.q.get [] (32 * j + l) = if j = q ∧ (laneMask L.lanes).getLsbD l = true then
            fillSlot (T.ahead id q l) (BitVec.ofNat 32 (v l)) (P.q.get [] (32 * q + l))
          else P.q.get [] (32 * j + l)) ∧
    (waits = false → bad = false → L.space = .bulk → L.queue = none → 0 < L.size → ∀ l a bs, L.lanes = [(l, a)] →
      a % 128 + L.size ≤ 128 → (∀ i, i < L.size → stored (a + i) = none) →
      (∀ i, i < 128 → cache.find (a / 128 * 128 + i) = none) → (cacheLines cache).length < 1024 →
      s.keyRead B.core (a / 128 * 128) 128 = some (bs, s) →
      let x := leNat ((List.range L.size).map fun i => bs.getD (a % 128 + i) 0)
      ∃ U, u.trp? b t = some U ∧
        fills (fun _ => if L.transpose = 0 then loadExt L.signed L.size x else transposed L.transpose [(l, x)] l) U ∧
        { u with blocks := s.blocks, cores := s.cores } = s ∧ (∀ k, k ≠ B.core → u.core k = s.core k) ∧
        ∀ k, (u.core B.core).cache.find k = if k / 128 = a / 128 then some { val := bs.getD (k % 128) 0, dirty := none }
          else cache.find k)

/-- 13 R339, 04 R104, 08 R398: STL writes its bytes to the lane's private window at once; every byte of every other
lane's window and every other byte of its own, every other troupe and block, and the rest of the state stand. A unit
of the windows that is written whole loses its errors, and no other does. Where the spec leaves this open, it is the
model's reading: log 17. -/
def Obligations.LocalStoresReachTheirWindow : Prop :=
  ∀ (f : LW) s c, Ready s c (.stl f) → c.popWait (.stl f) (c.guarded (.stl f)) s = none → c.blk.unreach = none →
    let m := c.guarded (.stl f)
    let at' (l : Nat) : Int := (c.operand f.a 0 l : Int) + f.m.toInt * f.msize
    (∀ l ∈ lanesOf m, 0 ≤ at' l ∧ at' l + f.msize ≤ 16384 ∧ at' l % f.msize = 0) →
    let whole (u : Nat) : Prop := ∃ l ∈ lanesOf m, 16384 * (32 * c.t + l) + (at' l).toNat ≤ 8 * u ∧
      8 * u + 8 ≤ 16384 * (32 * c.t + l) + (at' l).toNat + f.msize
    ∃ t B T, exec (.stl f) s = .next t ∧ { t with blocks := s.blocks } = s ∧ t.blocks.find c.b = some B ∧
      (∀ k, k ≠ c.b → t.blocks.find k = s.blocks.find k) ∧
      { B with
        priv := c.blk.priv, privPoison := c.blk.privPoison, privFlips := c.blk.privFlips, troupes := c.blk.troupes } = c.blk ∧
      (∀ l a, l < 32 → a < 16384 → Tab.get 0#8 B.priv (16384 * (32 * c.t + l) + a) =
        if m.getLsbD l = true ∧ (at' l).toNat ≤ a ∧ a < (at' l).toNat + f.msize then
          (f.sdata c f.msize l).getD (a - (at' l).toNat) 0
        else Tab.get 0#8 c.blk.priv (16384 * (32 * c.t + l) + a)) ∧
      (∀ k, (∀ l, l < 32 → k / 16384 ≠ 32 * c.t + l) → Tab.get 0#8 B.priv k = Tab.get 0#8 c.blk.priv k) ∧
      (∀ u, (u ∈ B.privPoison ↔ u ∈ c.blk.privPoison ∧ ¬ whole u) ∧ (u ∈ B.privFlips ↔ u ∈ c.blk.privFlips ∧ ¬ whole u)) ∧
      (∀ k, k ≠ c.t → B.troupes.find k = c.blk.troupes.find k) ∧
      B.troupes.find c.t = some (c.after (.stl f) T) ∧ T.regs = c.trp.regs ∧
      { T with q := c.trp.q, poison := c.trp.poison, flips := c.trp.flips } = (c.opened (.stl f)).trp

/-- 13 R339, R340, 05 R136, R137: STS and STF, and STB whose pages are cached as writable, enter the block's store
buffer in ascending lane order: a byte reads as the newest store to it, every other byte of either space as before
(also those of a row whose lanes are not active, R340), and no memory, no other block and no register changes. A store
that would take the buffer past 64 KiB commits and drains it (05 R139): the relaunch window ends, bit 8 of the error
word is set, and what is left of the older entries is committed. 05 R137, R139, R147, 04 R109, R111: a buffered slice
store that may drain reaches its home: the bytes it stores are the memory's; every other byte, block, core and engine
stands, and the entry is gone; a store to a guarded granule is discarded and sets RIGHTS in the block's error word. A
buffered bulk store reaches the core's cache, dirty by its block, and no memory changes. An entry with an older one of
its place before it, or a store of an earlier epoch not yet accepted, stays. Where the spec leaves this open, it is
the model's reading: logs 6, 18. -/
def Obligations.StoresAreBufferedAndDrain : Prop :=
  (let stores (i : Instr) (f : LW) (sp : Space) (parts : Ctx → Mask → Nat → List Byte × List Nat) : Prop :=
     ∀ s c, Ready s c i → c.popWait i (c.guarded i) s = none → c.blk.unreach = none →
       let m := c.guarded i
       let xs := f.offsets c m f.msize
       let r := c.cap f.mcap
       let at' (x : Int) : Nat := match sp with
         | .slice => s.capSlice r x.toNat
         | .bulk => s.capKey c.task.part r x.toNat
       let places := xs.map fun x => (x.1, at' x.2)
       let put := places.flatMap fun p =>
         ((List.range (parts c m p.1).1.length).filter fun k => !(parts c m p.1).2.contains k).map fun k =>
           (p.2 + k, [(parts c m p.1).1.getD k 0])
       s.accessFault c r (if sp = .slice then 2 else 1) (rightsOf false true false) f.msize xs = none →
       (∀ p ∈ places, c.loadAt sp p.2 f.msize = false) →
       (sp = .slice → ∀ p ∈ places, s.barred p.2 f.msize = false) →
       (sp = .bulk → ∀ p ∈ places, s.pageOf c.blk.core p.2 f.msize true = none ∧
         (s.translate (dieOf c.blk.core) (keyPart p.2) (keyObj p.2) (keyCopy p.2) (keyOff p.2) true).2 = s) →
       (bufSize c.blk.buf + 512 ≤ 65536 →
         ∃ t B, exec i s = .next t ∧ { t with blocks := s.blocks, fresh := s.fresh } = s ∧ t.blocks.find c.b = some B ∧
           (∀ k, k ≠ c.b → t.blocks.find k = s.blocks.find k) ∧
           { B with buf := c.blk.buf, troupes := c.blk.troupes } = c.blk ∧
           (∀ a, bufByte B.buf sp a = storedByte put (bufByte c.blk.buf sp a) a) ∧
           (∀ sp' a, sp' ≠ sp → bufByte B.buf sp' a = bufByte c.blk.buf sp' a) ∧
           (∀ k, k ≠ c.t → B.troupes.find k = c.blk.troupes.find k) ∧
           ∃ T, B.troupes.find c.t = some T ∧ T.regs = c.trp.regs) ∧
       ∀ p, places = [p] → bufTouch c.blk.buf sp p.2 (parts c m p.1).1.length = [] →
         65536 < bufSize c.blk.buf + (parts c m p.1).1.length →
         ∃ t B, exec i s = .next t ∧ t.blocks.find c.b = some B ∧ B.window = false ∧ B.err.getLsbD 8 = true ∧
           ∀ id, c.blk.buf.find id ≠ none → ∀ e, B.buf.find id = some e → e.committed = true
   (∀ f, stores (.sts f) f .slice fun c _ l => (f.sdata c f.msize l, [])) ∧
   (∀ f, stores (.stf f) f .slice (stfParts f)) ∧
   ∀ f, stores (.stb f) f .bulk fun c _ l => (f.sdata c f.msize l, [])) ∧
  (∀ (s : State) (b id : Nat) (B : Block) (e : BufEntry), s.blocks.find b = some B → B.buf.find id = some e →
     (∀ f ∈ B.fences, ¬ f < e.epoch) →
     let may : Bool := drains B.buf id e && !s.unacked b fun x => decide (x.epoch < e.epoch)
     let gone (u : State) : Prop := (∀ k, k ≠ b → u.blocks.find k = s.blocks.find k) ∧ ∃ B', u.blocks.find b = some B' ∧
       B'.buf = B.buf.del id ∧ { B' with buf := B.buf, troupes := B.troupes } = B ∧
       ∀ t T, B.troupes.find t = some T → ∃ T', B'.troupes.find t = some T' ∧ { T' with splits := T.splits } = T
     let stored (a : Nat) : Prop := e.addr ≤ a ∧ a < e.addr + e.data.length ∧ a - e.addr ∉ e.holes
     ∃ u, exec (.storeEntryDrain b id) s = .next u ∧
       (may = false → u = s) ∧
       (may = true → e.space = .slice → s.here e.addr = true → sliceKey e.addr + e.data.length ≤ 2 ^ 33 →
         s.guarded e.addr e.data.length = false →
         (∀ a, Tab.get 0#8 u.mem.slice a =
           if sliceKey e.addr ≤ a ∧ a < sliceKey e.addr + e.data.length ∧ a - sliceKey e.addr ∉ e.holes then
             e.data.getD (a - sliceKey e.addr) 0
           else Tab.get 0#8 s.mem.slice a) ∧
         { u with blocks := s.blocks, mem := { u.mem with
             slice := s.mem.slice, slicePoison := s.mem.slicePoison, flips := s.mem.flips } } = s ∧ gone u) ∧
       (may = true → e.space = .slice → s.guarded e.addr e.data.length = true →
         (∀ K, s.tasks.find B.task = some K → K.launch.errors = 0) →
         u.mem = s.mem ∧ ∃ B', u.blocks.find b = some B' ∧ B'.buf = B.buf.del id ∧
           B'.err &&& 0x0000FFFF#32 = (B.err &&& 0x0000FF00#32) ||| 0x05#32) ∧
       (may = true → e.space = .bulk → (s.obj (keyPart e.addr) (keyObj e.addr)).t = false → e.data.length ≤ 128 →
         (cacheLines (s.core B.core).cache).length + 2 ≤ 1024 →
         (∀ k, (stored k → (u.core B.core).cache.find k =
             some (CByte.over ((s.core B.core).cache.find k) b (e.data.getD (k - e.addr) 0))) ∧
           (¬ stored k → (u.core B.core).cache.find k = (s.core B.core).cache.find k)) ∧
         (∀ k, k ≠ B.core → u.core k = s.core k) ∧ { u with blocks := s.blocks, cores := s.cores } = s ∧ gone u))

/-- 13 R342, R343, 05 R150: ATS, CASS and REDS at slices of this package: the lanes that share an address act there
one after another, in ascending order (a float add as one sum): the word takes the last value, each lane of ATS and
CASS receives the value it found, and no byte outside the words acted on changes. Where the spec leaves this open, it
is the model's reading: log 17. -/
def Obligations.SliceAtomicsActInLaneOrder : Prop :=
  let atomic (i : Instr) (f : LW) (cas ret : Bool) : Prop :=
    ∀ s c, Ready s c i → c.popWait i (c.guarded i) s = none → c.blk.unreach = none → s.mem.flips = [] →
      c.trp.loads = [] → c.blk.buf = [] →
      let m := c.guarded i
      let t := f.t.toNat
      let n := if wide t then 8 else 4
      let op := (f.c.extractLsb' 4 4).toNat
      let r := c.cap f.mcap
      let xs := f.offsets c m n
      let places := xs.map fun x => (x.1, s.capSlice r x.2.toNat)
      let args (a : Nat) : List (Nat × Nat × Nat) := (places.filter fun p => p.2 = a).map fun p =>
        (p.1, c.operand f.b t p.1, if cas then c.regs (wide t) f.d.toNat p.1 else 0)
      s.capFault c r [2] (rightsOf ret true true) = none →
      s.accessFault c r 2 (rightsOf ret true true) n xs = none →
      (∀ p ∈ places, s.here p.2 = true ∧ p.2 < 2 ^ 39 ∧ p.2 % n = 0 ∧ s.guarded p.2 n = false ∧
        s.slicePoisoned p.2 n = false) →
      ∃ u T, exec i s = .next u ∧ u.trp? c.b c.t = some T ∧
        (∀ p ∈ places, u.sliceNat p.2 n = (combine cas op t (s.sliceNat p.2 n) (args p.2)).2 % 2 ^ (8 * n)) ∧
        SliceBut s u (fun a => ∃ p ∈ places, sliceKey p.2 ≤ a ∧ a < sliceKey p.2 + n) ∧
        u.mem.dev = s.mem.dev ∧ u.tasks = s.tasks ∧ u.cores = s.cores ∧
        ∀ k l, l < 32 → T.regs.lane k l =
          if ret = true ∧ i.n = false ∧ m.getLsbD l = true ∧ f.d.toNat ≤ k ∧ k < f.d.toNat + n / 4 then
            BitVec.ofNat 32 (laneVal (combine cas op t (s.sliceNat (laneVal places l) n) (args (laneVal places l))).1 l
              / 2 ^ (32 * (k - f.d.toNat)))
          else c.trp.regs.lane k l
  (∀ f, atomic (.ats f) f false true) ∧ (∀ f, atomic (.cass f) f true true) ∧ ∀ f, atomic (.reds f) f false false

/-- 13 R342, R343, 05 R140, R150: ATB, CASB and REDB of one lane complete where their checks hold, the translation is
at hand and the core's line is clean: they act at the point of coherence, on what it holds there, drop the core's
line, and ATB and CASB return the value found. On an object of another package (04 R128) one operation goes there, and
no memory changes here. Where the spec leaves this open, it is the model's reading: logs 17, 19. -/
def Obligations.BulkAtomicsActAtTheHome : Prop :=
  let atomic (i : Instr) (f : LW) (cas ret : Bool) : Prop :=
    ∀ s c l, Ready s c i → c.popWait i (c.guarded i) s = none → c.blk.unreach = none → c.trp.loads = [] →
      c.blk.buf = [] → c.guarded i = 1#32 <<< l → l < 32 →
      let t := f.t.toNat
      let n := if wide t then 8 else 4
      let op := (f.c.extractLsb' 4 4).toNat
      let r := c.cap f.mcap
      let xs := f.offsets c (c.guarded i) n
      let k := s.capKey c.task.part r ((c.operand f.a 0 l : Int) + f.m.toInt * n).toNat
      s.capFault c r [1] (rightsOf ret true true) = none → (s.obj c.task.part r.obj).place ≠ 0 →
      s.accessFault c r 1 (rightsOf ret true true) n xs = none → s.bulkPoisoned c.blk.core k n = false →
      s.mem.devFlips = [] → s.mem.sideFlips = [] → (s.core c.blk.core).cacheFlips = [] →
      (s.core c.blk.core).cachePoison = [] → (∀ e ∈ (s.core c.blk.core).cache, e.1 / 128 = k / 128 → e.2.dirty = none) →
      let part := keyPart k
      let obj := keyObj k
      let x := s.translate (dieOf c.blk.core) part obj (keyCopy k) (keyOff k) true
      let args := [(l, c.operand f.b t l, if cas then c.regs (wide t) f.d.toNat l else 0)]
      let dest (j q : Nat) : Prop := ret = true ∧ i.n = false ∧ q = l ∧ f.d.toNat ≤ j ∧ j < f.d.toNat + n / 4
      (∀ a, x = (.dev a, s) →
        let key := s.keyOf (s.obj part obj) a
        let v := combine cas op t (leNat (s.devRead key a n)) args
        ∃ w T, exec i s = .next w ∧ w.trp? c.b c.t = some T ∧
          w.mem = ((s.devWrite key a (leBytes n v.2)).setD part obj (keyCopy k) (keyOff k)).mem ∧
          w.cores = (s.invalidate c.blk.core fun j => j / 128 = k / 128).cores ∧ w.eng = s.eng ∧
          ∀ j q, q < 32 → (dest j q → T.regs.lane j q = BitVec.ofNat 32 (laneVal v.1 l / 2 ^ (32 * (j - f.d.toNat)))) ∧
            (¬ dest j q → T.regs.lane j q = c.trp.regs.lane j q)) ∧
      ∀ pkg o, x = (.far pkg o, s) →
        ∃ w T y, exec i s = .next w ∧ w.trp? c.b c.t = some T ∧ w.mem = s.mem ∧ w.eng.sent = s.eng.sent ++ [y] ∧
          y.dst = pkg ∧ y.op = .atomic (.bulk part o (keyOff k) (keyCopy k ≠ (s.obj part obj).copy false)) cas op t (sentOperands cas op t args) ∧
          ∀ j q, q < 32 → ¬ dest j q → T.regs.lane j q = c.trp.regs.lane j q
  (∀ f, atomic (.atb f) f false true) ∧ (∀ f, atomic (.casb f) f true true) ∧ ∀ f, atomic (.redb f) f false false

/-- 07 R202 to R204, R211: a translation by a page entry gives its frame, sets the requester's bit in the page's
companion and changes no other byte of device memory; the I/O die (requester 72) marks none. An absent or unwritable
page, an offset past the size and a key slot that does not serve change nothing; an object of tier 3 is found in its
package. Where the spec leaves this open, it is the model's reading: logs 7, 52. -/
def Obligations.TranslationMarksTheCompanion : Prop :=
  ∀ (s : State) (who part obj copy off : Nat) (write : Bool),
    let o := s.obj part obj
    let page := off / 2 ^ pageBits o.psz
    let pe := s.devNat (o.array copy + 8 * page) 8
    let frame := bits pe 47 12 * 4096
    let size := 2 ^ pageBits o.psz
    let place := frame + off % size
    let r := s.translate who part obj copy off write
    (o.size * 4096 ≤ off → r = (.bounds, s)) ∧
    (off < o.size * 4096 → s.keyServes part o = false → r = (.noKey, s)) ∧
    (off < o.size * 4096 → s.keyServes part o = true → o.tier = 3 →
      r = (.far (bits o.root 5 0) (bits o.root 29 6), s)) ∧
    (off < o.size * 4096 → s.keyServes part o = true → o.tier ≠ 3 →
      s.mem.tlb.find (tlbKey who part obj copy page) = none →
      (bit pe 0 = false ∨ bits pe 11 2 ≠ 0 ∨ bits pe 63 48 ≠ 0 ∨ bits pe 47 46 = 3 ∨ frame % size ≠ 0 → r = (.absent, s)) ∧
      (bit pe 0 = true → bits pe 11 2 = 0 → bits pe 63 48 = 0 → frame % size = 0 →
        (bits pe 47 46 = 2 ∨ bits pe 47 46 = 0 ∧ frame + size ≤ 192 * 2 ^ 30 ∨
          bits pe 47 46 = 1 ∧ frame - 2 ^ 46 + size ≤ 2 ^ 40) →
        (write = true → bit pe 1 = false ∨ s.statusAt place = true → r = (.notWritable, s)) ∧
        (write = false ∨ bit pe 1 = true ∧ s.statusAt place = false → r.1 = .dev place ∧ r.2.mem.slice = s.mem.slice ∧
          r.2.blocks = s.blocks ∧ (who = 72 → r.2 = s) ∧
          (who ≠ 72 →
            (∀ a, a ≠ o.companion copy page + who / 8 → Tab.get 0#8 r.2.mem.dev a = Tab.get 0#8 s.mem.dev a) ∧
            Tab.get 0#8 r.2.mem.dev (o.companion copy page + who / 8) =
              Tab.get 0#8 s.mem.dev (o.companion copy page + who / 8) ||| (1#8 <<< (who % 8))))))

/-! ## Guards -/

/-- 04 R112: an arrival counts pending down, or sets the surplus bit where none is pending. Bytes landed count down and EXPECT
counts them up, as signed numbers, which may fall below 0. Where no arrival is pending and no byte is outstanding the phase
completes: it advances, and the expected counts are pending again, with what the bytes had passed 0 by carried over, so that
no landed byte is lost, also where none was pending. -/
def Obligations.GuardsCountArrivals : Prop :=
  ∀ g : GState,
    let fits (z : Int) : Prop := -2 ^ 31 ≤ z ∧ z < 2 ^ 31
    let next (x : GState) (z : Int) : GState :=
      { x with phase := x.phase + 1, pending := x.expected, bytes := x.expBytes + z }
    (1 < g.pending → g.arrive1 = { g with pending := g.pending - 1 }) ∧
    (g.pending = 1 → 0 < g.bytes → g.arrive1 = { g with pending := 0 }) ∧
    (g.pending = 1 → g.bytes ≤ 0 → fits (g.expBytes + g.bytes) → g.arrive1 = next g g.bytes) ∧
    (g.pending = 0 → 0 < g.bytes → g.arrive1 = { g with surplus := true }) ∧
    (g.pending = 0 → g.bytes ≤ 0 → fits (g.expBytes + g.bytes) → g.arrive1 = next { g with surplus := true } g.bytes) ∧
    (∀ n : Nat, fits (g.bytes - n) →
      (0 < g.pending ∨ 0 < g.bytes - n → g.land n = { g with bytes := g.bytes - n }) ∧
      (g.pending = 0 → g.bytes - n ≤ 0 → fits (g.expBytes + (g.bytes - n)) → g.land n = next g (g.bytes - n))) ∧
    ∀ n : Nat, fits (g.bytes + n) →
      (0 < g.pending ∨ 0 < g.bytes + n → g.expect n = { g with bytes := g.bytes + n }) ∧
      (g.pending = 0 → g.bytes + n ≤ 0 → fits (g.expBytes + (g.bytes + n)) → g.expect n = next g (g.bytes + n))

/-- 13 R345, R346, R348, 08 R216: the operations on a guard of this package. ARRIVE arrives n times and EXPECT adds
bytes; GFLG joins flags to w4; GINIT gives every field its reset value and sets the guard bits of its 416 bytes. No
byte outside the guard object changes, and nothing else. Where what they read of the guard cannot be corrected they
fault POISON. 13 R348, 04 R118: GBIND appends the region's entry to the guard's list where there is room, leaves a
list that has it as it is, and faults GEOM on a ninth; GUNB removes the region's entry and closes up the list, or
empties it with its bit. They change the list's word and the list's bytes of the guard object they act on, and nothing
else; a list that cannot be corrected faults POISON. Where the spec leaves this open, it is the model's reading: logs
20, 54, 62. -/
def Obligations.GuardsActAndBind : Prop :=
  (let counts (s : State) (g : Nat) : Bool := s.slicePoisoned g 16 || s.slicePoisoned (g + 30) 2
   (∀ (f : UW) s c, Ready s c (.arrive f) →
     let g := (c.cap f.cN).at
     let n := if f.f 7 0 = 0 then (c.sr f.a).toNat else f.f 7 0
     s.guardFault c (c.cap f.cN) 0x008#12 = none → f.bit 8 = false → n ≤ 65535 → s.here g = true →
     s.behind c g true = false → s.mem.flips = [] →
     (counts s g = true → Traps s c (.arrive f) ⟨0x16, 0, 0⟩) ∧
     (counts s g = false → ∃ u t, exec (.arrive f) s = .next t ∧
       OnlyTroupe u t c.exposed (c.after (.arrive f) (c.opened (.arrive f)).trp) ∧
       u.guard g = (s.guard g).arrive n ∧ OnlySlice s u (fun a => sliceKey g ≤ a ∧ a < sliceKey g + 32))) ∧
   (∀ (f : UW) s c, Ready s c (.expect f) →
     let g := (c.cap f.cN).at
     s.guardFault c (c.cap f.cN) 0x008#12 = none → (c.sr f.a).toNat < 2 ^ 31 → s.here g = true →
     s.behind c g true = false → s.mem.flips = [] →
     (counts s g = true → Traps s c (.expect f) ⟨0x16, 0, 0⟩) ∧
     (counts s g = false → ∃ u t, exec (.expect f) s = .next t ∧
       OnlyTroupe u t c.exposed (c.after (.expect f) (c.opened (.expect f)).trp) ∧
       u.guard g = (s.guard g).expect (c.sr f.a).toNat ∧
       OnlySlice s u (fun a => sliceKey g ≤ a ∧ a < sliceKey g + 32))) ∧
   (∀ (f : UW) s c, Ready s c (.gflg f) →
     let g := (c.cap f.cN).at
     let x : BitVec 16 := (if f.bit 8 then c.trp.regs.nf else (c.sr f.a).setWidth 16) &&& 0x03FF#16
     s.guardFault c (c.cap f.cN) 0x008#12 = none → s.here g = true → s.behind c g true = false → s.mem.flips = [] →
     (s.slicePoisoned (g + 16) 2 = true → Traps s c (.gflg f) ⟨0x16, 0, 0⟩) ∧
     (s.slicePoisoned (g + 16) 2 = false → ∃ u t, exec (.gflg f) s = .next t ∧
       OnlyTroupe u t c.exposed (c.after (.gflg f) (c.opened (.gflg f)).trp) ∧
       u.sliceNat (g + 16) 2 = (BitVec.ofNat 16 (s.sliceNat (g + 16) 2) ||| x).toNat ∧
       OnlySlice s u (fun a => sliceKey g + 16 ≤ a ∧ a < sliceKey g + 18))) ∧
   ∀ (f : UW) s c, Ready s c (.ginit f) →
     let g := (c.cap f.cN).at
     let a := (c.sr f.a).toNat
     let n := (c.sr f.b).toNat
     s.guardFault c (c.cap f.cN) 0x200#12 = none → s.here g = true → s.behind c g false = false → s.mem.flips = [] →
     (s.slicePoisoned (g + 28) 2 = true → Traps s c (.ginit f) ⟨0x16, 0, 0⟩) ∧
     (s.slicePoisoned (g + 28) 2 = false →
       2 ^ 16 ≤ a ∨ 2 ^ 31 ≤ n ∨ sliceBytes < g % 2 ^ 22 + 416 ∨ s.sliceNat (g + 28) 2 ≠ 0 →
       Traps s c (.ginit f) ⟨0x11, 0, 0⟩) ∧
     (s.slicePoisoned (g + 28) 2 = false → a < 2 ^ 16 → n < 2 ^ 31 → g % 2 ^ 22 + 416 ≤ sliceBytes →
       s.sliceNat (g + 28) 2 = 0 → bufTouch c.blk.buf .slice g 416 = [] →
       ∃ u t, exec (.ginit f) s = .next t ∧ OnlyTroupe u t c.exposed (c.after (.ginit f) (c.opened (.ginit f)).trp) ∧
         u.guard g = ⟨0, a, a, n, n, false⟩ ∧ u.bound g = 0 ∧
         (∀ k, k < 13 → u.mem.guards.find (sliceKey g / 32 + k) = some c.blk.task) ∧
         (∀ k, k < sliceKey g / 32 ∨ sliceKey g / 32 + 13 ≤ k → u.mem.guards.find k = s.mem.guards.find k) ∧
         OnlySlice s { u with mem := { u.mem with guards := s.mem.guards } }
           (fun a => sliceKey g ≤ a ∧ a < sliceKey g + 416))) ∧
  (let bad (s : State) (g : Nat) : Bool := s.slicePoisoned (g + 20) 4 || s.listPoisoned g
   let entries (s : State) (g : Nat) : List Nat := (List.range (s.bound g)).map (s.bindEntry g)
   let word (g a : Nat) : Prop := sliceKey g + 20 ≤ a ∧ a < sliceKey g + 24
   (∀ (f : UW) s c, Ready s c (.gbind f) →
     let g := (c.cap f.cN).at
     let x := bindOf (c.cap f.cM)
     let goesOn (p : Nat → Prop) (q : State → Prop) : Prop := ∃ u t, exec (.gbind f) s = .next t ∧
       OnlyTroupe u t c.exposed (c.after (.gbind f) (c.opened (.gbind f)).trp) ∧ OnlySlice s u p ∧ q u
     s.guardFault c (c.cap f.cN) 0x200#12 = none → s.capFault c (c.cap f.cM) [1, 2] 0x200#12 = none →
     s.here g = true → s.behind c g false = false → s.mem.flips = [] →
     (bad s g = true → Traps s c (.gbind f) ⟨0x16, 0, 0⟩) ∧
     (bad s g = false → 8 ≤ s.bound g → (∀ i, i < 8 → s.bindEntry g i ≠ x) → Traps s c (.gbind f) ⟨0x11, 0, 0⟩) ∧
     (bad s g = false → (∃ i, i < min (s.bound g) 8 ∧ s.bindEntry g i = x) → goesOn (fun _ => False) fun u => u = s) ∧
     (bad s g = false → g % 2 ^ 22 + 416 ≤ 2 ^ 22 → s.bound g < 8 → (s.bound g ≠ 0 → s.bindList g = g + 288) →
       (∀ i, i < s.bound g → s.bindEntry g i ≠ x) →
       goesOn (fun a => word g a ∨
           sliceKey g + 288 + 16 * s.bound g ≤ a ∧ a < sliceKey g + 288 + 16 * s.bound g + 16) fun u =>
         entries u g = entries s g ++ [x] ∧ u.guard g = s.guard g)) ∧
   ∀ (f : UW) s c, Ready s c (.gunb f) →
     let g := (c.cap f.cN).at
     let goesOn (p : Nat → Prop) (q : State → Prop) : Prop := ∃ u t, exec (.gunb f) s = .next t ∧
       OnlyTroupe u t c.exposed (c.after (.gunb f) (c.opened (.gunb f)).trp) ∧ OnlySlice s u p ∧ q u
     s.guardFault c (c.cap f.cN) 0x200#12 = none → s.here g = true → s.behind c g false = false → s.mem.flips = [] →
     (f.bit 8 = false → s.capFault c (c.cap f.cM) [1, 2] 0x200#12 = none) →
     (bad s g = true → Traps s c (.gunb f) ⟨0x16, 0, 0⟩) ∧
     (bad s g = false → f.bit 8 = true → goesOn (word g) fun u =>
       u.bound g = 0 ∧ u.bindings g = [] ∧ u.guard g = s.guard g) ∧
     (bad s g = false → f.bit 8 = false → g % 2 ^ 22 + 416 ≤ 2 ^ 22 → s.bound g ≤ 8 →
       (s.bound g ≠ 0 → s.bindList g = g + 288) →
       goesOn (fun a => word g a ∨ sliceKey g + 288 ≤ a ∧ a < sliceKey g + 416) fun u =>
         entries u g = (entries s g).filter (fun y => y ≠ bindOf (c.cap f.cM)) ∧ u.guard g = s.guard g))

/-- 13 R347, 04 R114, 05 R160, 08 R216: where no release of the block on the guard is pending, WAIT and TRYW whose
phase has come go on at once, TRYW with gate 1, and drop only clean bytes of the core's cache; TRYW with a timeout of
0 writes gate 0; else the split waits on the guard and is counted there. A phase or a list of bindings that cannot be
corrected faults POISON. 13 R347, 04 R114: a split parked at a guard whose phase has come goes on past its word, a
TRYW with its gate 1; one whose phase has not come stays, and one whose phase cannot be corrected consumes the error
(08 R216); at its deadline a TRYW goes on with its gate 0. Where the spec leaves this open, it is the model's reading:
logs 20, 53. -/
def Obligations.WaitsParkWakeAndTimeOut : Prop :=
  (let holds (s : State) (g n : Nat) : Bool := decide (0 ≤ ((s.guard g).phase - BitVec.ofNat 32 n).toInt)
   let bad (s : State) (g : Nat) : Bool := s.slicePoisoned g 4 || s.slicePoisoned (g + 20) 4 || s.listPoisoned g
   let cleanDrop (s u : State) (core : Nat) : Prop :=
     u.mem = s.mem ∧ (∀ k, k ≠ core → u.core k = s.core k) ∧
       ∀ k x, (s.core core).cache.find k = some x → x.dirty ≠ none → (u.core core).cache.find k = some x
   (∀ (f : UW) s c, Ready s c (.wait f) →
     let g := (c.cap f.cN).at
     let n := if f.bit 8 then f.f 7 0 else (c.sr f.a).toNat % 2 ^ 32
     s.waitFault c (c.cap f.cN) = none → c.blk.arriving g = false → s.mem.flips = [] →
     (bad s g = true → Traps s c (.wait f) ⟨0x16, 0, 0⟩) ∧
     (bad s g = false → holds s g n = true → ∃ u t, exec (.wait f) s = .next t ∧ cleanDrop s u c.blk.core ∧
       u.blocks = s.blocks ∧ OnlyTroupe u t c (c.after (.wait f) (c.opened (.wait f)).trp)) ∧
     (bad s g = false → holds s g n = false → s.here g = true → s.sliceNat (g + 28) 2 < 0xFFFF →
       ∃ (u : State) (T : Troupe) (t : State),
         exec (.wait f) s = .next ((u.settleTrp c.b c.t).stepEnds c.b c.t c.e c.sp.own) ∧ t.blocks = s.blocks ∧
         t.sliceNat (g + 28) 2 = s.sliceNat (g + 28) 2 + 1 ∧
         OnlySlice s t (fun a => sliceKey g + 28 ≤ a ∧ a < sliceKey g + 30) ∧
         OnlyTroupe t u c { T with run := none } ∧
         T.splits.find c.e = some { c.sp with wait := .guard g n, only := none } ∧ T.regs = c.trp.regs)) ∧
   ∀ (f : UW) s c, Ready s c (.tryw f) →
     let g := (c.cap f.cN).at
     let n := (c.sr f.a).toNat % 2 ^ 32
     let time := (c.sr f.b).toNat % 2 ^ 32
     let gate := (f.d.extractLsb' 0 3).toNat
     s.waitFault c (c.cap f.cN) = none → c.blk.arriving g = false → s.mem.flips = [] →
     (bad s g = true → Traps s c (.tryw f) ⟨0x16, 0, 0⟩) ∧
     (bad s g = false → holds s g n = true → ∃ u t T, exec (.tryw f) s = .next t ∧ cleanDrop s u c.blk.core ∧
       u.blocks = s.blocks ∧ OnlyTroupe u t c (c.after (.tryw f) T) ∧ (gate ≠ 0 → T.regs.g.getLsbD gate = true)) ∧
     (bad s g = false → holds s g n = false → time = 0 →
       ∃ t T, exec (.tryw f) s = .next t ∧ OnlyTroupe s t c (c.after (.tryw f) T) ∧
         (gate ≠ 0 → T.regs.g.getLsbD gate = false)) ∧
     (bad s g = false → holds s g n = false → time ≠ 0 → s.here g = true →
       ∃ (u : State) (T : Troupe) (t : State),
         exec (.tryw f) s = .next ((u.settleTrp c.b c.t).stepEnds c.b c.t c.e c.sp.own) ∧ t.blocks = s.blocks ∧
         OnlyTroupe t u c { T with run := none } ∧
         T.splits.find c.e = some { c.sp with wait := .tryw g n gate (s.ctl.clk.toNat + time), only := none })) ∧
  (∀ (s : State) (b t e : Nat) (T : Troupe) (S : Split), s.trp? b t = some T → T.splits.find e = some S →
     let gone (u : State) (gate : Option (Nat × Bool)) : Prop := ∃ U, u.trp? b t = some U ∧
       U.splits.find e = some { S with wait := .ready, pc := S.pc + 2 } ∧
       (∀ k x, gate = some (k, x) → 0 < k → k < 8 → U.regs.g.getLsbD k = x) ∧ U.regs.v = T.regs.v ∧ U.lm = T.lm
     let wakes (g n : Nat) (gate : Option (Nat × Bool)) : Prop := ∃ u, exec (.guardWake b t e) s = .next u ∧
       (s.slicePoisoned g 4 = true → u = s.contain b 0x16 0) ∧
       (s.slicePoisoned g 4 = false → s.phaseHolds g n = true → gone u gate) ∧
       (s.slicePoisoned g 4 = false → s.phaseHolds g n = false → u = s.tock)
     (∀ g n, S.wait = .guard g n → wakes g n none) ∧
     (∀ g n k dl, S.wait = .tryw g n k dl → wakes g n (some (k, true))) ∧
     (∀ p o, S.wait = .recv p o → ∃ u U, exec (.guardWake b t e) s = .next u ∧ u.trp? b t = some U ∧
       U.splits.find e = some { S with wait := .ready }) ∧
     ∀ g n k dl, S.wait = .tryw g n k dl → ∃ u, exec (.trywTimeout b t e) s = .next u ∧
       (dl ≤ s.ctl.clk.toNat → gone u (some (k, false))) ∧ (s.ctl.clk.toNat < dl → u = s))

/-- 05 R138, R139, R141, R147: FENCE closes an epoch of the store buffer; COMMIT and ARRIVE with release commit every
entry, end the relaunch window, and COMMIT holds its split while the buffer has entries, a separator's write-back is
owed or a store to another package has not been accepted there; with no entry left before it the write-back that a
separator is owed is made; the release makes its arrival once the entries before it have drained and been accepted,
and the dirty lines it covers have been written back. Where the spec leaves this open, it is the model's reading: logs
18, 20. -/
def Obligations.FencesCommitsAndReleases : Prop :=
  (∀ (f : UW) s c, Ready s c (.fence f) → ∃ t B, exec (.fence f) s = .next t ∧ t.blocks.find c.b = some B ∧
    B.epoch = c.blk.epoch + 1 ∧ B.buf = c.blk.buf ∧
    (f.f 11 9 = 1 → B.fences = c.blk.fences ∧ t.cores = s.cores) ∧
    (f.f 11 9 ≠ 1 → B.fences = c.blk.fences ++ [c.blk.epoch] ∧ ∀ k x, (t.core c.blk.core).cache.find k = some x →
      ∃ y, (s.core c.blk.core).cache.find k = some y) ∧ t.mem = s.mem ∧
    ∃ T, B.troupes.find c.t = some T ∧ T.regs = c.trp.regs) ∧
  (∀ (f : UW) s c, Ready s c (.commit f) → c.blk.unreach = none →
    ∃ (t : State) (B : Block) (T : Troupe), t.blocks.find c.b = some B ∧ B.window = false ∧
      B.troupes.find c.t = some T ∧ (∀ p ∈ B.buf, p.2.committed = true) ∧
      B.buf.map Prod.fst = c.blk.buf.map Prod.fst ∧ t.mem = s.mem ∧
      (c.blk.buf = [] → c.blk.fences = [] → s.unacked c.b (fun x => x.op.stores) = false → exec (.commit f) s = .next t ∧
        T.splits.find c.e = some { c.sp with pc := c.sp.pc + 2, only := none }) ∧
      (c.blk.buf ≠ [] ∨ c.blk.fences ≠ [] ∨ s.unacked c.b (fun x => x.op.stores) = true →
        exec (.commit f) s = .next ((t.settleTrp c.b c.t).stepEnds c.b c.t c.e c.sp.own) ∧
        T.splits.find c.e = some { c.sp with wait := .commit s.fresh, only := none })) ∧
  (∀ (f : UW) s c, Ready s c (.arrive f) →
    let g := (c.cap f.cN).at
    let n := if f.f 7 0 = 0 then (c.sr f.a).toNat else f.f 7 0
    s.guardFault c (c.cap f.cN) 0x008#12 = none → c.blk.unreach = none → f.bit 8 = true → n ≤ 65535 →
    s.mem.flips = [] → s.slicePoisoned (g + 20) 4 = false → s.listPoisoned g = false →
    ∃ t B, exec (.arrive f) s = .next t ∧ t.mem = s.mem ∧ t.blocks.find c.b = some B ∧ B.window = false ∧
      (∀ p ∈ B.buf, p.2.committed = true ∧ p.2.sealed = true) ∧
      B.releases.find s.fresh = some ⟨s.fresh + 1, s.bindings g, .arrive g n⟩) ∧
  (∀ (s : State) (b id : Nat) (B : Block), s.blocks.find b = some B → B.buf.find id = none →
    let due (f : Nat) : Bool := decide (f < B.backDue) && B.buf.all fun e => f < e.2.epoch
    ∃ u, exec (.storeEntryDrain b id) s = .next u ∧ (B.fences.any due = false → u = s) ∧
      (B.fences.any due = true → (s.core B.core).cache = [] → u.mem = s.mem ∧ ∃ B', u.blocks.find b = some B' ∧
        B'.fences = B.fences.filter (fun f => !due f) ∧ B'.buf = B.buf)) ∧
  ∀ (s : State) (b id : Nat) (B : Block) (r : Release) (K : Task), s.blocks.find b = some B → s.tasks.find B.task = some K →
    B.releases.find id = some r → ∃ u, exec (.releaseArrival b id) s = .next u ∧
      (s.mayArrive b B id r = false → u = s) ∧
      (s.mayArrive b B id r = true → (s.core B.core).cache = [] →
        (∀ g n, r.act = .arrive g n → s.here g = true → g % 32 = 0 → u.guard g = (s.guard g).arrive n ∧
          ∃ B', u.blocks.find b = some B' ∧ B'.releases = B.releases.del id) ∧
        (∀ m, r.act = .send m → u.eng.msgs = s.eng.msgs ++ [m] ∧ u.mem = s.mem))

/-! ## Capabilities, messages and chains -/

/-- 14 R352 to R354, Table 14.2: CLD puts a valid table entry into a capability register with its tag and caches its
generation, waits for an absent page of the table, and names why it refuses an entry; CNAR narrows range and rights
and keeps kind, object, generation and tag; CINF reads a field of a null register or of one that passes checks 1 and 2
of 07 R196, and raises what they find; CCLR leaves the null capability. No other register changes. Where the spec
leaves this open, it is the model's reading: log 24. -/
def Obligations.CapabilitiesAreLoadedNarrowedAndRead : Prop :=
  let sets (c : Ctx) (i : Instr) (n : Nat) (T : Troupe) : Prop :=
    (∀ k, k ≠ n → T.regs.c.get {} k = c.trp.regs.c.get {} k) ∧
    { T with regs := { T.regs with c := c.trp.regs.c } } = (c.opened i).trp
  (∀ (f : UW) s c, Ready s c (.cld f) →
    let i := if f.bit 8 then (c.sr f.a).toNat else f.f 7 0
    let wa := c.task.entryAt i
    let lacks := s.waLacks c.blk.core c.task.part wa 32 false
    let read : Prop := i < 256 ∧ lacks = [] ∧ s.waPoisoned c.task.part wa 32 = false
    let good : Prop := read ∧ s.tabServes c.task i = true
    let x := s.tabEntry c.task i
    let r : CapReg := { bits := BitVec.ofNat 128 x, tag := some i }
    let s0 := s.waTouch c.blk.core c.task.part wa false
    let y : CapReg := { bits := BitVec.ofNat 128 (s0.tabEntry c.task i), tag := some i }
    (256 ≤ i → Traps s c (.cld f) ⟨0x06, 0, 0⟩) ∧
    (i < 256 → lacks ≠ [] → c.trp.run = none → ∃ (t : State) (T : Troupe) (w : Wait), exec (.cld f) s = .next t ∧
      t.trp? c.b c.t = some T ∧ T.regs = c.trp.regs ∧ T.splits.find c.e = some { c.sp with wait := w } ∧ w ≠ .ready) ∧
    (i < 256 → lacks = [] → s.waPoisoned c.task.part wa 32 = true → Traps s c (.cld f) ⟨0x16, 0, 0⟩) ∧
    (read → s.tabServes c.task i = false → Traps s c (.cld f) ⟨0x03, 0, 2⟩) ∧
    (good → bit x 128 = false → Traps s c (.cld f) ⟨0x03, 0, 0⟩) ∧
    (good → bit x 128 = true → bit x 129 = true → Traps s c (.cld f) ⟨0x0E, 0, bits x 137 130⟩) ∧
    (good → bit x 128 = true → bit x 129 = false → r.kind ≤ 9 → r.rights &&& ~~~(kindRights r.kind) = 0 →
      s.capOwned c.task.part { r with tag := none } = true →
      (r.kind ≠ 0 → s.current c.blk.core c.task.part { r with tag := none } = true) →
      (r.kind = 7 → s.cardBin c.blk.core { r with tag := none } ≠ none) →
      ∃ (u t : State) (T : Troupe), exec (.cld f) s = .next t ∧ OnlyTroupe u t c (c.after (.cld f) T) ∧
        T.regs.c.get {} f.cN = y ∧ (wa < 2 ^ 40 → y = r) ∧ sets c (.cld f) f.cN T ∧
        { u with cores := s.cores, mem := s.mem } = s ∧ u.mem = s0.mem ∧ u.mem.slice = s.mem.slice ∧
        (∀ k, k ≠ c.blk.core → u.core k = s.core k) ∧
        (y.kind ≠ 0 → (u.obj c.task.part y.obj).v = true → u.genOf c.blk.core c.task.part y.obj = some y.gen))) ∧
  (∀ (f : UW) s c, Ready s c (.cnar f) →
    let r := c.cap f.cM
    let a := (c.sr f.a).toNat
    let n := (c.sr f.b).toNat
    s.capFault c r [1, 2, 3, 4, 5, 6, 8] 0x100#12 = none →
    (r.size < a + n → Traps s c (.cnar f) ⟨0x06, 0, 0⟩) ∧
    (a + n ≤ r.size → (r.kind = 4 → a = 0) → (a % 16 ≠ 0 ∨ n % 16 ≠ 0) → Traps s c (.cnar f) ⟨0x07, 0, 0⟩) ∧
    (a + n ≤ r.size → (r.kind = 4 → a = 0) → a % 16 = 0 → n % 16 = 0 →
      ∃ (t : State) (T : Troupe), exec (.cnar f) s = .next t ∧ OnlyTroupe s t c (c.after (.cnar f) T) ∧
        sets c (.cnar f) f.cN T ∧
        let x := T.regs.c.get {} f.cN
        x.kind = r.kind ∧ x.rights = r.rights &&& BitVec.ofNat 12 (f.f 11 0) ∧ x.obj = r.obj ∧ x.gen = r.gen ∧
        x.base = (r.base + a / 16) % 2 ^ 36 ∧ x.len = n / 16 ∧ x.tag = r.tag)) ∧
  (∀ (f : UW) s c, Ready s c (.cinf f) → (c.cap f.cN).kind ≠ 0 →
    ∀ e, s.capFault c (c.cap f.cN) [(c.cap f.cN).kind] 0x000#12 = some e → Traps s c (.cinf f) e) ∧
  (∀ f : UW, WordCompletes (.cinf f) (fun s c => (c.cap f.cN).kind = 0 ∨
      s.capFault c (c.cap f.cN) [(c.cap f.cN).kind] 0x000#12 = none) fun s c T =>
    let r := c.cap f.cN
    UniResult c (.cinf f) f.d.toNat (BitVec.ofNat 64 (match f.f 2 0 with
      | 0 => r.kind
      | 1 => r.rights.toNat
      | 2 => r.obj
      | 3 => r.gen
      | 4 => r.base
      | 5 => r.len
      | 6 => match r.tag with
        | some i => if r.kind = 4 then bits (s.tabEntry c.task i) 195 160 else 0
        | none => 0
      | _ => r.tag.getD 0x100)) T) ∧
  ∀ f : UW, WordCompletes (.cclr f) (fun _ _ => True) fun _ c T =>
    T.regs.c.get {} f.cN = {} ∧ sets c (.cclr f) f.cN T

/-- 14 R356, R357: SEND charges its register and starts a release whose arrival is the message; RECV takes the oldest
message of its channel into its region, and returns its header word, its split held, where the region lies in another
package, until the payload is accepted there; with nothing there it returns 0, or with `.wait` its split waits. A word
of the directory or the ring that cannot be corrected faults POISON. 07 R209: a message that reaches its channel's
home is refused where the channel is gone or has a new generation, waits where the ring is full or a page of it or of
the channel's directory is absent, and else stands in its slot, header and payload, with the tail counted up; a
refusal marks the sender's table entry CHANFAULT, sets its block's error word and posts event 4. Where the spec leaves
this open, it is the model's reading: log 23. -/
def Obligations.MessagesAreSentReceivedOrRefused : Prop :=
  ((∀ (f : UW) s c, Ready s c (.send f) → c.blk.unreach = none →
     let r := c.cap f.cN
     let p := c.cap f.cM
     let a := (c.sr f.a).toNat
     let n := (c.sr f.b).toNat
     let left := match r.tag with
       | some i => bits (s.tabEntry c.task i) 195 160
       | none => r.len
     let place := s.capSlice p a
     let m : Msg := { part := c.task.part, obj := r.obj, gen := r.gen, core := c.blk.core, pkg := s.ctl.pkg, block := c.b,
                      task := c.blk.task, tag := r.tag, data := overlay c.blk.buf .slice place (s.sliceRead place n) }
     s.capFault c r [4] 0x020#12 = none → s.capFault c p [2] 0x001#12 = none → a + n ≤ p.size → a % 16 = 0 →
     n % 16 = 0 →
     ((n = 0 ∨ 4096 < n) → Traps s c (.send f) ⟨0x11, 0, 0⟩) ∧
     (0 < n → n ≤ 4096 → (r.len < n / 16 ∨ left < n / 16) → Traps s c (.send f) ⟨0x06, 0, 0⟩) ∧
     (0 < n → n ≤ 4096 → n / 16 ≤ r.len → n / 16 ≤ left → s.sendLacks c r = [] → s.loadPoison c .slice place n = true →
       Traps s c (.send f) ⟨0x16, 0, 0⟩) ∧
     (0 < n → n ≤ 4096 → n / 16 ≤ r.len → n / 16 ≤ left → s.sendLacks c r = [] → s.loadPoison c .slice place n = false →
       s.mem.flips = [] →
       ∃ (t : State) (B : Block) (T : Troupe), exec (.send f) s = .next t ∧ t.blocks.find c.b = some B ∧
         B.releases.find s.fresh = some ⟨s.fresh + 1, [], .send m⟩ ∧ B.window = false ∧
         (∀ e ∈ B.buf, e.2.committed = true ∧ e.2.sealed = true) ∧ B.troupes.find c.t = some T ∧
         T.splits.find c.e = some { c.sp with pc := c.sp.pc + 2, only := none } ∧
         (T.regs.c.get {} f.cN).len = r.len - n / 16 ∧ (T.regs.c.get {} f.cN).tag = r.tag ∧
         (∀ k, k ≠ f.cN → T.regs.c.get {} k = c.trp.regs.c.get {} k) ∧ T.regs.v = c.trp.regs.v ∧
         T.regs.s = c.trp.regs.s ∧ (r.tag = none → t.mem = s.mem) ∧
         ∀ i, r.tag = some i → c.task.launch.table % 32 = 0 → sliceFits (c.task.launch.table + 32 * i) 32 = true →
           s.here (c.task.launch.table + 32 * i) = true → bits (t.tabEntry c.task i) 195 160 = left - n / 16)) ∧
   ∀ (f : UW) s c, Ready s c (.recv f) →
     let r := c.cap f.cN
     let p := c.cap f.cM
     let a := (c.sr f.a).toNat
     let n := (c.sr f.b).toNat
     let part := c.task.part
     let words : Bool := s.waPoisoned part (s.chanAt part r.obj) 16 ||
       (s.chan part r.obj).any fun ch => s.waPoisoned part ch.ring 16
     s.capFault c r [4] 0x040#12 = none → s.capFault c p [2] 0x002#12 = none → a + n ≤ p.size →
     s.waLacks c.blk.core part (s.chanAt part r.obj) 16 false = [] →
     (∀ ch, s.chan part r.obj = some ch → s.waLacks c.blk.core part ch.ring 16 true = []) →
     (words = true → Traps s c (.recv f) ⟨0x16, 0, 0⟩) ∧
     (words = false → s.hasMsg part r.obj = false → f.bit 8 = false →
       ∃ (t : State) (T : Troupe), exec (.recv f) s = .next t ∧ OnlyTroupe s t c.exposed (c.after (.recv f) T) ∧
         UniResult c (.recv f) f.d.toNat 0 T) ∧
     (words = false → s.hasMsg part r.obj = false → f.bit 8 = true → c.trp.run = none →
       ∃ (t : State) (T : Troupe), exec (.recv f) s = .next t ∧ t.trp? c.b c.t = some T ∧
         T.splits.find c.e = some { c.sp with wait := .recv part r.obj } ∧ T.regs.v = c.trp.regs.v ∧ t.mem = s.mem) ∧
     ∀ ch, words = false → s.hasMsg part r.obj = true → s.chan part r.obj = some ch →
       let h := s.ringHead part ch
       let hdr := s.waNat part (ch.at h) 8
       let s' := (s.waTouch c.blk.core part ch.ring true).waTouch c.blk.core part (ch.at h) false
       let place := s'.capSlice p a
       let good : Prop := s.waPoisoned part (ch.at h) 16 = false ∧ hdr % 2 ^ 32 ≤ n ∧
         s.waPoisoned part (ch.at h + 16) (hdr % 2 ^ 32) = false
       s.waLacks c.blk.core part (ch.at h) (16 + 16 * ch.slot) false = [] →
       (s.waPoisoned part (ch.at h) 16 = true → Traps s c (.recv f) ⟨0x16, 0, 0⟩) ∧
       (s.waPoisoned part (ch.at h) 16 = false → n < hdr % 2 ^ 32 → Traps s c (.recv f) ⟨0x06, 0, 0⟩) ∧
       (s.waPoisoned part (ch.at h) 16 = false → hdr % 2 ^ 32 ≤ n → s.waPoisoned part (ch.at h + 16) (hdr % 2 ^ 32) = true →
         Traps s c (.recv f) ⟨0x16, 0, 0⟩) ∧
       (good → s.here place = false → ∀ data, s.waRead part (ch.at h + 16) (hdr % 2 ^ 32) = some data → data ≠ [] →
         ∃ (u : State) (T : Troupe) (k : Nat) (x : Sent),
           exec (.recv f) s = .next ((u.settleTrp c.b c.t).stepEnds c.b c.t c.e c.sp.own) ∧ u.trp? c.b c.t = some T ∧
           T.splits.find c.e = some { c.sp with wait := .payload k, only := none } ∧
           T.regs.s.get 0 f.d.toNat = BitVec.ofNat 64 hdr ∧ x ∈ u.eng.sent ∧ x.dst = pkgOfSlice place ∧
           x.op = .store place data ∧ x.b = c.b ∧ x.ent = k) ∧
       (good → s.here place = true ∨ hdr % 2 ^ 32 = 0 →
         ∃ (u t : State) (T : Troupe), exec (.recv f) s = .next t ∧ OnlyTroupe u t c.exposed (c.after (.recv f) T) ∧
           UniResult c (.recv f) f.d.toNat (BitVec.ofNat 64 hdr) T ∧ u.blocks = s.blocks ∧
           ∀ data, s.waRead part (ch.at h + 16) (hdr % 2 ^ 32) = some data → data.length = hdr % 2 ^ 32 →
             s.here place = true → Mem.read u.mem.slice (sliceKey place) (hdr % 2 ^ 32) = data ∧
             (sliceFits ch.ring 16 = true → s.here ch.ring = true → (sliceKey place + hdr % 2 ^ 32 ≤ sliceKey ch.ring ∨
               sliceKey ch.ring + 4 ≤ sliceKey place) → u.ringHead part ch = (h + 1) % 2 ^ 32))) ∧
  ((∀ (m : Msg) (s : State), s.firstMsg m = true →
     (s.refusesMsg m = true → m.pkg = s.ctl.pkg → exec (.messageArrival m) s =
       .next { s with eng := { s.eng with msgs := s.eng.msgs.erase m, refused := s.eng.refused ++ [m] } }) ∧
     (s.refusesMsg m = true → m.pkg ≠ s.ctl.pkg → ∃ u x, exec (.messageArrival m) s = .next u ∧
       u.eng.msgs = s.eng.msgs.erase m ∧ u.eng.sent = s.eng.sent ++ [x] ∧ x.dst = m.pkg ∧ x.op = .refusal m ∧
       u.mem = s.mem) ∧
     (s.refusesMsg m = false → s.takesMsg m = false → exec (.messageArrival m) s = .next s) ∧
     ∀ ch, s.refusesMsg m = false → s.takesMsg m = true → s.chan m.part m.obj = some ch →
       let t := s.ringTail m.part ch
       let last := ch.at t + 16 + 16 * ch.slot
       ∃ u, exec (.messageArrival m) s = .next u ∧ u.eng.msgs = s.eng.msgs.erase m ∧ u.blocks = s.blocks ∧
         (s.here ch.ring = true → last < 2 ^ 39 → ch.ring / 2 ^ 33 = last / 2 ^ 33 → sliceFits ch.ring 16 = true →
           sliceFits (ch.at t) (16 + m.data.length) = true →
           u.ringTail m.part ch = (t + 1) % 2 ^ 32 ∧
           Mem.read u.mem.slice (sliceKey (ch.at t)) (16 + m.data.length) = leBytes 8 m.header ++ leBytes 8 0 ++ m.data)) ∧
   (∀ (m : Msg) (s : State), s.firstMsg m = false → exec (.messageArrival m) s = .next s) ∧
   ∀ (m : Msg) (s : State), s.eng.refused.contains m = true →
     (∀ B K, s.blocks.find m.block = some B → s.tasks.find B.task = some K → K.launch.errors = 0) →
     ∃ (u : State) (l : List Event) (e : Event), exec (.messageRefusal m) s = .next u ∧
       u.eng.refused = s.eng.refused.erase m ∧ u.ctl.events = s.ctl.events ++ l ++ [e] ∧
       ((∀ i K, m.tag = some i → s.tasks.find m.task = some K → bits (K.entryAt i + 16) 63 40 = 0) → l = []) ∧
       e.code = 4 ∧ e.part = m.part ∧
       (∀ B, s.blocks.find m.block = some B → ∃ B', u.blocks.find m.block = some B' ∧
         B'.err = (B.err &&& 0xFF00#32) ||| 0x0E#32 ||| 0x200#32) ∧ e.detail % 256 = 0x0E ∧
       ∀ i K, m.tag = some i → s.tasks.find m.task = some K → K.launch.table % 32 = 0 →
         sliceFits (K.launch.table + 32 * i) 32 = true → s.here (K.launch.table + 32 * i) = true →
         bit (u.tabEntry K i) 129 = true ∧ bits (u.tabEntry K i) 137 130 = 0x0E)

/-- 14 R358 to R362, 04 R119, R126: EAPP links an entry at a chain's tail and counts it; EADV makes entries up to n
eligible; on a chain of another package both are sent there; ESEQ and WPRD read a chain; PUB holds its split until
nothing lands in its region, and then front and back change places, those of a peer object also at its home; packages
that hold translations of a bulk object are told, and PUB goes on once they, and the home, have acknowledged. A word
of a chain that cannot be corrected faults POISON. Where the spec leaves this open, it is the model's reading: logs
26, 27, 48. -/
def Obligations.ChainInstructionsAndPublish : Prop :=
  (∀ (f : UW) s c, Ready s c (.eapp f) →
    let r := c.cap f.cN
    let m := c.cap f.cM
    let a := s.capSlice m (c.sr f.a).toNat
    let p := linkAddr r.at (s.chTail r.at)
    let fits : Prop := (c.sr f.a).toNat + 64 ≤ m.size ∧ a % 64 = 0 ∧ a / 2 ^ 22 = r.at / 2 ^ 22 ∧
      bufTouch c.blk.buf .slice a 64 = []
    let bad : Bool := s.slicePoisoned (r.at + 8) 8 || s.slicePoisoned (r.at + 32) 16
    s.objFault c r [6] 0x400#12 64 = none → s.capFault c m [2] 0x003#12 = none → s.mem.flips = [] →
    (m.size < (c.sr f.a).toNat + 64 → Traps s c (.eapp f) ⟨0x06, 0, 0⟩) ∧
    ((c.sr f.a).toNat + 64 ≤ m.size → a % 64 ≠ 0 → Traps s c (.eapp f) ⟨0x07, 0, 0⟩) ∧
    ((c.sr f.a).toNat + 64 ≤ m.size → a % 64 = 0 → a / 2 ^ 22 ≠ r.at / 2 ^ 22 → Traps s c (.eapp f) ⟨0x11, 0, 0⟩) ∧
    (fits → s.here r.at = true → bad = true → Traps s c (.eapp f) ⟨0x16, 0, 0⟩) ∧
    (fits → s.here r.at = true → bad = false → r.at % 64 = 0 → r.at ≠ a → s.chAppended r.at + 1 < 2 ^ 64 →
      (bit (s.chHead r.at) 63 = true → p % 64 = 0 ∧ p ≠ a ∧ p ≠ r.at) →
      ∃ (u t : State) (T : Troupe), exec (.eapp f) s = .next t ∧ OnlyTroupe u t c (c.after (.eapp f) T) ∧
        u.blocks = s.blocks ∧ UniResult c (.eapp f) f.d.toNat (BitVec.ofNat 64 (s.chAppended r.at + 1)) T ∧
        u.eng.owners = s.eng.owners ++ [{ chain := r.at, seq := s.chAppended r.at + 1, block := some (c.b, c.blk.task),
                                          part := c.task.part, tag := r.tag, entry := a }] ∧
        u.chAppended r.at = s.chAppended r.at + 1 ∧ u.chTail r.at = linkTo a ∧ u.sliceNat (a + 56) 8 = 0 ∧
        u.chAdvanced r.at = s.chAdvanced r.at ∧
        (bit (s.chHead r.at) 63 = false → u.chHead r.at = linkTo a) ∧
        (bit (s.chHead r.at) 63 = true →
          u.chHead r.at = s.chHead r.at ∧ u.sliceNat (p + 56) 8 = linkTo a)) ∧
    (fits → s.here r.at = false → ∃ (t : State) (B : Block) (T : Troupe) (x : Sent),
        exec (.eapp f) s = .next t ∧ t.mem = s.mem ∧ t.eng.sent = s.eng.sent ++ [x] ∧ x.dst = pkgOfSlice r.at ∧
        x.op = .append r.at a c.b c.blk.task r.tag ∧ t.blocks.find c.b = some B ∧ r.at ∈ B.farChains ∧
        B.troupes.find c.t = some T ∧ T.splits.find c.e = some { c.sp with pc := c.sp.pc + 2, only := none } ∧
        T.regs.s.get 0 f.d.toNat = Config.farSeq s.tick)) ∧
  (∀ (f : UW) s c, Ready s c (.eadv f) →
    let ch := (c.cap f.cN).at
    let n := (c.sr f.a).toNat
    s.objFault c (c.cap f.cN) [6] 0x400#12 64 = none → s.mem.flips = [] →
    (s.slicePoisoned (ch + 8) 16 = true → Traps s c (.eadv f) ⟨0x16, 0, 0⟩) ∧
    (s.slicePoisoned (ch + 8) 16 = false → s.chAppended ch < n → Traps s c (.eadv f) ⟨0x11, 0, 0⟩) ∧
    (s.here ch = false → n ≤ s.chAppended ch → ∃ (t : State) (x : Sent), exec (.eadv f) s = .next t ∧ t.mem = s.mem ∧
      t.eng.sent = s.eng.sent ++ [x] ∧ x.dst = pkgOfSlice ch ∧ x.op = .advance ch n) ∧
    (s.here ch = true → s.slicePoisoned (ch + 8) 16 = false → ch % 2 ^ 22 + 64 ≤ 2 ^ 22 → n ≤ s.chAppended ch →
      ∃ u t, exec (.eadv f) s = .next t ∧
      OnlyTroupe u t c.exposed (c.after (.eadv f) (c.opened (.eadv f)).trp) ∧ u.chAdvanced ch = max n (s.chAdvanced ch) ∧
      OnlySlice s u (fun a => sliceKey (ch + 16) ≤ a ∧ a < sliceKey (ch + 16) + 8))) ∧
  (∀ f : UW, WordCompletes (.eseq f) (fun s c =>
      let ch := (c.cap f.cN).at
      s.objFault c (c.cap f.cN) [6] 0x400#12 64 = none ∧ s.mem.flips = [] ∧
        (if f.bit 0 then s.slicePoisoned (ch + 4) 4 else s.slicePoisoned (ch + 24) 8) = false) fun s c T =>
    UniResult c (.eseq f) f.d.toNat (BitVec.ofNat 64
      (if f.bit 0 then s.sliceNat ((c.cap f.cN).at + 4) 4 else s.sliceNat ((c.cap f.cN).at + 24) 8)) T) ∧
  (∀ f : UW, WordCompletes (.wprd f) (fun s c =>
      let ch := (c.cap f.cN).at
      s.objFault c (c.cap f.cN) [6] 0x400#12 64 = none ∧ s.mem.flips = [] ∧ s.slicePoisoned ch 2 = false ∧
        s.here ch = true ∧ s.sliceNat ch 1 = 1 ∧ coreOfSlice ch = c.blk.core) fun s c T =>
    let n := s.sliceNat ((c.cap f.cN).at + 1) 1
    UniResult c (.wprd f) f.d.toNat ((s.core c.blk.core).cwp.get 0 n - c.blk.cwpBase.get 0 n) T) ∧
  (∀ (f : UW) s c, Ready s c (.pub f) → s.capFault c (c.cap f.cN) [1, 2] 0x080#12 = none →
    (s.shadowed c.task.part (c.cap f.cN) = false → Traps s c (.pub f) ⟨0x04, 0, 0⟩) ∧
    (s.shadowed c.task.part (c.cap f.cN) = true → ∃ (u : State) (T : Troupe),
      exec (.pub f) s = .next ((u.settleTrp c.b c.t).stepEnds c.b c.t c.e c.sp.own) ∧
      OnlyTroupe s u c.exposed { T with run := none } ∧
      T.splits.find c.e = some { c.sp with wait := .pub (c.cap f.cN), only := none } ∧ T.regs = c.trp.regs)) ∧
  ∀ (s : State) (b t e : Nat) (B : Block) (T : Troupe) (S : Split) (K : Task), s.blocks.find b = some B →
    B.troupes.find t = some T → T.splits.find e = some S → s.tasks.find B.task = some K →
    let goesOn (u : State) : Prop := ∃ U, u.trp? b t = some U ∧
      U.splits.find e = some { S with wait := .ready, pc := S.pc + 2 } ∧ U.regs = T.regs
    (∀ r, S.wait = .pub r →
      let p := s.shadowObj K.part r
      let o := s.obj p.1 p.2
      let peer : Prop := r.kind = 1 ∧ o.tier = 3
      let holds (q : Nat) : Prop := r.kind = 1 ∧ o.tier ≠ 3 ∧ q ∈ s.markedPkgs p.1 p.2 ∧ q ≠ s.ctl.pkg ∧
        s.ctl.reach.contains q = true
      let swaps (u : State) : Prop := s.ctl.parts.find p.1 ≠ none → (u.obj p.1 p.2).f = !o.f
      let waits (u : State) (home obj : Nat) : Prop := ∃ U, u.trp? b t = some U ∧
        U.splits.find e = some { S with wait := .swapped home p.1 obj } ∧ U.regs = T.regs
      (s.landing K.part r = true → exec (.pubSwap b t e) s = .next s) ∧
      (s.landing K.part r = false → ¬ peer → (∀ q, ¬ holds q) → (∀ x ∈ s.eng.sent, x.op ≠ .swapped s.ctl.pkg p.1 p.2 ∧
        ¬ (x.op = .pub p.1 p.2 ∧ x.dst = s.ctl.pkg)) → ∃ u, exec (.pubSwap b t e) s = .next u ∧ goesOn u ∧ swaps u) ∧
      (s.landing K.part r = false → ∀ q, holds q → ∃ u, exec (.pubSwap b t e) s = .next u ∧ swaps u ∧
        waits u s.ctl.pkg p.2 ∧ ∃ x ∈ u.eng.sent, x.dst = q ∧ x.op = .swapped s.ctl.pkg p.1 p.2) ∧
      (s.landing K.part r = false → peer → ∃ u, exec (.pubSwap b t e) s = .next u ∧ swaps u ∧
        waits u (bits o.root 5 0) (bits o.root 29 6) ∧
        ∃ x ∈ u.eng.sent, x.dst = bits o.root 5 0 ∧ x.op = .pub p.1 (bits o.root 29 6))) ∧
    ∀ home part obj, S.wait = .swapped home part obj →
      let owed (x : Sent) : Prop := x.op = .swapped home part obj ∨ x.op = .pub part obj ∧ x.dst = home
      ((∃ x ∈ s.eng.sent, owed x) → exec (.pubSwap b t e) s = .next s) ∧
      ((∀ x ∈ s.eng.sent, ¬ owed x) → ∃ u, exec (.pubSwap b t e) s = .next u ∧ goesOn u)

/-- 13 R342, R343, R345, R346, R348, 14 R356, R357, 07 R209: where their checks hold, the pages they need are present
and nothing of the block that must come first is pending, ATB, CASB and REDB complete for any lanes; ARRIVE, EXPECT,
GFLG, GINIT, GBIND and GUNB complete, also on a guard of another package, to which one operation goes; SEND and RECV
complete, and so do MESSAGE_ARRIVAL and MESSAGE_REFUSAL: the word's split is at the next word. Where the spec leaves
this open, it is the model's reading: logs 17, 20, 23, 62. -/
def Obligations.AtomicsGuardsAndMessagesComplete : Prop :=
  let goesOn (i : Instr) (s t : State) (c : Ctx) (T : Troupe) : Prop := exec i s = .next t ∧ t.trp? c.b c.t = some T ∧
    T.splits.find c.e = some { c.sp with pc := c.sp.pc + 2, only := none }
  let atomic (i : Instr) (f : LW) (ret : Bool) : Prop :=
    ∀ s c, Ready s c i → c.popWait i (c.guarded i) s = none → c.blk.unreach = none → c.blk.buf = [] →
      let n := if wide f.t.toNat then 8 else 4
      let r := c.cap f.mcap
      let xs := f.offsets c (c.guarded i) n
      s.accessFault c r 1 (rightsOf ret true true) n xs = none → (s.obj c.task.part r.obj).place ≠ 0 →
      (∀ x ∈ xs, c.loadAt .bulk (s.capKey c.task.part r x.2.toNat) n = false ∧
        s.bulkPoisoned c.blk.core (s.capKey c.task.part r x.2.toNat) n = false ∧
        s.pageOf c.blk.core (s.capKey c.task.part r x.2.toNat) n true = none) →
      ∃ t T, goesOn i s t c T ∧ T.regs.s = c.trp.regs.s ∧ (ret = false → T.regs.v = c.trp.regs.v)
  let guards (i : Instr) (f : UW) (right : BitVec 12) (numbered : Bool) (reads : List (Nat × Nat))
      (pre : State → Ctx → Prop) (op : Ctx → Nat → FabOp) : Prop :=
    ∀ s c, Ready s c i →
      let g := (c.cap f.cN).at
      s.guardFault c (c.cap f.cN) right = none → s.behind c g numbered = false → s.mem.flips = [] →
      (∀ p ∈ reads, s.slicePoisoned (g + p.1) p.2 = false) → pre s c →
      ∃ t T, goesOn i s t c T ∧ T.regs = c.trp.regs ∧
        (s.here g = true → t.eng = s.eng ∧ t.mem.dev = s.mem.dev) ∧
        (s.here g = false → t.mem = s.mem ∧ ∃ x, t.eng.sent = s.eng.sent ++ [x] ∧ x.dst = pkgOfSlice g ∧ x.op = op c g)
  let count (f : UW) (c : Ctx) : Nat := if f.f 7 0 = 0 then (c.sr f.a).toNat else f.f 7 0
  let flags (f : UW) (c : Ctx) : BitVec 16 :=
    (if f.bit 8 then c.trp.regs.nf else (c.sr f.a).setWidth 16) &&& 0x03FF#16
  (∀ f, atomic (.atb f) f true) ∧ (∀ f, atomic (.casb f) f true) ∧ (∀ f, atomic (.redb f) f false) ∧
  (∀ f, guards (.arrive f) f 0x008#12 true [(0, 16), (30, 2)] (fun _ c => f.bit 8 = false ∧ count f c ≤ 65535) fun c g =>
    .arrive g (count f c) 0) ∧
  (∀ f, guards (.expect f) f 0x008#12 true [(0, 16), (30, 2)] (fun _ c => (c.sr f.a).toNat < 2 ^ 31) fun c g =>
    .expect g (c.sr f.a).toNat) ∧
  (∀ f, guards (.gflg f) f 0x008#12 true [(16, 2)] (fun _ _ => True) fun c g => .arrive g 0 (flags f c).toNat) ∧
  (∀ f, guards (.ginit f) f 0x200#12 false [(28, 2)] (fun s c =>
    let g := (c.cap f.cN).at
    (c.sr f.a).toNat < 2 ^ 16 ∧ (c.sr f.b).toNat < 2 ^ 31 ∧ g % 2 ^ 22 + 416 ≤ sliceBytes ∧
      s.sliceNat (g + 28) 2 = 0 ∧ bufTouch c.blk.buf .slice g 416 = []) fun c g =>
    .ginit g (c.sr f.a).toNat (c.sr f.b).toNat c.blk.task) ∧
  (∀ f, guards (.gbind f) f 0x200#12 false [(20, 4)] (fun s c =>
    let g := (c.cap f.cN).at
    s.capFault c (c.cap f.cM) [1, 2] 0x200#12 = none ∧ s.listPoisoned g = false ∧ (s.bound g < 8 ∨
      ∃ k < 8, s.bindEntry g k = bindOf (c.cap f.cM))) fun c g => .gbind g (bindOf (c.cap f.cM))) ∧
  (∀ f, guards (.gunb f) f 0x200#12 false [(20, 4)] (fun s c => s.listPoisoned (c.cap f.cN).at = false ∧
      (f.bit 8 = true ∨ s.capFault c (c.cap f.cM) [1, 2] 0x200#12 = none))
    fun c g => .gunb g (if f.bit 8 then none else some (bindOf (c.cap f.cM)))) ∧
  (∀ (f : UW) s c, Ready s c (.send f) → c.blk.unreach = none →
    let r := c.cap f.cN
    let p := c.cap f.cM
    let a := (c.sr f.a).toNat
    let n := (c.sr f.b).toNat
    s.capFault c r [4] 0x020#12 = none → s.capFault c p [2] 0x001#12 = none → a + n ≤ p.size → a % 16 = 0 →
    n % 16 = 0 → 0 < n → n ≤ 4096 → n / 16 ≤ r.len →
    (∀ i, r.tag = some i → n / 16 ≤ bits (s.tabEntry c.task i) 195 160) → s.sendLacks c r = [] →
    s.loadPoison c .slice (s.capSlice p a) n = false →
    ∃ t T B R m, goesOn (.send f) s t c T ∧ t.blocks.find c.b = some B ∧ B.releases.find s.fresh = some R ∧
      R.act = .send m ∧ m.obj = r.obj ∧ m.gen = r.gen ∧ m.data.length = n) ∧
  (∀ (f : UW) s c, Ready s c (.recv f) →
    let r := c.cap f.cN
    let p := c.cap f.cM
    let n := (c.sr f.b).toNat
    let part := c.task.part
    s.capFault c r [4] 0x040#12 = none → s.capFault c p [2] 0x002#12 = none → (c.sr f.a).toNat + n ≤ p.size →
    s.waLacks c.blk.core part (s.chanAt part r.obj) 16 false = [] → s.waPoisoned part (s.chanAt part r.obj) 16 = false →
    (∀ ch, s.chan part r.obj = some ch → s.waLacks c.blk.core part ch.ring 16 true = [] ∧
      s.waPoisoned part ch.ring 16 = false) →
    (s.hasMsg part r.obj = false → f.bit 8 = false → ∃ t T, goesOn (.recv f) s t c T ∧
      T.regs.s.get 0 f.d.toNat = 0) ∧
    ∀ ch, s.chan part r.obj = some ch → s.hasMsg part r.obj = true →
      let h := s.ringHead part ch
      let hdr := s.waNat part (ch.at h) 8
      let s' := (s.waTouch c.blk.core part ch.ring true).waTouch c.blk.core part (ch.at h) false
      s.waLacks c.blk.core part (ch.at h) (16 + 16 * ch.slot) false = [] → s.waPoisoned part (ch.at h) 16 = false →
      hdr % 2 ^ 32 ≤ n → s.waPoisoned part (ch.at h + 16) (hdr % 2 ^ 32) = false →
      s.here (s'.capSlice p (c.sr f.a).toNat) = true ∨ hdr % 2 ^ 32 = 0 →
      ∃ t T, goesOn (.recv f) s t c T ∧ T.regs.s.get 0 f.d.toNat = BitVec.ofNat 64 hdr) ∧
  (∀ (m : Msg) (s : State), s.firstMsg m = true → s.refusesMsg m = true ∨ s.takesMsg m = true →
    ∃ u, exec (.messageArrival m) s = .next u ∧ u.eng.msgs = s.eng.msgs.erase m ∧ u.blocks = s.blocks ∧
      ((∀ ch, s.chan m.part m.obj = some ch → bits ch.ring 63 40 = 0 ∧ bits (ch.ring + 8) 63 40 = 0 ∧
        bits (ch.at (s.ringTail m.part ch)) 63 40 = 0) → u.ctl = s.ctl)) ∧
  ∀ (m : Msg) (s : State), s.eng.refused.contains m = true →
    ∃ u l e, exec (.messageRefusal m) s = .next u ∧ u.eng.refused = s.eng.refused.erase m ∧
      u.ctl.events = s.ctl.events ++ l ++ [e] ∧ e.code = 4 ∧ e.part = m.part

/-! ## Engines -/

/-- 04 R119, R120, R122, R123, R127: the engine that takes the eligible head of a chain runs it, if its checks hold,
and passes the head on; what COPY, COPY2D, FILL, GATHER and SCATADD will move row by row; an entry that fails a check
stops its chain with the code and its sequence number. A SUBMIT passes its submission to the Parser. Where the spec
leaves this open, it is the model's reading: logs 26, 64, 65, 86. -/
def Obligations.EntriesStartOrStopTheirChain : Prop :=
  let instrOf (ch op : Nat) (e : Entry) : Instr := match op with
    | 0x01 => .copy ch e
    | 0x02 => .copy2d ch e
    | 0x03 => .fill ch e
    | 0x10 => .gather ch e
    | 0x11 => .gatherm ch e
    | 0x12 => .scatadd ch e
    | 0x20 => .allred ch e
    | 0x21 => .rscat ch e
    | 0x22 => .allgath ch e
    | 0x23 => .bcast ch e
    | 0x30 => .submit ch e
    | _ => .entryNop ch e
  ∀ (s : State) (ch op : Nat) (e : Entry) (o : Owner), s.headEntry ch = some (o, op, e) → s.mayTake ch = true →
    ch % 2 ^ 22 + 64 ≤ 2 ^ 22 →
    (∀ r bs fixed sr, op ∈ [0x00, 0x01, 0x02, 0x03, 0x10, 0x11, 0x12, 0x20, 0x21, 0x22, 0x23, 0x30] →
      s.checkEntry o op e = some (.ok r) → s.readMine r = some (.ok (bs, fixed, sr)) →
      ∃ u, exec (instrOf ch op e) s = .next u ∧
        u.eng.running.find s.fresh = some
          { r with mine := bs, flags := flagIf fixed fCOR, passed := decide (op = 0x30) } ∧
        (∀ id, id ≠ s.fresh → u.eng.running.find id = s.eng.running.find id) ∧
        r.chain = o.chain ∧ r.seq = o.seq ∧ r.op = op ∧ r.e = e ∧ r.done = 0 ∧
        u.chHead o.chain = sr.sliceNat (o.entry + 56) 8 ∧ u.blocks = sr.blocks ∧
        (op < 0x10 ∨ 0x12 < op ∨ (s.entCap o (e.cap 2)).1.kind ≠ 1 ∧ s.mem.flips = [] →
          u.cores = sr.cores ∧ u.mem.dev = sr.mem.dev) ∧ (op < 0x20 ∨ op = 0x30 → sr = s) ∧
        (op = 0x01 → r.rows = [(some e.src.toNat, e.dst.toNat)] ∧ r.total = e.len.toNat) ∧
        (op = 0x02 → r.total = e.count.toNat * e.len.toNat ∧ r.rows = (List.range e.count.toNat).map fun i =>
          (some (e.src.toNat + i * e.sstride.toNat), e.dst.toNat + i * e.dstride.toNat)) ∧
        (op = 0x03 → r.total = e.count.toNat * e.len.toNat ∧ r.rows = (List.range e.count.toNat).map fun i =>
          (none, e.dst.toNat + i * e.dstride.toNat)) ∧
        (∀ idx, s.engWords (coreOfSlice o.chain) o.part (s.entCap o (e.cap 2)).1 e.aux.toNat e.count.toNat = some idx →
          (op = 0x10 → r.rows = (List.range e.count.toNat).map fun i =>
            (some (e.src.toNat + idx.1.getD i 0 * e.sstride.toNat), e.dst.toNat + i * e.dstride.toNat)) ∧
          (op = 0x12 → r.rows = (List.range e.count.toNat).map fun i =>
            (some (e.src.toNat + i * e.sstride.toNat), e.dst.toNat + idx.1.getD i 0 * e.dstride.toNat))) ∧
        (op = 0x30 → ∀ p P, s.parserPart o.chain = some p → s.ctl.parts.find p = some P → ∃ P',
          u.ctl.parts.find p = some P' ∧ ⟨.chain o.entry o.seq, p, o.sup⟩ ∈ P'.queue)) ∧
    (∀ k, s.checkEntry o op e = some (.error k) → op < 0x20 ∨ 0x23 < op → k < 256 → o.tag = none →
      (∀ b t, o.block = some (b, t) → s.blocks.find b = none) → s.graphs = [] →
      ∃ u, exec (instrOf ch (if (opClass op).isSome then op else 0) e) s = .next u ∧
        u.chStatus o.chain = k + 256 * (o.seq % 2 ^ 24) ∧ u.eng.running =
          (s.eng.running.filter fun x => !(x.2.chain = o.chain && decide (o.seq ≤ x.2.seq))) ∧ u.blocks = s.blocks)

/-- 04 R123, R124: a landing of COPY, COPY2D or FILL from slice space brings a run of at most 4 KiB of one row to its
place, counts on with it, and with G counts the bytes on the entry's guard; into a granule of a guard it stops the
chain with RIGHTS. Bytes for a slice of another package are sent there and counted only once that has acknowledged
them. Where the spec leaves this open, it is the model's reading: log 27. -/
def Obligations.LandingsMoveBytesAndCount : Prop :=
  ∀ (s : State) (ch seq id w : Nat) (r : Running),
    (s.eng.running.find? fun x => x.2.chain = ch && x.2.seq = seq) = some (id, r) → s.eng.running.find id = some r →
    r.done < r.total → r.flight = 0 → r.owed = [] → s.heldCopy r.owner = false → r.total = r.rows.length * w → r.op ∈ [0x01, 0x02, 0x03] → s.mem.tiles = [] → r.e.k = false →
    r.src.kind = 2 → r.dst.kind = 2 → s.mem.flips = [] → (r.op ≠ 0x03 → (r.rows.getD (r.done / w) (none, 0)).1 ≠ none) →
    let row := r.rows.getD (r.done / w) (none, 0)
    let off := r.done % w
    let dest := s.sliceCopy (r.dst.at + (row.2 + off)) r.e.s
    ∃ n, 0 < n ∧ n ≤ 4096 ∧ off + n ≤ w ∧
      let bs := if r.op = 0x03 then (List.range n).map fun i => BitVec.ofNat 8 (r.e.param.toNat / 2 ^ (8 * ((off + i) % 4)))
        else s.sliceRead (s.capSlice r.src (row.1.getD 0 + off)) n
      (r.op ≠ 0x03 → s.slicePoisoned (s.capSlice r.src (row.1.getD 0 + off)) n = false) →
      (s.here dest = false → ∃ u x, exec (.engineLanding ch seq) s = .next u ∧ u.mem = s.mem ∧
        u.eng.running.find id = some { r with flight := n } ∧ u.eng.sent = s.eng.sent ++ [x] ∧ x.dst = pkgOfSlice dest ∧
        x.op = .store dest bs ∧ x.land = some (ch, seq)) ∧
      (s.here dest = true → s.guarded dest n = false → ∃ u, exec (.engineLanding ch seq) s = .next u ∧
        u.eng.running.find id = some { r with done := r.done + n } ∧ u.mem.dev = s.mem.dev ∧ u.blocks = s.blocks ∧
        (r.e.g = false ∨ r.guard = none → Mem.read u.mem.slice (sliceKey dest) n = bs ∧
          SliceBut s u fun a => sliceKey dest ≤ a ∧ a < sliceKey dest + n) ∧
        ∀ g, r.e.g = true → r.guard = some g → s.here g = true → g % 32 = 0 → r.flags = 0 →
          (sliceKey dest + n ≤ sliceKey g ∨ sliceKey g + 32 ≤ sliceKey dest) →
          u.guard g = (s.guard g).land n ∧ Mem.read u.mem.slice (sliceKey dest) n = bs ∧
          SliceBut s u fun a => (sliceKey dest ≤ a ∧ a < sliceKey dest + n) ∨ (sliceKey g ≤ a ∧ a < sliceKey g + 32)) ∧
      (s.here dest = true → s.guarded dest n = true → exec (.engineLanding ch seq) s = .next (s.stopEntry r 0x05).tock)

/-- 04 R123, 08 R223: after its last landing an entry makes one arrival, with A (a SUBMIT with G also counts 0 bytes),
and the chain's sequence word rises to it; before that nothing happens. An abort token stops the entry of its group
and attempt with ABORTED, and that guard passes to the next attempt, which it does also where the member's entry has
still to start; any other token is dropped. 04 R121: what a collective lands: ALLRED the reduction of the members'
elements in the fixed tree of 64 ranks, RSCAT the share of it that goes to the member's rank, ALLGATH every member's
elements in rank order, BCAST those of rank 0. Where the spec leaves this open, it is the model's reading: logs 27,
28. -/
def Obligations.EntriesCompleteAbortOrCombine : Prop :=
  ((∀ (s : State) (ch seq id : Nat) (r : Running), s.eng.running = [(id, r)] → r.chain = ch → r.seq = seq →
     r.ended = false → (r.passed = false ∨ r.result ≠ none) →
     (r.done < r.total → exec (.entryCompletion ch seq) s = .next s) ∧
     (r.total ≤ r.done → s.chSeq ch + 1 = seq → seq < 2 ^ 64 → s.here ch = true →
        ch % 2 ^ 22 + 64 ≤ 2 ^ 22 → s.graphs = [] →
       ∃ u, exec (.entryCompletion ch seq) s = .next u ∧
         ((r.guard = none ∨ r.e.a = false ∧ (r.e.g = false ∨ r.op ≠ 0x30)) → u.chSeq ch = seq ∧ u.eng.running = [] ∧
           SliceBut s u fun a => sliceKey (ch + 24) ≤ a ∧ a < sliceKey (ch + 24) + 8) ∧
         ∀ g, r.guard = some g → s.here g = true → g % 32 = 0 →
           (sliceKey g + 32 ≤ sliceKey (ch + 24) ∨ sliceKey (ch + 24) + 8 ≤ sliceKey g) →
           let G := if r.e.g = true ∧ r.op = 0x30 then (s.guard g).land 0 else s.guard g
           u.chSeq ch = seq ∧ u.eng.running = [] ∧ u.guard g = if r.e.a = true then G.arrive 1 else G)) ∧
   ∀ (s : State) (die group attempt : Nat),
     let meets (r : Running) (g : Nat) : Prop := 0x20 ≤ r.op ∧ r.op ≤ 0x23 ∧ r.e.gid = group ∧ r.e.attempt = attempt ∧
       dieOf (coreOfSlice r.chain) = die ∧ r.guard = some g ∧ s.sliceNat (g + 18) 2 = attempt
     let waiting (o : Owner) : Running := s.unstarted o (s.sliceNat o.entry 1) (Entry.ofBytes (s.sliceRead o.entry 64))
     ((∀ x ∈ s.eng.running, ∀ g, ¬ meets x.2 g) → (∀ o ∈ s.eng.owners, o.taken = false → s.here o.chain = true →
       ∀ g, ¬ meets (waiting o) g) → exec (.abortToken die group attempt) s = .next s) ∧
     (∀ o g, (∀ x ∈ s.eng.running, ∀ g', ¬ meets x.2 g') → s.eng.owners = [o] → o.taken = false → s.here o.chain = true →
       meets (waiting o) g → s.here g = true → g % 32 = 0 → ∃ u, exec (.abortToken die group attempt) s = .next u ∧
         u.sliceNat (g + 18) 2 = (attempt + 1) % 2 ^ 16 ∧ u.eng = s.eng ∧ u.blocks = s.blocks ∧
         SliceBut s u fun a => sliceKey g + 18 ≤ a ∧ a < sliceKey g + 20) ∧
     ∀ id r g, s.eng.running = [(id, r)] → meets r g → r.owner.chain = r.chain → r.owner.seq = r.seq →
       r.owner.tag = none → (∀ b t, r.owner.block = some (b, t) → s.blocks.find b = none) → s.graphs = [] →
       s.here r.chain = true → r.chain % 2 ^ 22 + 64 ≤ 2 ^ 22 → s.here g = true → g % 32 = 0 →
       (sliceKey g + 32 ≤ sliceKey (r.chain + 4) ∨ sliceKey (r.chain + 4) + 4 ≤ sliceKey g) →
       ∃ u, exec (.abortToken die group attempt) s = .next u ∧ u.chStatus r.chain = 0x17 + 256 * (r.seq % 2 ^ 24) ∧
         u.eng.running = [] ∧ u.sliceNat (g + 18) 2 = (attempt + 1) % 2 ^ 16) ∧
  (∀ (s : State) (r : Running),
     let ms := r.members
     let n := r.e.count.toNat
     let z := r.e.esize
     let elem (k i : Nat) : Nat := s.memberElem r k (ms.getD k (0, 0)) i
     let red (i : Nat) : Nat := (rankTree r.e.redOp r.e.redTy ((List.range ms.length).map fun k => elem k i)).1
     let bytes (f : Nat → Nat) (m : Nat) : List Byte := (List.range m).flatMap fun i => leBytes z (f i)
     (r.op = 0x20 → (s.collective r).1 = bytes red n) ∧
     (r.op = 0x21 → ∀ k, k < ms.length → ms.getD k (0, 0) = (s.ctl.pkg, dieOf (coreOfSlice r.chain)) →
       (∀ j, j < k → ms.getD j (0, 0) ≠ (s.ctl.pkg, dieOf (coreOfSlice r.chain))) → n % ms.length = 0 →
       (s.collective r).1 = bytes (fun i => red (k * (n / ms.length) + i)) (n / ms.length)) ∧
     (r.op = 0x22 → (s.collective r).1 = (List.range ms.length).flatMap fun k => bytes (elem k) n) ∧
     (r.op = 0x23 → (s.collective r).1 = bytes (elem 0) n))

/-! ## Population -/

/-- 01 R33, R34, 13 R330: a relation instruction opens the instance of its scope, whose members are the live rows of
that scope, or arrives at the one that is open at its word, and its split parks; behind the instance of another word
it waits. 01 R34, R35, 13 R331, 06 R185 to R188: an instance starts when its last member has arrived, and completes
with the effect of its instruction, its splits merged and its rows born; a fault of the effect closes it without one,
an absent page of its object makes it wait, and a full store buffer commits and drains first. An instance whose
awaited members cannot move closes with COLLSTALL; a shadow pair that cannot move faults QDRY; a split whose queue is
ready issues again. Where the spec leaves this open, it is the model's reading: logs 12, 22, 61. -/
def Obligations.RelationInstructionsOpenAndExecute : Prop :=
  (let issues (i : Instr) (f : UW) (ok : Ctx → Prop) : Prop :=
     ∀ s c, Ready s c i → ok c →
       let bl := f.bit 23
       let open' := if bl then c.blk.inst else c.trp.inst
       let arrives (p : Inst → Prop) : Prop := ∃ (u : State) (B : Block) (T : Troupe) (I : Inst),
         exec i s = .next ((u.settleTrp c.b c.t).stepEnds c.b c.t c.e c.sp.own) ∧ u.blocks.find c.b = some B ∧ B.troupes.find c.t = some T ∧
         (if bl then B.inst else T.inst) = some I ∧ p I ∧ u.mem = s.mem ∧ T.regs = c.trp.regs ∧ T.lm = c.trp.lm ∧
         T.splits.find c.e = some { c.sp with wait := .pop bl true, only := none }
       (open' = none → i.h = false → arrives fun I => I.pc = c.sp.pc ∧ I.size = 2 ∧ I.instr = i ∧ I.block = bl ∧
         I.opener = c.t ∧ I.started = false ∧ I.arrived.get 0 c.t = c.sp.own &&& c.trp.lm ∧
         I.active.get 0 c.t = c.active &&& c.trp.lm ∧
         ∀ t, I.members.get 0 t = if bl then ((c.blk.troupes.find t).map Troupe.lm).getD 0
           else if t = c.t then c.trp.lm else 0) ∧
       (∀ J, open' = some J → J.pc = c.sp.pc → arrives fun I =>
         I.arrived.get 0 c.t = J.arrived.get 0 c.t ||| (c.sp.own &&& J.members.get 0 c.t) ∧
         I.active.get 0 c.t = J.active.get 0 c.t ||| (c.active &&& J.members.get 0 c.t) ∧
         I.members = J.members ∧ I.opener = J.opener ∧ I.instr = J.instr) ∧
       (∀ J, open' = some J → J.pc ≠ c.sp.pc → c.trp.run = none → ∃ (t : State) (T : Troupe), exec i s = .next t ∧
         t.trp? c.b c.t = some T ∧ T.splits.find c.e = some { c.sp with wait := .pop bl false } ∧ t.mem = s.mem)
   let plain (c : Ctx) : Prop := c.task.launch.shd = false
   (∀ f, issues (.group f) f plain) ∧ (∀ f, issues (.build f) f fun _ => True) ∧
   (∀ f, issues (.join f) f fun c => plain c ∧ f.f 7 1 + 1 < c.nregs) ∧ (∀ f, issues (.expand f) f plain) ∧
   (∀ f, issues (.repack f) f plain) ∧ ∀ f, issues (.rcount f) f fun _ => True) ∧
  ((∀ (s : State) (b t : Nat) (sc : Scope) (I : Inst) (B : Block) (K : Task), s.instAt b sc = some (t, I) →
     s.blocks.find b = some B → s.tasks.find B.task = some K →
     let waits := I.started = true ∨ B.allArrived I = false
     (waits → exec (.populationExecute b sc) s = .next s) ∧
     (I.started = false → exec (.populationComplete b sc) s = .next s) ∧
     (∀ r, I.effect b K s = .error (.fail r) →
       (¬ waits → exec (.populationExecute b sc) s = .next (s.failInst b t I r)) ∧
       (I.started = true → exec (.populationComplete b sc) s = .next (s.failInst b t I r))) ∧
     (∀ k w, I.effect b K s = .error (.lack k w) →
       (¬ waits → exec (.populationExecute b sc) s = .next (s.lackPage b t I k w)) ∧
       (I.started = true → exec (.populationComplete b sc) s = .next (s.lackPage b t I k w))) ∧
     (I.effect b K s = .error .full →
       (¬ waits → exec (.populationExecute b sc) s = .next (s.overflow b)) ∧
       (I.started = true → exec (.populationComplete b sc) s = .next (s.overflow b))) ∧
     (∀ x, I.effect b K s = .ok x →
       (¬ waits → exec (.populationExecute b sc) s = .next (s.modInst b t I.block fun o => o.map fun I =>
         { I with started := true, lack := none })) ∧
       (I.started = true → exec (.populationComplete b sc) s =
         .next (x.2.completeInst b t I K.launch B.troupes x.1.1 x.1.2).tock)) ∧
     (∀ pc, B.stalled I = some pc → exec (.collstallClose b sc) s = .next (s.failInst b t I ⟨0x0F, 0, pc.toNat⟩)) ∧
     (B.stalled I = none → exec (.collstallClose b sc) s = .next s)) ∧
   (∀ (s : State) (b t e q : Nat) (push : Bool) (m : Mask) (B : Block) (T : Troupe) (S : Split),
     s.blocks.find b = some B → B.troupes.find t = some T → T.splits.find e = some S → S.wait = .queue q push m →
     (s.queueReady b t e q push m = false → exec (.queueWake b t e) s = .next s) ∧
     (s.queueReady b t e q push m = true → ∃ (u : State) (U : Troupe), exec (.queueWake b t e) s = .next u ∧ u.trp? b t = some U ∧
       U.splits.find e = some { S with wait := .ready } ∧ (∀ k, k ≠ e → U.splits.find k = T.splits.find k) ∧
       U.regs = T.regs ∧ U.q = T.q ∧ { u with blocks := s.blocks } = s) ∧
     (s.pairDry b B t = false → exec (.qdryDeadlock b t) s = .next s) ∧
     (s.pairDry b B t = true → (T.splits.map Prod.fst).Nodup →
       (∀ k R, T.splits.find k = some R → k ≠ e → (∃ q p m, R.wait = .queue q p m) → R.age < S.age) →
       ∃ skip, exec (.qdryDeadlock b t) s = .next (s.takeFault b t e ⟨0x10, 0, 1⟩ S.pc S.pc skip))))

/-- 13 R329, R332 to R337, 02 R63: what completed instances of a troupe's scope leave, where the troupe is one split:
RCOUNT the number of live rows; GROUP one row for each key, the lowest, with its column folded; EXPAND n copies of
each row that took part, the first in its place, the others in the free lanes in order, each with its number in a
column; REPACK the rows that took part in the lowest lanes that no other row keeps, with their registers. BUILD of one
row appends it to its relation object, linked at the end of its bucket's chain, as stores of the block; JOIN of one
row gives a row in a free lane for each match of its key's chain, in order, with the payload, the match's index and
the predicate set, and the gate says whether there were more matches than free lanes. Where the spec leaves this open,
it is the model's reading: logs 21, 22, 79. -/
def Obligations.CompletedInstancesChangeTheRows : Prop :=
  ∀ (s : State) (b t e : Nat) (a : Mask) (B : Block) (T : Troupe) (S : Split) (I : Inst) (K : Task),
    s.blocks.find b = some B → B.troupes.find t = some T → s.tasks.find B.task = some K → T.inst = some I →
    I.started = true → I.block = false → I.opener = t → I.size = 2 → I.arrived = [(t, T.lm)] → I.active = [(t, a)] →
    a &&& ~~~T.lm = 0 → T.lm ≠ 0 → T.splits = [(e, S)] → S.wait = .pop false true → S.own = T.lm → T.stack = [] →
    T.k = [] → T.held = [] → B.inst = none →
    let after (U : Troupe) (m : Mask) : Prop := U.lm = m ∧ U.inst = none ∧
      U.splits = [(e, { own := m, em := m, pc := I.pc + 2, age := S.age })]
    let completes (p : Troupe → Prop) : Prop := ∃ (u : State) (U : Troupe),
      exec (.populationComplete b (.troupe t)) s = .next u ∧ u.trp? b t = some U ∧ p U
    let word (R : Regs) (w : Bool) (r l : Nat) : Nat := (R.lane r l).toNat + if w then 2 ^ 32 * (R.lane (r + 1) l).toNat else 0
    let head (r : CapReg) (off : Nat) : Nat := s.sliceNat (r.at + off) 4
    let rowAt (r : CapReg) (wd : Nat) (k64 : Bool) (i : Nat) : Nat :=
      64 + 8 * 2 ^ head r 8 + 4 * i * (1 + (if k64 then 2 else 1) + wd)
    let bucketAt (r : CapReg) (key : Nat) : Nat :=
      64 + 8 * (Nat.xor (key % 2 ^ 32) (key / 2 ^ 32 % 2 ^ 32) * 0x9E3779B1 % 2 ^ 32 / 2 ^ (32 - head r 8))
    let opens (r : CapReg) (rights : BitVec 12) (wd : Nat) (k64 : Bool) : Prop :=
      s.capCheck B.core K r [5] rights = none ∧ (s.obj K.part r.obj).kind ≠ 1 ∧ s.mem.shadows = [] ∧ s.mem.flips = [] ∧
        s.mem.slicePoison = [] ∧ B.buf = [] ∧ head r 0 ≤ head r 4 ∧ 0 < head r 4 ∧ head r 4 ≤ 2 ^ 20 ∧ head r 8 ≤ 20 ∧
        0 < wd ∧ wd ≤ 8 ∧ head r 12 = wd + (if k64 then 16 else 0) ∧ (∀ i, 4 ≤ i → i < 16 → head r (4 * i) = 0) ∧
        rowAt r wd k64 (head r 4) ≤ r.size
    (∀ f, I.instr = .rcount f → completes fun U => after U T.lm ∧
      U.regs.s.get 0 f.d.toNat = BitVec.ofNat 64 (popcount T.lm) ∧ U.regs.v = T.regs.v) ∧
    (∀ f, I.instr = .group f →
      let key (l : Nat) : Nat := word T.regs (f.bit 15) f.v l
      let kept (l : Nat) : Prop := a.getLsbD l = true ∧ ∀ j, j < l → a.getLsbD j = true → key j ≠ key l
      (colPairs K.columns (f.f 14 12)).length ≤ 1 → completes fun U => after U U.lm ∧
        (∀ l, l < 32 → (U.lm.getLsbD l = true ↔ T.lm.getLsbD l = true ∧ (a.getLsbD l = true → kept l))) ∧
        (colPairs K.columns (f.f 14 12) = [] → U.regs.v = T.regs.v) ∧
        ∀ p, colPairs K.columns (f.f 14 12) = [p] → ∀ l, l < 32 → kept l → word U.regs (p.ty = 5) p.reg l =
          (colFold p (((lanesOf a).filter fun j => key j = key l).map fun j => word T.regs (p.ty = 5) p.reg j)).1 %
            2 ^ (if p.ty = 5 then 64 else 32)) ∧
    (∀ f, I.instr = .expand f →
      let n (l : Nat) : Nat := (T.regs.lane f.v l).toNat
      let total := popcount (T.lm &&& ~~~a) + ((lanesOf a).map n).sum
      (∀ l ∈ lanesOf a, n l ≤ 1024) → 0 < total → total ≤ 32 → completes fun U => after U U.lm ∧ popcount U.lm = total ∧
        (∀ l, l < 32 → T.lm.getLsbD l = true → (a.getLsbD l = true → n l ≠ 0) → U.lm.getLsbD l = true) ∧
        (∀ l ∈ lanesOf a, n l ≠ 0 → U.regs.lane (f.f 14 8) l = 0) ∧
        let copies := (lanesOf a).flatMap fun l => (List.range (n l - 1)).map fun k => (l, k + 1)
        let free := lanesOf (~~~(T.lm &&& ~~~(maskOf fun l => a.getLsbD l && n l = 0)))
        ∀ i, i < copies.length → U.lm.getLsbD (free.getD i 0) = true ∧ ∀ r, U.regs.lane r (free.getD i 0) =
          if r = f.f 14 8 then BitVec.ofNat 32 (copies.getD i (0, 0)).2 else T.regs.lane r (copies.getD i (0, 0)).1) ∧
    (∀ f, I.instr = .repack f →
      let dests := lanesOf (~~~(T.lm &&& ~~~a))
      let rows := lanesOf a
      completes fun U => after U U.lm ∧
        (∀ l, l < 32 → (U.lm.getLsbD l = true ↔
          (T.lm.getLsbD l = true ∧ a.getLsbD l = false) ∨ l ∈ dests.take rows.length)) ∧
        (∀ k r, k < rows.length → U.regs.lane r (dests.getD k 0) = T.regs.lane r (rows.getD k 0)) ∧
        ∀ l r, l < 32 → T.lm.getLsbD l = true → a.getLsbD l = false → U.regs.lane r l = T.regs.lane r l) ∧
    (∀ f l, I.instr = .build f → a = 1#32 <<< l → l < 32 →
      let r := T.regs.c.get {} f.cN
      let wd := f.f 11 9 + 1
      let k64 := f.bit 8
      let key := word T.regs k64 f.v l
      let i := head r 0
      let row := rowAt r wd k64 i
      let h := bucketAt r key
      let first := row + 4 * (1 + if k64 then 2 else 1)
      let stores : List (Nat × Nat) := [(row, 0), (row + 4, key % 2 ^ 32)] ++
        (if k64 then [(row + 8, key / 2 ^ 32)] else []) ++
        ((List.range wd).map fun j => (first + 4 * j, (T.regs.lane (f.f 7 1 + j) l).toNat)) ++
        [(if head r h = 0 then h else rowAt r wd k64 (head r (h + 4) - 1), i + 1), (h + 4, i + 1), (0, i + 1)]
      opens r 3 wd k64 → (∀ off, off < r.size → s.barred (r.at + off) 4 = false) →
      (head r h ≠ 0 → 0 < head r (h + 4) ∧ head r (h + 4) ≤ i) →
      (i = head r 4 → exec (.populationComplete b (.troupe t)) s = .next (s.failInst b t I ⟨0x12, 0, 1⟩)) ∧
      (i < head r 4 → ∃ u U B', exec (.populationComplete b (.troupe t)) s = .next u ∧ u.trp? b t = some U ∧ after U T.lm ∧
        U.regs.v = T.regs.v ∧ u.mem = s.mem ∧ u.blocks.find b = some B' ∧
        ∀ x, bufByte B'.buf .slice x =
          ((stores.find? fun p => r.at + p.1 ≤ x && x < r.at + p.1 + 4).map fun p =>
            BitVec.ofNat 8 (p.2 / 2 ^ (8 * (x - (r.at + p.1))))))) ∧
    (∀ f l, I.instr = .join f → a = 1#32 <<< l → l < 32 → B.cursor = none →
      let r := T.regs.c.get {} f.cN
      let wd := head r 12 % 16
      let k64 := f.bit 0
      let key := word T.regs k64 f.v l
      let rowAt := rowAt r wd k64
      let vD := f.f 7 1
      let M := (f.d.extractLsb' 0 3).toNat
      let first (i : Nat) : Nat := rowAt i + 4 * (1 + if k64 then 2 else 1)
      opens r 3 wd k64 → vD + wd < K.launch.regs → K.launch.regs ≤ 128 →
      ∀ chain : List Nat, chain.length ≤ head r 4 → (∀ i ∈ chain, i < head r 0) →
        head r (bucketAt r key) = (chain.map (· + 1)).headD 0 →
        (∀ k, k < chain.length → head r (rowAt (chain.getD k 0)) = ((chain.drop (k + 1)).map (· + 1)).headD 0) →
        let found := chain.filter fun i => head r (rowAt i + 4) + (if k64 then 2 ^ 32 * head r (rowAt i + 8) else 0) = key
        let out : List (Option Nat) := if found = [] ∧ f.bit 11 = true then [none] else found.map some
        let free := lanesOf (~~~T.lm)
        let m := maskOf fun j => (free.take out.length).contains j
        completes fun U => after U (T.lm ||| m) ∧
          (∀ q j, j < 32 → T.lm.getLsbD j = true → U.regs.lane q j = T.regs.lane q j) ∧
          (f.f 10 8 ≠ 0 → U.regs.g.getLsbD (f.f 10 8) = decide (free.length < out.length)) ∧
          (M ≠ 0 → (U.regs.p.get 0 M).getLsbD l = false) ∧
          ∀ k, k < min out.length free.length →
            let j := free.getD k 0
            let e := out.getD k none
            (∀ x, x < wd → U.regs.lane (vD + x) j = BitVec.ofNat 32 (e.elim 0 fun i => head r (first i + 4 * x))) ∧
            U.regs.lane (vD + wd) j = e.elim 0xFFFFFFFF#32 (BitVec.ofNat 32) ∧
            (∀ q, q < vD ∨ vD + wd < q → U.regs.lane q j = T.regs.lane q l) ∧
            (M ≠ 0 → (U.regs.p.get 0 M).getLsbD j = true))

/-! ## Bins, pod time, revocation -/

/-- 06 R172, R175 to R177, 18 R392: POST puts a record for each active lane at the end of its bin, where there is
room, launches a block where the bin then holds its count, and holds its split until POST_COMPLETION; with no active
lane it is its release alone; BINTAKE gives the oldest records to free lanes, in order; an expired timer and a drain
launch a block from a bin's records, and a drained bin is disarmed. Where the spec leaves this open, it is the model's
reading: logs 23, 38, 63. -/
def Obligations.BinsTakeRecordsAndLaunch : Prop :=
  let launches (i : Instr) (s : State) (core bin : Nat) (x : Bin) : Prop :=
    ∀ K P c, s.tasks.find x.task = some K → s.ctl.parts.find K.part = some P → s.binCore core K = some c →
      let held := s.binHeld x
      let n := min x.held.length (32 * K.launch.troupes)
      ∃ u B y, exec i s = .next u ∧ u.blocks.find s.fresh = some B ∧ B.task = x.task ∧ B.core = c ∧ B.id = K.next ∧
        B.records = held.take n ∧ u.bin core bin = some y ∧ y.held = held.drop n ∧
        ∀ b, b ≠ s.fresh → u.blocks.find b = s.blocks.find b
  (∀ (f : UW) s c, Ready s c (.post f) → c.blk.unreach = none →
    let r := c.cap f.cN
    let w := r.len % 16
    let core := s.postCore c.blk.core (f.f 11 9) r (s.binHome c.blk.core r)
    let recs := (lanesOf c.active).map fun l => (List.range w).map fun j => c.trp.regs.lane (f.v + j) l
    s.capFault c r [7] 0x020#12 = none → f.v + w ≤ c.nregs → ∀ x, s.bin core r.obj = some x →
      (x.room < recs.length → Traps s c (.post f) ⟨0x12, 0, r.obj % 16 + 16⟩) ∧
      (recs.length ≤ x.room → recs ≠ [] → c.blk.buf = [] → (s.core c.blk.core).cache = [] →
        s.unacked c.b (fun _ => true) = false →
        x.held.length + recs.length < x.count → ∃ (u : State) (T : Troupe) (y : Bin),
          exec (.post f) s = .next ((u.settleTrp c.b c.t).stepEnds c.b c.t c.e c.sp.own) ∧ u.trp? c.b c.t = some T ∧
          T.splits.find c.e = some { c.sp with wait := .post, only := none } ∧ T.regs = c.trp.regs ∧
          u.bin core r.obj = some y ∧ y.held = x.held ++ recs ∧ y.launched = x.launched ∧
          (x.held.length + recs.length ≤ 256 → x.overflow = [] → u.mem = s.mem)) ∧
      (recs.length ≤ x.room → recs ≠ [] → c.blk.buf = [] → (s.core c.blk.core).cache = [] →
        s.unacked c.b (fun _ => true) = false → s.blocks.find s.fresh = none → x.overflow = [] → 0 < x.count →
        x.count ≤ x.held.length + recs.length → x.held.length + recs.length < 2 * x.count →
        x.held.length + recs.length ≤ 256 → ∀ K P k, s.tasks.find x.task = some K → s.ctl.parts.find K.part = some P →
        s.binCore core K = some k → ∃ (u : State) (T : Troupe) (y : Bin) (B : Block),
          exec (.post f) s = .next ((u.settleTrp c.b c.t).stepEnds c.b c.t c.e c.sp.own) ∧ u.trp? c.b c.t = some T ∧
          T.splits.find c.e = some { c.sp with wait := .post, only := none } ∧ T.regs = c.trp.regs ∧
          u.blocks.find s.fresh = some B ∧ B.task = x.task ∧ B.core = k ∧ B.id = K.next ∧
          B.records = (x.held ++ recs).take x.count ∧ u.bin core r.obj = some y ∧
          y.held = (x.held ++ recs).drop x.count ∧ y.launched = x.launched + 1)) ∧
  (∀ (f : UW) s c, Ready s c (.post f) → c.blk.unreach = none → c.active = 0 → c.blk.buf = [] →
    (s.core c.blk.core).cache = [] → s.unacked c.b (fun _ => true) = false →
    s.capFault c (c.cap f.cN) [7] 0x020#12 = none → f.v + (c.cap f.cN).len % 16 ≤ c.nregs →
    ∃ (t : State) (B : Block) (T : Troupe), exec (.post f) s = .next t ∧ { t with blocks := s.blocks } = s ∧
      t.blocks.find c.b = some B ∧ { B with troupes := c.blk.troupes } =
        { c.blk with window := false, backDue := c.blk.epoch } ∧ B.troupes.find c.t = some T ∧ T.regs = c.trp.regs ∧
      T.splits.find c.e = some { c.sp with pc := c.sp.pc + 2, only := none }) ∧
  (∀ (s : State) (b t e : Nat) (T : Troupe) (S : Split), s.trp? b t = some T → T.splits.find e = some S → S.wait = .post →
    ∃ (u : State) (U : Troupe), exec (.postCompletion b t e) s = .next u ∧ u.trp? b t = some U ∧
      U.splits.find e = some { S with wait := .ready, pc := S.pc + 2 } ∧ U.regs = T.regs ∧ U.lm = T.lm ∧
      { u with blocks := s.blocks } = s) ∧
  (∀ (f : UW) s c, Ready s c (.bintake f) →
    let r := c.cap f.cN
    s.capFault c r [7] 0x040#12 = none → f.v + r.len % 16 ≤ c.nregs → c.task.launch.shd = false →
    ∀ core x, s.cardBin c.blk.core r = some (core, x) → s.bin core r.obj = some x →
      let held := s.binHeld x
      let free := lanesOf (~~~c.trp.lm)
      let k := min (min x.held.length free.length) (c.sr f.a).toNat
      let m := maskOf fun l => (free.take k).contains l
      ∃ (u t : State) (T : Troupe) (y : Bin), exec (.bintake f) s = .next t ∧
        OnlyTroupe u t c.exposed (c.after (.bintake f) T) ∧ u.blocks = s.blocks ∧
        u.bin core r.obj = some y ∧ y.held = held.drop k ∧ T.lm = c.trp.lm ||| m ∧
        T.splits.find c.e = some { c.sp with own := c.sp.own ||| m, em := c.sp.em ||| m } ∧
        T.regs.s.get 0 f.d.toNat = BitVec.ofNat 64 k ∧
        (∀ q l, l < 32 → c.trp.lm.getLsbD l = true → T.regs.lane q l = c.trp.regs.lane q l) ∧
        (∀ i, i < k → T.ret.get [] (free.getD i 0) = c.trp.ret.get [] (lowLane c.sp.own)) ∧
        ∀ i q, i < k → T.regs.lane q (free.getD i 0) =
          if f.v ≤ q ∧ q < f.v + (held.getD i []).length then (held.getD i []).getD (q - f.v) 0 else 0) ∧
  (∀ (s : State) (core bin : Nat) (x : Bin), s.bin core bin = some x →
    (∀ d, x.deadline = some d → s.ctl.clk.toNat < d → exec (.binTimer core bin) s = .next s) ∧
    (∀ d, x.deadline = some d → d ≤ s.ctl.clk.toNat → x.held ≠ [] → launches (.binTimer core bin) s core bin x) ∧
    (s.binDrains x bin = true → launches (.binDrain core bin) s core bin x) ∧
    (s.binDrains x bin = false → s.binDone x.task = false → exec (.binDrain core bin) s = .next s) ∧
    (s.binDrains x bin = false → s.binDone x.task = true → ∃ u, exec (.binDrain core bin) s = .next u ∧
      ∀ n y, u.bin core n = some y → y.task ≠ x.task))

/-- 11 R294, R295, 07 R201, R206: CLKRD reads pod time; OTINV, privileged, raises an object's generation or clears the
holders of pages, and holds its split until each holder has dropped what it holds, a die once no access uses it, and
acknowledged. Where the spec leaves this open, it is the model's reading: logs 3, 25. -/
def Obligations.ClockReadsAndRevocations : Prop :=
  (∀ f : UW, UniCompletes (.clkrd f) f.d fun s _ => s.ctl.clk) ∧
  (∀ (f : UW) s c, Ready s c (.otinv f) →
    let a := (c.sr f.a).toNat
    let n := (c.sr f.b).toNat
    let part := c.task.part
    let obj := a % 2 ^ 24
    let first := a / 2 ^ 24
    let holds (O : Otinv → Prop) (u : State) : Prop := ∃ (T : Troupe) (x : Otinv),
      exec (.otinv f) s = .next ((u.settleTrp c.b c.t).stepEnds c.b c.t c.e c.sp.own) ∧ u.trp? c.b c.t = some T ∧
      T.splits.find c.e = some { c.sp with wait := .otinv s.fresh, only := none } ∧
      u.eng.otinv.find s.fresh = some x ∧ x.b = c.b ∧ x.t = c.t ∧ x.e = c.e ∧ x.part = part ∧ x.obj = obj ∧ O x
    (c.task.launch.prv = false → Traps s c (.otinv f) ⟨0x02, 0, 0⟩) ∧
    (c.task.launch.prv = true → f.bit 0 = false → first ≠ 0 → Traps s c (.otinv f) ⟨0x01, 0, 11⟩) ∧
    (c.task.launch.prv = true → (s.obj part obj).v = true →
      (f.bit 0 = false → first = 0 → ∃ u : State, (u.obj part obj).gen = ((s.obj part obj).gen + 1) % 2 ^ 16 ∧
        u.mem.slice = s.mem.slice ∧ holds (fun x => x.gen = true ∧ ∀ h, h ∈ x.holders ↔
          (∃ P p, s.ctl.parts.find part = some P ∧ p ∈ P.cfg.peers ∧ h = 8 + p) ∨
          ∃ k C, (k, C) ∈ s.cores ∧ (C.gens.find (2 ^ 24 * part + obj)).isSome = true ∧ h = 100 + k) u) ∧
      (f.bit 0 = true → n ≤ 2 ^ 20 → first + n ≤ (s.obj part obj).pages → 0 < n →
        ∃ u, holds (fun x => x.gen = false ∧ x.pages = (List.range n).map (first + ·)) u) ∧
      (f.bit 0 = true → n = 0 → first ≤ (s.obj part obj).pages → ∃ t, exec (.otinv f) s = .next t ∧
        OnlyTroupe s t c.exposed (c.after (.otinv f) (c.opened (.otinv f)).trp)))) ∧
  (∀ (s : State) (id h : Nat) (O : Otinv), s.eng.otinv.find id = some O →
    (h ∉ O.holders → exec (.shootdown id h) s = .next s) ∧
    (h < 8 → O.gen = false → s.dieBusy h O = true → exec (.shootdown id h) s = .next s) ∧
    (h ∈ O.holders → (h < 8 → O.gen = false → s.dieBusy h O = false) → ∃ u x, exec (.shootdown id h) s = .next u ∧ u.eng.otinv.find id = some x ∧
      (∀ k, k ∈ x.holders ↔ k ∈ O.holders ∧ k ≠ h) ∧ u.blocks = s.blocks ∧ u.mem.dev = s.mem.dev ∧
      (100 ≤ h → (u.core (h - 100)).gens.find (2 ^ 24 * O.part + O.obj) = none) ∧
      (h < 8 → O.gen = false → ∀ page copy, page ∈ O.pages → page < 2 ^ 36 → copy < 2 →
        u.mem.tlb.find (tlbKey h O.part O.obj copy page) = none))) ∧
  ∀ (s : State) (id : Nat) (O : Otinv), s.eng.otinv.find id = some O →
    (O.holders ≠ [] → exec (.otinvCompletion id) s = .next s) ∧
    (O.holders = [] → ∃ u, exec (.otinvCompletion id) s = .next u ∧ u.eng.otinv.find id = none ∧ u.mem = s.mem ∧
      ∀ T S, s.trp? O.b O.t = some T → T.splits.find O.e = some S → S.wait = .otinv id →
        ∃ U, u.trp? O.b O.t = some U ∧ U.splits.find O.e = some { S with wait := .ready, pc := S.pc + 2 } ∧
          U.regs = T.regs)

/-! ## The matrix unit -/

/-- 14 R365, 06 R184, 08 R228: MACQ puts its block in the line of its core's unit, or of the quad's four, and its
split waits; the first in line is granted units that are free, with every tile cleared; MREL gives them up; after a
swap-in the recorded loads are made again. Where the spec leaves this open, it is the model's reading: logs 30, 31,
71, 72. -/
def Obligations.MatrixUnitsAreGrantedAndReleased : Prop :=
  (∀ (f : UW) s c, Ready s c (.macq f) →
    let spill := if f.bit 7 then some (c.cap f.cN, true) else s.defaultSpill c.task
    let guard := if f.bit 6 then some (c.cap f.cG) else none
    let q : MReq := ⟨c.b, c.t, c.e, f.top, spill.map Prod.fst, guard⟩
    ((s.unit c.blk.core).holder = some c.b → Traps s c (.macq f) ⟨0x01, 0, 11⟩) ∧
    ((s.unit c.blk.core).holder ≠ some c.b → (∀ r, spill = some r → s.regionFault c r = none) →
      (∀ r, guard = some r → s.guardFault c r 0x008#12 = none) → ∃ (u : State) (T : Troupe),
        exec (.macq f) s = .next ((u.settleTrp c.b c.t).stepEnds c.b c.t c.e c.sp.own) ∧ u.trp? c.b c.t = some T ∧ T.regs = c.trp.regs ∧
        T.splits.find c.e = some { c.sp with wait := .macq, only := none } ∧ u.mem = s.mem ∧
        (∀ k ∈ quadUnits f.top c.blk.core, q ∈ (u.unit k).requests ∧ (u.unit k).holder = (s.unit k).holder) ∧
        (f.top = false → (u.unit c.blk.core).requests = (s.unit c.blk.core).requests ++ [q]) ∧
        ∀ k, k ∉ quadUnits f.top c.blk.core → u.core k = s.core k)) ∧
  (∀ (s : State) (core : Nat),
    ((s.unit core).requests = [] → exec (.macqGrant core) s = .next s) ∧
    ∀ q r B, (s.unit core).requests = q :: r → s.blocks.find q.b = some B →
      (s.mayGrant core q = false → exec (.macqGrant core) s = .next s) ∧
      (s.mayGrant core q = true → ∃ u, exec (.macqGrant core) s = .next u ∧ u.mem = s.mem ∧
        (∀ k ∈ quadUnits q.quad core, (u.unit k).holder = some q.b ∧ (u.unit k).tiles = [] ∧ (u.unit k).quad = q.quad ∧
          (u.unit k).spill = q.spill ∧ (u.unit k).guard = q.guard) ∧
        (q.quad = false → (u.unit core).requests = r) ∧
        ∀ T S, s.trp? q.b q.t = some T → T.splits.find q.e = some S → S.wait = .macq →
          ∃ U, u.trp? q.b q.t = some U ∧ U.splits.find q.e = some { S with wait := .ready, pc := S.pc + 2 } ∧
            U.regs = T.regs)) ∧
  (∀ (f : UW) s c, Ready s c (.mrel f) →
    let U := s.unit c.blk.core
    (U.holder ≠ some c.b → Traps s c (.mrel f) ⟨0x03, 0, 0⟩) ∧
    (U.holder = some c.b → U.queue.length < 4 → U.queue ≠ [] ∨ s.replaying c.blk.core = true →
      exec (.mrel f) s = .next { s with cur := none }) ∧
    (U.holder = some c.b → 4 ≤ U.queue.length → exec (.mrel f) s = .next { s with cur := none }) ∧
    (U.holder = some c.b → U.queue = [] → s.replaying c.blk.core = false → ∃ u t, exec (.mrel f) s = .next t ∧
      OnlyTroupe u t c (c.after (.mrel f) (c.opened (.mrel f)).trp) ∧ { u with cores := s.cores } = s ∧
      ∀ k ∈ quadUnits U.quad c.blk.core, (u.unit k).holder = none ∧ (u.unit k).tiles = [] ∧ (u.unit k).partials = [] ∧
        (u.unit k).requests = (s.unit k).requests)) ∧
  ∀ (s : State) (core : Nat),
    ((s.unit core).replay = false → exec (.mldbReplay core) s = .next s) ∧
    ((s.unit core).replay = true → (s.unit core).recs = [] → ∃ u, exec (.mldbReplay core) s = .next u ∧
      (u.unit core).replay = false ∧ u.mem = s.mem) ∧
    ∀ M x t, (s.unit core).replay = true → (s.unit core).recs = [(0, M)] → M.quad = false →
      (s.modCore core fun C => { C with cor := 0 }).loadBank core ((s.unit core).holder.getD 0) M 0 1 = .ok (x, t) → ∃ u, exec (.mldbReplay core) s = .next u ∧ (u.unit core).active = x ∧
        (u.unit core).replay = false ∧ u.mem = t.mem

/-- 14 R350, R365 to R373, 03 R77, R99, R100: an instruction for the unit its block holds joins the unit's queue, with
its active lanes, the labels and slots it will use, and the geometry it will leave; a unit not held is CAPINV, a full
queue makes the split wait. Where the spec leaves this open, it is the model's reading: logs 29, 30, 31. -/
def Obligations.MatrixInstructionsEnterTheQueue : Prop :=
  let queues (i : Instr) (joint g : Bool) (ok : State → Ctx → Prop) (post : State → Ctx → State → MatOp → Prop) : Prop :=
    ∀ s c, Ready s c i →
      let U := s.unit c.blk.core
      ((U.holder ≠ some c.b ∨ (joint = true ∧ U.quad = false)) → Traps s c i ⟨0x03, 0, 0⟩) ∧
      (U.holder = some c.b → (joint = true → U.quad = true) → g = true → U.guard = none → Traps s c i ⟨0x01, 0, 11⟩) ∧
      (U.holder = some c.b → (joint = true → U.quad = true) → (g = true → U.guard ≠ none) →
        (4 ≤ U.queue.length → exec i s = .next { s with cur := none }) ∧
        (U.queue.length < 4 → ok s c → ∃ (u t : State) (b : Bool) (m : MatOp), exec i s = .next t ∧
          OnlyTroupe u t { c with blk := { c.blk with window := b } } (c.after i (c.opened i).trp) ∧
          (b = c.blk.window ∨ (b = false ∧ ∃ f, i = .bind f ∨ i = .slfl f)) ∧ { u with cores := s.cores } = s ∧
          (∀ k, k ∉ c.blk.core :: quadUnits joint c.blk.core → u.core k = s.core k) ∧
          (∀ k, k ≠ c.blk.core → (u.unit k).queue = (s.unit k).queue) ∧
          (∀ k, (u.unit k).tiles = (s.unit k).tiles) ∧
          (u.unit c.blk.core).queue = U.queue ++ [m] ∧ m.instr = i ∧ m.b = c.b ∧ m.t = c.t ∧ m.rows = c.active ∧
          m.pc = c.sp.pc ∧ post s c u m))
  let labels (f : UW) (ty : Nat) (s : State) (c : Ctx) (u : State) (m : MatOp) : Prop :=
    ∀ ls ps acts, (s.unit c.blk.core).labelled f c ty = .ok (ls, ps, acts) → m.labels = ls ∧ m.plans = ps ∧ m.acts = acts ∧
      (u.unit c.blk.core).plan = ps.foldl (fun p x => p.put x.1 x.2) (s.unit c.blk.core).plan
  let product (f : UW) (joint rows : Bool) (s : State) (c : Ctx) : Prop :=
    prodGeom f joint = none ∧ s.mismatch c.blk.core f joint rows = none ∧
      (f.mx = false → ∃ x, (s.unit c.blk.core).labelled f c (accType f.fa) = .ok x ∧
        s.spillFault c (x.2.2.any SlotAct.spills) = none)
  let used (f : UW) (s : State) (c : Ctx) (u : State) (m : MatOp) : Prop :=
    (f.mx = true → (u.unit c.blk.core).plan = (s.unit c.blk.core).plan ∧ m.labels = []) ∧
      (f.mx = false → labels f (accType f.fa) s c u m)
  (∀ f, queues (.mldb f) f.top false (fun s c =>
      geo f.xc * geo f.yc * planes f.fb ≤ 8 ∧
      s.srcFault c (c.cap f.cN) [1, 2] (bBytes f.fb ((if f.top then 1024 else 256) * geo f.xc) (64 * geo f.yc)) = none ∧
      (f.fb = 13 → s.srcFault c (c.cap f.cQ) [2] 512 = none)) fun _ c u m =>
    m.src = c.cap f.cN ∧ m.src2 = c.cap f.cQ ∧ ∀ k ∈ quadUnits f.top c.blk.core,
      (u.unit k).planLoading = (f.fb, geo f.xc, geo f.yc, f.top, true)) ∧
  (∀ f, queues (.mbsw f) f.top false (fun _ _ => True) fun s c u _ => ∀ k ∈ quadUnits f.top c.blk.core,
    (u.unit k).planActive = (s.unit k).planLoading ∧ (u.unit k).planLoading = (s.unit k).planActive) ∧
  (∀ f, queues (.mlda f) f.top false (fun s c =>
      let r := c.cap f.cN
      let n := (if f.top then 1024 else 256) * geo f.xc * mbits f.fa / 8
      256 * geo f.xc * windowA f.fa ≤ 24576 ∧ s.capFault c r [1, 2] 0x001#12 = none ∧
      (s.mem.tiles = [] ∨ r.has 11 = true) ∧
      ∀ l ∈ lanesOf c.active, s.inCap c.task.part r (c.reg f.v l) n = true ∧ c.reg f.v l % 16 = 0) fun _ c u m =>
    m.src = c.cap f.cN ∧ m.addrs = lanes32.map (c.reg f.v) ∧ ∀ k ∈ quadUnits f.top c.blk.core,
      (u.unit k).planRow = (f.fa, geo f.xc, f.top, true)) ∧
  (∀ f, queues (.mma f) false f.g (product f false true) (used f)) ∧
  (∀ f, queues (.qmma f) true f.g (product f true true) (used f)) ∧
  (∀ f, queues (.mmas f) false f.g (fun s c =>
      let r := c.cap f.cN
      product f false false s c ∧ s.capFault c r [2] 0x801#12 = none ∧ s.allTiles (s.capSlice r 0) 1 = true ∧
      (s.unit c.blk.core).queue = [] ∧ s.mem.skew = [] ∧ s.mem.slicePoison = [] ∧ s.mem.flips = [] ∧
      s.halting c.task.part = false ∧ (s.unit c.blk.core).valid = none ∧
      ∀ l ∈ lanesOf c.active, ∃ bs, s.sparseRow c.b r f.fa (8 * geo f.xc) l = .ok bs) fun s c u m =>
    used f s c u m ∧ ∀ l b bs, l ∈ lanesOf c.active → s.sparseRow c.b (c.cap f.cN) f.fa (8 * geo f.xc) l = .ok bs →
      b < 8 * geo f.xc → m.sparse.find (32 * b + l) = (bs[b]?).join) ∧
  (∀ f, queues (.scacc f) false f.g (fun s c =>
      prodGeom f false = none ∧ s.srcFault c (c.cap f.cN) [1, 2] (64 * (8 * geo f.xc)) = none ∧
      s.srcFault c (c.cap f.cQ) [1, 2] (128 * geo f.yc * (8 * geo f.xc)) = none ∧
      ∃ x, (s.unit c.blk.core).labelled f c 2 = .ok x ∧ s.spillFault c (x.2.2.any SlotAct.spills) = none) fun s c u m =>
    m.src = c.cap f.cN ∧ m.src2 = c.cap f.cQ ∧ labels f 2 s c u m) ∧
  (∀ f, queues (.mwr f) false false (fun s c =>
      ((s.unit c.blk.core).planOf f.tile).1 ∈ [0, f.xc + 1] ∧
      ∃ x, (s.unit c.blk.core).mapTiles (f.xc + 1) [f.tile] [f.lbl] = .ok x ∧
        s.spillFault c (x.2.any SlotAct.spills) = none) fun s c _ m =>
    m.addrs = lanes32.map (c.regs (f.xc + 1 = 3) f.v) ∧
    ∀ ps acts, (s.unit c.blk.core).mapTiles (f.xc + 1) [f.tile] [f.lbl] = .ok (ps, acts) → m.plans = ps ∧ m.acts = acts) ∧
  (∀ f, queues (.mclr f) false false (fun _ _ => True) fun _ c u _ => (u.unit c.blk.core).planOf f.tile = (0, noLabels)) ∧
  (∀ f, queues (.bind f) false f.g (fun s c =>
      let ty := ((s.unit c.blk.core).planOf f.tile).1
      s.dstFault c (c.cap f.cN) (mixBytes ty) = none ∧ s.srcFault c (c.cap f.cQ) [2] 2048 = none ∧ ty ≠ 0 ∧
        s.spillFault c (((s.unit c.blk.core).planOf f.tile).2.contains 15) = none) fun _ c _ m =>
    m.src = c.cap f.cN ∧ m.src2 = c.cap f.cQ) ∧
  ∀ f, queues (.slfl f) false f.g (fun s c =>
      s.dstFault c (c.cap f.cN) (mixBytes ((s.unit c.blk.core).planOf f.tile).1) = none ∧
        s.spillFault c (labelAt ((s.unit c.blk.core).planOf f.tile).2 f.lbl = 15) = none) fun s c u m =>
    m.src = c.cap f.cN ∧ (u.unit c.blk.core).planOf f.tile = (((s.unit c.blk.core).planOf f.tile).1,
      ((s.unit c.blk.core).planOf f.tile).2.set f.lbl 0)

/-- 03 R79, R80, R87, R88, R90, R102, 02 R47, R64, 14 R350, R366 to R373: the instruction at the head of a unit's
queue completes, and leaves the queue. MLDB, from a slice, puts each block of K of each column in the loading bank of
each of its units, aligned from its elements, or a cb8 block's weights through the table, with the load's record; MLDA
puts each active lane's row in the row buffer. MMA, QMMA over the four units' K, and MMAS, whose empty blocks
contribute nothing, fold the contribution of each block of K, in order, into the labelled slot of each active row and
column; an `.mx` product puts each in the partial file, with Z markers in the rows not active. SCACC folds each
partial entry with its two scales. BIND writes the mix of the labels of each active row, and SLFL a label's values,
whose slot it frees, in the layout of R372, with sums that agree, and no other byte of a slice changes. MBSW exchanges
the banks and their records, MWR writes its column, MCLR clears its tile. Integer operands contribute their exact sum
of products, and an i32 accumulator saturates. Where the spec leaves this open, it is the model's reading: logs 30,
70. -/
def Obligations.QueuedMatrixInstructionsComplete : Prop :=
  (∀ (s : State) (core : Nat), (s.unit core).queue = [] → exec (.matrixCompletion core) s = .next s) ∧
  (∀ (s : State) (core : Nat) (m : MatOp) (r : List MatOp) (B : Block) (K : Task), (s.unit core).queue = m :: r →
    s.blocks.find m.b = some B → s.tasks.find B.task = some K → s.replaying core = false →
    (s.unit core).step = (0, 0, 0) → (s.unit core).guard = none → m.ran = false → s.unacked m.b (fun _ => true) = false →
    let U := s.unit core
    let completes (p : State → MatUnit → Prop) : Prop := ∃ u, exec (.matrixCompletion core) s = .next u ∧
      (u.unit core).queue = r ∧ (∀ b, b ≠ m.b → u.blocks.find b = s.blocks.find b) ∧ u.tasks = s.tasks ∧ p u (u.unit core)
    let word (t : Nat) : Nat := 2 ^ (if t = 3 then 64 else 32)
    let clean : Prop := s.mem.flips = [] ∧ s.mem.slicePoison = [] ∧ s.mem.skew = []
    let num (c : CapReg) (off n : Nat) : Nat :=
      leNat (overlay B.buf .slice (s.capSlice c off) (s.sliceRead (s.capSlice c off) n))
    let elems (c : CapReg) (off fmt : Nat) : List Nat :=
      (List.range 32).map fun k => num c off (4 * mbits fmt) / 2 ^ (mbits fmt * k) % 2 ^ mbits fmt
    let zero : MBlk := intBlk 0 (List.replicate 32 0)
    let products (f : UW) (joint : Bool) (a : List Nat → Nat → Nat → Nat → Option MBlk) : Prop :=
      let units := quadUnits joint core
      let nb := 8 * geo f.xc
      let glob := List.range (nb * units.length)
      let con (g i j : Nat) : Contrib := contrib (a units (g / nb) (g % nb) i)
        ((s.unit (units.getD (g / nb) 0)).active.cols.get zero (512 * (g % nb) + j)) 0
      (∀ k ∈ units, (s.unit k).upset = []) →
      (f.mx = false → m.acts = [] → let ty := accType f.fa
        ∀ map : Nat → List Nat, m.plans = f.tiles.map (fun t => (t, ty, map t)) → completes fun u V =>
          u.mem = s.mem ∧ ∀ i j, i ∈ lanesOf m.rows → j < 64 * geo f.yc →
            let t := f.tile + j / 64
            let slot := labelAt (map t) (m.labels.getD i 0) - 1
            (V.tile t).ty = ty ∧ (V.tile t).el slot i (j % 64) =
              glob.foldl (fun acc g => (fold ty acc (con g i j)).1)
                ({ U.tile t with ty := ty }.el slot i (j % 64)) % word ty) ∧
      (f.mx = true → m.rows ≠ 0 → completes fun u V => u.mem = s.mem ∧ V.tiles = U.tiles ∧
        ∀ g i j, g < nb * units.length → i < 32 → j < 64 * geo f.yc →
          V.partials.get 0x80000000#32 ((f.f 11 6 + g * geo f.yc + j / 64) * 2048 + i * 64 + j % 64) =
            BitVec.ofNat 32 (if i ∈ lanesOf m.rows then (entryOf (con g i j)).1 else 0x80000000))
    let rowBlk (units : List Nat) (p b i : Nat) : Option MBlk :=
      some ((s.unit (units.getD p 0)).rowBuf.rows.get zero (32 * b + i))
    let writes (d : CapReg) (ty : Nat) (rows : List Nat) (el : Nat → Nat → Nat) (V : MatUnit → Prop) : Prop :=
      let a := s.capSlice d 0
      let k := sliceKey a
      let z := elBytes ty
      s.here a = true → k + mixBytes ty ≤ 2 ^ 33 → completes fun u W => V W ∧
        (∀ i j, i ∈ rows → j < 64 → Mem.read u.mem.slice (k + mixOff ty i j) z = leBytes z (el i j)) ∧
        (SliceBut s u fun x => ∃ i j, i ∈ rows ∧ j < 64 ∧ k + mixOff ty i j ≤ x ∧ x < k + mixOff ty i j + z) ∧
        ∀ x ∈ s.tilesOf a (mixBytes ty), ∀ q, q < 64 → u.mem.skew.get 0 (64 * x + q) = 0
    (∀ f, m.instr = .mldb f → m.src.kind = 2 → (f.fb = 13 → m.src2.kind = 2) → clean → completes fun u _ =>
      u.mem = s.mem ∧ ∀ p k, (quadUnits f.top core)[p]? = some k →
        let X := (u.unit k).loading
        let nb := 8 * geo f.xc
        let n := 32 * nb * (quadUnits f.top core).length
        X.fmt = f.fb ∧ X.x = geo f.xc ∧ X.y = geo f.yc ∧ X.quad = f.top ∧ X.loaded = true ∧
        (u.unit k).active = (s.unit k).active ∧
        (u.unit k).recs.find 1 = some ⟨m.src, m.src2, f.fb, geo f.xc, geo f.yc, f.top, K.part⟩ ∧
        ∀ b j, b < nb → j < 64 * geo f.yc → X.cols.find (512 * b + j) =
          let k0 := j * n + 32 * (p * nb + b)
          some (if f.fb = 13 then
            intBlk (-2) ((List.range 32).map fun q =>
              let code := num m.src (k0 / 4) 8 / 2 ^ (16 * (q / 8)) % 2 ^ 16
              cbWeight code (num m.src2 (2 * (code / 256)) 2) (q % 8))
          else mkBlk false f.fb (elems m.src (k0 * mbits f.fb / 8) f.fb))) ∧
    (∀ f, m.instr = .mlda f → m.src.kind = 2 → clean → completes fun u _ =>
      u.mem = s.mem ∧ ∀ p k, (quadUnits f.top core)[p]? = some k →
        let R := (u.unit k).rowBuf
        let nb := 8 * geo f.xc
        R.fmt = f.fa ∧ R.x = geo f.xc ∧ R.quad = f.top ∧ R.loaded = true ∧
        ∀ b i, b < nb → i < 32 → R.rows.find (32 * b + i) =
          if i ∈ lanesOf m.rows then
            some (mkBlk true f.fa (elems m.src (m.addrs.getD i 0 + 4 * mbits f.fa * (p * nb + b)) f.fa))
          else (s.unit k).rowBuf.rows.find (32 * b + i)) ∧
    (∀ f, m.instr = .mma f → products f false rowBlk) ∧
    (∀ f, m.instr = .qmma f → products f true rowBlk) ∧
    (∀ f, m.instr = .mmas f → products f false fun _ _ b i => m.sparse.find (32 * b + i)) ∧
    (∀ f, m.instr = .scacc f → m.src.kind = 2 → m.src2.kind = 2 → clean → m.acts = [] → ∀ map : Nat → List Nat,
      m.plans = f.tiles.map (fun t => (t, 2, map t)) → completes fun u V =>
        u.mem = s.mem ∧ ∀ i j, i ∈ lanesOf m.rows → j < 64 * geo f.yc →
          let t := f.tile + j / 64
          let slot := labelAt (map t) (m.labels.getD i 0) - 1
          let nb := 8 * geo f.xc
          let ent (b : Nat) : Word :=
            U.partials.get 0x80000000#32 ((f.f 11 6 + b * geo f.yc + j / 64) * 2048 + i * 64 + j % 64)
          (V.tile t).ty = 2 ∧ (V.tile t).el slot i (j % 64) =
            (List.range nb).foldl (fun acc b => (scaleStep acc (ent b).toNat (num m.src (2 * (i * nb + b)) 2)
              (num m.src2 (2 * (j * nb + b)) 2)).1) ({ U.tile t with ty := 2 }.el slot i (j % 64)) % 2 ^ 32) ∧
    (∀ f, m.instr = .mbsw f → completes fun u _ => u.mem = s.mem ∧ ∀ k ∈ quadUnits f.top core,
      let W := s.unit k
      let V := u.unit k
      V.active = W.loading ∧ V.loading = W.active ∧ V.recs.find 0 = W.recs.find 1 ∧ V.recs.find 1 = W.recs.find 0) ∧
    (∀ f, m.instr = .mclr f → completes fun u V => V.tile f.tile = {} ∧
      (∀ t, t ≠ f.tile → V.tile t = U.tile t) ∧ u.mem = s.mem) ∧
    (∀ f map, m.instr = .mwr f → m.acts = [] → m.plans = [(f.tile, f.xc + 1, map)] → completes fun u V => u.mem = s.mem ∧
      ∀ i ∈ lanesOf m.rows,
        (V.tile f.tile).el (labelAt map f.lbl - 1) i f.col = m.addrs.getD i 0 % word (f.xc + 1)) ∧
    (∀ f, m.instr = .bind f → m.src2.kind = 2 → clean → m.rows ≠ 0 →
      let T := U.tile f.tile
      T.skew = [] → (∀ l, labelAt T.map l ≠ 15) →
      writes m.src T.ty (lanesOf m.rows) (fun i j => (mix T.ty (((List.range 16).filter fun l => labelAt T.map l ≠ 0).map
        fun l => (num m.src2 (4 * (16 * i + l)) 4, T.el (labelAt T.map l - 1) i j))).1) fun V => ∀ t, V.tile t = U.tile t) ∧
    (∀ f, m.instr = .slfl f →
      let T := U.tile f.tile
      let x := labelAt T.map f.lbl
      x ≠ 15 → writes m.src T.ty lanes32 (fun i j => if x = 0 then 0 else T.el (x - 1) i j) fun V =>
        (∀ l, labelAt (V.tile f.tile).map l = if l = f.lbl then 0 else labelAt T.map l) ∧
        (∀ k i j, (V.tile f.tile).el k i j = T.el k i j) ∧ ∀ t, t ≠ f.tile → V.tile t = U.tile t)) ∧
  ∀ (acc : Nat) (xs ys : List Int), xs.length = ys.length →
    let p := ((xs.zip ys).map fun z => z.1 * z.2).sum
    (fold 1 acc (contrib (some (intBlk 0 xs)) (intBlk 0 ys) 0)).1 =
      (BitVec.ofInt 32 (max (-2 ^ 31) (min (2 ^ 31 - 1) ((BitVec.ofNat 32 acc).toInt + p)))).toNat

/-- 14 R371, R373, R374, 03 R95, R97: MRD reads a column of a label, SLRD a tile's label map, CKRD a stored sum; CKGEN
makes the sums of its region agree with the data, and CKVER goes on where they do and raises CKSUM where they cannot
be mended. Where the spec leaves this open, it is the model's reading: logs 30, 48. -/
def Obligations.TilesAreReadAndSummed : Prop :=
  (∀ (f : UW) s c, Ready s c (.mrd f) →
    let U := s.unit c.blk.core
    let X := U.tile f.tile
    let pair := X.ty = 3
    let value (l : Nat) : Nat := if labelAt X.map f.lbl = 0 then 0 else X.el (labelAt X.map f.lbl - 1) l f.col
    U.holder = some c.b → U.queue = [] → s.replaying c.blk.core = false → X.skew = [] → labelAt X.map f.lbl ≠ 15 →
    (pair → f.v % 2 = 0 ∧ f.v + 2 ≤ c.nregs) →
    ∃ (u t : State) (T : Troupe), exec (.mrd f) s = .next t ∧ OnlyTroupe u t c (c.after (.mrd f) T) ∧
      { u with cores := s.cores } = s ∧ (∀ k, (u.unit c.blk.core).tile k = U.tile k) ∧
      LoadsWords c T f.v (if pair then 2 else 1) c.active value) ∧
  (∀ (f : UW) s c, Ready s c (.slrd f) →
    let U := s.unit c.blk.core
    let X := U.tile f.tile
    U.holder = some c.b → U.queue = [] → s.replaying c.blk.core = false → X.skew = [] →
    ∃ (u t : State) (T : Troupe), exec (.slrd f) s = .next t ∧ OnlyTroupe u t c (c.after (.slrd f) T) ∧
      { u with cores := s.cores } = s ∧ (∀ k, (u.unit c.blk.core).tile k = U.tile k) ∧
      UniResult c (.slrd f) f.d.toNat (BitVec.ofNat 64 ((List.range 16).map fun l => labelAt X.map l * 2 ^ (4 * l)).sum) T) ∧
  (∀ f : UW, WordCompletes (.ckrd f) (fun s c => s.ckFault c (c.cap f.cN) 0x001#12 (some (c.sr f.a).toNat) = none) fun s c T =>
    let u := sliceKey (s.capSlice (c.cap f.cN) 0) / 4096
    let k := (c.sr f.a).toNat
    let w (r q : Nat) : Word := BitVec.ofNat 32 (leNat (Mem.read s.mem.slice (4096 * u + 128 * r + 4 * q) 4))
    UniResult c (.ckrd f) f.d.toNat ((((List.range 32).map fun j => if k < 32 then w k j else w j (k - 32)).sum -
      s.mem.skew.get 0 (64 * u + k)).setWidth 64) T) ∧
  (∀ (f : UW) s c, Ready s c (.ckgen f) →
    let r := c.cap f.cN
    let a := s.capSlice r 0
    s.ckFault c r 0x002#12 none = none → bufTouch c.blk.buf .slice a r.size = [] →
    (s.slicePoisoned a r.size = true → Traps s c (.ckgen f) ⟨0x16, 0, 0⟩) ∧
    (s.slicePoisoned a r.size = false → s.mem.flips = [] → ∃ u t, exec (.ckgen f) s = .next t ∧ OnlyTroupe u t c.exposed (c.after (.ckgen f) (c.opened (.ckgen f)).trp) ∧
      { u with mem := { u.mem with skew := s.mem.skew } } = s ∧
      ∀ x ∈ s.tilesOf a r.size, ∀ i, i < 64 → u.mem.skew.get 0 (64 * x + i) = 0)) ∧
  ∀ (f : UW) s c, Ready s c (.ckver f) →
    let r := c.cap f.cN
    let a := s.capSlice r 0
    s.ckFault c r 0x001#12 none = none →
    (s.slicePoisoned a r.size = true → Traps s c (.ckver f) ⟨0x16, 0, 0⟩) ∧
    (s.slicePoisoned a r.size = false → s.mem.flips = [] → ((∀ x ∈ s.tilesOf a r.size, ∀ i, i < 64 → s.mem.skew.get 0 (64 * x + i) = 0) →
      ∃ t, exec (.ckver f) s = .next t ∧ OnlyTroupe s t c (c.after (.ckver f) (c.opened (.ckver f)).trp)) ∧
      (s.verifyTiles c.blk.core a r.size = none → Traps s c (.ckver f) ⟨0x0D, 0, 0⟩))

/-! ## The solver sequencer -/

/-- 14 R375 to R381: SQCFG takes a configuration that keeps every rule of its words, and names the lowest word that
breaks one; with no halt in progress SQLOAD binds its region and starts the samples it names; for a running sample
SQSTG forms a stage input, SQDEC decides and resizes the step, and SQHIS pushes to or mixes from the history ring. A
halt stops each of them after some of its samples: the split stays where it is, and what the instruction holds of them
stands in the troupe (17 R388). Where the spec leaves this open, it is the model's reading: logs 32, 88. -/
def Obligations.SolverInstructionsActOnTheirSamples : Prop :=
  let goes (i : Instr) (s : State) (c : Ctx) (p : State → Block → Troupe → Prop) : Prop :=
    ∃ (t : State) (B : Block) (T : Troupe), exec i s = .next t ∧ t.blocks.find c.b = some B ∧ B.troupes.find c.t = some T ∧
      T.splits.find c.e = some { c.sp with pc := c.sp.pc + 2, only := none } ∧ T.regs.v = c.trp.regs.v ∧ t.mem = s.mem ∧
      p t B T
  let w (x : Nat) : Nat := x % 2 ^ 32
  let whole (s : State) (c : Ctx) : Prop := c.trp.sq = none ∧ s.halting c.task.part = false ∧ s.mem.flips = []
  (∀ (f : UW) s c, Ready s c (.sqcfg f) →
    let r := c.cap f.cN
    let a := s.capSlice r 0
    let bs := overlay c.blk.buf .slice a (s.sliceRead a 288)
    s.capFault c r [2, 8] 0x001#12 = none → 288 ≤ r.size → s.loadPoison c .slice a 288 = false → s.mem.flips = [] →
    (∀ i, i < 72 → (sqCfg bs).wordOk i = false → (∀ j, j < i → (sqCfg bs).wordOk j = true) →
      Traps s c (.sqcfg f) ⟨0x11, 0, i⟩) ∧
    ((∀ i, i < 72 → (sqCfg bs).wordOk i = true) → goes (.sqcfg f) s c fun _ B T => B.sqCfg = some bs ∧
      B.buf = c.blk.buf ∧ T.regs = c.trp.regs)) ∧
  (∀ (f : UW) s c e, Ready s c (.sqload f) → s.mem.shadows = [] → sqNamed c f.v = [e] →
    let r := c.cap f.cN
    s.capFault c r [8] 0x003#12 = none → s.here r.at = true → coreOfSlice r.at = c.blk.core →
    sqRange (c.blk.sqCfg.map sqCfg) c f.v r.size false = none →
    s.loadPoison c .slice (s.capSlice r (32 * e)) 32 = false → bufSize c.blk.buf + 32 ≤ 65536 → whole s c →
    goes (.sqload f) s c fun t B _ => B.sqReg = some r ∧
      t.sqRead c.b r (32 * e) 8 = sqStart (s.sqRead c.b r (32 * e) 8)) ∧
  (∀ (f : UW) s c C r e, Ready s c (.sqstg f) → s.mem.shadows = [] → sqNamed c f.v = [e] →
    let q : Sq := ⟨c.b, r, C, e⟩
    let j := f.f 2 0 + 1
    let ent := q.entry s
    whole s c →
    s.sqReady c f.v (fun C => decide (C.s < j)) (fun _ _ => 0 :: (List.range (j - 1)).map (2 + ·)) = .ok (C, r, s) →
    sqStatus ent = 1 → bufSize c.blk.buf + 4 * (C.n + 1) ≤ 65536 →
    goes (.sqstg f) s c fun t _ _ =>
      q.read t 1 = ((List.range C.n).map fun m => w ((List.range (j - 1)).foldl (fun a i =>
        (f32.fma 0 (f32.mul 0 0 (ent.getD 1 0) (C.a j (i + 1))).1 ((q.read s (2 + i)).getD m 0) a).1)
        ((q.read s 0).getD m 0))) ∧
      q.entry t = ent.set 7 (w (f32.add 0 0 (ent.getD 0 0) (f32.mul 0 0 (C.c j) (ent.getD 1 0)).1).1)) ∧
  (∀ (f : UW) s c C r e, Ready s c (.sqdec f) → s.mem.shadows = [] → sqNamed c f.v = [e] →
    let q : Sq := ⟨c.b, r, C, e⟩
    let ent := q.entry s
    whole s c →
    s.sqReady c f.v (fun _ => false) (fun C _ => 0 :: (List.range C.s).map (2 + ·)) = .ok (C, r, s) → sqStatus ent = 1 → bufSize c.blk.buf + 4 * (C.n + 7) ≤ 65536 →
    let h := ent.getD 1 0
    let x (m : Nat) : Nat := (q.read s 0).getD m 0
    let terms (b : Nat → Nat) (m : Nat) : List (Nat × Nat) := (List.range C.s).map fun i =>
      ((f32.mul 0 0 h (b (i + 1))).1, (q.read s (2 + i)).getD m 0)
    let sum := (List.range C.n).foldl (fun a m => (sqErr C (x m) a (terms C.b m) (terms C.bh m)).2.1) 0
    let err := (f32.sqrt (fdiv32 (fv sum) (intNum C.n)).1).1
    let ok := fle err one32
    let time := if ok then (f32.add 0 0 (ent.getD 0 0) h).1 else ent.getD 0 0
    let tend := ent.getD 2 0
    let tries := bits (ent.getD 4 0) 15 8 + 1
    let left := (rne32 false ((fv tend).add 0 (fv time).minus).1 ((fv tend).add 0 (fv time).minus).2).1
    let status := if fle tend time then 2 else if (ok = false ∧ C.w 9 < tries) ∨ (fv err).isNan = true then 3 else 1
    goes (.sqdec f) s c fun t _ T =>
      (ok = true → q.read t 0 = (List.range C.n).map fun m => w (sqSum (x m) (terms C.b m)).1) ∧
      (ok = false → q.read t 0 = q.read s 0) ∧
      (q.entry t).getD 0 0 = w time ∧ (q.entry t).getD 2 0 = tend ∧ (q.entry t).getD 3 0 = w err ∧
      (q.entry t).getD 1 0 =
        w (f32.minNum (clamp32 (f32.mul 0 0 h (sqFactor C err).1).1 (C.w 7) (C.w 8)) left) ∧
      sqStatus (q.entry t) = status ∧
      bits ((q.entry t).getD 4 0) 15 8 = (if ok then 0 else min tries 255) ∧
      (q.entry t).getD 5 0 = (if ok then w (ent.getD 5 0 + 1) else ent.getD 5 0) ∧
      (q.entry t).getD 6 0 = (if ok then ent.getD 6 0 else w (ent.getD 6 0 + 1)) ∧
      T.regs.s.get 0 f.d.toNat = (if status = 1 then 1 else 0) ∧
      ∀ k l, l < 32 → k = f.f 10 8 → 0 < k → c.active.getLsbD l = true → (T.regs.p.get 0 k).getLsbD l = ok) ∧
  (∀ (i : Instr) v s c, (∃ f : UW, v = f.v ∧ (i = .sqload f ∨ i = .sqstg f ∨ i = .sqdec f ∨ i = .sqhis f)) → Ready s c i →
    c.trp.sq = none → c.trp.run = none → s.halting c.task.part = true →
    let k := s.sqStop c v
    k < (sqNamed c v).length → ¬ (∃ r, Traps s c i r) → ∃ (t : State) (T : Troupe), exec i s = .next t ∧
      t.trp? c.b c.t = some T ∧ T.splits.find c.e = some c.sp ∧ T.regs.v = c.trp.regs.v ∧
      T.regs.s = c.trp.regs.s ∧ T.regs.p = c.trp.regs.p ∧ ∃ h, T.sq = some h ∧ h.e = c.e ∧ h.pc = c.sp.pc ∧ h.next = k) ∧
  ∀ (f : UW) s c C r e, Ready s c (.sqhis f) → s.mem.shadows = [] → sqNamed c f.v = [e] →
    let q : Sq := ⟨c.b, r, C, e⟩
    let ent := q.entry s
    let at' := bits (ent.getD 4 0) 21 19
    let count := bits (ent.getD 4 0) 18 16
    whole s c → s.sqReady c f.v (fun C => C.H == 0) (sqHisVecs (f.bit 0)) = .ok (C, r, s) → sqStatus ent = 1 → bufSize c.blk.buf + 4 * (C.n + 1) ≤ 65536 →
    goes (.sqhis f) s c fun t _ _ =>
      (f.bit 0 = false → q.read t (2 + C.s + at') = q.read s (1 + C.s) ∧ q.entry t = ent.set 4
        (ent.getD 4 0 % 2 ^ 16 + 2 ^ 16 * min (count + 1) C.H + 2 ^ 19 * ((at' + 1) % C.H) +
          2 ^ 22 * (ent.getD 4 0 / 2 ^ 22))) ∧
      (f.bit 0 = true → q.entry t = ent.set 7 (ent.getD 0 0) ∧ q.read t 1 = (List.range C.n).map fun m =>
        w ((List.range (min count C.H)).foldl (fun a i => (f32.fma 0 (f32.mul 0 0 (ent.getD 1 0) (C.w (64 + i))).1
          ((q.read s (2 + C.s + (at' + 2 * C.H - 1 - i) % C.H)).getD m 0) a).1) ((q.read s 0).getD m 0)))

/-! ## Other packages, links, mesh and scrub -/

/-- 04 R115, R116, 05 R158: an operation of another package is applied once, in the order of its sequence numbers: the
successor of the last is applied and acknowledged, a duplicate dropped and acknowledged, one that comes early, or
whose page is absent, held; before it is provisioned, and after an ERASE, the package takes none (09 R242). A store
acts outside granules of guards only, and the acknowledgement tells of a refusal (04 R111); an atomic acts on its own
place as the lanes combined (04 R129); arrivals, landings and EXPECT act on their guard; a GINIT of a guard with
waiters, a ninth binding and an EADV past what is appended do nothing, and the acknowledgement tells of it. Where the
spec leaves this open, it is the model's reading: logs 5, 76. -/
def Obligations.RemoteOperationsApplyInOrder : Prop :=
  ∀ (s : State) (src seq : Nat) (o : FabOp) (i : Instr), i = .remoteArrival src seq o ∨ i = .fabricOperation src seq o →
    let last := s.lastSeq src o
    (s.up = false ∨ s.ctl.locked = true → ∃ u, exec i s = .next u ∧ u.mem = s.mem ∧ u.blocks = s.blocks ∧ u.tasks = s.tasks ∧
      u.eng = s.eng) ∧
    (s.up = true → s.ctl.locked = false → seq = seqNext last →
      (s.applyOp src o = none → ∃ u, exec i s = .next u ∧ u.mem = s.mem ∧ u.blocks = s.blocks ∧ (src, seq, o) ∈ u.eng.early) ∧
      (∀ reply t, s.applyOp src o = some (reply, t) → ∃ u, exec i s = .next u ∧ u.blocks = t.blocks ∧
        u.eng.acks = (src, o.guard?, seq, reply) :: t.eng.acks ∧ (src, seq, o) ∉ u.eng.early ∧ u.eng.running = t.eng.running) ∧
      (∀ a bs, o = .store a bs → ∃ u, exec i s = .next u ∧ u.eng.seqIn.get 0 src = seq ∧ u.blocks = s.blocks ∧
        u.mem.dev = s.mem.dev ∧
        u.eng.acks = (src, none, seq, { denied := s.guarded a bs.length }) :: s.eng.acks ∧
        (s.guarded a bs.length = false → Mem.read u.mem.slice (sliceKey a) bs.length = bs ∧
          SliceBut s u fun x => sliceKey a ≤ x ∧ x < sliceKey a + bs.length) ∧
        (s.guarded a bs.length = true → u.mem.slice = s.mem.slice)) ∧
      (∀ a cas op ty xs, o = .atomic (.slice a) cas op ty xs → s.here a = true →
        s.guarded a (if wide ty then 8 else 4) = false → s.slicePoisoned a (if wide ty then 8 else 4) = false →
        let n := if wide ty then 8 else 4
        ∃ u, exec i s = .next u ∧ u.eng.seqIn.get 0 src = seq ∧ u.blocks = s.blocks ∧
          Mem.read u.mem.slice (sliceKey a) n =
            leBytes n (combine cas op ty (s.sliceNat a n) (xs.map fun x => (0, x))).2 ∧
          SliceBut s u fun k => sliceKey a ≤ k ∧ k < sliceKey a + n) ∧
      (∀ m, o = .message m → ∃ u, exec i s = .next u ∧ u.eng.msgs = s.eng.msgs ++ [m] ∧ u.mem = s.mem) ∧
      (∀ g a n k, o = .ginit g a n k → s.slicePoisoned (g + 28) 2 = false → s.sliceNat (g + 28) 2 ≠ 0 →
        s.applyOp src o = some ({ geom := true }, s)) ∧
      (∀ g x, o = .gbind g x → s.slicePoisoned (g + 20) 4 = false →
        s.slicePoisoned (s.bindList g) (16 * min (s.bound g) 8) = false → 8 ≤ s.bound g →
        (∀ k, k < 8 → s.bindEntry g k ≠ x) → s.applyOp src o = some ({ geom := true }, s)) ∧
      (∀ ch n, o = .advance ch n → s.slicePoisoned (ch + 8) 16 = false → s.chAppended ch < n →
        s.applyOp src o = some ({ geom := true }, s)) ∧
      ∀ g n, o = .arrive g n 0 ∨ o = .landed g n 0 ∨ o = .expect g n → s.here g = true → g % 32 = 0 →
        s.slicePoisoned g 16 = false → s.slicePoisoned (g + 30) 2 = false →
        let w := sliceKey (s.windowWord g src)
        (w + 2 ≤ sliceKey g ∨ sliceKey g + 32 ≤ w) →
        ∃ u, exec i s = .next u ∧ u.blocks = s.blocks ∧ Mem.read u.mem.slice w 2 = leBytes 2 seq ∧
          (o = .arrive g n 0 → u.guard g = (s.guard g).arrive n) ∧ (o = .landed g n 0 → u.guard g = (s.guard g).land n) ∧
          (o = .expect g n → u.guard g = (s.guard g).expect n) ∧
          SliceBut s u fun k => (sliceKey g ≤ k ∧ k < sliceKey g + 32) ∨ (w ≤ k ∧ k < w + 2)) ∧
    (s.up = true → s.ctl.locked = false → seq ≠ seqNext last → (last + 2 ^ 16 - seq % 2 ^ 16) % 2 ^ 16 < 2 ^ 15 →
      ∃ u, exec i s = .next u ∧ u.mem = s.mem ∧ u.blocks = s.blocks ∧ (src, seq, o) ∉ u.eng.early ∧
        u.eng.acks = (src, o.guard?, seq, s.ackOf src seq o) :: s.eng.acks) ∧
    (s.up = true → s.ctl.locked = false → seq ≠ seqNext last → ¬ (last + 2 ^ 16 - seq % 2 ^ 16) % 2 ^ 16 < 2 ^ 15 →
      ∃ u, exec i s = .next u ∧ u.mem = s.mem ∧ u.blocks = s.blocks ∧ (src, seq, o) ∈ u.eng.early)

/-- 05 R158, R139, 04 R111, R123, 08 R224, R214: an acknowledged operation is let go: a store refused by a guarded
granule sets RIGHTS, an operation its home could not do GEOM, a commit or a RECV that waited for it goes on, a landing
is counted. A flit error is counted; a link that fails is down, and event 7 tells of it, what is unacknowledged stays;
an operation no path leads for is given up, and its block bears ABORTED. A mesh beat is retried, and a hop mapped out
after 16; the patrol scrub mends and counts a core's single errors. Where the spec leaves this open, it is the model's
reading: logs 45, 46, 76. -/
def Obligations.LinksRetryFailAndAbandon : Prop :=
  (∀ (s : State) (dst : Nat) (k : FabId), s.sentAs dst k = none →
    (∀ reply, exec (.fabricAcknowledgement dst ⟨k, reply⟩) s = .next s) ∧
    exec (.operationAbandoned dst k) s = .next s) ∧
  (∀ (s : State) (dst : Nat) (k : FabId) (x : Sent), s.sentAs dst k = some x →
    let left := s.eng.sent.erase x
    let quiet (B : Block) : Prop := ∀ K, s.tasks.find B.task = some K → K.launch.errors = 0
    let woken (B : Block) (S : Split) : Split := match S.wait with
      | .payload n =>
        if ∃ y, y ∈ left ∧ y.b = x.b ∧ y.land = none ∧ y.op.writes = true ∧ y.op.stores = true ∧ y.ent = n then S
        else { S with wait := .ready, pc := S.pc + 2 }
      | .commit n =>
        if B.buf.all (fun e => decide (n ≤ e.1)) = true ∧ B.owesBack = false ∧
            ∀ y, y ∈ left → y.b = x.b → y.land = none → y.op.writes = true → y.op.stores = true → n ≤ y.ent then
          { S with wait := .ready, pc := S.pc + 2 } else S
      | _ => S
    (∀ reply B, x.land = none → reply.poison = false → reply.tell = [] → s.blocks.find x.b = some B → quiet B → ∃ u B',
      exec (.fabricAcknowledgement dst ⟨k, reply⟩) s = .next u ∧ u.eng.sent = left ∧ u.mem = s.mem ∧
        (∀ b, b ≠ x.b → u.blocks.find b = s.blocks.find b) ∧ u.blocks.find x.b = some B' ∧
        B'.err = (if reply.denied then (B.err &&& 0xFF00#32) ||| 5#32
          else if reply.geom then (B.err &&& 0xFF00#32) ||| 0x11#32 else B.err) ∧
        { B' with err := B.err, troupes := B.troupes } = B ∧
        ∀ t e T S, B.troupes.find t = some T → T.splits.find e = some S → ∃ U, B'.troupes.find t = some U ∧
          { U with splits := T.splits } = T ∧ U.splits.find e = some (woken B S)) ∧
    (∀ reply ch q id r, x.land = some (ch, q) → reply.poison = false → reply.denied = false →
      (s.eng.running.find? fun y => y.2.chain = ch && y.2.seq = q) = some (id, r) → s.eng.running.find id = some r →
      ∃ u r', exec (.fabricAcknowledgement dst ⟨k, reply⟩) s = .next u ∧ u.eng.running.find id = some r' ∧
        r'.done = r.done + r.flight ∧ r'.flight = 0) ∧
    (s.ctl.reach.contains dst = false → x.land = none → ∀ B, s.blocks.find x.b = some B → quiet B →
      ∃ u B', exec (.operationAbandoned dst k) s = .next u ∧
        u.eng.sent = left ∧ u.blocks.find x.b = some B' ∧ B'.unreach = some dst ∧
        B'.err = ((B.err &&& 0xFF00#32) ||| BitVec.ofNat 32 (0x17 + dst % 65536 * 65536) ||| 0x2000#32) ∧ u.mem = s.mem ∧
        ∀ b, b ≠ x.b → u.blocks.find b = s.blocks.find b) ∧
    (s.ctl.reach.contains dst = true → exec (.operationAbandoned dst k) s = .next s)) ∧
  (∀ (s : State) (k : Nat) (l : Lnk), s.ctl.links.find k = some l →
    (∃ u, exec (.linkFlitError k) s = .next u ∧ u.ctl.links.find k = some { l with retries := l.retries + 1 } ∧
      u.mem = s.mem ∧ u.blocks = s.blocks ∧ u.eng = s.eng) ∧
    (l.up = false → exec (.linkFailure k) s = .next s) ∧
    (l.up = true → ∃ u, exec (.linkFailure k) s = .next u ∧ u.ctl.links.find k = some { up := false } ∧
      (∀ j, j ≠ k → u.ctl.links.find j = s.ctl.links.find j) ∧ (∃ e, e ∈ u.ctl.events ∧ e.code = 7) ∧
      (∀ p, p ∈ u.ctl.reach → p ∈ s.ctl.reach) ∧
      ((∀ j, j ∈ u.ctl.links → j.2.up = false) → u.ctl.reach = []) ∧
      u.ctl.master = (if u.ctl.reach.length + 1 = u.ctl.pods then 0 else s.ctl.master) ∧
      u.eng = s.eng ∧ u.mem.slice = s.mem.slice ∧ u.blocks = s.blocks ∧
      ((∀ p, p ∈ s.ctl.parts → p.2.cfg.status = 0) → u.mem = s.mem))) ∧
  (∀ (s : State) (core dir : Nat), ∃ u, exec (.meshBeatError core dir) s = .next u ∧ u.mem = s.mem ∧
    u.blocks = s.blocks ∧
    (s.ctl.beats.get 0 (8 * core + dir) < 16 → u.ctl.hops = s.ctl.hops ∧
      u.ctl.beats.get 0 (8 * core + dir) = s.ctl.beats.get 0 (8 * core + dir) + 1) ∧
    (16 ≤ s.ctl.beats.get 0 (8 * core + dir) → 8 * core + dir ∈ u.ctl.hops)) ∧
  ∀ (s : State) (core : Nat), ∃ u, exec (.patrolScrub core) s = .next u ∧
    (∀ k, k ∈ u.mem.flips ↔ k ∈ s.mem.flips ∧ 8 * k / 2 ^ 22 ≠ core) ∧
    (u.core core).cor = BitVec.ofNat 32 (min ((s.core core).cor.toNat +
      s.mem.flips.countP fun k => 8 * k / 2 ^ 22 = core) 0xFFFFFFFF) ∧
    u.mem.slice = s.mem.slice ∧ u.mem.slicePoison = s.mem.slicePoison ∧ u.blocks = s.blocks

/-! ## Blocks and the return to issue -/

/-- 06 R170, 01 R11, Tables 1.1, 1.2, 05 R156: a held block of a task, its partition halted or not (08 R225), is
placed on the core that has room, each compute troupe with a row in every lane, one split at the entry and zero in
every register; a block with nothing left makes its completion arrival with its flags, releases its matrix units and
is gone. 06 R180, 11 R285, 07 R205: a troupe passed over for 64 cycles is promoted; a yield ends; a split parked on a
page that has become usable issues again, for the lanes the park left unfinished only. Where the spec leaves this
open, it is the model's reading: logs 3, 36. -/
def Obligations.BlocksArePlacedEndAndReturnToIssue : Prop :=
  ((∀ (s : State) (k : Nat) (K : Task), s.tasks.find k = some K → K.bin = none → K.graph = none →
     (K.launch.blocks ≤ K.next ∨ (∀ P, s.ctl.parts.find K.part = some P → s.chooseCore P K.launch = none) →
       exec (.blockPlacement k) s = .next s) ∧
     ∀ P c, s.ctl.parts.find K.part = some P → s.chooseCore P K.launch = some c → K.launch.blocks = K.next + 1 →
       K.launch.troupes ≤ 32 → ∃ u B, exec (.blockPlacement k) s = .next u ∧
         u.blocks.find s.fresh = some B ∧ B.task = k ∧ B.id = K.next ∧ B.core = c ∧ B.buf = [] ∧ B.err = 0 ∧
         B.window = true ∧ B.gang = K.gang.isSome ∧ u.ctl.lastDie = some (dieOf c) ∧ u.tasks.find k = some { K with next := K.next + 1 } ∧ u.mem = s.mem ∧
         (∀ b, b ≠ s.fresh → u.blocks.find b = s.blocks.find b) ∧
         ∀ t, t < 64 → match B.troupes.find t with
           | none => K.launch.troupes ≤ t % 32 ∨ (32 ≤ t ∧ K.launch.shd = false)
           | some T => t % 32 < K.launch.troupes ∧ (32 ≤ t → K.launch.shd = true) ∧ T.lm = 0xFFFFFFFF#32 ∧
             T.role = (if 32 ≤ t then 1 else K.launch.role) ∧ T.regs = {} ∧ T.flt = 0 ∧ T.handler = none ∧ T.stack = [] ∧
             ∃ S, T.splits = [(0, S)] ∧ S.own = 0xFFFFFFFF#32 ∧ S.em = 0xFFFFFFFF#32 ∧ S.wait = .ready ∧
               S.pc = BitVec.ofNat 32 (if 32 ≤ t then K.launch.shadow else K.launch.entry)) ∧
   ∀ (s : State) (b : Nat) (B : Block), s.blocks.find b = some B →
     (s.ending B b = false → exec (.blockEnd b) s = .next s) ∧
     ∀ K, s.ending B b = true → (s.core B.core).cache = [] → s.tasks.find B.task = some K → K.graph = none →
       (∀ A, A ∈ s.eng.gangs → A.2.task ≠ B.task) → ∃ u, exec (.blockEnd b) s = .next u ∧ u.blocks.find b = none ∧
         (∀ k, k ≠ b → u.blocks.find k = s.blocks.find k) ∧
         u.tasks.find B.task = some { K with ended := K.ended + 1 } ∧
         (∀ c, (u.core c).mat.holder ≠ some b ∧ (u.core c).matX.holder ≠ some b) ∧ u.mem.dev = s.mem.dev ∧
         (K.guard = 0 → u.mem = s.mem) ∧
         (K.guard ≠ 0 → s.here K.guard = true → K.guard % 32 = 0 → u.guard K.guard = (s.guard K.guard).arrive 1 ∧
           BitVec.ofNat 16 (u.sliceNat (K.guard + 16) 2) =
             (BitVec.ofNat 16 (s.sliceNat (K.guard + 16) 2) ||| (B.nf &&& 0x03FF#16)) ∧
           SliceBut s u fun a => sliceKey K.guard ≤ a ∧ a < sliceKey K.guard + 32)) ∧
  (∀ (s : State) (b t e : Nat) (T : Troupe) (S : Split), s.trp? b t = some T → T.splits.find e = some S →
     (T.passed < 64 → exec (.troupePromotion b t) s = .next s) ∧
     (64 ≤ T.passed → ∃ u, exec (.troupePromotion b t) s = .next u ∧ u.trp? b t = some { T with promoted := true } ∧
       { u with blocks := s.blocks } = s) ∧
     (∃ u, exec (.yieldEnd b t) s = .next u ∧ u.trp? b t = some { T with yielded := false } ∧ { u with blocks := s.blocks } = s) ∧
     ((∀ part obj page back write lanes, S.wait ≠ .page part obj page back write lanes) →
       exec (.pageReplay b t e) s = .next s) ∧
     ∀ part obj page back write lanes, S.wait = .page part obj page back write lanes →
       (s.pageUsable b part obj page back write = false → exec (.pageReplay b t e) s = .next s) ∧
       (s.pageUsable b part obj page back write = true → ∃ u U, exec (.pageReplay b t e) s = .next u ∧
         u.trp? b t = some U ∧ U.splits.find e = some { S with wait := .ready, only := some lanes } ∧
         (∀ k, k ≠ e → U.splits.find k = T.splits.find k) ∧ { U with splits := T.splits } = T ∧
         { u with blocks := s.blocks } = s))

/-! ## Task graphs -/

/-- 06 R163, R165, R167: the first submission of a partition starts its graph, every node with its in-degree, and
those with none ready; one that breaks Table 6.1 completes with ILLEGAL, and one with S waits for the partition's
earlier graphs. A graph in which nothing runs and nothing may start is over: its tasks' guard bits are cleared, those
in other packages, and its gangs' shares there, by telling them, and its status is written. Where the spec leaves this
open, it is the model's reading: logs 33, 34, 68. -/
def Obligations.GraphsStartAndComplete : Prop :=
  (∀ (s : State) (part : Nat) (P : Part) (x : Pending), s.ctl.parts.find part = some P → P.queue.head? = some x →
    s.subReady P x.src = some true → s.ctl.locked = false →
    let wa := P.subAt x.src
    let sub := s.waNat part wa 32
    let bad : Prop := bits sub 79 64 = 0 ∨ s.ctl.parts.find (bits sub 83 80) = none ∨ bits sub 127 85 ≠ 0 ∨
      bits sub 255 160 ≠ 0 ∨ s.waRead part wa 32 = none
    (s.waAbsent part wa 32 = true → exec (.graphStart part) s = .next s) ∧
    (s.waAbsent part wa 32 = false → bad → ∃ u P', exec (.graphStart part) s = .next u ∧
      u.ctl.parts.find part = some P' ∧ P'.queue = P.queue.drop 1 ∧ u.graphs = s.graphs ∧ u.blocks = s.blocks ∧
      u.mem = ((s.popQueue part x).waWrite part (wa + 16) (leBytes 4 0x01)).mem) ∧
    (s.waAbsent part wa 32 = false → ¬ bad → bit sub 84 = true → (∃ g G, (g, G) ∈ s.graphs ∧ G.sub = part) →
      exec (.graphStart part) s = .next s) ∧
    (s.waAbsent part wa 32 = false → ¬ bad → (bit sub 84 = false ∨ ∀ g G, (g, G) ∈ s.graphs → G.sub ≠ part) →
      ∃ u P' G, exec (.graphStart part) s = .next u ∧ u.ctl.parts.find part = some P' ∧ P'.queue = P.queue.drop 1 ∧
        u.graphs.find s.fresh = some G ∧ G.nodes = bits sub 63 0 ∧ G.count = bits sub 79 64 ∧ G.part = bits sub 83 80 ∧
        G.sub = part ∧ G.running = [] ∧ G.ended = none ∧ u.mem = s.mem ∧ u.blocks = s.blocks ∧
        (∀ n, n < G.count → G.indeg.get 0 n = s.nodeNat G n 2 2) ∧
        ∀ n, n ∈ G.ready ↔ n < G.count ∧ s.nodeNat G n 2 2 = 0)) ∧
  ∀ (s : State) (g : Nat) (G : Graph), s.graphs.find g = some G →
    (G.finished = false → exec (.graphCompletion g) s = .next s) ∧
    ∀ P, G.finished = true → s.ctl.parts.find G.sub = some P → ∃ u w : State, exec (.graphCompletion g) s = .next u ∧
      u.graphs.find g = none ∧ u.blocks = s.blocks ∧
      (∀ k x, (k, x) ∈ w.mem.guards ↔ (k, x) ∈ s.mem.guards ∧ ∀ K n, s.tasks.find x = some K → K.graph ≠ some (g, n)) ∧
      { w with graphs := s.graphs, eng := s.eng, mem := { w.mem with guards := s.mem.guards } } = s ∧
      (∀ k K n p, s.tasks.find k = some K → K.graph = some (g, n) → p ∈ K.farGuards →
        ∃ x ∈ u.eng.sent, x.dst = p ∧ x.op = .cleared k) ∧
      (∀ p ∈ G.told, ∃ x ∈ u.eng.sent, x.dst = p ∧ x.op = .gang (.clear g)) ∧
      u.mem = (w.waWrite G.sub (P.subAt G.src + 16)
        (leBytes 4 ((G.ended.map fun x => x.1 + 256 * x.2).getD 0))).mem

/-- 06 R166 to R170, 04 R111: KERNEL starts its task, which sets the guard bits of the guards its table names, and
places its blocks in ascending id while there is room, or stays ready while its descriptor's page is absent; COND
takes next or alt by its word; WHILE leaves, ends at its limit, or runs its body again with its in-degrees reloaded;
ENGINE appends its entries and waits for the last. A descriptor or word that cannot serve ends the node with its code.
Where the spec leaves this open, it is the model's reading: logs 33, 34, 35, 36, 55, 67, 82. -/
def Obligations.NodesRunAndEnd : Prop :=
  ∀ (s : State) (g n : Nat) (G : Graph),
    let b := s.begin g n
    let G1 := G.started n
    let guarded (s u : State) (K : Task) : Prop :=
      { u.mem with guards := s.mem.guards } = s.mem ∧
      (∀ x k, s.mem.guards.find x = some k → u.mem.guards.find x = some k) ∧
      (∀ x, s.mem.guards.find x = none → u.mem.guards.find x = none ∨ u.mem.guards.find x = some s.fresh) ∧
      ∀ i, i < 256 →
        let c : CapReg := { bits := BitVec.ofNat 128 (s.tabEntry K i) }
        bit (s.tabEntry K i) 128 = true → c.kind = 3 → c.rights &&& 0x218#12 = 0x218#12 → s.capOwned K.part c = true →
        (s.here c.at = true → ∀ x, x ∈ unitsOf 32 (sliceKey c.at) 416 → u.mem.guards.find x ≠ none) ∧
        (s.here c.at = false → (∃ x ∈ u.eng.sent, x.dst = pkgOfSlice c.at ∧ x.op = .guardBits c.at s.fresh) ∧
          ∀ T, u.tasks.find s.fresh = some T → pkgOfSlice c.at ∈ T.farGuards)
    (Starts s g n 1 G → s.readLaunch g n G false = none → exec (.kernelNode g n) s = .next s) ∧
    (Starts s g n 1 G → ∀ code d, s.readLaunch g n G false = some (.error (code, d)) →
      ∃ u, exec (.kernelNode g n) s = .next u ∧ EndsNode b u g n G1 code d noEdge) ∧
    (Starts s g n 1 G → ∀ K, s.readLaunch g n G false = some (.ok K) → ∃ u K' H, exec (.kernelNode g n) s = .next u ∧
      u.tasks.find s.fresh = some K' ∧ { K' with next := 0, farGuards := K.farGuards } = K ∧ K'.next ≤ K.launch.blocks ∧
      (K'.next < K.launch.blocks → u.place s.fresh false = none) ∧ u.graphs.find g = some H ∧ n ∈ H.running ∧
      guarded s u K ∧ (∀ k, k ≤ s.fresh → u.blocks.find k = s.blocks.find k) ∧ ∀ j, j < K'.next → ∃ B,
        u.blocks.find (s.fresh + 1 + j) = some B ∧ B.task = s.fresh ∧ B.id = j) ∧
    (s.graphs.find g = some G → s.startable g n = true → s.kindOf G n = 0 ∨ 6 < s.kindOf G n → ∃ u d,
      exec (.kernelNode g n) s = .next u ∧ EndsNode b u g n G1 0x01 d noEdge) ∧
    (Starts s g n 2 G → (s.condWord G n = none → exec (.condNode g n) s = .next s) ∧
      (∀ k, s.condWord G n = some (.error k) → ∃ u d, exec (.condNode g n) s = .next u ∧ EndsNode b u g n G1 k d noEdge) ∧
      ∀ w, s.condWord G n = some (.ok w) → ∃ u, exec (.condNode g n) s = .next u ∧
        EndsNode b u g n G1 0 0 (if w = 0 then s.nodeAlt G n else s.nodeNext G n)) ∧
    (∀ i G2, (i = .whileNode g n ∧ Starts s g n 3 G ∧ G2 = G1) ∨
        (i = .whileIteration g n ∧ s.graphs.find g = some G ∧ s.iterated g n = true ∧ G.ended = none ∧ G2 = G) →
      let c := if i = .whileNode g n then b else s
      let limit := s.nodeNat G n 32 8
      let it := G.iters.get 0 n
      (∀ k, s.condWord G n = some (.error k) → ∃ u d, exec i s = .next u ∧ EndsNode c u g n G2 k d noEdge) ∧
      ∀ w, s.condWord G n = some (.ok w) →
        (w = 0 → ∃ u, exec i s = .next u ∧ EndsNode c u g n G2 0 0 (s.nodeAlt G n)) ∧
        (w ≠ 0 → limit ≠ 0 → limit ≤ it → ∃ u, exec i s = .next u ∧ EndsNode c u g n G2 0x17 limit noEdge) ∧
        (w ≠ 0 → limit = 0 ∨ it < limit → ∃ u H, exec i s = .next u ∧ u.graphs.find g = some H ∧ n ∈ H.loops ∧
          n ∈ H.running ∧ H.iters.get 0 n = it + 1 ∧ u.blocks = s.blocks ∧
          let x := s.nodeBody G n
          (∀ m, m ∈ s.bodyOf G n → m ≠ x → H.indeg.get 0 m = s.nodeNat G m 2 2) ∧
          (x ∈ s.bodyOf G n → x ≠ noEdge → x ∉ G.loops → G.ended = none → s.nodeNat G x 2 2 = 1 → x ∈ H.ready ∧ u.mem = s.mem))) ∧
    (s.graphs.find g = some G → s.iterated g n = false → exec (.whileIteration g n) s = .next s) ∧
    (Starts s g n 4 G → G.engines.find n = none →
      let wa := s.nodeNat G n 16 8
      let ch := bits (s.nodeNat G n 24 8) 39 0
      let k := s.nodeNat G n 32 8
      (k = 0 → ∃ u, exec (.engineNode g n) s = .next u ∧ EndsNode b u g n G1 0 0 (s.nodeNext G n)) ∧
      (0 < k → k ≤ 2 ^ 16 → s.waAbsent G.part wa (64 * k) = false → ∀ bs, s.waRead G.part wa (64 * k) = some bs →
        (s.here ch = true → s.chStatus ch % 256 ≠ 0 → ∃ u d, exec (.engineNode g n) s = .next u ∧
          EndsNode b u g n G1 (s.chStatus ch % 256) d noEdge) ∧
        (s.here ch = true → s.chStatus ch % 256 = 0 → ∃ u H xs, exec (.engineNode g n) s = .next u ∧
          u.graphs.find g = some H ∧ n ∈ H.running ∧ H.engines.find n = some (ch, u.chAppended ch) ∧
          u.blocks = s.blocks ∧ u.eng.owners = s.eng.owners ++ xs ∧ xs.length = k ∧
          ∀ o ∈ xs, o.chain = ch ∧ o.block = none ∧ o.part = G.part) ∧
        (s.here ch = false → ∃ u H xs, exec (.engineNode g n) s = .next u ∧ u.graphs.find g = some H ∧
          H.engines.find n = some (ch, k) ∧ u.eng.sent = s.eng.sent ++ xs ∧ xs.length = k ∧ u.mem = s.mem ∧
          ∀ j, j < k → ∃ x, xs[j]? = some x ∧ x.dst = pkgOfSlice ch ∧ x.op = .copied ch ((bs.drop (64 * j)).take 64))))

/-- 06 R172, R178: a GANG node places its share with its troupes held and asks the other members to, or is refused;
each member's reply is noted, the last tells every member the start tick, at which the troupes are released, and a
member without reply in 1 ms ends the node with ABORTED, its blocks given up everywhere. A share held for another
package replies when it is resident and is released at the tick it is told. A BIN node arms its bin at its home core,
or at every core. Where the spec leaves this open, it is the model's reading: logs 36, 37, 38, 63, 77, 81. -/
def Obligations.GangsAndBinsAreArmed : Prop :=
  ∀ (s : State) (g n : Nat) (G : Graph),
    let b := s.begin g n
    let G1 := G.started n
    (Starts s g n 5 G → ∀ K, s.readLaunch g n G false = some (.ok K) →
      let ms := maskPkgs (s.nodeNat G n 32 8)
      let cores := ((s.ctl.parts.find K.part).map fun P => P.cores.length).getD 0
      let small : Prop := s.ctl.pkg ∈ ms ∧ K.launch.perCore * cores < K.launch.blocks
      let image := (s.waRead G.part (s.nodeNat G n 16 8) 64).getD []
      (∀ p, ms.find? s.unsynced = some p → ∃ u, exec (.gangNode g n) s = .next u ∧ EndsNode b u g n G1 0x17 p noEdge) ∧
      (ms.find? s.unsynced = none → small → ∃ u d, exec (.gangNode g n) s = .next u ∧
        EndsNode b u g n G1 0x11 d noEdge) ∧
      (ms.find? s.unsynced = none → ¬ small → ∃ u H A, exec (.gangNode g n) s = .next u ∧ u.graphs.find g = some H ∧
        n ∈ H.running ∧ H.gangs.find n = some A ∧ A.mask = ms ∧ A.started = false ∧ A.ready = [] ∧
        A.want = s.nodeNat G n 40 8 ∧ A.began = s.ctl.clk.toNat ∧ { u.mem with guards := s.mem.guards } = s.mem ∧
        (∀ p, p ∈ ms → p ≠ s.ctl.pkg → ∃ x, x ∈ u.eng.sent ∧ x.dst = p ∧
          x.op = .gang (.ask g n G.part K.guard G.super image)) ∧
        (s.ctl.pkg ∉ ms → A.task = none ∧ u.blocks = s.blocks ∧ u.mem = s.mem) ∧
        (s.ctl.pkg ∈ ms → A.task = some s.fresh ∧ ∃ K', u.tasks.find s.fresh = some K' ∧ { K' with next := 0, farGuards := K.farGuards } = K ∧
          ∀ j, j < K'.next → ∃ B, u.blocks.find (s.fresh + 1 + j) = some B ∧ B.task = s.fresh ∧ B.id = j ∧ B.gang = true))) ∧
    (∀ A, s.graphs.find g = some G → G.gangs.find n = some A →
      (∀ p tick, p ∈ A.mask → A.started = false → p ∉ A.ready → (p = s.ctl.pkg → s.gangResident A = true) →
        let A1 := { A with
          ready := Marks.add A.ready p, latest := max A.latest (if p = s.ctl.pkg then s.ctl.clk.toNat else tick) }
        ∃ u H, exec (.gangReady g n p tick) s = .next u ∧ u.graphs.find g = some H ∧ H.gangs.find n = some A1 ∧
          { u with graphs := s.graphs, eng := s.eng } = s ∧
          (A1.mask.all A1.ready.contains = false → u.eng = s.eng) ∧
          (A1.mask.all A1.ready.contains = true → ∀ q, q ∈ A.mask → q ≠ s.ctl.pkg → ∃ x, x ∈ u.eng.sent ∧ x.dst = q ∧
            x.op = .gang (.start g n (max A1.want (A1.latest + 2000))))) ∧
      (∀ p tick, p ∉ A.mask ∨ A.started = true ∨ p ∈ A.ready → exec (.gangReady g n p tick) s = .next s) ∧
      (s.gangDue A = false → exec (.gangStartTick g n) s = .next s) ∧
      (s.gangDue A = true → A.ended = [] → A.mask ≠ [] → ∃ u H, exec (.gangStartTick g n) s = .next u ∧
        u.graphs.find g = some H ∧ H.gangs.find n = some { A with started := true } ∧ u.mem = s.mem ∧
        ∀ k B, s.blocks.find k = some B → ∃ C, u.blocks.find k = some C ∧ { C with gang := B.gang } = B ∧
          C.gang = (B.gang && decide (A.task ≠ some B.task))) ∧
      (∀ p, s.gangLate A p = false → exec (.gangTimeout g n p) s = .next s) ∧
      ∀ p, s.gangLate A p = true → ∃ u w : State, exec (.gangTimeout g n p) s = .next u ∧ EndsNode w u g n G 0x17 p noEdge ∧
        { w with blocks := s.blocks, tasks := s.tasks, eng := s.eng, mem := { w.mem with guards := s.mem.guards } } = s ∧
        (∀ x, x ∈ w.mem.guards ↔ x ∈ s.mem.guards ∧ A.task ≠ some x.2) ∧
        (∀ q, q ∈ A.mask → q ≠ s.ctl.pkg → ∃ x, x ∈ u.eng.sent ∧ x.dst = q ∧ x.op = .gang (.release g n)) ∧
        (∀ x, x ∈ w.blocks ↔ x ∈ s.blocks ∧ A.task ≠ some x.2.task) ∧
        ∀ x, x ∈ w.tasks ↔ x ∈ s.tasks ∧ A.task ≠ some x.1) ∧
    (∀ id A, (s.graphs.find id).bind (fun G => G.gangs.find n) = none → s.eng.gangs.find id = some A →
      (∀ p tick, (s.shareReady A = false → exec (.gangReady id n p tick) s = .next s) ∧
        (s.shareReady A = true → ∃ u x, exec (.gangReady id n p tick) s = .next u ∧
          u.eng.gangs.find id = some { A with replied := true } ∧ x ∈ u.eng.sent ∧ x.dst = A.src ∧
          x.op = .gang (.ready A.g A.n s.ctl.clk.toNat) ∧ u.blocks = s.blocks ∧ u.mem = s.mem)) ∧
      (s.shareDue A = false → exec (.gangStartTick id n) s = .next s) ∧
      (s.shareDue A = true → ∃ u, exec (.gangStartTick id n) s = .next u ∧ u.mem = s.mem ∧
        u.eng.gangs.find id = some { A with start := none } ∧ ∀ k B, s.blocks.find k = some B → ∃ C,
          u.blocks.find k = some C ∧ { C with gang := B.gang } = B ∧ C.gang = (B.gang && decide (B.task ≠ A.task)))) ∧
    (Starts s g n 6 G → ∀ K, s.readLaunch g n G true = some (.ok K) →
      let w := s.nodeNat G n 32 4
      let bin := bits w 3 0
      let home := bits w 26 16
      let count := s.nodeNat G n 36 4
      let all := ((s.ctl.parts.find G.part).map Part.cores).getD []
      let cores := if bit w 4 then all else [home]
      let ring := s.nodeNat G n 48 8
      let cap := if ring = 0 then 0 else s.nodeNat G n 56 4
      let taken := cores.any fun c => (s.bin c bin).isSome
      let bad : Prop := count = 0 ∨ 32 * K.launch.troupes < count
      (home ∉ all → ∃ u, exec (.binNode g n) s = .next u ∧ EndsNode b u g n G1 0x11 7 noEdge) ∧
      (home ∈ all → taken = true → ∃ u, exec (.binNode g n) s = .next u ∧ EndsNode b u g n G1 0x11 4 noEdge) ∧
      (home ∈ all → taken = false → bad → ∃ u, exec (.binNode g n) s = .next u ∧ EndsNode b u g n G1 0x11 5 noEdge) ∧
      (home ∈ all → taken = false → ¬ bad → ∃ u H, exec (.binNode g n) s = .next u ∧ u.graphs.find g = some H ∧
        n ∈ H.running ∧ u.blocks = s.blocks ∧
        (∃ K', u.tasks.find s.fresh = some K' ∧ { K' with farGuards := K.farGuards } = { K with bin := some bin }) ∧
        { u.mem with guards := s.mem.guards } = s.mem ∧
        ∀ j c, cores[j]? = some c → ∃ x, u.bin c bin = some x ∧ x.task = s.fresh ∧ x.home = home ∧ x.count = count ∧
          x.timer = s.nodeNat G n 40 4 ∧ x.held = [] ∧ x.ringCap = cap ∧ x.ring = ring + 32 * cap * j))

/-! ## Host and Dycor -/

/-- 09 R238, R239, 08 R225 to R232, 07 R192: a management command outside a session fails with status 3 and a NOTE;
one on a partition a HALT alarm halted is refused; the others are carried out and answered: PARTITION forms a
partition and clears what changes hands, KEYSET loads or zeroises a key slot, PREEMPT halts and RESUME lets go on,
SWAP exchanges contexts, CAP and LINK set what they name, DEBUG and the step command stop, step and release troupes;
one whose splits have all come to park at a MEET meanwhile faults TOKEN, cause 3, as it goes on (01 R31). Before
bring-up is over no command is taken (09 R242). Where the spec leaves this open, it is the model's reading: logs 40,
41, 42, 50, 72, 78. -/
def Obligations.ManagementCommandsAnswer : Prop :=
  ∀ s : State,
    let answers (i : Instr) (status : Nat) (post : State → Prop) : Prop :=
      ∃ u, exec i s = .next u ∧ u.ctl.replies = status :: s.ctl.replies ∧ post u
    let of (b p : Nat) : Prop := ∃ B K, s.blocks.find b = some B ∧ s.tasks.find B.task = some K ∧ K.part = p
    (∀ (i : Instr) (ses : Bool) (p : Option Nat),
      (∃ c, i = .partition ses c ∧ p = some c.part) ∨ (∃ part k key, i = .keyset ses part k key ∧ p = some part) ∨
        (∃ part, (i = .preempt ses part ∨ i = .swap ses part ∨ i = .resume ses part) ∧ p = some part) ∨
        (∃ w, i = .capCmd ses w ∧ p = none) ∨ (∃ k, i = .linkCmd ses k ∧ p = none) ∨
        (∃ part o, i = .debugCmd ses part o ∧ p = some part) ∨
        (∃ b t e, i = .stepCommand ses b t e ∧ p = s.partOfBlock b) →
      (s.up = false → exec i s = .next s) ∧
      (s.up = true → ses = false ∨ s.ctl.session = false → answers i 3 fun u => u.blocks = s.blocks ∧ u.mem.slice = s.mem.slice ∧
        u.ctl.alarm = max s.ctl.alarm 1 ∧ ∃ e, e ∈ u.ctl.events ∧ e.code = 6 ∧ e.detail = 1) ∧
      ((∀ part, i ≠ .resume ses part) → s.up = true → ses = true → s.ctl.session = true → ∀ k P, p = some k →
        s.ctl.parts.find k = some P → P.alarmed = true → exec i s = .next (s.reply 1))) ∧
    (s.up = true → s.ctl.session = true →
      (∀ w, answers (.capCmd true w) (if w < 1200 ∨ 2900 < w then 1 else 0) fun u => u.blocks = s.blocks ∧
        u.ctl.cap = if w < 1200 ∨ 2900 < w then s.ctl.cap else w) ∧
      (∀ k, (s.ctl.links.find k = none → exec (.linkCmd true k) s = .next (s.reply 1)) ∧
        ∀ l, s.ctl.links.find k = some l → answers (.linkCmd true k) 0 fun u => u.blocks = s.blocks ∧
          u.ctl.links.find k = some { up := true } ∧
          u.ctl.master = if u.ctl.reach.length + 1 = u.ctl.pods then 0 else s.ctl.master) ∧
      (∀ part, (s.ctl.parts.find part = none → exec (.resume true part) s = .next (s.reply 1)) ∧
        ∀ P, s.ctl.parts.find part = some P →
          (P.alarmed = true → s.ctl.attested = false → exec (.resume true part) s = .next (s.reply 1)) ∧
          (P.alarmed = false ∨ s.ctl.attested = true → answers (.resume true part) 0 fun u => u.blocks = s.blocks ∧
            u.mem = s.mem ∧ u.ctl.parts.find part = some { P with halted := false, alarmed := false })) ∧
      (∀ c : PartCfg, (∀ P, s.ctl.parts.find c.part = some P → P.alarmed = false) →
        ((s.changed c).any s.resident = true → exec (.partition true c) s = .next (s.reply 2)) ∧
        ((s.changed c).any s.resident = false → s.cfgBad c = true → exec (.partition true c) s = .next (s.reply 1)) ∧
        ((s.changed c).any s.resident = false → s.cfgBad c = false → answers (.partition true c) 0 fun u =>
          u.blocks = s.blocks ∧ u.tasks = s.tasks ∧ u.ctl.locked = false ∧
          u.ctl.alarm = (if s.ctl.locked then 0 else s.ctl.alarm) ∧
          (∃ P, u.ctl.parts.find c.part = some P ∧ P.cfg = c ∧ P.queue = [] ∧ P.tailU = 0 ∧ P.tailS = 0) ∧
          (∀ p P, p ≠ c.part → s.ctl.parts.find p = some P → u.ctl.parts.find p = some { P with cfg := { P.cfg with
            quads := P.cfg.quads.filter fun q => !c.quads.contains q
            slots := P.cfg.slots.filter fun k => !c.slots.contains k } }) ∧
          (∀ k, k ∈ c.slots → (∀ P, s.ctl.parts.find c.part = some P → k ∉ P.cfg.slots) →
            u.ctl.keySlots.find k = none) ∧
          ∀ k, k < 1344 →
            (if c.quads.contains (quadOf k) then some c.part else if s.partOf k = some c.part then none
              else s.partOf k) ≠ s.partOf k → u.core k = {} ∧
            ∀ a, a / 2 ^ 22 = k → a < sliceKey c.chain ∨ sliceKey c.chain + 64 ≤ a → Tab.get 0#8 u.mem.slice a = 0)) ∧
      ∀ part P, s.ctl.parts.find part = some P → P.alarmed = false →
        (∀ k key, k ∉ P.cfg.slots → exec (.keyset true part k key) s = .next (s.reply 1)) ∧
        (∀ k key, k ∈ P.cfg.slots → answers (.keyset true part k key) 0 fun u => u.blocks = s.blocks ∧
          u.ctl.keySlots.find k = key ∧ (∀ j, j ≠ k → u.ctl.keySlots.find j = s.ctl.keySlots.find j) ∧
          (key = none → u.ctl.locked = s.ctl.locked ∧ u.ctl.alarm = s.ctl.alarm) ∧
          (key ≠ none → u.ctl.locked = false ∧ u.ctl.alarm = if s.ctl.locked then 0 else s.ctl.alarm)) ∧
        (P.halted = true → exec (.preempt true part) s = .next (s.reply 0)) ∧
        (P.halted = false → ∃ u, exec (.preempt true part) s = .next u ∧ u.ctl.replies = s.ctl.replies ∧
          u.ctl.parts.find part = some { P with halting := true } ∧ u.blocks = s.blocks ∧ u.mem = s.mem) ∧
        (P.halted = false → exec (.swap true part) s = .next (s.reply 1)) ∧
        (P.halted = true → (∀ k, k ∈ P.cores → (s.core k).mat.tiles = []) →
          (∀ b B, s.blocks.find b = some B → B.ctxFlips = [] ∧ B.ctxPoison = []) → answers (.swap true part) 0 fun u =>
          u.mem = s.mem ∧
          (∀ k, k ∈ P.cores → (u.core k).matX = (s.core k).mat ∧ (u.core k).cwp = (s.core k).cwpX ∧
            (u.core k).cwpX = (s.core k).cwp ∧ (u.core k).mat.tiles = (s.core k).matX.tiles ∧
            (u.core k).mat.holder = (s.core k).matX.holder ∧ (u.core k).mat.partials = (s.core k).matX.partials ∧
            (u.core k).mat.queue = (s.core k).matX.queue) ∧
          ∀ b B, s.blocks.find b = some B → u.blocks.find b = some { B with
            swapped := if B.core ∈ P.cores then !B.swapped else B.swapped }) ∧
        (answers (.debugCmd true part (.gate true)) 0 fun u => u.blocks = s.blocks ∧
          u.ctl.parts.find part = some { P with gate := true }) ∧
        (answers (.debugCmd true part (.gate false)) 0 fun u => u.ctl.parts.find part = some { P with gate := false } ∧
          ∀ b t T, of b part → u.trp? b t = some T → T.stopped = false ∧ T.stepping = none) ∧
        (∀ b t, (P.gate = false ∨ s.trp? b t = none ∨ ¬ of b part →
            exec (.debugCmd true part (.stop b t)) s = .next (s.reply 1) ∧
            exec (.debugCmd true part (.go b t)) s = .next (s.reply 1)) ∧
          ∀ T, P.gate = true → s.trp? b t = some T → of b part →
            (answers (.debugCmd true part (.stop b t)) 0 fun u => ∃ U, u.trp? b t = some U ∧ U.stopped = true ∧
              U.run = none ∧ (T.run = none → { U with stopped := T.stopped } = T)) ∧
            (∀ B K, s.blocks.find b = some B → s.tasks.find B.task = some K → T.lm ≠ 0 → T.youngest = none →
              (T.handler = none → T.held = []) →
              (∀ I, B.inst = some I ∨ T.inst = some I → ∀ p ∈ I.members, p.1 = t → p.2 &&& T.lm = p.2) →
              let G := { T with stopped := false, stepping := none }
              (B.stopBit = false → G.stuck = false →
                answers (.debugCmd true part (.go b t)) 0 fun u => u.trp? b t = some G) ∧
              (B.stopBit = false → G.stuck = true → T.handler = none → T.run = none → K.launch.trp = true → ∀ e S k,
                G.youngestSplit (fun _ => true) = some e → G.splits.find e = some S → S.wait = .meet k →
                answers (.debugCmd true part (.go b t)) 0 fun u => ∃ U X, u.trp? b t = some U ∧
                  U.flt = fltWord ⟨0x09, 0, k + 24, S.pc⟩ e ∧ U.splits.find e = some X ∧ X.wait = .ready ∧
                  X.pc = BitVec.ofNat 32 K.launch.trap) ∧
              (B.stopBit = true → answers (.debugCmd true part (.go b t)) 0 fun u => ∀ j U, u.trp? b j = some U →
                U.stopped = false ∧ U.stepping = none)) ∧
            ∀ e, (T.stopped = false ∨ T.splits.find e = none → exec (.stepCommand true b t e) s = .next (s.reply 1)) ∧
              (T.stopped = true → T.splits.find e ≠ none → answers (.stepCommand true b t e) 0 fun u =>
                u.trp? b t = some { T with stepping := some e } ∧ u.mem = s.mem)) ∧
        ∀ b on, (P.gate = false ∨ ¬ of b part → exec (.debugCmd true part (.blockStop b on)) s = .next (s.reply 1)) ∧
          ∀ B, P.gate = true → of b part → s.blocks.find b = some B →
            answers (.debugCmd true part (.blockStop b on)) 0 fun u => u.blocks.find b = some { B with stopBit := on }) ∧
    ∀ part P, s.ctl.parts.find part = some P →
      (P.halting = false → exec (.preemptHaltComplete part) s = .next s) ∧
      (P.halting = true → answers (.preemptHaltComplete part) 0 fun u => ∃ Q, u.ctl.parts.find part = some Q ∧
        Q.halted = true ∧ Q.halting = false ∧ Q.cfg = P.cfg) ∧
      (P.halting = true → (∀ c, s.partOf c = some part → (s.core c).mat.queue = []) →
        answers (.preemptHaltComplete part) 0 fun u => u.mem = s.mem ∧
        u.ctl.parts.find part = some { P with halted := true, halting := false } ∧
        ∀ b t T r, of b part → s.trp? b t = some T → T.run = some r → ∃ U, u.trp? b t = some U ∧ U.run = none ∧
          U.regs = { r.saved with nf := T.regs.nf } ∧ U.poison = r.poison ∧ U.flips = r.flips ∧ U.splits.find r.e = (T.splits.find r.e).map fun S => { S with pc := r.first })

/-- 07 R212, R213, 09 R234: an event record is numbered and written whole to the ring of its partition, or to Dycor's;
a doorbell passes its new entries to the Parser in order, or sets E; a security alarm is kept and posted, HALT halts
the partition, and ERASE leaves no key, no slice byte and no context. Where the spec leaves this open, it is the
model's reading: logs 39, 40, 42, 78. -/
def Obligations.EventsDoorbellsAndAlarms : Prop :=
  (∀ (s : State) (src : Nat) (e : Event), (s.ctl.events.find? fun e => e.src = src) = some e →
    let bs := leBytes 8 s.ctl.evSeq.toNat ++ leBytes 8 e.time.toNat ++
      leBytes 8 (e.code % 256 + e.unit % 2 ^ 11 * 2 ^ 8 + e.part % 32 * 2 ^ 19) ++ leBytes 8 e.detail
    (s.eventRoom e = false → exec (.eventRecord src) s = .next s) ∧
    (s.eventRoom e = true → ∃ u, exec (.eventRecord src) s = .next u ∧ u.ctl.evSeq = s.ctl.evSeq + 1 ∧
      u.ctl.events = s.ctl.events.erase e ∧ u.blocks = s.blocks ∧
      (e.package = true → u.ctl.dycorRing = s.ctl.dycorRing ++ [bs] ∧ u.mem = s.mem) ∧
      ∀ P, e.package = false → s.ctl.parts.find e.part = some P → u.ctl.dycorRing = s.ctl.dycorRing ∧
        u.ctl.parts.find e.part = some { P with evFill := P.evFill + 1 } ∧
        u.mem = (State.waWrite { s with ctl := { s.ctl with events := s.ctl.events.erase e, evSeq := s.ctl.evSeq + 1 } }
          e.part (P.cfg.events + 32 * (P.evFill % max P.cfg.eventCap 1)) bs).mem)) ∧
  (∀ (s : State) (part : Nat) (P : Part) (v : DWord), s.ctl.parts.find part = some P →
    let n := v.setWidth 32
    let rings (sup : Bool) (tail head : Word) (base len : Nat) (upd : Word → Bool → Part → Part) : Prop :=
      (s.up = false ∨ n = tail → exec (.doorbellWrite part sup v) s = .next s) ∧
      (s.up = true → n ≠ tail →
        let bad : Prop := base = 0 ∨ s.ctl.locked = true ∨ (n - head).toNat < (tail - head).toNat ∨
          len < (n - head).toNat
        (bad → ∃ u, exec (.doorbellWrite part sup v) s = .next u ∧ u.ctl.parts.find part = some (upd tail true P) ∧
          { u with ctl := s.ctl } = s) ∧
        (¬ bad → ∃ u, exec (.doorbellWrite part sup v) s = .next u ∧
          u.ctl.parts.find part = some (upd n false { P with queue := P.queue ++
            ((List.range (n - tail).toNat).map fun i => ⟨.ring sup (tail.toNat + i), part, sup⟩) }) ∧
          { u with ctl := s.ctl } = s))
    rings true P.tailS P.headS P.cfg.super P.cfg.lenS (fun n e P => { P with tailS := n, errS := e }) ∧
    rings false P.tailU P.headU P.cfg.user P.cfg.lenU (fun n e P => { P with tailU := n, errU := e })) ∧
  ∀ (s : State) (part : Nat),
    let raised (l : AlarmLevel) (k : Nat) (post : State → Prop) : Prop :=
      ∃ u, exec (.securityAlarm l part) s = .next u ∧ (∃ e, e ∈ u.ctl.events ∧ e.code = 6 ∧ e.detail = k) ∧
        u.ctl.alarm = max s.ctl.alarm k ∧ post u
    (raised .note 1 fun u => u.blocks = s.blocks ∧ u.mem.slice = s.mem.slice) ∧
    (raised .halt 2 fun u =>
      ((∀ c, s.partOf c = some part → (s.core c).mat.queue = []) → u.mem.slice = s.mem.slice) ∧ ∀ P, s.ctl.parts.find part = some P → ∃ Q,
      u.ctl.parts.find part = some Q ∧ Q.halted = true ∧ Q.alarmed = true ∧ Q.cfg = P.cfg) ∧
    raised .erase 3 fun u => u.ctl.keySlots = [] ∧ u.mem.slice = [] ∧ u.blocks = [] ∧ u.cores = [] ∧ u.tasks = [] ∧
      u.ctl.locked = true ∧ u.ctl.stage = 5 ∧ ∀ p P, u.ctl.parts.find p = some P → P.halted = true ∧ P.alarmed = true

/-- 09 R237, R238, R240, R242: SPDM requests are answered in their order and FINISH opens the session; one out of
order or that fails raises NOTE; the clock is stepped forward or slewed, never back, and one that is ahead stands as
it is until the next exchange; the next lowest-numbered package takes over as time master; a clock step is 0 to 8;
bring-up runs through five stages, and one that fails stops it. The bring-up values are the model's constants
(notes/assumptions/4.md). Where the spec leaves this open, it is the model's reading: logs 4, 43, 44, 69, 78, 80. -/
def Obligations.SessionsClockPowerAndBringup : Prop :=
  ∀ s : State,
    let since := s.ctl.spdm.filter (· ≠ 0)
    let done := since.takeWhile (· ≠ 1)
    let answered (i : Instr) (k : Nat) (ses : Bool) : Prop := ∃ u, exec i s = .next u ∧
      u.ctl.spdm = k :: s.ctl.spdm ∧ u.ctl.session = ses ∧ u.blocks = s.blocks ∧ u.mem = s.mem
    let failed (i : Instr) : Prop := ∃ u, exec i s = .next u ∧ u.ctl.session = s.ctl.session ∧
      u.ctl.alarm = max s.ctl.alarm 1 ∧ (∃ e, e ∈ u.ctl.events ∧ e.code = 6 ∧ e.detail = 1) ∧ u.blocks = s.blocks
    let request (i : Bool → Instr) (k : Nat) (ready : Prop) (ses : Bool) : Prop :=
      (s.up = false → ∀ ok, exec (i ok) s = .next s) ∧
      (s.up = true → (ready → answered (i true) k ses) ∧ (¬ ready → failed (i true)) ∧ failed (i false))
    let open' := s.ctl.session
    (request .getVersion 1 True false ∧ request .getCapabilities 2 (since.head? = some 1) open' ∧
      request .negotiateAlgorithms 3 (since.head? = some 2) open' ∧ request .getDigests 4 (3 ∈ done) open' ∧
      request .getCertificate 5 (3 ∈ done) open' ∧ request .challenge 6 (3 ∈ done) open' ∧
      request .getMeasurements 7 (3 ∈ done) open' ∧ request .keyExchange 8 (3 ∈ done) open' ∧
      request .finish 9 (done.head? = some 8 ∧ 3 ∈ done) true) ∧
    (∀ o : Int,
      let master := s.ctl.master = s.ctl.pkg ∨ s.ctl.reach.contains s.ctl.master = true
      let may : Int := ((s.ctl.clk - s.ctl.synced).toNat / 1000 : Nat)
      let fwd : Int := if 0 ≤ o then 0 else if s.ctl.lost then -o else min (-o) may
      (s.ctl.stage < 5 ∨ ¬ master → exec (.clockSync o) s = .next s) ∧
      (5 ≤ s.ctl.stage → master → ∃ u, exec (.clockSync o) s = .next u ∧ u.blocks = s.blocks ∧
        u.ctl.clk = s.ctl.clk + BitVec.ofInt 64 fwd ∧ u.ctl.synced = u.ctl.clk ∧ u.ctl.lost = false ∧
        u.ctl.offset = o + fwd ∧
        u.ctl.sync = (decide (-20 ≤ u.ctl.offset) && decide (u.ctl.offset ≤ 20)))) ∧
    (∀ p, let next := (List.range s.ctl.pods).find? fun q =>
        decide (s.ctl.master < q) && (q = s.ctl.pkg || s.ctl.reach.contains q)
      (next = some p → ∃ u, exec (.timeMasterTakeover p) s = .next u ∧ u = { s with ctl := { s.ctl with master := p } }) ∧
      (next ≠ some p → exec (.timeMasterTakeover p) s = .next s)) ∧
    (∀ n w, (8 < n → exec (.powerStep n w) s = .next s) ∧ (n ≤ 8 → ∃ u, exec (.powerStep n w) s = .next u ∧
      u.ctl.step = n ∧ u.ctl.power = w ∧ u.blocks = s.blocks ∧ u.mem.slice = s.mem.slice)) ∧
    (s.ctl.stage ≠ 0 → exec .powerGood s = .next s) ∧
    (s.ctl.stage = 0 → ∃ u, exec .powerGood s = .next u ∧ u = { s with ctl := { s.ctl with stage := 1 } }) ∧
    (∀ cause, (s.ctl.failed.isSome = true ∨ s.ctl.stage = 0 ∨ 5 < s.ctl.stage → exec (.bringupStageEnd cause) s = .next s) ∧
      (s.ctl.failed = none → 1 ≤ s.ctl.stage → s.ctl.stage ≤ 5 → ∃ u, exec (.bringupStageEnd cause) s = .next u ∧
        (cause ≠ 0 → u.ctl.failed = some (s.ctl.stage, cause) ∧ u.ctl.stage = s.ctl.stage) ∧
        (cause = 0 → u.ctl.failed = none ∧ u.ctl.stage = s.ctl.stage + 1 ∧
          (s.ctl.stage = 2 → u.mem.slice = [] ∧ u.mem.guards = [] ∧ u.cores = []) ∧
          (s.ctl.stage = 4 → u.ctl.sync = true ∧ u.ctl.offset = 0 ∧ u.ctl.lost = false) ∧
          (s.ctl.stage = 5 → ∃ P, u.ctl.parts = [(0, P)] ∧ P.cfg.quads = List.range 336 ∧ P.cfg.slots = [] ∧
            P.halted = false ∧ u.ctl.locked = true))))
end

