-- ==== Sys2Proof/Laws/Tab.lean ====
section
/-! SUPPORT. Sparse tables: what each operation reads as, and that the writing ones keep the canonical form. The reading
laws hold of every list of pairs; only the canonical form needs rising keys. -/
namespace Sys2Proof

variable {α : Type}

/-! ## Reading after a change -/

@[simp] theorem Tab.find_nil (i : Nat) : Tab.find ([] : Tab α) i = none := rfl
@[simp] theorem Tab.get_nil (d : α) (i : Nat) : Tab.get d ([] : Tab α) i = d := rfl

theorem Tab.find_cons (k : Nat) (v : α) (r : Tab α) (i : Nat) :
    Tab.find ((k, v) :: r) i = if i = k then some v else Tab.find r i := rfl

/-- `get` is `find` with a default. -/
theorem Tab.get_eq (d : α) (t : Tab α) (i : Nat) : t.get d i = (t.find i).getD d := by
  induction t with
  | nil => rfl
  | cons p r ih => rw [Tab.get, Tab.find]; split <;> simp_all

theorem Tab.find_put (t : Tab α) (i : Nat) (v : α) (j : Nat) :
    (t.put i v).find j = if j = i then some v else t.find j := by
  induction t with
  | nil => simp [Tab.put, Tab.find]
  | cons p r ih =>
    obtain ⟨k, w⟩ := p
    rw [Tab.put]
    split
    · simp [Tab.find]
    · split
      · subst_vars; simp [Tab.find]; split <;> simp_all
      · simp only [Tab.find, ih]
        split <;> split <;> simp_all

@[simp] theorem Tab.find_put_same (t : Tab α) (i : Nat) (v : α) : (t.put i v).find i = some v := by
  simp [Tab.find_put]

theorem Tab.find_put_other (t : Tab α) {i j : Nat} (v : α) (h : j ≠ i) : (t.put i v).find j = t.find j := by
  simp [Tab.find_put, h]

theorem Tab.find_filter (t : Tab α) (p : Nat → Bool) (j : Nat) :
    Tab.find (t.filter fun x => p x.1) j = if p j then t.find j else none := by
  induction t with
  | nil => simp
  | cons x r ih =>
    obtain ⟨k, w⟩ := x
    simp only [List.filter_cons, Tab.find_cons]
    by_cases hk : p k = true <;> by_cases hj : j = k <;> simp_all [Tab.find_cons]

theorem Tab.find_del (t : Tab α) (i j : Nat) : (t.del i).find j = if j = i then none else t.find j := by
  have := Tab.find_filter t (fun k => !(k == i)) j
  rw [Tab.del, this]
  by_cases h : j = i <;> simp [h]

theorem Tab.find_mod (t : Tab α) (i : Nat) (f : α → α) (j : Nat) :
    (t.mod i f).find j = if j = i then (t.find j).map f else t.find j := by
  induction t with
  | nil => simp [Tab.mod]
  | cons x r ih =>
    obtain ⟨k, w⟩ := x
    rw [Tab.mod] at ih ⊢
    simp only [List.map_cons, Tab.find_cons]
    have hki : k ≠ i → i ≠ k := Ne.symm
    by_cases hk : k = i <;> by_cases hj : j = k <;> simp_all [Tab.find_cons]

@[simp] theorem Tab.find_mod_same (t : Tab α) (i : Nat) (f : α → α) : (t.mod i f).find i = (t.find i).map f := by
  simp [Tab.find_mod]

theorem Tab.find_mod_other (t : Tab α) {i j : Nat} (f : α → α) (h : j ≠ i) : (t.mod i f).find j = t.find j := by
  simp [Tab.find_mod, h]

@[simp] theorem Tab.mod_id (t : Tab α) (i : Nat) : (t.mod i fun x => x) = t := by
  induction t with
  | nil => rfl
  | cons x r ih => simp only [Tab.mod, List.map_cons] at ih ⊢; rw [ih]; split <;> rfl

theorem Tab.mod_mod (t : Tab α) (i : Nat) (f g : α → α) : (t.mod i f).mod i g = t.mod i (g ∘ f) := by
  induction t with
  | nil => rfl
  | cons x r ih =>
    simp only [Tab.mod, List.map_cons] at ih ⊢
    rw [ih]
    by_cases h : x.1 = i <;> simp [h]

/-- Changes that agree at the value held are one. -/
theorem Tab.mod_congr_find (t : Tab α) (i : Nat) (f g : α → α) (h : ∀ x, (i, x) ∈ t → f x = g x) : t.mod i f = t.mod i g := by
  apply List.map_congr_left
  intro p hp
  by_cases hk : p.1 = i
  · simp only [hk, if_true]; rw [h p.2 (by rw [← hk]; exact hp)]
  · simp [hk]

theorem Tab.get_put (d : α) (t : Tab α) (i : Nat) (v : α) (j : Nat) :
    (t.put i v).get d j = if j = i then v else t.get d j := by
  simp only [Tab.get_eq, Tab.find_put]; split <;> simp

theorem Tab.get_del (d : α) (t : Tab α) (i j : Nat) : (t.del i).get d j = if j = i then d else t.get d j := by
  simp only [Tab.get_eq, Tab.find_del]; split <;> simp

/-- Read after write, and every other place as before. -/
theorem Tab.get_set [DecidableEq α] (d : α) (t : Tab α) (i : Nat) (v : α) (j : Nat) :
    (t.set d i v).get d j = if j = i then v else t.get d j := by
  rw [Tab.set]
  split
  · rw [Tab.get_del]; split <;> simp_all
  · rw [Tab.get_put]

@[simp] theorem Tab.get_set_same [DecidableEq α] (d : α) (t : Tab α) (i : Nat) (v : α) : (t.set d i v).get d i = v := by
  simp [Tab.get_set]

theorem Tab.get_set_other [DecidableEq α] (d : α) (t : Tab α) {i j : Nat} (v : α) (h : j ≠ i) :
    (t.set d i v).get d j = t.get d j := by
  simp [Tab.get_set, h]

/-! ## The canonical form -/

/-- Every key of a list of pairs lies above `n`. -/
def Tab.above (n : Nat) (t : Tab α) : Prop := ∀ p ∈ t, n < p.1

theorem Tab.wf_cons [DecidableEq α] (d : α) (k : Nat) (v : α) (r : Tab α) :
    Tab.wf d ((k, v) :: r) = true ↔ v ≠ d ∧ Tab.above k r ∧ Tab.wf d r = true := by
  induction r generalizing k v with
  | nil => simp [Tab.wf, Tab.above]
  | cons x r ih =>
    obtain ⟨k', v'⟩ := x
    rw [Tab.wf]
    simp only [Bool.and_eq_true, decide_eq_true_eq, ih, Tab.above, List.mem_cons]
    constructor
    · rintro ⟨⟨hk, hv⟩, hw⟩
      refine ⟨hv, ?_, hw⟩
      rintro p (rfl | hp)
      · exact hk
      · exact Nat.lt_trans hk (hw.2.1 p hp)
    · rintro ⟨hv, ha, hw⟩
      exact ⟨⟨ha _ (.inl rfl), hv⟩, hw⟩

theorem Tab.above_put (n : Nat) (t : Tab α) (i : Nat) (v : α) (h : Tab.above n t) (hi : n < i) : Tab.above n (t.put i v) := by
  induction t with
  | nil => simpa [Tab.put, Tab.above] using hi
  | cons x r ih =>
    obtain ⟨k, w⟩ := x
    have hr : Tab.above n r := fun p hp => h p (List.mem_cons_of_mem _ hp)
    have hk : n < k := h (k, w) (List.mem_cons_self ..)
    rw [Tab.put]
    split
    · intro p hp
      rcases List.mem_cons.1 hp with rfl | hp
      · exact hi
      · exact h p hp
    · split
      · intro p hp
        rcases List.mem_cons.1 hp with rfl | hp
        · exact hi
        · exact hr p hp
      · intro p hp
        rcases List.mem_cons.1 hp with rfl | hp
        · exact hk
        · exact ih hr p hp

theorem Tab.wf_put [DecidableEq α] (d : α) (t : Tab α) (i : Nat) (v : α) (h : Tab.wf d t = true) (hv : v ≠ d) :
    Tab.wf d (t.put i v) = true := by
  induction t with
  | nil => simpa [Tab.put, Tab.wf] using hv
  | cons x r ih =>
    obtain ⟨k, w⟩ := x
    obtain ⟨hw, ha, hr⟩ := (Tab.wf_cons d k w r).1 h
    rw [Tab.put]
    split
    case isTrue hlt =>
      refine (Tab.wf_cons ..).2 ⟨hv, ?_, h⟩
      intro p hp
      rcases List.mem_cons.1 hp with rfl | hp
      · exact hlt
      · exact Nat.lt_trans hlt (ha p hp)
    case isFalse hge =>
      split
      · subst_vars; exact (Tab.wf_cons ..).2 ⟨hv, ha, hr⟩
      · exact (Tab.wf_cons ..).2 ⟨hw, Tab.above_put k r i v ha (by omega), ih hr⟩

/-- Taking entries out keeps the canonical form. -/
theorem Tab.wf_filter [DecidableEq α] (d : α) (t : Tab α) (p : Nat × α → Bool) (h : Tab.wf d t = true) :
    Tab.wf d (t.filter p) = true := by
  induction t with
  | nil => rfl
  | cons x r ih =>
    obtain ⟨k, w⟩ := x
    obtain ⟨hw, ha, hr⟩ := (Tab.wf_cons d k w r).1 h
    rw [List.filter_cons]
    split
    · exact (Tab.wf_cons ..).2 ⟨hw, fun q hq => ha q (List.mem_of_mem_filter hq), ih hr⟩
    · exact ih hr

theorem Tab.wf_set [DecidableEq α] (d : α) (t : Tab α) (i : Nat) (v : α) (h : Tab.wf d t = true) :
    Tab.wf d (t.set d i v) = true := by
  rw [Tab.set]
  split
  · exact Tab.wf_filter d t _ h
  · exact Tab.wf_put d t i v h ‹_›

/-! ## Columns -/

@[simp] theorem Lanes.get_of (d : α) (f : Nat → α) (l : Nat) (h : l < 32) : (Lanes.of f).get d l = f l := by
  simp [Lanes.of, Lanes.get, lanes32, List.getD, h]

end Sys2Proof
end

