-- ==== Sys2Proof/Laws/State.lean ====
section
/-! SUPPORT. What each change of the state leaves as it was, and the one field it changes: one lemma per field per
change, so that no proof unfolds a record update. -/
namespace Sys2Proof.Machine

/-! ### `State.modBlk` -/

@[simp] theorem State.modBlk_cur (s : State) (b : Nat) (f : Block → Block) : (s.modBlk b f).cur = s.cur := rfl
@[simp] theorem State.modBlk_tick (s : State) (b : Nat) (f : Block → Block) : (s.modBlk b f).tick = s.tick := rfl
@[simp] theorem State.modBlk_fresh (s : State) (b : Nat) (f : Block → Block) : (s.modBlk b f).fresh = s.fresh := rfl
@[simp] theorem State.modBlk_inputs (s : State) (b : Nat) (f : Block → Block) : (s.modBlk b f).inputs = s.inputs := rfl
@[simp] theorem State.modBlk_blocks (s : State) (b : Nat) (f : Block → Block) :
    (s.modBlk b f).blocks = s.blocks.mod b f := rfl
@[simp] theorem State.modBlk_tasks (s : State) (b : Nat) (f : Block → Block) : (s.modBlk b f).tasks = s.tasks := rfl
@[simp] theorem State.modBlk_cores (s : State) (b : Nat) (f : Block → Block) : (s.modBlk b f).cores = s.cores := rfl
@[simp] theorem State.modBlk_graphs (s : State) (b : Nat) (f : Block → Block) : (s.modBlk b f).graphs = s.graphs := rfl
@[simp] theorem State.modBlk_mem (s : State) (b : Nat) (f : Block → Block) : (s.modBlk b f).mem = s.mem := rfl
@[simp] theorem State.modBlk_eng (s : State) (b : Nat) (f : Block → Block) : (s.modBlk b f).eng = s.eng := rfl
@[simp] theorem State.modBlk_ctl (s : State) (b : Nat) (f : Block → Block) : (s.modBlk b f).ctl = s.ctl := rfl

/-! ### `State.modTrp` -/

@[simp] theorem State.modTrp_cur (s : State) (b t : Nat) (f : Troupe → Troupe) : (s.modTrp b t f).cur = s.cur := rfl
@[simp] theorem State.modTrp_tick (s : State) (b t : Nat) (f : Troupe → Troupe) : (s.modTrp b t f).tick = s.tick := rfl
@[simp] theorem State.modTrp_fresh (s : State) (b t : Nat) (f : Troupe → Troupe) : (s.modTrp b t f).fresh = s.fresh := rfl
@[simp] theorem State.modTrp_inputs (s : State) (b t : Nat) (f : Troupe → Troupe) : (s.modTrp b t f).inputs = s.inputs := rfl
@[simp] theorem State.modTrp_blocks (s : State) (b t : Nat) (f : Troupe → Troupe) :
    (s.modTrp b t f).blocks = s.blocks.mod b fun B => { B with troupes := B.troupes.mod t f } := rfl
@[simp] theorem State.modTrp_tasks (s : State) (b t : Nat) (f : Troupe → Troupe) : (s.modTrp b t f).tasks = s.tasks := rfl
@[simp] theorem State.modTrp_cores (s : State) (b t : Nat) (f : Troupe → Troupe) : (s.modTrp b t f).cores = s.cores := rfl
@[simp] theorem State.modTrp_graphs (s : State) (b t : Nat) (f : Troupe → Troupe) : (s.modTrp b t f).graphs = s.graphs := rfl
@[simp] theorem State.modTrp_mem (s : State) (b t : Nat) (f : Troupe → Troupe) : (s.modTrp b t f).mem = s.mem := rfl
@[simp] theorem State.modTrp_eng (s : State) (b t : Nat) (f : Troupe → Troupe) : (s.modTrp b t f).eng = s.eng := rfl
@[simp] theorem State.modTrp_ctl (s : State) (b t : Nat) (f : Troupe → Troupe) : (s.modTrp b t f).ctl = s.ctl := rfl

/-! ### `State.modSplit` -/

@[simp] theorem State.modSplit_cur (s : State) (b t e : Nat) (f : Split → Split) : (s.modSplit b t e f).cur = s.cur := rfl
@[simp] theorem State.modSplit_tick (s : State) (b t e : Nat) (f : Split → Split) : (s.modSplit b t e f).tick = s.tick := rfl
@[simp] theorem State.modSplit_fresh (s : State) (b t e : Nat) (f : Split → Split) : (s.modSplit b t e f).fresh = s.fresh := rfl
@[simp] theorem State.modSplit_inputs (s : State) (b t e : Nat) (f : Split → Split) : (s.modSplit b t e f).inputs = s.inputs := rfl
@[simp] theorem State.modSplit_tasks (s : State) (b t e : Nat) (f : Split → Split) : (s.modSplit b t e f).tasks = s.tasks := rfl
@[simp] theorem State.modSplit_cores (s : State) (b t e : Nat) (f : Split → Split) : (s.modSplit b t e f).cores = s.cores := rfl
@[simp] theorem State.modSplit_graphs (s : State) (b t e : Nat) (f : Split → Split) : (s.modSplit b t e f).graphs = s.graphs := rfl
@[simp] theorem State.modSplit_mem (s : State) (b t e : Nat) (f : Split → Split) : (s.modSplit b t e f).mem = s.mem := rfl
@[simp] theorem State.modSplit_eng (s : State) (b t e : Nat) (f : Split → Split) : (s.modSplit b t e f).eng = s.eng := rfl
@[simp] theorem State.modSplit_ctl (s : State) (b t e : Nat) (f : Split → Split) : (s.modSplit b t e f).ctl = s.ctl := rfl

/-! ### `State.modCore` -/

@[simp] theorem State.modCore_cur (s : State) (c : Nat) (f : Core → Core) : (s.modCore c f).cur = s.cur := rfl
@[simp] theorem State.modCore_tick (s : State) (c : Nat) (f : Core → Core) : (s.modCore c f).tick = s.tick := rfl
@[simp] theorem State.modCore_fresh (s : State) (c : Nat) (f : Core → Core) : (s.modCore c f).fresh = s.fresh := rfl
@[simp] theorem State.modCore_inputs (s : State) (c : Nat) (f : Core → Core) : (s.modCore c f).inputs = s.inputs := rfl
@[simp] theorem State.modCore_blocks (s : State) (c : Nat) (f : Core → Core) : (s.modCore c f).blocks = s.blocks := rfl
@[simp] theorem State.modCore_tasks (s : State) (c : Nat) (f : Core → Core) : (s.modCore c f).tasks = s.tasks := rfl
@[simp] theorem State.modCore_cores (s : State) (c : Nat) (f : Core → Core) :
    (s.modCore c f).cores = s.cores.put c (f (s.core c)) := rfl
@[simp] theorem State.modCore_graphs (s : State) (c : Nat) (f : Core → Core) : (s.modCore c f).graphs = s.graphs := rfl
@[simp] theorem State.modCore_mem (s : State) (c : Nat) (f : Core → Core) : (s.modCore c f).mem = s.mem := rfl
@[simp] theorem State.modCore_eng (s : State) (c : Nat) (f : Core → Core) : (s.modCore c f).eng = s.eng := rfl
@[simp] theorem State.modCore_ctl (s : State) (c : Nat) (f : Core → Core) : (s.modCore c f).ctl = s.ctl := rfl

/-! ### `State.modTask` -/

@[simp] theorem State.modTask_cur (s : State) (t : Nat) (f : Task → Task) : (s.modTask t f).cur = s.cur := rfl
@[simp] theorem State.modTask_tick (s : State) (t : Nat) (f : Task → Task) : (s.modTask t f).tick = s.tick := rfl
@[simp] theorem State.modTask_fresh (s : State) (t : Nat) (f : Task → Task) : (s.modTask t f).fresh = s.fresh := rfl
@[simp] theorem State.modTask_inputs (s : State) (t : Nat) (f : Task → Task) : (s.modTask t f).inputs = s.inputs := rfl
@[simp] theorem State.modTask_blocks (s : State) (t : Nat) (f : Task → Task) : (s.modTask t f).blocks = s.blocks := rfl
@[simp] theorem State.modTask_tasks (s : State) (t : Nat) (f : Task → Task) :
    (s.modTask t f).tasks = s.tasks.mod t f := rfl
@[simp] theorem State.modTask_cores (s : State) (t : Nat) (f : Task → Task) : (s.modTask t f).cores = s.cores := rfl
@[simp] theorem State.modTask_graphs (s : State) (t : Nat) (f : Task → Task) : (s.modTask t f).graphs = s.graphs := rfl
@[simp] theorem State.modTask_mem (s : State) (t : Nat) (f : Task → Task) : (s.modTask t f).mem = s.mem := rfl
@[simp] theorem State.modTask_eng (s : State) (t : Nat) (f : Task → Task) : (s.modTask t f).eng = s.eng := rfl
@[simp] theorem State.modTask_ctl (s : State) (t : Nat) (f : Task → Task) : (s.modTask t f).ctl = s.ctl := rfl

/-! ### `State.modPart` -/

@[simp] theorem State.modPart_cur (s : State) (p : Nat) (f : Part → Part) : (s.modPart p f).cur = s.cur := rfl
@[simp] theorem State.modPart_tick (s : State) (p : Nat) (f : Part → Part) : (s.modPart p f).tick = s.tick := rfl
@[simp] theorem State.modPart_fresh (s : State) (p : Nat) (f : Part → Part) : (s.modPart p f).fresh = s.fresh := rfl
@[simp] theorem State.modPart_inputs (s : State) (p : Nat) (f : Part → Part) : (s.modPart p f).inputs = s.inputs := rfl
@[simp] theorem State.modPart_blocks (s : State) (p : Nat) (f : Part → Part) : (s.modPart p f).blocks = s.blocks := rfl
@[simp] theorem State.modPart_tasks (s : State) (p : Nat) (f : Part → Part) : (s.modPart p f).tasks = s.tasks := rfl
@[simp] theorem State.modPart_cores (s : State) (p : Nat) (f : Part → Part) : (s.modPart p f).cores = s.cores := rfl
@[simp] theorem State.modPart_graphs (s : State) (p : Nat) (f : Part → Part) : (s.modPart p f).graphs = s.graphs := rfl
@[simp] theorem State.modPart_mem (s : State) (p : Nat) (f : Part → Part) : (s.modPart p f).mem = s.mem := rfl
@[simp] theorem State.modPart_eng (s : State) (p : Nat) (f : Part → Part) : (s.modPart p f).eng = s.eng := rfl
@[simp] theorem State.modPart_ctl (s : State) (p : Nat) (f : Part → Part) :
    (s.modPart p f).ctl = { s.ctl with parts := s.ctl.parts.mod p f } := rfl

/-! ### `State.modGraph` -/

@[simp] theorem State.modGraph_cur (s : State) (g : Nat) (f : Graph → Graph) : (s.modGraph g f).cur = s.cur := rfl
@[simp] theorem State.modGraph_tick (s : State) (g : Nat) (f : Graph → Graph) : (s.modGraph g f).tick = s.tick := rfl
@[simp] theorem State.modGraph_fresh (s : State) (g : Nat) (f : Graph → Graph) : (s.modGraph g f).fresh = s.fresh := rfl
@[simp] theorem State.modGraph_inputs (s : State) (g : Nat) (f : Graph → Graph) : (s.modGraph g f).inputs = s.inputs := rfl
@[simp] theorem State.modGraph_blocks (s : State) (g : Nat) (f : Graph → Graph) : (s.modGraph g f).blocks = s.blocks := rfl
@[simp] theorem State.modGraph_tasks (s : State) (g : Nat) (f : Graph → Graph) : (s.modGraph g f).tasks = s.tasks := rfl
@[simp] theorem State.modGraph_cores (s : State) (g : Nat) (f : Graph → Graph) : (s.modGraph g f).cores = s.cores := rfl
@[simp] theorem State.modGraph_graphs (s : State) (g : Nat) (f : Graph → Graph) :
    (s.modGraph g f).graphs = s.graphs.mod g f := rfl
@[simp] theorem State.modGraph_mem (s : State) (g : Nat) (f : Graph → Graph) : (s.modGraph g f).mem = s.mem := rfl
@[simp] theorem State.modGraph_eng (s : State) (g : Nat) (f : Graph → Graph) : (s.modGraph g f).eng = s.eng := rfl
@[simp] theorem State.modGraph_ctl (s : State) (g : Nat) (f : Graph → Graph) : (s.modGraph g f).ctl = s.ctl := rfl

/-! ### `State.bump` -/

@[simp] theorem State.bump_cur (s : State) : (s.bump).cur = s.cur := rfl
@[simp] theorem State.bump_tick (s : State) : (s.bump).tick = s.tick := rfl
@[simp] theorem State.bump_fresh (s : State) :
    (s.bump).fresh = s.fresh + 1 := rfl
@[simp] theorem State.bump_inputs (s : State) : (s.bump).inputs = s.inputs := rfl
@[simp] theorem State.bump_blocks (s : State) : (s.bump).blocks = s.blocks := rfl
@[simp] theorem State.bump_tasks (s : State) : (s.bump).tasks = s.tasks := rfl
@[simp] theorem State.bump_cores (s : State) : (s.bump).cores = s.cores := rfl
@[simp] theorem State.bump_graphs (s : State) : (s.bump).graphs = s.graphs := rfl
@[simp] theorem State.bump_mem (s : State) : (s.bump).mem = s.mem := rfl
@[simp] theorem State.bump_eng (s : State) : (s.bump).eng = s.eng := rfl
@[simp] theorem State.bump_ctl (s : State) : (s.bump).ctl = s.ctl := rfl

/-! ### `State.tock` -/

@[simp] theorem State.tock_cur (s : State) : (s.tock).cur = s.cur := rfl
@[simp] theorem State.tock_tick (s : State) :
    (s.tock).tick = s.tick + 1 := rfl
@[simp] theorem State.tock_fresh (s : State) : (s.tock).fresh = s.fresh := rfl
@[simp] theorem State.tock_inputs (s : State) : (s.tock).inputs = s.inputs := rfl
@[simp] theorem State.tock_blocks (s : State) : (s.tock).blocks = s.blocks := rfl
@[simp] theorem State.tock_tasks (s : State) : (s.tock).tasks = s.tasks := rfl
@[simp] theorem State.tock_cores (s : State) : (s.tock).cores = s.cores := rfl
@[simp] theorem State.tock_graphs (s : State) : (s.tock).graphs = s.graphs := rfl
@[simp] theorem State.tock_mem (s : State) : (s.tock).mem = s.mem := rfl
@[simp] theorem State.tock_eng (s : State) : (s.tock).eng = s.eng := rfl
@[simp] theorem State.tock_ctl (s : State) : (s.tock).ctl = s.ctl := rfl

/-! ### `State.event` -/

@[simp] theorem State.event_cur (s : State) (code unit part detail : Nat) : (s.event code unit part detail).cur = s.cur := rfl
@[simp] theorem State.event_tick (s : State) (code unit part detail : Nat) : (s.event code unit part detail).tick = s.tick := rfl
@[simp] theorem State.event_fresh (s : State) (code unit part detail : Nat) : (s.event code unit part detail).fresh = s.fresh := rfl
@[simp] theorem State.event_inputs (s : State) (code unit part detail : Nat) : (s.event code unit part detail).inputs = s.inputs := rfl
@[simp] theorem State.event_blocks (s : State) (code unit part detail : Nat) : (s.event code unit part detail).blocks = s.blocks := rfl
@[simp] theorem State.event_tasks (s : State) (code unit part detail : Nat) : (s.event code unit part detail).tasks = s.tasks := rfl
@[simp] theorem State.event_cores (s : State) (code unit part detail : Nat) : (s.event code unit part detail).cores = s.cores := rfl
@[simp] theorem State.event_graphs (s : State) (code unit part detail : Nat) : (s.event code unit part detail).graphs = s.graphs := rfl
@[simp] theorem State.event_mem (s : State) (code unit part detail : Nat) : (s.event code unit part detail).mem = s.mem := rfl
@[simp] theorem State.event_eng (s : State) (code unit part detail : Nat) : (s.event code unit part detail).eng = s.eng := rfl

/-! ### `State.onTrp` -/

@[simp] theorem State.onTrp_cur (s : State) (c : Ctx) (f : Troupe → Troupe) : (s.onTrp c f).cur = s.cur := rfl
@[simp] theorem State.onTrp_tick (s : State) (c : Ctx) (f : Troupe → Troupe) : (s.onTrp c f).tick = s.tick := rfl
@[simp] theorem State.onTrp_fresh (s : State) (c : Ctx) (f : Troupe → Troupe) : (s.onTrp c f).fresh = s.fresh := rfl
@[simp] theorem State.onTrp_inputs (s : State) (c : Ctx) (f : Troupe → Troupe) : (s.onTrp c f).inputs = s.inputs := rfl
@[simp] theorem State.onTrp_blocks (s : State) (c : Ctx) (f : Troupe → Troupe) :
    (s.onTrp c f).blocks = (s.modTrp c.b c.t f).blocks := rfl
@[simp] theorem State.onTrp_tasks (s : State) (c : Ctx) (f : Troupe → Troupe) : (s.onTrp c f).tasks = s.tasks := rfl
@[simp] theorem State.onTrp_cores (s : State) (c : Ctx) (f : Troupe → Troupe) : (s.onTrp c f).cores = s.cores := rfl
@[simp] theorem State.onTrp_graphs (s : State) (c : Ctx) (f : Troupe → Troupe) : (s.onTrp c f).graphs = s.graphs := rfl
@[simp] theorem State.onTrp_mem (s : State) (c : Ctx) (f : Troupe → Troupe) : (s.onTrp c f).mem = s.mem := rfl
@[simp] theorem State.onTrp_eng (s : State) (c : Ctx) (f : Troupe → Troupe) : (s.onTrp c f).eng = s.eng := rfl
@[simp] theorem State.onTrp_ctl (s : State) (c : Ctx) (f : Troupe → Troupe) : (s.onTrp c f).ctl = s.ctl := rfl

/-! ### `State.onSplit` -/

@[simp] theorem State.onSplit_cur (s : State) (c : Ctx) (f : Split → Split) : (s.onSplit c f).cur = s.cur := rfl
@[simp] theorem State.onSplit_tick (s : State) (c : Ctx) (f : Split → Split) : (s.onSplit c f).tick = s.tick := rfl
@[simp] theorem State.onSplit_fresh (s : State) (c : Ctx) (f : Split → Split) : (s.onSplit c f).fresh = s.fresh := rfl
@[simp] theorem State.onSplit_inputs (s : State) (c : Ctx) (f : Split → Split) : (s.onSplit c f).inputs = s.inputs := rfl
@[simp] theorem State.onSplit_blocks (s : State) (c : Ctx) (f : Split → Split) :
    (s.onSplit c f).blocks = (s.modSplit c.b c.t c.e f).blocks := rfl
@[simp] theorem State.onSplit_tasks (s : State) (c : Ctx) (f : Split → Split) : (s.onSplit c f).tasks = s.tasks := rfl
@[simp] theorem State.onSplit_cores (s : State) (c : Ctx) (f : Split → Split) : (s.onSplit c f).cores = s.cores := rfl
@[simp] theorem State.onSplit_graphs (s : State) (c : Ctx) (f : Split → Split) : (s.onSplit c f).graphs = s.graphs := rfl
@[simp] theorem State.onSplit_mem (s : State) (c : Ctx) (f : Split → Split) : (s.onSplit c f).mem = s.mem := rfl
@[simp] theorem State.onSplit_eng (s : State) (c : Ctx) (f : Split → Split) : (s.onSplit c f).eng = s.eng := rfl
@[simp] theorem State.onSplit_ctl (s : State) (c : Ctx) (f : Split → Split) : (s.onSplit c f).ctl = s.ctl := rfl

/-! ### `State.onRegs` -/

@[simp] theorem State.onRegs_cur (s : State) (c : Ctx) (f : Regs → Regs) : (s.onRegs c f).cur = s.cur := rfl
@[simp] theorem State.onRegs_tick (s : State) (c : Ctx) (f : Regs → Regs) : (s.onRegs c f).tick = s.tick := rfl
@[simp] theorem State.onRegs_fresh (s : State) (c : Ctx) (f : Regs → Regs) : (s.onRegs c f).fresh = s.fresh := rfl
@[simp] theorem State.onRegs_inputs (s : State) (c : Ctx) (f : Regs → Regs) : (s.onRegs c f).inputs = s.inputs := rfl
@[simp] theorem State.onRegs_blocks (s : State) (c : Ctx) (f : Regs → Regs) :
    (s.onRegs c f).blocks = (s.onTrp c fun T => { T with regs := f T.regs }).blocks := rfl
@[simp] theorem State.onRegs_tasks (s : State) (c : Ctx) (f : Regs → Regs) : (s.onRegs c f).tasks = s.tasks := rfl
@[simp] theorem State.onRegs_cores (s : State) (c : Ctx) (f : Regs → Regs) : (s.onRegs c f).cores = s.cores := rfl
@[simp] theorem State.onRegs_graphs (s : State) (c : Ctx) (f : Regs → Regs) : (s.onRegs c f).graphs = s.graphs := rfl
@[simp] theorem State.onRegs_mem (s : State) (c : Ctx) (f : Regs → Regs) : (s.onRegs c f).mem = s.mem := rfl
@[simp] theorem State.onRegs_eng (s : State) (c : Ctx) (f : Regs → Regs) : (s.onRegs c f).eng = s.eng := rfl
@[simp] theorem State.onRegs_ctl (s : State) (c : Ctx) (f : Regs → Regs) : (s.onRegs c f).ctl = s.ctl := rfl

/-! ### `State.raise` -/

@[simp] theorem State.raise_cur (s : State) (c : Ctx) (f : BitVec 16) : (s.raise c f).cur = s.cur := rfl
@[simp] theorem State.raise_tick (s : State) (c : Ctx) (f : BitVec 16) : (s.raise c f).tick = s.tick := rfl
@[simp] theorem State.raise_fresh (s : State) (c : Ctx) (f : BitVec 16) : (s.raise c f).fresh = s.fresh := rfl
@[simp] theorem State.raise_inputs (s : State) (c : Ctx) (f : BitVec 16) : (s.raise c f).inputs = s.inputs := rfl
@[simp] theorem State.raise_tasks (s : State) (c : Ctx) (f : BitVec 16) : (s.raise c f).tasks = s.tasks := rfl
@[simp] theorem State.raise_cores (s : State) (c : Ctx) (f : BitVec 16) : (s.raise c f).cores = s.cores := rfl
@[simp] theorem State.raise_graphs (s : State) (c : Ctx) (f : BitVec 16) : (s.raise c f).graphs = s.graphs := rfl
@[simp] theorem State.raise_mem (s : State) (c : Ctx) (f : BitVec 16) : (s.raise c f).mem = s.mem := rfl
@[simp] theorem State.raise_eng (s : State) (c : Ctx) (f : BitVec 16) : (s.raise c f).eng = s.eng := rfl
@[simp] theorem State.raise_ctl (s : State) (c : Ctx) (f : BitVec 16) : (s.raise c f).ctl = s.ctl := rfl

/-! ### `State.setS` -/

@[simp] theorem State.setS_cur (s : State) (c : Ctx) (r : BitVec 6) (x : DWord) : (s.setS c r x).cur = s.cur := rfl
@[simp] theorem State.setS_tick (s : State) (c : Ctx) (r : BitVec 6) (x : DWord) : (s.setS c r x).tick = s.tick := rfl
@[simp] theorem State.setS_fresh (s : State) (c : Ctx) (r : BitVec 6) (x : DWord) : (s.setS c r x).fresh = s.fresh := rfl
@[simp] theorem State.setS_inputs (s : State) (c : Ctx) (r : BitVec 6) (x : DWord) : (s.setS c r x).inputs = s.inputs := rfl
@[simp] theorem State.setS_blocks (s : State) (c : Ctx) (r : BitVec 6) (x : DWord) :
    (s.setS c r x).blocks = (s.onTrp c fun T => T.setS r.toNat x).blocks := rfl
@[simp] theorem State.setS_tasks (s : State) (c : Ctx) (r : BitVec 6) (x : DWord) : (s.setS c r x).tasks = s.tasks := rfl
@[simp] theorem State.setS_cores (s : State) (c : Ctx) (r : BitVec 6) (x : DWord) : (s.setS c r x).cores = s.cores := rfl
@[simp] theorem State.setS_graphs (s : State) (c : Ctx) (r : BitVec 6) (x : DWord) : (s.setS c r x).graphs = s.graphs := rfl
@[simp] theorem State.setS_mem (s : State) (c : Ctx) (r : BitVec 6) (x : DWord) : (s.setS c r x).mem = s.mem := rfl
@[simp] theorem State.setS_eng (s : State) (c : Ctx) (r : BitVec 6) (x : DWord) : (s.setS c r x).eng = s.eng := rfl
@[simp] theorem State.setS_ctl (s : State) (c : Ctx) (r : BitVec 6) (x : DWord) : (s.setS c r x).ctl = s.ctl := rfl

/-! ### `State.setG` -/

@[simp] theorem State.setG_cur (s : State) (c : Ctx) (k : Nat) (x : Bool) : (s.setG c k x).cur = s.cur := rfl
@[simp] theorem State.setG_tick (s : State) (c : Ctx) (k : Nat) (x : Bool) : (s.setG c k x).tick = s.tick := rfl
@[simp] theorem State.setG_fresh (s : State) (c : Ctx) (k : Nat) (x : Bool) : (s.setG c k x).fresh = s.fresh := rfl
@[simp] theorem State.setG_inputs (s : State) (c : Ctx) (k : Nat) (x : Bool) : (s.setG c k x).inputs = s.inputs := rfl
@[simp] theorem State.setG_blocks (s : State) (c : Ctx) (k : Nat) (x : Bool) :
    (s.setG c k x).blocks = (s.onTrp c fun T => T.setG k x).blocks := rfl
@[simp] theorem State.setG_tasks (s : State) (c : Ctx) (k : Nat) (x : Bool) : (s.setG c k x).tasks = s.tasks := rfl
@[simp] theorem State.setG_cores (s : State) (c : Ctx) (k : Nat) (x : Bool) : (s.setG c k x).cores = s.cores := rfl
@[simp] theorem State.setG_graphs (s : State) (c : Ctx) (k : Nat) (x : Bool) : (s.setG c k x).graphs = s.graphs := rfl
@[simp] theorem State.setG_mem (s : State) (c : Ctx) (k : Nat) (x : Bool) : (s.setG c k x).mem = s.mem := rfl
@[simp] theorem State.setG_eng (s : State) (c : Ctx) (k : Nat) (x : Bool) : (s.setG c k x).eng = s.eng := rfl
@[simp] theorem State.setG_ctl (s : State) (c : Ctx) (k : Nat) (x : Bool) : (s.setG c k x).ctl = s.ctl := rfl

/-! ### `State.setC` -/

@[simp] theorem State.setC_cur (s : State) (c : Ctx) (k : Nat) (x : CapReg) : (s.setC c k x).cur = s.cur := rfl
@[simp] theorem State.setC_tick (s : State) (c : Ctx) (k : Nat) (x : CapReg) : (s.setC c k x).tick = s.tick := rfl
@[simp] theorem State.setC_fresh (s : State) (c : Ctx) (k : Nat) (x : CapReg) : (s.setC c k x).fresh = s.fresh := rfl
@[simp] theorem State.setC_inputs (s : State) (c : Ctx) (k : Nat) (x : CapReg) : (s.setC c k x).inputs = s.inputs := rfl
@[simp] theorem State.setC_blocks (s : State) (c : Ctx) (k : Nat) (x : CapReg) :
    (s.setC c k x).blocks = (s.onTrp c fun T => T.setC k x).blocks := rfl
@[simp] theorem State.setC_tasks (s : State) (c : Ctx) (k : Nat) (x : CapReg) : (s.setC c k x).tasks = s.tasks := rfl
@[simp] theorem State.setC_cores (s : State) (c : Ctx) (k : Nat) (x : CapReg) : (s.setC c k x).cores = s.cores := rfl
@[simp] theorem State.setC_graphs (s : State) (c : Ctx) (k : Nat) (x : CapReg) : (s.setC c k x).graphs = s.graphs := rfl
@[simp] theorem State.setC_mem (s : State) (c : Ctx) (k : Nat) (x : CapReg) : (s.setC c k x).mem = s.mem := rfl
@[simp] theorem State.setC_eng (s : State) (c : Ctx) (k : Nat) (x : CapReg) : (s.setC c k x).eng = s.eng := rfl
@[simp] theorem State.setC_ctl (s : State) (c : Ctx) (k : Nat) (x : CapReg) : (s.setC c k x).ctl = s.ctl := rfl

/-! ### `State.advance` -/

@[simp] theorem State.advance_cur (s : State) (c : Ctx) (i : Instr) : (s.advance c i).cur = s.cur := rfl
@[simp] theorem State.advance_tick (s : State) (c : Ctx) (i : Instr) : (s.advance c i).tick = s.tick := rfl
@[simp] theorem State.advance_fresh (s : State) (c : Ctx) (i : Instr) : (s.advance c i).fresh = s.fresh := rfl
@[simp] theorem State.advance_inputs (s : State) (c : Ctx) (i : Instr) : (s.advance c i).inputs = s.inputs := rfl
@[simp] theorem State.advance_tasks (s : State) (c : Ctx) (i : Instr) : (s.advance c i).tasks = s.tasks := rfl
@[simp] theorem State.advance_cores (s : State) (c : Ctx) (i : Instr) : (s.advance c i).cores = s.cores := rfl
@[simp] theorem State.advance_graphs (s : State) (c : Ctx) (i : Instr) : (s.advance c i).graphs = s.graphs := rfl
@[simp] theorem State.advance_mem (s : State) (c : Ctx) (i : Instr) : (s.advance c i).mem = s.mem := rfl
@[simp] theorem State.advance_eng (s : State) (c : Ctx) (i : Instr) : (s.advance c i).eng = s.eng := rfl
@[simp] theorem State.advance_ctl (s : State) (c : Ctx) (i : Instr) : (s.advance c i).ctl = s.ctl := rfl

/-! ### `State.send` -/

@[simp] theorem State.send_cur (s : State) (dst b : Nat) (op : FabOp) : (s.send dst b op).cur = s.cur := rfl
@[simp] theorem State.send_tick (s : State) (dst b : Nat) (op : FabOp) : (s.send dst b op).tick = s.tick := rfl
@[simp] theorem State.send_fresh (s : State) (dst b : Nat) (op : FabOp) : (s.send dst b op).fresh = s.fresh := rfl
@[simp] theorem State.send_inputs (s : State) (dst b : Nat) (op : FabOp) : (s.send dst b op).inputs = s.inputs := rfl
@[simp] theorem State.send_blocks (s : State) (dst b : Nat) (op : FabOp) : (s.send dst b op).blocks = s.blocks := rfl
@[simp] theorem State.send_tasks (s : State) (dst b : Nat) (op : FabOp) : (s.send dst b op).tasks = s.tasks := rfl
@[simp] theorem State.send_cores (s : State) (dst b : Nat) (op : FabOp) : (s.send dst b op).cores = s.cores := rfl
@[simp] theorem State.send_graphs (s : State) (dst b : Nat) (op : FabOp) : (s.send dst b op).graphs = s.graphs := rfl
@[simp] theorem State.send_mem (s : State) (dst b : Nat) (op : FabOp) : (s.send dst b op).mem = s.mem := rfl
@[simp] theorem State.send_ctl (s : State) (dst b : Nat) (op : FabOp) : (s.send dst b op).ctl = s.ctl := rfl

/-! ### `State.sendAs` -/

@[simp] theorem State.sendAs_cur (s : State) (dst b : Nat) (op : FabOp) (ent epoch : Nat) : (s.sendAs dst b op ent epoch).cur = s.cur := rfl
@[simp] theorem State.sendAs_tick (s : State) (dst b : Nat) (op : FabOp) (ent epoch : Nat) : (s.sendAs dst b op ent epoch).tick = s.tick := rfl
@[simp] theorem State.sendAs_fresh (s : State) (dst b : Nat) (op : FabOp) (ent epoch : Nat) : (s.sendAs dst b op ent epoch).fresh = s.fresh := rfl
@[simp] theorem State.sendAs_inputs (s : State) (dst b : Nat) (op : FabOp) (ent epoch : Nat) : (s.sendAs dst b op ent epoch).inputs = s.inputs := rfl
@[simp] theorem State.sendAs_blocks (s : State) (dst b : Nat) (op : FabOp) (ent epoch : Nat) : (s.sendAs dst b op ent epoch).blocks = s.blocks := rfl
@[simp] theorem State.sendAs_tasks (s : State) (dst b : Nat) (op : FabOp) (ent epoch : Nat) : (s.sendAs dst b op ent epoch).tasks = s.tasks := rfl
@[simp] theorem State.sendAs_cores (s : State) (dst b : Nat) (op : FabOp) (ent epoch : Nat) : (s.sendAs dst b op ent epoch).cores = s.cores := rfl
@[simp] theorem State.sendAs_graphs (s : State) (dst b : Nat) (op : FabOp) (ent epoch : Nat) : (s.sendAs dst b op ent epoch).graphs = s.graphs := rfl
@[simp] theorem State.sendAs_mem (s : State) (dst b : Nat) (op : FabOp) (ent epoch : Nat) : (s.sendAs dst b op ent epoch).mem = s.mem := rfl
@[simp] theorem State.sendAs_ctl (s : State) (dst b : Nat) (op : FabOp) (ent epoch : Nat) : (s.sendAs dst b op ent epoch).ctl = s.ctl := rfl

/-! ### `State.noIssue` -/

@[simp] theorem State.noIssue_cur (s : State) :
    (s.noIssue).cur = none := rfl
@[simp] theorem State.noIssue_tick (s : State) : (s.noIssue).tick = s.tick := rfl
@[simp] theorem State.noIssue_fresh (s : State) : (s.noIssue).fresh = s.fresh := rfl
@[simp] theorem State.noIssue_inputs (s : State) : (s.noIssue).inputs = s.inputs := rfl
@[simp] theorem State.noIssue_blocks (s : State) : (s.noIssue).blocks = s.blocks := rfl
@[simp] theorem State.noIssue_tasks (s : State) : (s.noIssue).tasks = s.tasks := rfl
@[simp] theorem State.noIssue_cores (s : State) : (s.noIssue).cores = s.cores := rfl
@[simp] theorem State.noIssue_graphs (s : State) : (s.noIssue).graphs = s.graphs := rfl
@[simp] theorem State.noIssue_mem (s : State) : (s.noIssue).mem = s.mem := rfl
@[simp] theorem State.noIssue_eng (s : State) : (s.noIssue).eng = s.eng := rfl
@[simp] theorem State.noIssue_ctl (s : State) : (s.noIssue).ctl = s.ctl := rfl

/-! ### `State.sliceWrite` -/

@[simp] theorem State.sliceWrite_cur (s : State) (a : Nat) (bs : List Byte) : (s.sliceWrite a bs).cur = s.cur := rfl
@[simp] theorem State.sliceWrite_tick (s : State) (a : Nat) (bs : List Byte) : (s.sliceWrite a bs).tick = s.tick := rfl
@[simp] theorem State.sliceWrite_fresh (s : State) (a : Nat) (bs : List Byte) : (s.sliceWrite a bs).fresh = s.fresh := rfl
@[simp] theorem State.sliceWrite_inputs (s : State) (a : Nat) (bs : List Byte) : (s.sliceWrite a bs).inputs = s.inputs := rfl
@[simp] theorem State.sliceWrite_blocks (s : State) (a : Nat) (bs : List Byte) : (s.sliceWrite a bs).blocks = s.blocks := rfl
@[simp] theorem State.sliceWrite_tasks (s : State) (a : Nat) (bs : List Byte) : (s.sliceWrite a bs).tasks = s.tasks := rfl
@[simp] theorem State.sliceWrite_cores (s : State) (a : Nat) (bs : List Byte) : (s.sliceWrite a bs).cores = s.cores := rfl
@[simp] theorem State.sliceWrite_graphs (s : State) (a : Nat) (bs : List Byte) : (s.sliceWrite a bs).graphs = s.graphs := rfl
@[simp] theorem State.sliceWrite_eng (s : State) (a : Nat) (bs : List Byte) : (s.sliceWrite a bs).eng = s.eng := rfl
@[simp] theorem State.sliceWrite_ctl (s : State) (a : Nat) (bs : List Byte) : (s.sliceWrite a bs).ctl = s.ctl := rfl

/-! ### `State.devRaw` -/

@[simp] theorem State.devRaw_cur (s : State) (a n x : Nat) : (s.devRaw a n x).cur = s.cur := rfl
@[simp] theorem State.devRaw_tick (s : State) (a n x : Nat) : (s.devRaw a n x).tick = s.tick := rfl
@[simp] theorem State.devRaw_fresh (s : State) (a n x : Nat) : (s.devRaw a n x).fresh = s.fresh := rfl
@[simp] theorem State.devRaw_inputs (s : State) (a n x : Nat) : (s.devRaw a n x).inputs = s.inputs := rfl
@[simp] theorem State.devRaw_blocks (s : State) (a n x : Nat) : (s.devRaw a n x).blocks = s.blocks := rfl
@[simp] theorem State.devRaw_tasks (s : State) (a n x : Nat) : (s.devRaw a n x).tasks = s.tasks := rfl
@[simp] theorem State.devRaw_cores (s : State) (a n x : Nat) : (s.devRaw a n x).cores = s.cores := rfl
@[simp] theorem State.devRaw_graphs (s : State) (a n x : Nat) : (s.devRaw a n x).graphs = s.graphs := rfl
@[simp] theorem State.devRaw_mem (s : State) (a n x : Nat) :
    (s.devRaw a n x).mem = { s.mem with dev := Mem.write s.mem.dev a (leBytes n x) } := rfl
@[simp] theorem State.devRaw_eng (s : State) (a n x : Nat) : (s.devRaw a n x).eng = s.eng := rfl
@[simp] theorem State.devRaw_ctl (s : State) (a n x : Nat) : (s.devRaw a n x).ctl = s.ctl := rfl

/-! ### The memories -/

@[simp] theorem State.sliceWrite_mem_slice (s : State) (a : Nat) (bs : List Byte) :
    (s.sliceWrite a bs).mem.slice = Mem.write s.mem.slice (sliceKey a) bs := rfl
@[simp] theorem State.sliceWrite_mem_dev (s : State) (a : Nat) (bs : List Byte) : (s.sliceWrite a bs).mem.dev = s.mem.dev := rfl
@[simp] theorem State.sliceWrite_mem_code (s : State) (a : Nat) (bs : List Byte) : (s.sliceWrite a bs).mem.code = s.mem.code := rfl
@[simp] theorem State.sliceWrite_mem_codeLen (s : State) (a : Nat) (bs : List Byte) : (s.sliceWrite a bs).mem.codeLen = s.mem.codeLen := rfl
@[simp] theorem State.sliceWrite_mem_guards (s : State) (a : Nat) (bs : List Byte) : (s.sliceWrite a bs).mem.guards = s.mem.guards := rfl
@[simp] theorem State.sliceWrite_mem_tiles (s : State) (a : Nat) (bs : List Byte) : (s.sliceWrite a bs).mem.tiles = s.mem.tiles := rfl
@[simp] theorem State.sliceWrite_mem_skew (s : State) (a : Nat) (bs : List Byte) : (s.sliceWrite a bs).mem.skew = s.mem.skew := rfl
@[simp] theorem State.sliceWrite_mem_shadows (s : State) (a : Nat) (bs : List Byte) : (s.sliceWrite a bs).mem.shadows = s.mem.shadows := rfl
@[simp] theorem State.sliceWrite_mem_devPoison (s : State) (a : Nat) (bs : List Byte) : (s.sliceWrite a bs).mem.devPoison = s.mem.devPoison := rfl
@[simp] theorem State.sliceWrite_mem_devFlips (s : State) (a : Nat) (bs : List Byte) : (s.sliceWrite a bs).mem.devFlips = s.mem.devFlips := rfl
@[simp] theorem State.sliceWrite_mem_keys (s : State) (a : Nat) (bs : List Byte) : (s.sliceWrite a bs).mem.keys = s.mem.keys := rfl
@[simp] theorem State.sliceWrite_mem_tlb (s : State) (a : Nat) (bs : List Byte) : (s.sliceWrite a bs).mem.tlb = s.mem.tlb := rfl
@[simp] theorem State.devRaw_mem_slice (s : State) (a n x : Nat) : (s.devRaw a n x).mem.slice = s.mem.slice := rfl
@[simp] theorem State.devRaw_mem_code (s : State) (a n x : Nat) : (s.devRaw a n x).mem.code = s.mem.code := rfl
@[simp] theorem State.devRaw_mem_codeLen (s : State) (a n x : Nat) : (s.devRaw a n x).mem.codeLen = s.mem.codeLen := rfl
@[simp] theorem State.devRaw_mem_guards (s : State) (a n x : Nat) : (s.devRaw a n x).mem.guards = s.mem.guards := rfl
@[simp] theorem State.devRaw_mem_tiles (s : State) (a n x : Nat) : (s.devRaw a n x).mem.tiles = s.mem.tiles := rfl
@[simp] theorem State.devRaw_mem_skew (s : State) (a n x : Nat) : (s.devRaw a n x).mem.skew = s.mem.skew := rfl
@[simp] theorem State.devRaw_mem_shadows (s : State) (a n x : Nat) : (s.devRaw a n x).mem.shadows = s.mem.shadows := rfl
@[simp] theorem State.devRaw_mem_slicePoison (s : State) (a n x : Nat) : (s.devRaw a n x).mem.slicePoison = s.mem.slicePoison := rfl
@[simp] theorem State.devRaw_mem_devPoison (s : State) (a n x : Nat) : (s.devRaw a n x).mem.devPoison = s.mem.devPoison := rfl
@[simp] theorem State.devRaw_mem_flips (s : State) (a n x : Nat) : (s.devRaw a n x).mem.flips = s.mem.flips := rfl
@[simp] theorem State.devRaw_mem_devFlips (s : State) (a n x : Nat) : (s.devRaw a n x).mem.devFlips = s.mem.devFlips := rfl
@[simp] theorem State.devRaw_mem_keys (s : State) (a n x : Nat) : (s.devRaw a n x).mem.keys = s.mem.keys := rfl
@[simp] theorem State.devRaw_mem_tlb (s : State) (a n x : Nat) : (s.devRaw a n x).mem.tlb = s.mem.tlb := rfl
@[simp] theorem State.event_ctl_pkg (s : State) (code unit part detail : Nat) :
    (s.event code unit part detail).ctl.pkg = s.ctl.pkg := rfl
@[simp] theorem State.event_ctl_pods (s : State) (code unit part detail : Nat) :
    (s.event code unit part detail).ctl.pods = s.ctl.pods := rfl
@[simp] theorem State.event_ctl_clk (s : State) (code unit part detail : Nat) :
    (s.event code unit part detail).ctl.clk = s.ctl.clk := rfl
@[simp] theorem State.event_ctl_sync (s : State) (code unit part detail : Nat) :
    (s.event code unit part detail).ctl.sync = s.ctl.sync := rfl
@[simp] theorem State.event_ctl_parts (s : State) (code unit part detail : Nat) :
    (s.event code unit part detail).ctl.parts = s.ctl.parts := rfl
@[simp] theorem State.event_ctl_keySlots (s : State) (code unit part detail : Nat) :
    (s.event code unit part detail).ctl.keySlots = s.ctl.keySlots := rfl
@[simp] theorem State.event_ctl_evSeq (s : State) (code unit part detail : Nat) :
    (s.event code unit part detail).ctl.evSeq = s.ctl.evSeq := rfl
@[simp] theorem State.event_ctl_alarm (s : State) (code unit part detail : Nat) :
    (s.event code unit part detail).ctl.alarm = s.ctl.alarm := rfl
@[simp] theorem State.event_ctl_locked (s : State) (code unit part detail : Nat) :
    (s.event code unit part detail).ctl.locked = s.ctl.locked := rfl
@[simp] theorem State.event_ctl_links (s : State) (code unit part detail : Nat) :
    (s.event code unit part detail).ctl.links = s.ctl.links := rfl
@[simp] theorem State.event_ctl_stage (s : State) (code unit part detail : Nat) :
    (s.event code unit part detail).ctl.stage = s.ctl.stage := rfl
@[simp] theorem State.event_ctl_reach (s : State) (code unit part detail : Nat) :
    (s.event code unit part detail).ctl.reach = s.ctl.reach := rfl

/-! ### Troupes -/

@[simp] theorem Troupe.setV_lm (T : Troupe) (r : Nat) (m : Mask) (f : Nat → Word) : (T.setV r m f).lm = T.lm := rfl
@[simp] theorem Troupe.setV_role (T : Troupe) (r : Nat) (m : Mask) (f : Nat → Word) : (T.setV r m f).role = T.role := rfl
@[simp] theorem Troupe.setV_k (T : Troupe) (r : Nat) (m : Mask) (f : Nat → Word) : (T.setV r m f).k = T.k := rfl
@[simp] theorem Troupe.setV_q (T : Troupe) (r : Nat) (m : Mask) (f : Nat → Word) : (T.setV r m f).q = T.q := rfl
@[simp] theorem Troupe.setV_rid (T : Troupe) (r : Nat) (m : Mask) (f : Nat → Word) : (T.setV r m f).rid = T.rid := rfl
@[simp] theorem Troupe.setV_ret (T : Troupe) (r : Nat) (m : Mask) (f : Nat → Word) : (T.setV r m f).ret = T.ret := rfl
@[simp] theorem Troupe.setV_splits (T : Troupe) (r : Nat) (m : Mask) (f : Nat → Word) : (T.setV r m f).splits = T.splits := rfl
@[simp] theorem Troupe.setV_stack (T : Troupe) (r : Nat) (m : Mask) (f : Nat → Word) : (T.setV r m f).stack = T.stack := rfl
@[simp] theorem Troupe.setV_now (T : Troupe) (r : Nat) (m : Mask) (f : Nat → Word) : (T.setV r m f).now = T.now := rfl
@[simp] theorem Troupe.setV_chk (T : Troupe) (r : Nat) (m : Mask) (f : Nat → Word) : (T.setV r m f).chk = T.chk := rfl
@[simp] theorem Troupe.setV_flt (T : Troupe) (r : Nat) (m : Mask) (f : Nat → Word) : (T.setV r m f).flt = T.flt := rfl
@[simp] theorem Troupe.setV_handler (T : Troupe) (r : Nat) (m : Mask) (f : Nat → Word) : (T.setV r m f).handler = T.handler := rfl
@[simp] theorem Troupe.setV_held (T : Troupe) (r : Nat) (m : Mask) (f : Nat → Word) : (T.setV r m f).held = T.held := rfl
@[simp] theorem Troupe.setV_run (T : Troupe) (r : Nat) (m : Mask) (f : Nat → Word) : (T.setV r m f).run = T.run := rfl
@[simp] theorem Troupe.setV_inst (T : Troupe) (r : Nat) (m : Mask) (f : Nat → Word) : (T.setV r m f).inst = T.inst := rfl
@[simp] theorem Troupe.setV_loads (T : Troupe) (r : Nat) (m : Mask) (f : Nat → Word) : (T.setV r m f).loads = T.loads := rfl
@[simp] theorem Troupe.setV_passed (T : Troupe) (r : Nat) (m : Mask) (f : Nat → Word) : (T.setV r m f).passed = T.passed := rfl
@[simp] theorem Troupe.setV_promoted (T : Troupe) (r : Nat) (m : Mask) (f : Nat → Word) : (T.setV r m f).promoted = T.promoted := rfl
@[simp] theorem Troupe.setV_start (T : Troupe) (r : Nat) (m : Mask) (f : Nat → Word) : (T.setV r m f).start = T.start := rfl
@[simp] theorem Troupe.setV_yielded (T : Troupe) (r : Nat) (m : Mask) (f : Nat → Word) : (T.setV r m f).yielded = T.yielded := rfl
@[simp] theorem Troupe.setV_stopped (T : Troupe) (r : Nat) (m : Mask) (f : Nat → Word) : (T.setV r m f).stopped = T.stopped := rfl
@[simp] theorem Troupe.setV_stepping (T : Troupe) (r : Nat) (m : Mask) (f : Nat → Word) : (T.setV r m f).stepping = T.stepping := rfl
@[simp] theorem Troupe.setS_lm (T : Troupe) (r : Nat) (x : DWord) : (T.setS r x).lm = T.lm := rfl
@[simp] theorem Troupe.setS_role (T : Troupe) (r : Nat) (x : DWord) : (T.setS r x).role = T.role := rfl
@[simp] theorem Troupe.setS_k (T : Troupe) (r : Nat) (x : DWord) : (T.setS r x).k = T.k := rfl
@[simp] theorem Troupe.setS_q (T : Troupe) (r : Nat) (x : DWord) : (T.setS r x).q = T.q := rfl
@[simp] theorem Troupe.setS_rid (T : Troupe) (r : Nat) (x : DWord) : (T.setS r x).rid = T.rid := rfl
@[simp] theorem Troupe.setS_ret (T : Troupe) (r : Nat) (x : DWord) : (T.setS r x).ret = T.ret := rfl
@[simp] theorem Troupe.setS_splits (T : Troupe) (r : Nat) (x : DWord) : (T.setS r x).splits = T.splits := rfl
@[simp] theorem Troupe.setS_stack (T : Troupe) (r : Nat) (x : DWord) : (T.setS r x).stack = T.stack := rfl
@[simp] theorem Troupe.setS_now (T : Troupe) (r : Nat) (x : DWord) : (T.setS r x).now = T.now := rfl
@[simp] theorem Troupe.setS_chk (T : Troupe) (r : Nat) (x : DWord) : (T.setS r x).chk = T.chk := rfl
@[simp] theorem Troupe.setS_flt (T : Troupe) (r : Nat) (x : DWord) : (T.setS r x).flt = T.flt := rfl
@[simp] theorem Troupe.setS_handler (T : Troupe) (r : Nat) (x : DWord) : (T.setS r x).handler = T.handler := rfl
@[simp] theorem Troupe.setS_held (T : Troupe) (r : Nat) (x : DWord) : (T.setS r x).held = T.held := rfl
@[simp] theorem Troupe.setS_run (T : Troupe) (r : Nat) (x : DWord) : (T.setS r x).run = T.run := rfl
@[simp] theorem Troupe.setS_inst (T : Troupe) (r : Nat) (x : DWord) : (T.setS r x).inst = T.inst := rfl
@[simp] theorem Troupe.setS_loads (T : Troupe) (r : Nat) (x : DWord) : (T.setS r x).loads = T.loads := rfl
@[simp] theorem Troupe.setS_passed (T : Troupe) (r : Nat) (x : DWord) : (T.setS r x).passed = T.passed := rfl
@[simp] theorem Troupe.setS_promoted (T : Troupe) (r : Nat) (x : DWord) : (T.setS r x).promoted = T.promoted := rfl
@[simp] theorem Troupe.setS_start (T : Troupe) (r : Nat) (x : DWord) : (T.setS r x).start = T.start := rfl
@[simp] theorem Troupe.setS_yielded (T : Troupe) (r : Nat) (x : DWord) : (T.setS r x).yielded = T.yielded := rfl
@[simp] theorem Troupe.setS_stopped (T : Troupe) (r : Nat) (x : DWord) : (T.setS r x).stopped = T.stopped := rfl
@[simp] theorem Troupe.setS_stepping (T : Troupe) (r : Nat) (x : DWord) : (T.setS r x).stepping = T.stepping := rfl
@[simp] theorem Troupe.setC_lm (T : Troupe) (k : Nat) (x : CapReg) : (T.setC k x).lm = T.lm := rfl
@[simp] theorem Troupe.setC_role (T : Troupe) (k : Nat) (x : CapReg) : (T.setC k x).role = T.role := rfl
@[simp] theorem Troupe.setC_k (T : Troupe) (k : Nat) (x : CapReg) : (T.setC k x).k = T.k := rfl
@[simp] theorem Troupe.setC_q (T : Troupe) (k : Nat) (x : CapReg) : (T.setC k x).q = T.q := rfl
@[simp] theorem Troupe.setC_rid (T : Troupe) (k : Nat) (x : CapReg) : (T.setC k x).rid = T.rid := rfl
@[simp] theorem Troupe.setC_ret (T : Troupe) (k : Nat) (x : CapReg) : (T.setC k x).ret = T.ret := rfl
@[simp] theorem Troupe.setC_splits (T : Troupe) (k : Nat) (x : CapReg) : (T.setC k x).splits = T.splits := rfl
@[simp] theorem Troupe.setC_stack (T : Troupe) (k : Nat) (x : CapReg) : (T.setC k x).stack = T.stack := rfl
@[simp] theorem Troupe.setC_now (T : Troupe) (k : Nat) (x : CapReg) : (T.setC k x).now = T.now := rfl
@[simp] theorem Troupe.setC_chk (T : Troupe) (k : Nat) (x : CapReg) : (T.setC k x).chk = T.chk := rfl
@[simp] theorem Troupe.setC_flt (T : Troupe) (k : Nat) (x : CapReg) : (T.setC k x).flt = T.flt := rfl
@[simp] theorem Troupe.setC_handler (T : Troupe) (k : Nat) (x : CapReg) : (T.setC k x).handler = T.handler := rfl
@[simp] theorem Troupe.setC_held (T : Troupe) (k : Nat) (x : CapReg) : (T.setC k x).held = T.held := rfl
@[simp] theorem Troupe.setC_run (T : Troupe) (k : Nat) (x : CapReg) : (T.setC k x).run = T.run := rfl
@[simp] theorem Troupe.setC_inst (T : Troupe) (k : Nat) (x : CapReg) : (T.setC k x).inst = T.inst := rfl
@[simp] theorem Troupe.setC_loads (T : Troupe) (k : Nat) (x : CapReg) : (T.setC k x).loads = T.loads := rfl
@[simp] theorem Troupe.setC_passed (T : Troupe) (k : Nat) (x : CapReg) : (T.setC k x).passed = T.passed := rfl
@[simp] theorem Troupe.setC_promoted (T : Troupe) (k : Nat) (x : CapReg) : (T.setC k x).promoted = T.promoted := rfl
@[simp] theorem Troupe.setC_start (T : Troupe) (k : Nat) (x : CapReg) : (T.setC k x).start = T.start := rfl
@[simp] theorem Troupe.setC_yielded (T : Troupe) (k : Nat) (x : CapReg) : (T.setC k x).yielded = T.yielded := rfl
@[simp] theorem Troupe.setC_stopped (T : Troupe) (k : Nat) (x : CapReg) : (T.setC k x).stopped = T.stopped := rfl
@[simp] theorem Troupe.setC_stepping (T : Troupe) (k : Nat) (x : CapReg) : (T.setC k x).stepping = T.stepping := rfl
@[simp] theorem Troupe.setC_poison (T : Troupe) (k : Nat) (x : CapReg) : (T.setC k x).poison = T.poison := rfl
@[simp] theorem Troupe.setC_flips (T : Troupe) (k : Nat) (x : CapReg) : (T.setC k x).flips = T.flips := rfl
@[simp] theorem Troupe.pop_lm (T : Troupe) (q : Nat) (m : Mask) : (T.pop q m).lm = T.lm := rfl
@[simp] theorem Troupe.pop_role (T : Troupe) (q : Nat) (m : Mask) : (T.pop q m).role = T.role := rfl
@[simp] theorem Troupe.pop_regs (T : Troupe) (q : Nat) (m : Mask) : (T.pop q m).regs = T.regs := rfl
@[simp] theorem Troupe.pop_k (T : Troupe) (q : Nat) (m : Mask) : (T.pop q m).k = T.k := rfl
@[simp] theorem Troupe.pop_rid (T : Troupe) (q : Nat) (m : Mask) : (T.pop q m).rid = T.rid := rfl
@[simp] theorem Troupe.pop_ret (T : Troupe) (q : Nat) (m : Mask) : (T.pop q m).ret = T.ret := rfl
@[simp] theorem Troupe.pop_splits (T : Troupe) (q : Nat) (m : Mask) : (T.pop q m).splits = T.splits := rfl
@[simp] theorem Troupe.pop_stack (T : Troupe) (q : Nat) (m : Mask) : (T.pop q m).stack = T.stack := rfl
@[simp] theorem Troupe.pop_now (T : Troupe) (q : Nat) (m : Mask) : (T.pop q m).now = T.now := rfl
@[simp] theorem Troupe.pop_chk (T : Troupe) (q : Nat) (m : Mask) : (T.pop q m).chk = T.chk := rfl
@[simp] theorem Troupe.pop_flt (T : Troupe) (q : Nat) (m : Mask) : (T.pop q m).flt = T.flt := rfl
@[simp] theorem Troupe.pop_handler (T : Troupe) (q : Nat) (m : Mask) : (T.pop q m).handler = T.handler := rfl
@[simp] theorem Troupe.pop_held (T : Troupe) (q : Nat) (m : Mask) : (T.pop q m).held = T.held := rfl
@[simp] theorem Troupe.pop_run (T : Troupe) (q : Nat) (m : Mask) : (T.pop q m).run = T.run := rfl
@[simp] theorem Troupe.pop_inst (T : Troupe) (q : Nat) (m : Mask) : (T.pop q m).inst = T.inst := rfl
@[simp] theorem Troupe.pop_loads (T : Troupe) (q : Nat) (m : Mask) : (T.pop q m).loads = T.loads := rfl
@[simp] theorem Troupe.pop_passed (T : Troupe) (q : Nat) (m : Mask) : (T.pop q m).passed = T.passed := rfl
@[simp] theorem Troupe.pop_promoted (T : Troupe) (q : Nat) (m : Mask) : (T.pop q m).promoted = T.promoted := rfl
@[simp] theorem Troupe.pop_start (T : Troupe) (q : Nat) (m : Mask) : (T.pop q m).start = T.start := rfl
@[simp] theorem Troupe.pop_yielded (T : Troupe) (q : Nat) (m : Mask) : (T.pop q m).yielded = T.yielded := rfl
@[simp] theorem Troupe.pop_stopped (T : Troupe) (q : Nat) (m : Mask) : (T.pop q m).stopped = T.stopped := rfl
@[simp] theorem Troupe.pop_stepping (T : Troupe) (q : Nat) (m : Mask) : (T.pop q m).stepping = T.stepping := rfl
@[simp] theorem Troupe.push_lm (T : Troupe) (q l : Nat) (x : Option Word) : (T.push q l x).lm = T.lm := rfl
@[simp] theorem Troupe.push_role (T : Troupe) (q l : Nat) (x : Option Word) : (T.push q l x).role = T.role := rfl
@[simp] theorem Troupe.push_regs (T : Troupe) (q l : Nat) (x : Option Word) : (T.push q l x).regs = T.regs := rfl
@[simp] theorem Troupe.push_k (T : Troupe) (q l : Nat) (x : Option Word) : (T.push q l x).k = T.k := rfl
@[simp] theorem Troupe.push_rid (T : Troupe) (q l : Nat) (x : Option Word) : (T.push q l x).rid = T.rid := rfl
@[simp] theorem Troupe.push_ret (T : Troupe) (q l : Nat) (x : Option Word) : (T.push q l x).ret = T.ret := rfl
@[simp] theorem Troupe.push_splits (T : Troupe) (q l : Nat) (x : Option Word) : (T.push q l x).splits = T.splits := rfl
@[simp] theorem Troupe.push_stack (T : Troupe) (q l : Nat) (x : Option Word) : (T.push q l x).stack = T.stack := rfl
@[simp] theorem Troupe.push_now (T : Troupe) (q l : Nat) (x : Option Word) : (T.push q l x).now = T.now := rfl
@[simp] theorem Troupe.push_chk (T : Troupe) (q l : Nat) (x : Option Word) : (T.push q l x).chk = T.chk := rfl
@[simp] theorem Troupe.push_flt (T : Troupe) (q l : Nat) (x : Option Word) : (T.push q l x).flt = T.flt := rfl
@[simp] theorem Troupe.push_handler (T : Troupe) (q l : Nat) (x : Option Word) : (T.push q l x).handler = T.handler := rfl
@[simp] theorem Troupe.push_held (T : Troupe) (q l : Nat) (x : Option Word) : (T.push q l x).held = T.held := rfl
@[simp] theorem Troupe.push_run (T : Troupe) (q l : Nat) (x : Option Word) : (T.push q l x).run = T.run := rfl
@[simp] theorem Troupe.push_inst (T : Troupe) (q l : Nat) (x : Option Word) : (T.push q l x).inst = T.inst := rfl
@[simp] theorem Troupe.push_loads (T : Troupe) (q l : Nat) (x : Option Word) : (T.push q l x).loads = T.loads := rfl
@[simp] theorem Troupe.push_passed (T : Troupe) (q l : Nat) (x : Option Word) : (T.push q l x).passed = T.passed := rfl
@[simp] theorem Troupe.push_promoted (T : Troupe) (q l : Nat) (x : Option Word) : (T.push q l x).promoted = T.promoted := rfl
@[simp] theorem Troupe.push_start (T : Troupe) (q l : Nat) (x : Option Word) : (T.push q l x).start = T.start := rfl
@[simp] theorem Troupe.push_yielded (T : Troupe) (q l : Nat) (x : Option Word) : (T.push q l x).yielded = T.yielded := rfl
@[simp] theorem Troupe.push_stopped (T : Troupe) (q l : Nat) (x : Option Word) : (T.push q l x).stopped = T.stopped := rfl
@[simp] theorem Troupe.push_stepping (T : Troupe) (q l : Nat) (x : Option Word) : (T.push q l x).stepping = T.stepping := rfl
@[simp] theorem Troupe.stepRun_lm (T : Troupe) (i : Instr) : (T.stepRun i).lm = T.lm := rfl
@[simp] theorem Troupe.stepRun_role (T : Troupe) (i : Instr) : (T.stepRun i).role = T.role := rfl
@[simp] theorem Troupe.stepRun_regs (T : Troupe) (i : Instr) : (T.stepRun i).regs = T.regs := rfl
@[simp] theorem Troupe.stepRun_k (T : Troupe) (i : Instr) : (T.stepRun i).k = T.k := rfl
@[simp] theorem Troupe.stepRun_q (T : Troupe) (i : Instr) : (T.stepRun i).q = T.q := rfl
@[simp] theorem Troupe.stepRun_rid (T : Troupe) (i : Instr) : (T.stepRun i).rid = T.rid := rfl
@[simp] theorem Troupe.stepRun_ret (T : Troupe) (i : Instr) : (T.stepRun i).ret = T.ret := rfl
@[simp] theorem Troupe.stepRun_splits (T : Troupe) (i : Instr) : (T.stepRun i).splits = T.splits := rfl
@[simp] theorem Troupe.stepRun_stack (T : Troupe) (i : Instr) : (T.stepRun i).stack = T.stack := rfl
@[simp] theorem Troupe.stepRun_now (T : Troupe) (i : Instr) : (T.stepRun i).now = T.now := rfl
@[simp] theorem Troupe.stepRun_chk (T : Troupe) (i : Instr) : (T.stepRun i).chk = T.chk := rfl
@[simp] theorem Troupe.stepRun_flt (T : Troupe) (i : Instr) : (T.stepRun i).flt = T.flt := rfl
@[simp] theorem Troupe.stepRun_handler (T : Troupe) (i : Instr) : (T.stepRun i).handler = T.handler := rfl
@[simp] theorem Troupe.stepRun_held (T : Troupe) (i : Instr) : (T.stepRun i).held = T.held := rfl
@[simp] theorem Troupe.stepRun_inst (T : Troupe) (i : Instr) : (T.stepRun i).inst = T.inst := rfl
@[simp] theorem Troupe.stepRun_loads (T : Troupe) (i : Instr) : (T.stepRun i).loads = T.loads := rfl
@[simp] theorem Troupe.stepRun_passed (T : Troupe) (i : Instr) : (T.stepRun i).passed = T.passed := rfl
@[simp] theorem Troupe.stepRun_promoted (T : Troupe) (i : Instr) : (T.stepRun i).promoted = T.promoted := rfl
@[simp] theorem Troupe.stepRun_start (T : Troupe) (i : Instr) : (T.stepRun i).start = T.start := rfl
@[simp] theorem Troupe.stepRun_yielded (T : Troupe) (i : Instr) : (T.stepRun i).yielded = T.yielded := rfl
@[simp] theorem Troupe.stepRun_stopped (T : Troupe) (i : Instr) : (T.stepRun i).stopped = T.stopped := rfl
@[simp] theorem Troupe.stepRun_stepping (T : Troupe) (i : Instr) : (T.stepRun i).stepping = T.stepping := rfl
@[simp] theorem Troupe.stepRun_poison (T : Troupe) (i : Instr) : (T.stepRun i).poison = T.poison := rfl
@[simp] theorem Troupe.stepRun_flips (T : Troupe) (i : Instr) : (T.stepRun i).flips = T.flips := rfl
@[simp] theorem Troupe.tick_lm (T : Troupe) : (T.tick).lm = T.lm := rfl
@[simp] theorem Troupe.tick_role (T : Troupe) : (T.tick).role = T.role := rfl
@[simp] theorem Troupe.tick_regs (T : Troupe) : (T.tick).regs = T.regs := rfl
@[simp] theorem Troupe.tick_k (T : Troupe) : (T.tick).k = T.k := rfl
@[simp] theorem Troupe.tick_q (T : Troupe) : (T.tick).q = T.q := rfl
@[simp] theorem Troupe.tick_rid (T : Troupe) : (T.tick).rid = T.rid := rfl
@[simp] theorem Troupe.tick_ret (T : Troupe) : (T.tick).ret = T.ret := rfl
@[simp] theorem Troupe.tick_splits (T : Troupe) : (T.tick).splits = T.splits := rfl
@[simp] theorem Troupe.tick_stack (T : Troupe) : (T.tick).stack = T.stack := rfl
@[simp] theorem Troupe.tick_chk (T : Troupe) : (T.tick).chk = T.chk := rfl
@[simp] theorem Troupe.tick_flt (T : Troupe) : (T.tick).flt = T.flt := rfl
@[simp] theorem Troupe.tick_handler (T : Troupe) : (T.tick).handler = T.handler := rfl
@[simp] theorem Troupe.tick_held (T : Troupe) : (T.tick).held = T.held := rfl
@[simp] theorem Troupe.tick_run (T : Troupe) : (T.tick).run = T.run := rfl
@[simp] theorem Troupe.tick_inst (T : Troupe) : (T.tick).inst = T.inst := rfl
@[simp] theorem Troupe.tick_loads (T : Troupe) : (T.tick).loads = T.loads := rfl
@[simp] theorem Troupe.tick_passed (T : Troupe) : (T.tick).passed = T.passed := rfl
@[simp] theorem Troupe.tick_promoted (T : Troupe) : (T.tick).promoted = T.promoted := rfl
@[simp] theorem Troupe.tick_start (T : Troupe) : (T.tick).start = T.start := rfl
@[simp] theorem Troupe.tick_yielded (T : Troupe) : (T.tick).yielded = T.yielded := rfl
@[simp] theorem Troupe.tick_stopped (T : Troupe) : (T.tick).stopped = T.stopped := rfl
@[simp] theorem Troupe.tick_stepping (T : Troupe) : (T.tick).stepping = T.stepping := rfl
@[simp] theorem Troupe.tick_poison (T : Troupe) : (T.tick).poison = T.poison := rfl
@[simp] theorem Troupe.tick_flips (T : Troupe) : (T.tick).flips = T.flips := rfl
@[simp] theorem Troupe.setV_regs_p (T : Troupe) (r : Nat) (m : Mask) (f : Nat → Word) : (T.setV r m f).regs.p = T.regs.p := rfl
@[simp] theorem Troupe.setV_regs_s (T : Troupe) (r : Nat) (m : Mask) (f : Nat → Word) : (T.setV r m f).regs.s = T.regs.s := rfl
@[simp] theorem Troupe.setV_regs_g (T : Troupe) (r : Nat) (m : Mask) (f : Nat → Word) : (T.setV r m f).regs.g = T.regs.g := rfl
@[simp] theorem Troupe.setV_regs_c (T : Troupe) (r : Nat) (m : Mask) (f : Nat → Word) : (T.setV r m f).regs.c = T.regs.c := rfl
@[simp] theorem Troupe.setV_regs_nf (T : Troupe) (r : Nat) (m : Mask) (f : Nat → Word) : (T.setV r m f).regs.nf = T.regs.nf := rfl
@[simp] theorem Troupe.setS_regs_v (T : Troupe) (r : Nat) (x : DWord) : (T.setS r x).regs.v = T.regs.v := rfl
@[simp] theorem Troupe.setS_regs_p (T : Troupe) (r : Nat) (x : DWord) : (T.setS r x).regs.p = T.regs.p := rfl
@[simp] theorem Troupe.setS_regs_g (T : Troupe) (r : Nat) (x : DWord) : (T.setS r x).regs.g = T.regs.g := rfl
@[simp] theorem Troupe.setS_regs_c (T : Troupe) (r : Nat) (x : DWord) : (T.setS r x).regs.c = T.regs.c := rfl
@[simp] theorem Troupe.setS_regs_nf (T : Troupe) (r : Nat) (x : DWord) : (T.setS r x).regs.nf = T.regs.nf := rfl
@[simp] theorem Troupe.setC_regs_v (T : Troupe) (k : Nat) (x : CapReg) : (T.setC k x).regs.v = T.regs.v := rfl
@[simp] theorem Troupe.setC_regs_p (T : Troupe) (k : Nat) (x : CapReg) : (T.setC k x).regs.p = T.regs.p := rfl
@[simp] theorem Troupe.setC_regs_s (T : Troupe) (k : Nat) (x : CapReg) : (T.setC k x).regs.s = T.regs.s := rfl
@[simp] theorem Troupe.setC_regs_g (T : Troupe) (k : Nat) (x : CapReg) : (T.setC k x).regs.g = T.regs.g := rfl
@[simp] theorem Troupe.setC_regs_nf (T : Troupe) (k : Nat) (x : CapReg) : (T.setC k x).regs.nf = T.regs.nf := rfl

/-! ### What a change of a block, troupe or core reads as -/

theorem State.modBlk_find (s : State) (b : Nat) (f : Block → Block) (j : Nat) :
    (s.modBlk b f).blocks.find j = if j = b then (s.blocks.find j).map f else s.blocks.find j :=
  Tab.find_mod ..

theorem State.modCore_core (s : State) (c : Nat) (f : Core → Core) (j : Nat) :
    (s.modCore c f).core j = if j = c then f (s.core c) else s.core j := by
  simp only [State.core, State.modCore, Tab.get_put]

@[simp] theorem State.modCore_core_same (s : State) (c : Nat) (f : Core → Core) : (s.modCore c f).core c = f (s.core c) := by
  simp [State.modCore_core]

@[simp] theorem State.onTrp_core (s : State) (c : Ctx) (f : Troupe → Troupe) (k : Nat) : (s.onTrp c f).core k = s.core k := rfl

/-- Two changes of one troupe are one. -/
theorem State.modTrp_modTrp (s : State) (b t : Nat) (f g : Troupe → Troupe) :
    (s.modTrp b t f).modTrp b t g = s.modTrp b t (g ∘ f) := by
  simp only [State.modTrp, State.modBlk, Tab.mod_mod]
  congr 2
  funext B
  simp [Tab.mod_mod]

theorem State.onTrp_onTrp (s : State) (c : Ctx) (f g : Troupe → Troupe) :
    (s.onTrp c f).onTrp c g = s.onTrp c (g ∘ f) := State.modTrp_modTrp ..

end Sys2Proof.Machine
end

