-- ==== Sys2Proof/Laws/Issue.lean ====
section
/-! SUPPORT. What the issue of a word answers: a split in nothing's way reaches the word's effect; an effect that is done
changes only what it says and lets the split go on; the faults that precede an effect. -/
namespace Sys2Proof.Machine

/-- Opening a run changes nothing but the run. -/
theorem Troupe.openRun_eq (T : Troupe) (i : Instr) (e : Nat) (pc : Word) :
    T.openRun i e pc = { T with run := match T.run with
      | some r => some r
      | none => if i.h then some ⟨e, pc, 0, [], T.regs, T.poison, T.flips⟩ else none } := by
  obtain ⟨⟩ := T
  unfold Troupe.openRun
  dsimp only
  split
  · rfl
  · split <;> simp_all

@[simp] theorem Ctx.opened_b (c : Ctx) (i : Instr) : (c.opened i).b = c.b := rfl
@[simp] theorem Ctx.opened_t (c : Ctx) (i : Instr) : (c.opened i).t = c.t := rfl
@[simp] theorem Ctx.opened_e (c : Ctx) (i : Instr) : (c.opened i).e = c.e := rfl
@[simp] theorem Ctx.opened_blk (c : Ctx) (i : Instr) : (c.opened i).blk = c.blk := rfl
@[simp] theorem Ctx.opened_sp (c : Ctx) (i : Instr) : (c.opened i).sp = c.sp := rfl
@[simp] theorem Ctx.opened_task (c : Ctx) (i : Instr) : (c.opened i).task = c.task := rfl
@[simp] theorem Ctx.opened_regs (c : Ctx) (i : Instr) : (c.opened i).trp.regs = c.trp.regs := by
  simp [Ctx.opened, Troupe.openRun_eq]
@[simp] theorem Ctx.opened_lm (c : Ctx) (i : Instr) : (c.opened i).trp.lm = c.trp.lm := by
  simp [Ctx.opened, Troupe.openRun_eq]
@[simp] theorem Ctx.opened_q (c : Ctx) (i : Instr) : (c.opened i).trp.q = c.trp.q := by
  simp [Ctx.opened, Troupe.openRun_eq]
@[simp] theorem Ctx.opened_splits (c : Ctx) (i : Instr) : (c.opened i).trp.splits = c.trp.splits := by
  simp [Ctx.opened, Troupe.openRun_eq]
@[simp] theorem Ctx.opened_poison (c : Ctx) (i : Instr) : (c.opened i).trp.poison = c.trp.poison := by
  simp [Ctx.opened, Troupe.openRun_eq]
@[simp] theorem Ctx.opened_flips (c : Ctx) (i : Instr) : (c.opened i).trp.flips = c.trp.flips := by
  simp [Ctx.opened, Troupe.openRun_eq]
@[simp] theorem Ctx.opened_k (c : Ctx) (i : Instr) : (c.opened i).trp.k = c.trp.k := by
  simp [Ctx.opened, Troupe.openRun_eq]
@[simp] theorem Ctx.opened_flt (c : Ctx) (i : Instr) : (c.opened i).trp.flt = c.trp.flt := by
  simp [Ctx.opened, Troupe.openRun_eq]

/-- Opening a run leaves the latches an operand can name. -/
@[simp] theorem Ctx.opened_latches (c : Ctx) (i : Instr) : (c.opened i).trp.latches = c.trp.latches := by
  simp only [Ctx.opened, Troupe.openRun_eq, Troupe.latches]
  cases hr : c.trp.run <;> simp
  split <;> rfl

@[simp] theorem Ctx.operand_opened (c : Ctx) (i : Instr) (k : BitVec 8) (t l : Nat) :
    (c.opened i).operand k t l = c.operand k t l := by
  have hr : (c.opened i).trp.rid = c.trp.rid := by simp [Ctx.opened, Troupe.openRun_eq]
  unfold Ctx.operand
  simp only [Ctx.regs, Ctx.reg, Ctx.s, Troupe.rowId, Troupe.front, hr, Ctx.opened_latches, Ctx.opened_regs, Ctx.opened_q,
    Ctx.opened_t]

@[simp] theorem Ctx.guarded_opened (c : Ctx) (i j : Instr) : (c.opened i).guarded j = c.guarded j := by
  unfold Ctx.guarded Ctx.active Ctx.predMask
  simp

@[simp] theorem Ctx.popWait_opened (c : Ctx) (i j : Instr) (m : Mask) (s s' : State)
    (h : c.popWait j m s = none) : (c.opened i).popWait j m s' = none := by
  unfold Ctx.popWait at h ⊢
  have hf : ∀ q l, (c.opened i).trp.front q l = c.trp.front q l := fun q l => by simp [Troupe.front]
  dsimp only at h ⊢
  simp only [hf]
  cases hq : j.popped.find? fun q => (lanesOf m).any fun l => (c.trp.front q l).isNone with
  | none => rfl
  | some q =>
    rw [hq] at h
    dsimp only at h
    split at h <;> simp at h

/-- A word that nothing keeps from issuing has its effect. -/
theorem State.issueWord_ready (s : State) (c : Ctx) (i : Instr) (eff : Ctx → State → Res) (h : Ready s c i) :
    s.issueWord i eff =
      match eff (c.opened i) (s.onTrp c fun T => T.openRun i c.e c.sp.pc) with
      | .stall => .next s.noIssue
      | r => .next ((s.onTrp c fun T => T.openRun i c.e c.sp.pc).finish (c.opened i) i r) := by
  obtain ⟨hf, hc, hi, hp, hl, hk, hu, hh⟩ := h
  simp only [State.unheld, Bool.and_eq_true, Bool.not_eq_true'] at hh
  have hpipe : s.pipeCheck c i = .ok (false, s) := by simp [State.pipeCheck, hk, hu]
  have hmet : s.readFlips c i = (false, s) := by simp [State.readFlips, hl]
  unfold State.issueWord
  simp only [hf, hc, hi, hp, hh.1, hh.2, hpipe, hmet, List.head?_nil, Bool.false_eq_true, if_false, Bool.or_self,
    Bool.not_true] <;> rfl

/-- A word with a cause of ILLEGAL faults by its lowest cause before anything else (10 R262). -/
theorem State.issueWord_illegal (s : State) (c : Ctx) (i : Instr) (eff : Ctx → State → Res) (k : Nat)
    (hf : s.focus? = some c) (hk : (c.causes i).head? = some k) :
    s.issueWord i eff = .next (s.raiseFault c ⟨0x01, 0, k⟩ (if k % 16 = 10 then c.first else c.sp.pc)) := by
  unfold State.issueWord
  simp only [hf, hk]

/-- A change of the issuing troupe, as what reads of the state. -/
theorem OnlyTroupe.of_onTrp (s : State) (c : Ctx) (f : Troupe → Troupe) (h : s.focus? = some c) :
    OnlyTroupe s (s.onTrp c f) c (f c.trp) := by
  unfold State.focus? at h
  cases hr : s.cur with
  | none => simp [hr] at h
  | some r =>
    simp only [hr] at h
    cases hB : s.blocks.find r.b with
    | none => simp [hB] at h
    | some B =>
      simp only [hB] at h
      cases hT : B.troupes.find r.t with
      | none => simp [hT] at h
      | some T =>
        cases hK : s.tasks.find B.task with
        | none => simp [hT, hK] at h
        | some K =>
          simp only [hT, hK] at h
          cases hS : T.splits.find r.e with
          | none => simp [hS] at h
          | some S =>
            simp only [hS, Option.some.injEq] at h
            subst h
            refine ⟨rfl, fun b hb => ?_, { B with troupes := B.troupes.mod r.t f }, ?_, rfl, ?_, fun k hk => ?_⟩
            · simp [State.modTrp, Tab.find_mod, hb]
            · simp [State.modTrp, hB]
            · simp [hT]
            · simp [Tab.find_mod, hk]

/-- The split and troupe of a state in focus. -/
theorem State.focus?_splits (s : State) (c : Ctx) (h : s.focus? = some c) : c.trp.splits.find c.e = some c.sp := by
  unfold State.focus? at h
  cases hr : s.cur with
  | none => simp [hr] at h
  | some r =>
    simp only [hr] at h
    cases hB : s.blocks.find r.b with
    | none => simp [hB] at h
    | some B =>
      simp only [hB] at h
      cases hT : B.troupes.find r.t with
      | none => simp [hT] at h
      | some T =>
        cases hK : s.tasks.find B.task with
        | none => simp [hT, hK] at h
        | some K =>
          simp only [hT, hK] at h
          cases hS : T.splits.find r.e with
          | none => simp [hS] at h
          | some S =>
            simp only [hS, Option.some.injEq] at h
            subst h; exact hS

/-- A word whose effect is one change `f` of the issuing troupe completes: only that troupe changes. -/
theorem State.issueWord_onTrp (s : State) (c : Ctx) (i : Instr) (eff : Ctx → State → Res) (f : Troupe → Troupe)
    (h : Ready s c i) (he : eff (c.opened i) (s.onTrp c fun T => T.openRun i c.e c.sp.pc) =
      .done ((s.onTrp c fun T => T.openRun i c.e c.sp.pc).onTrp c f)) :
    ∃ t, s.issueWord i eff = .next t ∧ OnlyTroupe s t c (c.after i (f (c.opened i).trp)) := by
  rw [State.issueWord_ready s c i eff h, he]
  refine ⟨_, rfl, ?_⟩
  have e : (s.onTrp c fun T => T.openRun i c.e c.sp.pc).finish (c.opened i) i
      (.done ((s.onTrp c fun T => T.openRun i c.e c.sp.pc).onTrp c f)) =
      s.onTrp c fun T => c.after i (f (T.openRun i c.e c.sp.pc)) := by
    simp only [State.finish, State.advance, State.onSplit, State.modSplit, State.onTrp, Ctx.opened_b, Ctx.opened_t,
      Ctx.opened_e, Ctx.opened_sp, State.modTrp_modTrp]
    rfl
  rw [e]
  exact OnlyTroupe.of_onTrp s c (fun T => c.after i (f (T.openRun i c.e c.sp.pc))) h.1

/-- A word whose effect is one change of the issuing troupe that sets its split's pc or state itself. -/
theorem State.issueWord_went (s : State) (c : Ctx) (i : Instr) (eff : Ctx → State → Res) (f : Troupe → Troupe)
    (h : Ready s c i)
    (he : eff (c.opened i) (s.onTrp c fun T => T.openRun i c.e c.sp.pc) =
      .went ((s.onTrp c fun T => T.openRun i c.e c.sp.pc).onTrp c f)) :
    ∃ u, s.issueWord i eff = .next ((u.settleTrp c.b c.t).stepEnds c.b c.t c.e c.sp.own) ∧
      OnlyTroupe s u c { f (c.opened i).trp with run := none } := by
  rw [State.issueWord_ready s c i eff h, he]
  refine ⟨s.onTrp c fun T => { f (T.openRun i c.e c.sp.pc) with run := none }, ?_,
    OnlyTroupe.of_onTrp s c (fun T => { f (T.openRun i c.e c.sp.pc) with run := none }) h.1⟩
  simp only [State.finish, State.onTrp, Ctx.opened_b, Ctx.opened_t, Ctx.opened_e, Ctx.opened_sp, State.modTrp_modTrp]
  rfl

/-- A word whose effect is a fault, at the split's pc. -/
theorem State.issueWord_trap (s : State) (c : Ctx) (i : Instr) (eff : Ctx → State → Res) (r : Raise)
    (h : Ready s c i) (he : eff (c.opened i) (s.onTrp c fun T => T.openRun i c.e c.sp.pc) = .trap r)
    (hr : ¬ (r.code = 0x01 ∧ r.detail % 16 = 10)) :
    s.issueWord i eff = .next ((s.onTrp c fun T => T.openRun i c.e c.sp.pc).raiseFault (c.opened i) r c.sp.pc) := by
  rw [State.issueWord_ready s c i eff h, he]
  simp only [State.finish, Bool.and_eq_true, decide_eq_true_eq, hr, if_false, Ctx.opened_sp]

/-- A word whose effect is one change of the issuing troupe and leaves the split waiting at the word. -/
theorem State.issueWord_park (s : State) (c : Ctx) (i : Instr) (eff : Ctx → State → Res) (f : Troupe → Troupe)
    (h : Ready s c i)
    (he : eff (c.opened i) (s.onTrp c fun T => T.openRun i c.e c.sp.pc) =
      .park ((s.onTrp c fun T => T.openRun i c.e c.sp.pc).onTrp c f))
    (hw : (((f (c.opened i).trp).abandon c.e).splits.find c.e).any (fun S => S.wait = .ready) = false) :
    ∃ t, s.issueWord i eff = .next t ∧ OnlyTroupe s t c (((f (c.opened i).trp).abandon c.e).endStep) := by
  rw [State.issueWord_ready s c i eff h, he]
  refine ⟨_, rfl, ?_⟩
  simp only [State.finish, State.onTrp, Ctx.opened_b, Ctx.opened_t, Ctx.opened_e, State.modTrp_modTrp]
  have e := OnlyTroupe.of_onTrp s c (fun T => if (((f (T.openRun i c.e c.sp.pc)).abandon c.e).splits.find c.e).any
    (fun S => S.wait = .ready) then (f (T.openRun i c.e c.sp.pc)).abandon c.e
    else ((f (T.openRun i c.e c.sp.pc)).abandon c.e).endStep) h.1
  rw [show c.trp.openRun i c.e c.sp.pc = (c.opened i).trp from rfl, hw] at e
  exact e

theorem WordCompletes.of {i : Instr} {pre : State → Ctx → Prop} {post : State → Ctx → Troupe → Prop}
    (eff : Ctx → State → Res) (f : State → Ctx → Troupe → Troupe) (hx : ∀ s, exec i s = s.issueWord i eff)
    (he : ∀ s c, Ready s c i → pre s c → eff (c.opened i) (s.onTrp c fun T => T.openRun i c.e c.sp.pc) =
      .done ((s.onTrp c fun T => T.openRun i c.e c.sp.pc).onTrp c (f s c)))
    (hp : ∀ s c, Ready s c i → pre s c → post s c (f s c (c.opened i).trp)) : WordCompletes i pre post := by
  intro s c hr h
  obtain ⟨t, ht, ho⟩ := State.issueWord_onTrp s c i eff (f s c) hr (he s c hr h)
  exact ⟨t, _, (hx s).trans ht, ho, hp s c hr h⟩

theorem WentCompletes.of {i : Instr} {pre : State → Ctx → Prop} {post : State → Ctx → Troupe → Prop}
    (eff : Ctx → State → Res) (f : State → Ctx → Troupe → Troupe) (hx : ∀ s, exec i s = s.issueWord i eff)
    (he : ∀ s c, Ready s c i → pre s c → eff (c.opened i) (s.onTrp c fun T => T.openRun i c.e c.sp.pc) =
      .went ((s.onTrp c fun T => T.openRun i c.e c.sp.pc).onTrp c (f s c)))
    (hp : ∀ s c, Ready s c i → pre s c → post s c (f s c (c.opened i).trp)) : WentCompletes i pre post := by
  intro s c hr h
  obtain ⟨u, hu, ho⟩ := State.issueWord_went s c i eff (f s c) hr (he s c hr h)
  exact ⟨u, _, (hx s).trans hu, ho, hp s c hr h⟩

/-- A uniform register write, described. -/
theorem UniResult.of_setS (c : Ctx) (i : Instr) (d : Nat) (x : DWord) : UniResult c i d x ((c.opened i).trp.setS d x) := by
  refine ⟨fun r => ?_, fun u => ?_, fun u => ?_, ?_⟩
  · simp [Troupe.setS, Tab.get_set]
  · simp [Troupe.setS, List.mem_filter]
  · simp [Troupe.setS, List.mem_filter]
  · simp [Troupe.setS, Ctx.opened, Troupe.openRun_eq]

theorem UniCompletes.of {i : Instr} {d : BitVec 6} {x : State → Ctx → DWord} (eff : Ctx → State → Res)
    (hx : ∀ s, exec i s = s.issueWord i eff)
    (he : ∀ s c, Ready s c i → eff (c.opened i) (s.onTrp c fun T => T.openRun i c.e c.sp.pc) =
      .done ((s.onTrp c fun T => T.openRun i c.e c.sp.pc).setS c d (x s c))) : UniCompletes i d x :=
  WordCompletes.of eff (fun s c T => T.setS d.toNat (x s c)) hx (fun s c hr _ => he s c hr)
    (fun s c _ _ => UniResult.of_setS c i d.toNat (x s c))

end Sys2Proof.Machine
end

