-- ==== Sys2Proof/Laws/Lane.lean ====
section
/-! SUPPORT. What a lane instruction does (12 R296): one lemma for the shared shape `laneFx`, from lemmas about the writes it
makes. -/
namespace Sys2Proof.Machine

/-! ## Register writes -/

/-- A lane write reads back in the lanes of its mask and changes no other word. -/
theorem Troupe.lane_setV (T : Troupe) (r : Nat) (m : Mask) (f : Nat → Word) (k l : Nat) (h : l < 32) :
    (T.setV r m f).regs.lane k l = if k = r ∧ m.getLsbD l = true then f l else T.regs.lane k l := by
  unfold Troupe.setV Regs.lane
  simp only [Tab.get_set]
  by_cases hk : k = r <;> simp [hk, h]

theorem Troupe.lane_setVs (T : Troupe) (w : Bool) (r : Nat) (m : Mask) (f : Nat → Nat) (k l : Nat) (h : l < 32) :
    (T.setVs w r m f).regs.lane k l =
      if m.getLsbD l = true then ((Dst.v w r).word f k l).getD (T.regs.lane k l) else T.regs.lane k l := by
  unfold Troupe.setVs
  cases w <;> simp only [Bool.false_eq_true, if_false, if_true, Troupe.lane_setV, h, Dst.word]
  · by_cases hm : m.getLsbD l = true <;> by_cases hk : k = r <;> simp [hm, hk]
  · by_cases hm : m.getLsbD l = true <;> by_cases hk : k = r <;> by_cases hk' : k = r + 1 <;> simp [hm, hk, hk']

/-- A register write changes the register's words, and takes the written units' poison and single errors away. -/
theorem Troupe.setVs_rest (T : Troupe) (w : Bool) (r : Nat) (m : Mask) (f : Nat → Nat) :
    ∃ v, T.setVs w r m f = { T with
      regs := { T.regs with v := v }
      poison := T.poison.filter ((Dst.v w r).keeps m), flips := T.flips.filter ((Dst.v w r).keeps m) } := by
  cases w
  · have hk : (Dst.v false r).keeps m = fun u => !inLanes r m u := funext fun u => by simp [Dst.keeps]
    rw [hk]; exact ⟨_, rfl⟩
  · have hk : (Dst.v true r).keeps m = fun u => !inLanes (r + 1) m u && !inLanes r m u :=
      funext fun u => by simp [Dst.keeps, Bool.and_comm]
    rw [hk]
    simp only [Troupe.setVs, Troupe.setV, List.filter_filter, if_true]
    exact ⟨_, rfl⟩

theorem maskOf_getLsbD (p : Nat → Bool) (l : Nat) (h : l < 32) : (maskOf p).getLsbD l = p l := by
  have key : ∀ n ≤ 32, ((List.range n).foldl (fun m l => if p l then m ||| (1#32 <<< l) else m) 0#32).getLsbD l =
      (decide (l < n) && p l) := by
    intro n hn
    induction n with
    | zero => simp
    | succ n ih =>
      have ih := ih (by omega)
      rw [List.range_succ, List.foldl_append, List.foldl_cons, List.foldl_nil]
      by_cases hp : p n = true
      · simp only [hp, if_true, BitVec.getLsbD_or, ih, BitVec.getLsbD_shiftLeft]
        by_cases hl : l = n
        · subst hl; simp [hp, h]
        · by_cases hlt : l < n
          · simp [hlt, Nat.lt_succ_of_lt hlt]
          · have : ¬ l < n + 1 := by omega
            have h0 : l - n ≠ 0 := by omega
            simp [hlt, this, h0]
      · simp only [hp, if_false, ih, Bool.false_eq_true]
        by_cases hl : l = n
        · subst hl; simp [hp]
        · have : (l < n + 1) ↔ l < n := by omega
          simp [this]
  have := key 32 (Nat.le_refl _)
  simpa [maskOf, lanes32, h] using this

theorem Troupe.pred_setP (T : Troupe) (k : Nat) (m x : Mask) (j l : Nat) :
    ((T.setP k m x).regs.p.get 0 j).getLsbD l =
      if j = k ∧ k ≠ 0 ∧ m.getLsbD l = true then x.getLsbD l else (T.regs.p.get 0 j).getLsbD l := by
  unfold Troupe.setP
  by_cases hk : k = 0
  · simp [hk]
  · simp only [hk, if_false, Tab.get_set]
    by_cases hj : j = k
    · by_cases hm : m.getLsbD l = true
      · simp [hj, hk, hm]
      · have hm' : m.getLsbD l = false := by simpa using hm
        subst hj
        by_cases hl : l < 32
        · simp only [hm', hl, Bool.false_eq_true, and_false, if_false, if_true, BitVec.getLsbD_or, BitVec.getLsbD_and,
            BitVec.getLsbD_not]
          simp
        · simp [hk, hm', BitVec.getLsbD_of_ge _ _ (Nat.le_of_not_lt hl)]
    · simp [hj]

theorem Troupe.setP_rest (T : Troupe) (k : Nat) (m x : Mask) :
    ∃ p, T.setP k m x = { T with
      regs := { T.regs with p := p }
      poison := T.poison.filter ((Dst.p k).keeps m), flips := T.flips.filter ((Dst.p k).keeps m) } := by
  unfold Troupe.setP; split
  · next h =>
    have hk : (Dst.p k).keeps m = fun _ => true := funext fun u => by simp [Dst.keeps, h]
    exact ⟨T.regs.p, by simp [hk]⟩
  · next h =>
    have hk : (Dst.p k).keeps m = fun u => !(u = 8192 + k && m = 0xFFFFFFFF#32) := funext fun u => by simp [Dst.keeps, h]
    rw [hk]; exact ⟨_, rfl⟩

/-! ## Queues -/

theorem lanesOf_mem (m : Mask) (l : Nat) : l ∈ lanesOf m ↔ l < 32 ∧ m.getLsbD l = true := by
  simp [lanesOf, lanes32]

theorem Troupe.get_pop (T : Troupe) (q : Nat) (m : Mask) (j : Nat) :
    (T.pop q m).q.get [] j =
      if ∃ l ∈ lanesOf m, j = 32 * q + l then (T.q.get [] j).drop 1 else T.q.get [] j := by
  have key : ∀ (ls : List Nat) (Q : Tab (List (Option Word))),
      (ls.foldl (fun Q l => Q.set [] (32 * q + l) ((T.q.get [] (32 * q + l)).drop 1)) Q).get [] j =
        if ∃ l ∈ ls, j = 32 * q + l then (T.q.get [] j).drop 1 else Q.get [] j := by
    intro ls
    induction ls with
    | nil => simp
    | cons a r ih =>
      intro Q
      rw [List.foldl_cons, ih, Tab.get_set]
      by_cases h1 : ∃ l ∈ r, j = 32 * q + l
      · obtain ⟨l, hl, rfl⟩ := h1
        simp [hl]
      · by_cases h2 : j = 32 * q + a
        · subst h2; simp
        · simp [h1, h2]
  exact key (lanesOf m) T.q

theorem nodup_eraseDups (xs : List Nat) : xs.eraseDups.Nodup := by
  generalize hn : xs.length = n
  induction n using Nat.strongRecOn generalizing xs with
  | _ n ih =>
    cases xs with
    | nil => simp
    | cons a r =>
      rw [List.eraseDups_cons, List.nodup_cons]
      refine ⟨by simp [List.mem_eraseDups], ih _ ?_ _ rfl⟩
      subst hn
      exact Nat.lt_succ_of_le (List.length_filter_le _ _)

/-- Each named queue loses its head in the lanes of the mask, once. -/
theorem Troupe.get_pops (T : Troupe) (i : Instr) (m : Mask) (q l : Nat) (h : l < 32) :
    (T.pops i m).q.get [] (32 * q + l) =
      if q ∈ i.popped ∧ m.getLsbD l = true then (T.q.get [] (32 * q + l)).drop 1 else T.q.get [] (32 * q + l) := by
  have hn : i.popped.Nodup := nodup_eraseDups _
  have one : ∀ (T : Troupe) (p : Nat), (T.pop p m).q.get [] (32 * q + l) =
      if q = p ∧ m.getLsbD l = true then (T.q.get [] (32 * q + l)).drop 1 else T.q.get [] (32 * q + l) := by
    intro T p
    rw [Troupe.get_pop]
    by_cases hq : q = p
    · subst hq
      by_cases hm : m.getLsbD l = true
      · rw [if_pos ⟨l, (lanesOf_mem m l).2 ⟨h, hm⟩, rfl⟩, if_pos ⟨rfl, hm⟩]
      · rw [if_neg, if_neg (by simp [hm])]
        rintro ⟨l', hl', he⟩
        have : l = l' := by omega
        subst this; exact hm ((lanesOf_mem m l).1 hl').2
    · rw [if_neg, if_neg (by simp [hq])]
      rintro ⟨l', hl', he⟩
      have := ((lanesOf_mem m l').1 hl').1
      omega
  have key : ∀ (ps : List Nat) (T : Troupe), ps.Nodup → (ps.foldl (fun T q => T.pop q m) T).q.get [] (32 * q + l) =
      if q ∈ ps ∧ m.getLsbD l = true then (T.q.get [] (32 * q + l)).drop 1 else T.q.get [] (32 * q + l) := by
    intro ps
    induction ps with
    | nil => simp
    | cons a r ih =>
      intro T hnd
      rw [List.nodup_cons] at hnd
      rw [List.foldl_cons, ih _ hnd.2, one]
      by_cases hq : q = a
      · subst hq; simp [hnd.1]
      · simp [hq]
  exact key _ T hn

theorem Troupe.pops_rest (T : Troupe) (i : Instr) (m : Mask) : ∃ Q, T.pops i m = { T with
    q := Q
    poison := i.popped.foldl (fun us q => poppedUnits q m us) T.poison
    flips := i.popped.foldl (fun us q => poppedUnits q m us) T.flips } := by
  unfold Troupe.pops
  generalize i.popped = ps
  induction ps generalizing T with
  | nil => exact ⟨_, rfl⟩
  | cons a r ih =>
    obtain ⟨Q, hQ⟩ := ih (T.pop a m)
    exact ⟨Q, by rw [List.foldl_cons, hQ]; rfl⟩

/-! ## The shared shape -/

/-- What `laneFx` does to the issuing troupe, as one change. -/
def laneChange (i : Instr) (d : Dst) (m : Mask) (out : Nat → Nat) (fl : Flags) (x : Lanes DWord) (T : Troupe) : Troupe :=
  let T1 := ((T.pops i m).result i d m fun l => out l % 2 ^ d.bits).latch i x
  { T1 with regs := { T1.regs with nf := T1.regs.nf ||| (fl &&& 0x03FF#16) } }

theorem laneFx_eq (i : Instr) (d : Dst) (val : Ctx → Nat → Nat × Flags) (c c' : Ctx) (s : State)
    (hb : c'.b = c.b ∧ c'.t = c.t ∧ c'.blk = c.blk) (hw : c'.popWait i (c'.guarded i) s = none)
    (hk : (s.core c.blk.core).pipe = none) :
    laneFx i d val c' s = .done (s.onTrp c (laneChange i d (c'.guarded i) (fun l => (val c' l).1)
      ((lanesOf (c'.guarded i)).foldl (fun g l => g ||| (val c' l).2) 0)
      (Lanes.of fun l => if (c'.guarded i).getLsbD l then BitVec.ofNat 64 ((val c' l).1 % 2 ^ d.bits)
        else c'.idle l))) := by
  have hp : ∀ l x, s.pipeOut c' l x = x := fun l x => by simp [State.pipeOut, hb.2.2, hk]
  have hq : ∀ (s' : State) m, s'.core c.blk.core = s.core c.blk.core → s'.pipePass c' m = s' := fun s' m h => by
    simp [State.pipePass, hb.2.2, h, hk]
  unfold laneFx
  dsimp only
  rw [hw]
  simp only [hp]
  rw [hq _ _ (by rfl)]
  simp only [State.raise, State.onRegs, State.onTrp, hb.1, hb.2.1, State.modTrp_modTrp]
  rfl

theorem Troupe.latch_rest (T : Troupe) (i : Instr) (x : Lanes DWord) :
    T.latch i x = { T with run := if i.h then T.run.map fun r => { r with latches := (x :: r.latches).take 4 } else T.run } := by
  unfold Troupe.latch; split <;> rfl

/-- The change, described. -/
theorem laneChange_result (c : Ctx) (i : Instr) (d : Dst) (m : Mask) (out : Nat → Nat) (fl : Flags) (x : Lanes DWord)
    (hx : ∀ l, l < 32 → m.getLsbD l = true → x.get 0 l = BitVec.ofNat 64 (out l % 2 ^ d.bits)) :
    LaneResult c i d m out fl (laneChange i d m out fl x (c.opened i).trp) := by
  obtain ⟨Q, hQ⟩ := Troupe.pops_rest (c.opened i).trp i m
  have hq : ∀ q l, l < 32 → Q.get [] (32 * q + l) =
      if q ∈ i.popped ∧ m.getLsbD l = true then (c.trp.q.get [] (32 * q + l)).drop 1 else c.trp.q.get [] (32 * q + l) := by
    intro q l h
    have := Troupe.get_pops (c.opened i).trp i m q l h
    rw [hQ] at this
    simpa using this
  -- the run after the latch
  have hrun : (if i.h then (c.opened i).trp.run.map fun r => { r with latches := (x :: r.latches).take 4 }
      else (c.opened i).trp.run) =
      if i.h then some { c.run0 with latches := (x :: c.run0.latches).take 4 } else c.trp.run := by
    simp only [Ctx.opened, Troupe.openRun_eq, Ctx.run0]
    cases hr : c.trp.run <;> cases hh : i.h <;> simp
  have hT : ∃ R, (Troupe.result ((c.opened i).trp.pops i m) i d m fun l => out l % 2 ^ d.bits) =
      { (c.opened i).trp with
        q := Q, regs := R, poison := unitsAfter i d m c.trp.poison, flips := unitsAfter i d m c.trp.flips } ∧
      (∀ r l, l < 32 → R.lane r l =
        if i.n = false ∧ m.getLsbD l = true then (d.word out r l).getD (c.trp.regs.lane r l) else c.trp.regs.lane r l) ∧
      (∀ k l, l < 32 → (R.p.get 0 k).getLsbD l =
        if i.n = false ∧ d = .p k ∧ k ≠ 0 ∧ m.getLsbD l = true then decide (out l % 2 ^ 32 = 1)
        else (c.trp.regs.p.get 0 k).getLsbD l) ∧
      (R.s = c.trp.regs.s ∧ R.g = c.trp.regs.g ∧ R.c = c.trp.regs.c ∧ R.nf = c.trp.regs.nf) := by
    rw [hQ]
    simp only [Ctx.opened_poison, Ctx.opened_flips]
    unfold Troupe.result unitsAfter
    generalize i.popped.foldl (fun us q => poppedUnits q m us) c.trp.poison = us
    generalize i.popped.foldl (fun us q => poppedUnits q m us) c.trp.flips = ws
    cases hn : i.n
    · cases d with
      | v w r =>
        have ho : ∀ k l, (Dst.v w r).word (fun l => out l % 2 ^ (Dst.v w r).bits) k l = (Dst.v w r).word out k l := by
          intro k l
          cases w <;> simp [Dst.word, Dst.bits]
          · congr 2; apply BitVec.eq_of_toNat_eq; simp
          · have h1 : BitVec.ofNat 32 (out l % 2 ^ 64) = BitVec.ofNat 32 (out l) := by
              apply BitVec.eq_of_toNat_eq; simp
            have h2 : BitVec.ofNat 32 (out l % 2 ^ 64 / 2 ^ 32) = BitVec.ofNat 32 (out l / 2 ^ 32) := by
              apply BitVec.eq_of_toNat_eq; simp; omega
            simp only [Nat.reducePow] at h1 h2
            rw [h1, h2]
        obtain ⟨v, hv⟩ := Troupe.setVs_rest { (c.opened i).trp with q := Q, poison := us, flips := ws } w r m
          (fun l => out l % 2 ^ (Dst.v w r).bits)
        simp only [Bool.false_eq_true, if_false]
        refine ⟨{ c.trp.regs with v := v }, ?_, ?_, ?_, ⟨rfl, rfl, rfl, rfl⟩⟩
        · rw [hv]; simp
        · intro k l h
          have := Troupe.lane_setVs { (c.opened i).trp with q := Q, poison := us, flips := ws } w r m
            (fun l => out l % 2 ^ (Dst.v w r).bits) k l h
          rw [hv, ho] at this
          simpa [Regs.lane] using this
        · intro k l _; simp
      | p k =>
        obtain ⟨p, hp⟩ := Troupe.setP_rest { (c.opened i).trp with q := Q, poison := us, flips := ws } k m
          (maskOf fun l => out l % 2 ^ (Dst.p k).bits = 1)
        simp only [Bool.false_eq_true, if_false]
        refine ⟨{ c.trp.regs with p := p }, ?_, ?_, ?_, ⟨rfl, rfl, rfl, rfl⟩⟩
        · rw [hp]; simp
        · intro r l _; simp [Dst.word, Regs.lane]
        · intro j l h
          have := Troupe.pred_setP { (c.opened i).trp with q := Q, poison := us, flips := ws } k m
            (maskOf fun l => out l % 2 ^ (Dst.p k).bits = 1) j l
          rw [hp] at this
          simp only [this, maskOf_getLsbD _ _ h]
          by_cases hj : j = k
          · subst hj
            by_cases h0 : j = 0 <;> by_cases hm : m.getLsbD l = true <;> simp [Dst.bits, h0, hm]
            exact decide_eq_decide.2 Iff.rfl
          · have : (k = j) = False := by simp [Ne.symm hj]
            simp [hj, this]
    · simp only [if_true]
      exact ⟨c.trp.regs, by simp, by simp, by simp, ⟨rfl, rfl, rfl, rfl⟩⟩
  obtain ⟨R, hT, h1, h2, h3⟩ := hT
  have hL : laneChange i d m out fl x (c.opened i).trp =
      { (c.opened i).trp with
        q := Q, poison := unitsAfter i d m c.trp.poison, flips := unitsAfter i d m c.trp.flips
        regs := { R with nf := R.nf ||| (fl &&& 0x03FF#16) },
        run := if i.h then some { c.run0 with latches := (x :: c.run0.latches).take 4 } else c.trp.run } := by
    unfold laneChange
    simp only [hT, Troupe.latch_rest, ← hrun]
  rw [hL]
  refine ⟨?_, ?_, ⟨h3.1, h3.2.1, h3.2.2.1⟩, by rw [← h3.2.2.2], hq, rfl, rfl, ⟨x, hx, rfl⟩, ?_⟩
  · intro r l h; simpa [Regs.lane] using h1 r l h
  · intro k l h; simpa using h2 k l h
  · simp only [Ctx.opened, Troupe.openRun_eq]

theorem Dst.word_congr (d : Dst) (out out' : Nat → Nat) (r l : Nat) (h : out l % 2 ^ d.bits = out' l % 2 ^ d.bits) :
    d.word out r l = d.word out' r l := by
  cases d with
  | p k => rfl
  | v w k =>
    have lo : BitVec.ofNat 32 (out l) = BitVec.ofNat 32 (out' l) := by
      apply BitVec.eq_of_toNat_eq
      cases w <;> simp only [Dst.bits, BitVec.toNat_ofNat] at h ⊢ <;> omega
    cases w
    · simp only [Dst.word, lo, Bool.false_eq_true, false_and, if_false]
    · have hi : BitVec.ofNat 32 (out l / 2 ^ 32) = BitVec.ofNat 32 (out' l / 2 ^ 32) := by
        apply BitVec.eq_of_toNat_eq
        simp only [Dst.bits, BitVec.toNat_ofNat] at h ⊢; omega
      simp only [Dst.word, lo, hi]

/-- Only the bits of the destination's width count, in the lanes of the mask. -/
theorem LaneResult.congr {c : Ctx} {i : Instr} {d : Dst} {m : Mask} {out out' : Nat → Nat} {fl : Flags} {T : Troupe}
    (h : ∀ l, l < 32 → out l % 2 ^ d.bits = out' l % 2 ^ d.bits) (hr : LaneResult c i d m out fl T) :
    LaneResult c i d m out' fl T := by
  obtain ⟨h1, h2, h3, h4, h5, h6, h7, ⟨x, hx, hrun⟩, h8⟩ := hr
  have hw : ∀ r l, l < 32 → d.word out r l = d.word out' r l := fun r l hl => Dst.word_congr d out out' r l (h l hl)
  refine ⟨fun r l hl => by rw [h1 r l hl, hw r l hl], fun k l hl => ?_, h3, h4, h5,
    h6, h7, ⟨x, fun l hl hm => by rw [hx l hl hm, h l hl], hrun⟩, h8⟩
  rw [h2 k l hl]
  by_cases hd : d = .p k
  · subst hd; have := h l hl; simp only [Dst.bits] at this; rw [this]
  · simp [hd]

/-- Values that agree in the destination's width are one. -/
theorem LaneCompletes.congr {i : Instr} {d : Dst} {val val' : Ctx → Nat → Nat × Flags}
    (hv : ∀ c l, l < 32 → (val c l).1 % 2 ^ d.bits = (val' c l).1 % 2 ^ d.bits) (hf : ∀ c l, (val c l).2 = (val' c l).2)
    (h : LaneCompletes i d val) : LaneCompletes i d val' := by
  intro s c hr hw
  obtain ⟨t, T, h1, h2, h3⟩ := h s c hr hw
  refine ⟨t, T, h1, h2, ?_⟩
  simp only [hf] at h3
  exact h3.congr (hv c)

/-- A lane instruction whose effect is `laneFx` completes with its values. -/
theorem laneCompletes_of (i : Instr) (d : Dst) (val : Ctx → Nat → Nat × Flags)
    (hx : ∀ s, exec i s = s.issueWord i (laneFx i d val)) (hv : ∀ c l, val (c.opened i) l = val c l) :
    LaneCompletes i d val := by
  intro s c hr hw
  rw [hx]
  have hw' : (c.opened i).popWait i ((c.opened i).guarded i) (s.onTrp c fun T => T.openRun i c.e c.sp.pc) = none := by
    rw [Ctx.guarded_opened]; exact Ctx.popWait_opened c i i _ s _ hw
  have he := laneFx_eq i d val c (c.opened i) (s.onTrp c fun T => T.openRun i c.e c.sp.pc) ⟨rfl, rfl, rfl⟩ hw'
    (by simpa using hr.2.2.2.2.2.1)
  simp only [Ctx.guarded_opened, hv] at he
  obtain ⟨t, ht, ho⟩ := State.issueWord_onTrp s c i _ _ hr he
  refine ⟨t, _, ht, ho, laneChange_result c i d _ _ _ _ ?_⟩
  intro l h hm
  simp [h, hm]

end Sys2Proof.Machine
end

