-- ==== Sys2Proof/Laws/Mem.lean ====
section
/-! SUPPORT. Memory: read after write, and that every memory operation keeps the canonical form. -/
namespace Sys2Proof.Machine

/-! ## Byte memories -/

/-- What a byte reads after a write: the byte written there, or what it was. -/
theorem Mem.get_write (m : Mem) (a : Nat) (bs : List Byte) (x : Nat) :
    Tab.get 0#8 (Mem.write m a bs) x = if a ≤ x ∧ x < a + bs.length then bs.getD (x - a) 0 else Tab.get 0#8 m x := by
  induction bs generalizing m a with
  | nil => rw [Mem.write, if_neg]; simp only [List.length_nil]; omega
  | cons b r ih =>
    rw [Mem.write, ih, Tab.get_set]
    by_cases h : x = a
    · subst h; rw [if_neg (by omega), if_pos rfl, if_pos ⟨by omega, by simp⟩]; simp
    · by_cases h1 : a + 1 ≤ x ∧ x < a + 1 + r.length
      · rw [if_pos h1, if_pos ⟨by omega, by simp only [List.length_cons]; omega⟩]
        have : x - a = (x - (a + 1)) + 1 := by omega
        rw [this]; rfl
      · rw [if_neg h1, if_neg h, if_neg]; simp only [List.length_cons]; omega

@[simp] theorem Mem.read_length (m : Mem) (a n : Nat) : (Mem.read m a n).length = n := by simp [Mem.read]

theorem Mem.read_getD (m : Mem) (a n i : Nat) (h : i < n) : (Mem.read m a n).getD i 0 = Tab.get 0#8 m (a + i) := by
  simp [Mem.read, List.getD, h]

/-- A read of what was just written gives it back. -/
theorem Mem.read_write (m : Mem) (a : Nat) (bs : List Byte) : Mem.read (Mem.write m a bs) a bs.length = bs := by
  apply List.ext_getElem
  · simp
  · intro i h1 h2
    have hi : i < bs.length := h2
    simp only [Mem.read, List.getElem_map, List.getElem_range, Mem.get_write]
    rw [if_pos ⟨by omega, by omega⟩]
    simp [List.getD, hi]

/-- A read that meets no written byte gives what it gave before. -/
theorem Mem.read_write_other (m : Mem) (a : Nat) (bs : List Byte) (x n : Nat) (h : x + n ≤ a ∨ a + bs.length ≤ x) :
    Mem.read (Mem.write m a bs) x n = Mem.read m x n := by
  apply List.map_congr_left
  intro i hi
  rw [List.mem_range] at hi
  rw [Mem.get_write, if_neg]; omega

/-- A write keeps the canonical form. -/
theorem Memory.wf_write (m : Mem) (a : Nat) (bs : List Byte) (h : Memory.wf m = true) : Memory.wf (Mem.write m a bs) = true := by
  induction bs generalizing m a with
  | nil => exact h
  | cons b r ih => exact ih _ _ (Tab.wf_set 0#8 m a b h)

/-- The memory of reset lists nothing. -/
theorem reset_memWf : State.reset.MemWf := ⟨rfl, rfl, rfl⟩

/-! ## Operations of the state -/

/-- `t`'s memories hold the canonical form where `s`'s do. -/
def Keeps (s t : State) : Prop := s.MemWf → t.MemWf

theorem Keeps.rfl {s : State} : Keeps s s := id
theorem Keeps.trans {s t u : State} (h : Keeps s t) (k : Keeps t u) : Keeps s u := fun x => k (h x)
theorem Keeps.of_mem {s t : State} (h : t.mem = s.mem) : Keeps s t := fun x => by
  unfold State.MemWf at *; rwa [h]

/-- What precedes an operation that keeps the form may change anything but memory. -/
theorem Keeps.after {s t u : State} (k : Keeps t u) (h : t.mem = s.mem) : Keeps s u := (Keeps.of_mem h).trans k

/-- A fold of operations that each keep it keeps it. -/
theorem Keeps.foldl {α : Type} (f : State → α → State) (h : ∀ s x, Keeps s (f s x)) (xs : List α) (s : State) :
    Keeps s (xs.foldl f s) := by
  induction xs generalizing s with
  | nil => exact Keeps.rfl
  | cons x r ih => exact (h s x).trans (ih _)

/-- The same for a fold that carries a value along. -/
theorem Keeps.foldl_pair {α β : Type} (f : β × State → α → β × State) (h : ∀ x a, Keeps x.2 (f x a).2) (xs : List α)
    (x : β × State) : Keeps x.2 (xs.foldl f x).2 := by
  induction xs generalizing x with
  | nil => exact Keeps.rfl
  | cons a r ih => exact (h x a).trans (ih _)


theorem State.sliceWrite_keeps (s : State) (a : Nat) (bs : List Byte) : Keeps s (s.sliceWrite a bs) :=
  fun h => ⟨Memory.wf_write _ _ _ h.1, h.2.1, h.2.2⟩

theorem State.sliceSet_keeps (s : State) (a n x : Nat) : Keeps s (s.sliceSet a n x) := s.sliceWrite_keeps a _

theorem State.sliceStore_keeps (s : State) (b a : Nat) (bs : List Byte) : Keeps s (s.sliceStore b a bs) := by
  unfold State.sliceStore
  split
  · exact s.sliceWrite_keeps a bs
  · exact Keeps.of_mem rfl

theorem State.devRaw_keeps (s : State) (a n x : Nat) : Keeps s (s.devRaw a n x) :=
  fun h => ⟨h.1, Memory.wf_write _ _ _ h.2.1, h.2.2⟩

theorem State.rekey_keeps (s : State) (k u : Nat) : Keeps s (s.rekey k u) := by
  unfold State.rekey
  split
  · exact Keeps.rfl
  · exact fun h => ⟨h.1, Memory.wf_write _ _ _ h.2.1, h.2.2⟩

theorem State.devWrite_keeps (s : State) (k a : Nat) (bs : List Byte) : Keeps s (s.devWrite k a bs) := by
  have := Keeps.foldl (fun s u => State.rekey s k u) (fun s u => s.rekey_keeps k u) (unitsOf 128 a bs.length) s
  exact fun h => ⟨(this h).1, Memory.wf_write _ _ _ (this h).2.1, (this h).2.2⟩

theorem State.setD_keeps (s : State) (p o c f : Nat) : Keeps s (s.setD p o c f) := by
  simp only [State.setD]
  split
  · exact Keeps.rfl
  · exact s.devRaw_keeps _ _ _

/-- Translation marks a companion and caches a translation; it keeps the form. -/
theorem State.translate_keeps (s : State) (d p o c f : Nat) (w : Bool) : Keeps s (s.translate d p o c f w).2 := by
  simp only [State.translate]
  repeat' split
  all_goals first
    | exact Keeps.rfl
    | exact fun h => ⟨h.1, Memory.wf_write _ _ _ h.2.1, h.2.2⟩

/-- A fold over an optional state, each of whose steps keeps the form. -/
theorem Keeps.foldl_option {α β : Type} (f : Option (β × State) → α → Option (β × State)) (hn : ∀ x, f none x = none)
    (h : ∀ b s x c t, f (some (b, s)) x = some (c, t) → Keeps s t) (xs : List α) (b : β) (s : State) (c : β) (t : State)
    (e : xs.foldl f (some (b, s)) = some (c, t)) : Keeps s t := by
  induction xs generalizing b s with
  | nil => cases e; exact Keeps.rfl
  | cons x r ih =>
    rw [List.foldl_cons] at e
    cases hx : f (some (b, s)) x with
    | none =>
      rw [hx] at e
      have : r.foldl f none = none := by
        clear e ih
        induction r with
        | nil => rfl
        | cons y r ih => rw [List.foldl_cons, hn, ih]
      rw [this] at e; cases e
    | some p =>
      rw [hx] at e
      exact (h b s x p.1 p.2 hx).trans (ih p.1 p.2 e)

theorem State.homeRead_keeps (s : State) (d p o c f n : Nat) (bs : List Byte) (t : State)
    (e : s.homeRead d p o c f n = some (bs, t)) : Keeps s t := by
  refine Keeps.foldl_option _ ?_ ?_ _ _ _ _ _ e
  · intro x; rfl
  · intro b s x c' t' hx
    have hk := s.translate_keeps d p o c x.1 false
    simp only at hx
    split at hx
    · next a s1 ht => cases hx; rw [ht] at hk; exact hk
    · next ht => cases hx; rw [ht] at hk; exact hk
    · cases hx

theorem State.homeWrite_keeps (s : State) (d p o c f b : Nat) (bs : List Byte) (t : State)
    (e : s.homeWrite d p o c f b bs = some t) : Keeps s t := by
  unfold State.homeWrite at e
  rw [Option.map_eq_some_iff] at e
  obtain ⟨⟨k, t'⟩, e, rfl⟩ := e
  refine Keeps.foldl_option _ ?_ ?_ _ _ _ _ _ e
  · intro x; rfl
  · intro b' s x c' t' hx
    have hk := s.translate_keeps d p o c x.1 true
    simp only at hx
    split at hx
    · next a s1 ht =>
      cases hx; rw [ht] at hk
      exact hk.trans ((s1.devWrite_keeps _ _ _).trans (State.setD_keeps _ _ _ _ _))
    · next ht => cases hx; rw [ht] at hk; exact hk.trans (Keeps.of_mem rfl)
    · cases hx

theorem State.keyWrite_keeps (s : State) (k b a : Nat) (bs : List Byte) (t : State) (e : s.keyWrite k b a bs = some t) :
    Keeps s t := s.homeWrite_keeps _ _ _ _ _ _ _ _ e

theorem State.lacking_keeps (s : State) (c k : Nat) : Keeps s (s.lacking c k) := by
  simp only [State.lacking]
  split
  · exact Keeps.rfl
  · exact Keeps.of_mem rfl

theorem State.waWrite_keeps (s : State) (p w : Nat) (bs : List Byte) : Keeps s (s.waWrite p w bs) := by
  simp only [State.waWrite]
  split
  · exact Keeps.rfl
  · split
    · exact s.sliceStore_keeps _ _ _
    · split
      · exact Keeps.rfl
      · split
        · exact Keeps.of_mem rfl
        · cases h : s.homeWrite ioAsks p (bits w 63 40) ((s.obj p (bits w 63 40)).copy false) (bits w 39 0) 0 bs with
          | none => exact Keeps.of_mem rfl
          | some t => exact s.homeWrite_keeps _ _ _ _ _ _ _ _ h

theorem State.blockErr_keeps (s : State) (b : Nat) (c : Option (Nat × Nat)) (f : Word) : Keeps s (s.blockErr b c f) := by
  simp only [State.blockErr]
  split
  · exact Keeps.rfl
  · split
    · split
      · exact Keeps.of_mem rfl
      · exact (State.waWrite_keeps _ _ _ _).after rfl
    · exact Keeps.of_mem rfl

theorem State.carryPoison_keeps (s : State) (c k n : Nat) : Keeps s (s.carryPoison c k n) := by
  simp only [State.carryPoison]
  split
  · exact Keeps.rfl
  · exact Keeps.rfl

/-- A write-back keeps the form. -/
theorem State.writeBack_keeps (s : State) (c : Nat) (p : Nat → CByte → Bool) : Keeps s (s.writeBack c p).2 := by
  refine Keeps.foldl_pair _ ?_ _ (true, s)
  rintro ⟨ok, s⟩ ⟨k, b, bs⟩
  dsimp only
  split
  · show Keeps s (State.blockErr (s.modCore c fun C => { C with cache := cleaned C.cache k bs }) b (some (3, 2)) 0)
    have h0 : Keeps s (s.modCore c fun C => { C with cache := cleaned C.cache k bs }) := Keeps.of_mem (State.modCore_mem _ _ _)
    exact h0.trans (State.blockErr_keeps _ _ _ _)
  · split
    · dsimp only
      split
      · exact s.lacking_keeps c k
      · exact Keeps.rfl
    · next h =>
      exact ((s.keyWrite_keeps _ _ _ _ _ h).trans (State.carryPoison_keeps _ _ _ _)).trans
        (Keeps.of_mem (State.modCore_mem _ c _))

theorem State.invalidate_keeps (s : State) (c : Nat) (p : Nat → Bool) : Keeps s (s.invalidate c p) := Keeps.of_mem rfl

theorem State.evict_keeps (s : State) (c : Nat) (u : Nat → Bool) : Keeps s (s.evict c u) := by
  simp only [State.evict]
  split
  · exact Keeps.rfl
  · exact ((Keeps.of_mem (t := s.tock) rfl).trans (s.tock.writeBack_keeps c _)).trans (State.invalidate_keeps _ _ _)

theorem State.cacheStore_keeps (s : State) (c b k : Nat) (bs : List Byte) : Keeps s (s.cacheStore c b k bs) :=
  (State.evict_keeps _ _ _).after rfl

theorem State.fillLine_keeps (s : State) (c k0 n k : Nat) (t : State) (e : s.fillLine c k0 n k = some t) : Keeps s t := by
  simp only [State.fillLine, State.keyRead] at e
  split at e
  · cases e
  · next h => cases e; exact (s.homeRead_keeps _ _ _ _ _ _ _ _ h).trans ((State.evict_keeps _ _ _).after rfl)

theorem State.bulkRead_keeps (s : State) (c k n : Nat) (bs : List Byte) (t : State) (e : s.bulkRead c k n = some (bs, t)) :
    Keeps s t := by
  have fold : ∀ (xs : List (Nat × Nat)) (s t : State),
      xs.foldl (fun (r : Option State) p => r.bind fun s => s.fillLine c k n p.1) (some s) = some t → Keeps s t := by
    intro xs
    induction xs with
    | nil => intro s t h; cases h; exact Keeps.rfl
    | cons x r ih =>
      intro s t h
      rw [List.foldl_cons] at h
      cases hx : s.fillLine c k n x.1 with
      | none =>
        rw [show ((some s).bind fun s => s.fillLine c k n x.1) = none from hx] at h
        have : ∀ (r : List (Nat × Nat)),
            r.foldl (fun (r : Option State) p => r.bind fun s => s.fillLine c k n p.1) none = none := by
          intro r; induction r with
          | nil => rfl
          | cons y r ih => rw [List.foldl_cons]; exact ih
        rw [this] at h; cases h
      | some u =>
        rw [show ((some s).bind fun s => s.fillLine c k n x.1) = some u from hx] at h
        exact (s.fillLine_keeps c k n x.1 u hx).trans (ih u t h)
  simp only [State.bulkRead, Option.map_eq_some_iff] at e
  obtain ⟨u, hu, hp⟩ := e
  cases hp
  split at hu
  · cases hu; exact Keeps.rfl
  · exact fold _ _ _ hu

theorem State.drainStore_keeps (s : State) (b a : Nat) (bs : List Byte) (e p : Nat) :
    Keeps s (s.drainStore b a bs e p) := by
  unfold State.drainStore
  split
  · exact s.sliceWrite_keeps a bs
  · exact Keeps.of_mem rfl

/-- An entry that drains keeps the form. -/
theorem State.drain_keeps (s : State) (b id : Nat) : Keeps s (s.drain b id) := by
  simp only [State.drain]
  split
  · exact Keeps.rfl
  · split
    · exact Keeps.rfl
    · next _ B _ _ e _ =>
      generalize hw : (if B.fences.any (· < e.epoch) then s.writeBack B.core fun _ c => c.by b else (true, s)) = w
      have h1 : Keeps s w.2 := by
        rw [← hw]
        split
        · exact s.writeBack_keeps _ _
        · exact Keeps.rfl
      split
      · exact h1
      · have hm := State.modBlk_mem w.2 b fun B =>
          { B with buf := B.buf.del id, fences := B.fences.filter fun f => !decide (f < e.epoch) }
        generalize (w.2.modBlk b _) = u at hm ⊢
        have hu : ∀ v, Keeps u v → Keeps s (v.wakeCommits b) := fun v h =>
          (h1.trans (h.after hm)).trans (Keeps.of_mem rfl)
        apply hu
        split
        · have hc : Keeps u (e.runs.foldl (fun s x => s.cacheStore B.core b x.1 x.2) u) :=
            Keeps.foldl _ (fun s x => s.cacheStore_keeps _ _ _ _) _ u
          split
          · exact hc.trans (State.writeBack_keeps _ _ _)
          · exact hc
        · split
          · exact State.blockErr_keeps _ _ _ _
          · exact Keeps.foldl _ (fun s x => s.drainStore_keeps _ _ _ _ _) _ u

theorem State.drainRange_keeps (s : State) (b : Nat) (sp : Space) (a n : Nat) : Keeps s (s.drainRange b sp a n) := by
  simp only [State.drainRange]
  split
  · exact Keeps.rfl
  · exact Keeps.foldl _ (fun s id => s.drain_keeps b id) _ s

theorem State.drainAll_keeps (s : State) (b : Nat) : Keeps s (s.drainAll b) := by
  simp only [State.drainAll]
  split
  · exact Keeps.rfl
  · exact Keeps.foldl (fun s (e : Nat × BufEntry) => s.drain b e.1) (fun s e => s.drain_keeps b e.1) _ s

theorem State.overflow_keeps (s : State) (b : Nat) : Keeps s (s.overflow b) :=
  ((State.blockErr_keeps (s.commit b) b none 0x100#32).trans (State.drainAll_keeps _ b)).after rfl

/-- A store that enters the buffer keeps the form, also where it makes the buffer overflow. -/
theorem State.bufPut_keeps (s : State) (b : Nat) (sp : Space) (a : Nat) (bs : List Byte) (hs : List Nat) :
    Keeps s (s.bufPut b sp a bs hs) := by
  simp only [State.bufPut]
  split
  · exact Keeps.rfl
  · split
    · exact Keeps.of_mem rfl
    · refine Keeps.trans (?_ : Keeps s (if _ then _ else s)) (Keeps.of_mem rfl)
      split
      · exact s.overflow_keeps b
      · exact Keeps.rfl

theorem State.bufStore_keeps (s : State) (b : Nat) (sp : Space) (a : Nat) (bs : List Byte) : Keeps s (s.bufStore b sp a bs) :=
  s.bufPut_keeps b sp a bs []

end Sys2Proof.Machine
end

