-- ==== Sys2Proof/Laws/Words.lean ====
section
/-! SUPPORT. The bits of an encoded first word: set, H, N and the major opcode stand where 10 Tables 10.1 and 10.5 put
them, whatever the fields below them hold. -/
namespace Sys2Proof.Laws

/-- The bits of the head of a word. -/
theorem headWord_bit (u h n : Bool) (op i : Nat) : (headWord u h n op).getLsbD i =
    if i < 23 then false else if i < 29 then (BitVec.ofNat 6 op).getLsbD (i - 23) else if i < 30 then n
    else if i < 31 then h else if i < 32 then u else false := by
  unfold headWord
  rw [BitVec.getLsbD_append, BitVec.getLsbD_append, BitVec.getLsbD_append, BitVec.getLsbD_append]
  by_cases h1 : i < 23
  · simp [h1]
  by_cases h2 : i < 29
  · simp [h1, h2, show i - 23 < 6 by omega]
  by_cases h3 : i < 30
  · obtain rfl : i = 29 := by omega
    simp
  by_cases h4 : i < 31
  · obtain rfl : i = 30 := by omega
    simp
  by_cases h5 : i < 32
  · obtain rfl : i = 31 := by omega
    simp
  · simp [h1, h2, h3, h4, h5, show ¬ i - 23 < 6 by omega, show ¬ i - 23 - 6 < 1 by omega,
      show ¬ i - 23 - 6 - 1 < 1 by omega]
    omega

/-- The fields below bit 23 leave the bits above as they are. -/
theorem word_high (w : Word) (i : Nat) (x : BitVec 23) (hi : 23 ≤ i) : (w ||| x.setWidth 32).getLsbD i = w.getLsbD i := by
  rw [BitVec.getLsbD_or, BitVec.getLsbD_setWidth, BitVec.getLsbD_of_ge x i hi]; simp

/-- The major opcode of an encoded word. -/
theorem word_op (u h n : Bool) (op : Nat) (x : BitVec 23) (ho : op < 64) :
    majorOp (headWord u h n op ||| x.setWidth 32) = op := by
  have : (headWord u h n op ||| x.setWidth 32).extractLsb' 23 6 = BitVec.ofNat 6 op := by
    apply BitVec.eq_of_getLsbD_eq
    intro i hi
    rw [BitVec.getLsbD_extractLsb', word_high _ _ _ (by omega), headWord_bit]
    simp [hi, show ¬ 23 + i < 23 by omega, show 23 + i < 29 by omega]
  simp [majorOp, this]; omega

/-- Bit 31 is the set. -/
theorem word_31 (u h n : Bool) (op : Nat) (x : BitVec 23) : (headWord u h n op ||| x.setWidth 32).getLsbD 31 = u := by
  rw [word_high _ _ _ (by omega), headWord_bit]; simp

/-- Bit 30 is H. -/
theorem word_30 (u h n : Bool) (op : Nat) (x : BitVec 23) : (headWord u h n op ||| x.setWidth 32).getLsbD 30 = h := by
  rw [word_high _ _ _ (by omega), headWord_bit]; simp

/-- Bit 29 is N. -/
theorem word_29 (u h n : Bool) (op : Nat) (x : BitVec 23) : (headWord u h n op ||| x.setWidth 32).getLsbD 29 = n := by
  rw [word_high _ _ _ (by omega), headWord_bit]; simp

end Sys2Proof.Laws
end

