-- ==== Sys2Proof/Laws/PerInstr.lean ====
section
/-! SUPPORT. The family Framing, per instruction: the first word that `encode` gives is framed as 10 R243, R249, R252, R255
and R259 say, so that fetch takes the right number of words and reads set, H and N right. -/
namespace Sys2Proof.Laws.Framing

/-- The first word of an encoded instruction gives its size, its set, and its H and N bits. -/
def Statement (i : Instr) : Prop :=
  i.isWord = true → wordsOf (encode i).1 = i.size ∧ (encode i).1.getLsbD 31 = !i.isLane ∧
    (encode i).1.getLsbD 30 = i.h ∧ (encode i).1.getLsbD 29 = i.n

/-- A one-word lane instruction. -/
theorem of_lr {i : Instr} {op : Nat} {f : LR} (hf : i.form = .lr op f) (ho : op < 0x30) : Statement i := by
  intro _
  have h64 : op < 64 := by omega
  simp only [encode, hf, wordsOf, word_31, word_30, word_29, word_op _ _ _ _ _ h64, Instr.size, Instr.isLane, Instr.h, Instr.n]
  simp; omega

/-- A two-word lane instruction. -/
theorem of_lw {i : Instr} {op fn : Nat} {f : LW} (hf : i.form = .lw op fn f) (ho : 0x30 ≤ op ∧ op ≤ 0x36) : Statement i := by
  intro _
  have h64 : op < 64 := by omega
  simp only [encode, hf, wordsOf, word_31, word_30, word_29, word_op _ _ _ _ _ h64, Instr.size, Instr.isLane, Instr.h, Instr.n]
  simp [ho.1, ho.2]

/-- A LIMM instruction. -/
theorem of_li {i : Instr} {sel : Nat} {f : LI} (hf : i.form = .li sel f) : Statement i := by
  intro _
  simp only [encode, hf, wordsOf, word_31, word_30, word_29, word_op _ _ _ 0x3E _ (by decide), Instr.size, Instr.isLane,
    Instr.h, Instr.n]
  simp

/-- A one-word uniform instruction of three registers. -/
theorem of_ur {i : Instr} {op : Nat} {f : UR} (hf : i.form = .ur op f) (ho : op < 0x30) : Statement i := by
  intro _
  have h64 : op < 64 := by omega
  simp only [encode, hf, wordsOf, word_31, word_30, word_29, word_op _ _ _ _ _ h64, Instr.size, Instr.isLane, Instr.h, Instr.n]
  simp; omega

/-- A one-word uniform instruction with an immediate. -/
theorem of_ui {i : Instr} {op : Nat} {f : UI} (hf : i.form = .ui op f) (ho : op < 0x30) : Statement i := by
  intro _
  have h64 : op < 64 := by omega
  simp only [encode, hf, wordsOf, word_31, word_30, word_29, word_op _ _ _ _ _ h64, Instr.size, Instr.isLane, Instr.h, Instr.n]
  simp; omega

/-- A branch. -/
theorem of_ub {i : Instr} {op : Nat} {f : UB} (hf : i.form = .ub op f) (ho : op < 0x30) : Statement i := by
  intro _
  have h64 : op < 64 := by omega
  simp only [encode, hf, wordsOf, word_31, word_30, word_29, word_op _ _ _ _ _ h64, Instr.size, Instr.isLane, Instr.h, Instr.n]
  simp; omega

/-- A two-word uniform instruction. -/
theorem of_uw {i : Instr} {op fn : Nat} {f : UW} (hf : i.form = .uw op fn f) (ho : 0x30 ≤ op ∧ op ≤ 0x38) : Statement i := by
  intro _
  have h64 : op < 64 := by omega
  simp only [encode, hf, wordsOf, word_31, word_30, word_29, word_op _ _ _ _ _ h64, Instr.size, Instr.isLane, Instr.h, Instr.n]
  simp [ho.1, ho.2]

/-- SMOVI. -/
theorem of_us {i : Instr} {f : UW} (hf : i.form = .us f) : Statement i := by
  intro _
  simp only [encode, hf, wordsOf, word_31, word_30, word_29, word_op _ _ _ 0x3E _ (by decide), Instr.size, Instr.isLane,
    Instr.h, Instr.n]
  simp

/-- A step that is no instruction word. -/
theorem of_event {i : Instr} (hf : i.form = .event) : Statement i := by
  intro h
  simp [Instr.isWord, hf] at h

theorem iadd (f : LR) : Statement (.iadd f) := of_lr rfl (by decide)
theorem isub (f : LR) : Statement (.isub f) := of_lr rfl (by decide)
theorem imul (f : LR) : Statement (.imul f) := of_lr rfl (by decide)
theorem imulh (f : LR) : Statement (.imulh f) := of_lr rfl (by decide)
theorem imin (f : LR) : Statement (.imin f) := of_lr rfl (by decide)
theorem imax (f : LR) : Statement (.imax f) := of_lr rfl (by decide)
theorem and (f : LR) : Statement (.and f) := of_lr rfl (by decide)
theorem or (f : LR) : Statement (.or f) := of_lr rfl (by decide)
theorem xor (f : LR) : Statement (.xor f) := of_lr rfl (by decide)
theorem andn (f : LR) : Statement (.andn f) := of_lr rfl (by decide)
theorem shl (f : LR) : Statement (.shl f) := of_lr rfl (by decide)
theorem shr (f : LR) : Statement (.shr f) := of_lr rfl (by decide)
theorem sar (f : LR) : Statement (.sar f) := of_lr rfl (by decide)
theorem popc (f : LR) : Statement (.popc f) := of_lr rfl (by decide)
theorem clz (f : LR) : Statement (.clz f) := of_lr rfl (by decide)
theorem brev (f : LR) : Statement (.brev f) := of_lr rfl (by decide)
theorem mov (f : LR) : Statement (.mov f) := of_lr rfl (by decide)
theorem faddF32 (f : LR) : Statement (.faddF32 f) := of_lr rfl (by decide)
theorem fmulF32 (f : LR) : Statement (.fmulF32 f) := of_lr rfl (by decide)
theorem fminF32 (f : LR) : Statement (.fminF32 f) := of_lr rfl (by decide)
theorem fmaxF32 (f : LR) : Statement (.fmaxF32 f) := of_lr rfl (by decide)
theorem swizSel (f : LR) : Statement (.swizSel f) := of_lr rfl (by decide)
theorem qpush (f : LR) : Statement (.qpush f) := of_lr rfl (by decide)
theorem imulhTyped (f : LW) : Statement (.imulhTyped f) := of_lw rfl (by decide)
theorem iminTyped (f : LW) : Statement (.iminTyped f) := of_lw rfl (by decide)
theorem imaxTyped (f : LW) : Statement (.imaxTyped f) := of_lw rfl (by decide)
theorem imad (f : LW) : Statement (.imad f) := of_lw rfl (by decide)
theorem iabs (f : LW) : Statement (.iabs f) := of_lw rfl (by decide)
theorem icmp (f : LW) : Statement (.icmp f) := of_lw rfl (by decide)
theorem sel (f : LW) : Statement (.sel f) := of_lw rfl (by decide)
theorem lut3 (f : LW) : Statement (.lut3 f) := of_lw rfl (by decide)
theorem bfe (f : LW) : Statement (.bfe f) := of_lw rfl (by decide)
theorem bfi (f : LW) : Statement (.bfi f) := of_lw rfl (by decide)
theorem bsel (f : LW) : Statement (.bsel f) := of_lw rfl (by decide)
theorem movi (f : LI) : Statement (.movi f) := of_li rfl
theorem iaddi (f : LI) : Statement (.iaddi f) := of_li rfl
theorem andi (f : LI) : Statement (.andi f) := of_li rfl
theorem ori (f : LI) : Statement (.ori f) := of_li rfl
theorem xori (f : LI) : Statement (.xori f) := of_li rfl
theorem faddi (f : LI) : Statement (.faddi f) := of_li rfl
theorem fmuli (f : LI) : Statement (.fmuli f) := of_li rfl
theorem fadd (f : LW) : Statement (.fadd f) := of_lw rfl (by decide)
theorem fmul (f : LW) : Statement (.fmul f) := of_lw rfl (by decide)
theorem ffma (f : LW) : Statement (.ffma f) := of_lw rfl (by decide)
theorem fmin (f : LW) : Statement (.fmin f) := of_lw rfl (by decide)
theorem fmax (f : LW) : Statement (.fmax f) := of_lw rfl (by decide)
theorem fcmp (f : LW) : Statement (.fcmp f) := of_lw rfl (by decide)
theorem frnd (f : LW) : Statement (.frnd f) := of_lw rfl (by decide)
theorem fscl (f : LW) : Statement (.fscl f) := of_lw rfl (by decide)
theorem fcls (f : LW) : Statement (.fcls f) := of_lw rfl (by decide)
theorem frcp (f : LW) : Statement (.frcp f) := of_lw rfl (by decide)
theorem frsq (f : LW) : Statement (.frsq f) := of_lw rfl (by decide)
theorem fsqrt (f : LW) : Statement (.fsqrt f) := of_lw rfl (by decide)
theorem fexp2 (f : LW) : Statement (.fexp2 f) := of_lw rfl (by decide)
theorem flog2 (f : LW) : Statement (.flog2 f) := of_lw rfl (by decide)
theorem cvt (f : LW) : Statement (.cvt f) := of_lw rfl (by decide)
theorem pack (f : LW) : Statement (.pack f) := of_lw rfl (by decide)
theorem unpk (f : LW) : Statement (.unpk f) := of_lw rfl (by decide)
theorem cbdec (f : LW) : Statement (.cbdec f) := of_lw rfl (by decide)
theorem qscl (f : LW) : Statement (.qscl f) := of_lw rfl (by decide)
theorem qnt (f : LW) : Statement (.qnt f) := of_lw rfl (by decide)
theorem salsel (f : LW) : Statement (.salsel f) := of_lw rfl (by decide)
theorem swiz (f : LW) : Statement (.swiz f) := of_lw rfl (by decide)
theorem shx (f : LW) : Statement (.shx f) := of_lw rfl (by decide)
theorem agree (f : LW) : Statement (.agree f) := of_lw rfl (by decide)
theorem ballot (f : LW) : Statement (.ballot f) := of_lw rfl (by decide)
theorem elect (f : LW) : Statement (.elect f) := of_lw rfl (by decide)
theorem rank (f : LW) : Statement (.rank f) := of_lw rfl (by decide)
theorem peers (f : LW) : Statement (.peers f) := of_lw rfl (by decide)
theorem red (f : LW) : Statement (.red f) := of_lw rfl (by decide)
theorem scan (f : LW) : Statement (.scan f) := of_lw rfl (by decide)
theorem ldl (f : LW) : Statement (.ldl f) := of_lw rfl (by decide)
theorem stl (f : LW) : Statement (.stl f) := of_lw rfl (by decide)
theorem lds (f : LW) : Statement (.lds f) := of_lw rfl (by decide)
theorem sts (f : LW) : Statement (.sts f) := of_lw rfl (by decide)
theorem ldb (f : LW) : Statement (.ldb f) := of_lw rfl (by decide)
theorem stb (f : LW) : Statement (.stb f) := of_lw rfl (by decide)
theorem ldk (f : LW) : Statement (.ldk f) := of_lw rfl (by decide)
theorem ldf (f : LW) : Statement (.ldf f) := of_lw rfl (by decide)
theorem stf (f : LW) : Statement (.stf f) := of_lw rfl (by decide)
theorem pfb (f : LW) : Statement (.pfb f) := of_lw rfl (by decide)
theorem ats (f : LW) : Statement (.ats f) := of_lw rfl (by decide)
theorem atb (f : LW) : Statement (.atb f) := of_lw rfl (by decide)
theorem cass (f : LW) : Statement (.cass f) := of_lw rfl (by decide)
theorem casb (f : LW) : Statement (.casb f) := of_lw rfl (by decide)
theorem reds (f : LW) : Statement (.reds f) := of_lw rfl (by decide)
theorem redb (f : LW) : Statement (.redb f) := of_lw rfl (by decide)
theorem sadd (f : UR) : Statement (.sadd f) := of_ur rfl (by decide)
theorem ssub (f : UR) : Statement (.ssub f) := of_ur rfl (by decide)
theorem smul (f : UR) : Statement (.smul f) := of_ur rfl (by decide)
theorem smulh (f : UR) : Statement (.smulh f) := of_ur rfl (by decide)
theorem sand (f : UR) : Statement (.sand f) := of_ur rfl (by decide)
theorem sor (f : UR) : Statement (.sor f) := of_ur rfl (by decide)
theorem sxor (f : UR) : Statement (.sxor f) := of_ur rfl (by decide)
theorem sshl (f : UR) : Statement (.sshl f) := of_ur rfl (by decide)
theorem sshr (f : UR) : Statement (.sshr f) := of_ur rfl (by decide)
theorem ssar (f : UR) : Statement (.ssar f) := of_ur rfl (by decide)
theorem smin (f : UR) : Statement (.smin f) := of_ur rfl (by decide)
theorem smax (f : UR) : Statement (.smax f) := of_ur rfl (by decide)
theorem scmp (f : UR) : Statement (.scmp f) := of_ur rfl (by decide)
theorem ssel (f : UR) : Statement (.ssel f) := of_ur rfl (by decide)
theorem smov (f : UR) : Statement (.smov f) := of_ur rfl (by decide)
theorem spopc (f : UR) : Statement (.spopc f) := of_ur rfl (by decide)
theorem sclz (f : UR) : Statement (.sclz f) := of_ur rfl (by decide)
theorem saddI (f : UI) : Statement (.saddI f) := of_ui rfl (by decide)
theorem sandI (f : UI) : Statement (.sandI f) := of_ui rfl (by decide)
theorem sshlI (f : UI) : Statement (.sshlI f) := of_ui rfl (by decide)
theorem sshrI (f : UI) : Statement (.sshrI f) := of_ui rfl (by decide)
theorem smovI (f : UI) : Statement (.smovI f) := of_ui rfl (by decide)
theorem smovi (f : UW) : Statement (.smovi f) := of_us rfl
theorem sbfe (f : UW) : Statement (.sbfe f) := of_uw rfl (by decide)
theorem vget (f : UW) : Statement (.vget f) := of_uw rfl (by decide)
theorem vput (f : UW) : Statement (.vput f) := of_uw rfl (by decide)
theorem bra (f : UB) : Statement (.bra f) := of_ub rfl (by decide)
theorem brd (f : UB) : Statement (.brd f) := of_ub rfl (by decide)
theorem tok (f : UB) : Statement (.tok f) := of_ub rfl (by decide)
theorem meet (f : UB) : Statement (.meet f) := of_ub rfl (by decide)
theorem call (f : UB) : Statement (.call f) := of_ub rfl (by decide)
theorem ret (f : UR) : Statement (.ret f) := of_ur rfl (by decide)
theorem jmpx (f : UR) : Statement (.jmpx f) := of_ur rfl (by decide)
theorem dbnz (f : UB) : Statement (.dbnz f) := of_ub rfl (by decide)
theorem exit (f : UR) : Statement (.exit f) := of_ur rfl (by decide)
theorem yield (f : UR) : Statement (.yield f) := of_ur rfl (by decide)
theorem nop (f : UR) : Statement (.nop f) := of_ur rfl (by decide)
theorem trap (f : UR) : Statement (.trap f) := of_ur rfl (by decide)
theorem brk (f : UR) : Statement (.brk f) := of_ur rfl (by decide)
theorem eret (f : UR) : Statement (.eret f) := of_ur rfl (by decide)
theorem srd (f : UR) : Statement (.srd f) := of_ur rfl (by decide)
theorem swr (f : UR) : Statement (.swr f) := of_ur rfl (by decide)
theorem post (f : UW) : Statement (.post f) := of_uw rfl (by decide)
theorem bintake (f : UW) : Statement (.bintake f) := of_uw rfl (by decide)
theorem clkrd (f : UW) : Statement (.clkrd f) := of_uw rfl (by decide)
theorem otinv (f : UW) : Statement (.otinv f) := of_uw rfl (by decide)
theorem ginit (f : UW) : Statement (.ginit f) := of_uw rfl (by decide)
theorem arrive (f : UW) : Statement (.arrive f) := of_uw rfl (by decide)
theorem wait (f : UW) : Statement (.wait f) := of_uw rfl (by decide)
theorem tryw (f : UW) : Statement (.tryw f) := of_uw rfl (by decide)
theorem expect (f : UW) : Statement (.expect f) := of_uw rfl (by decide)
theorem gbind (f : UW) : Statement (.gbind f) := of_uw rfl (by decide)
theorem gunb (f : UW) : Statement (.gunb f) := of_uw rfl (by decide)
theorem gflg (f : UW) : Statement (.gflg f) := of_uw rfl (by decide)
theorem fence (f : UW) : Statement (.fence f) := of_uw rfl (by decide)
theorem commit (f : UW) : Statement (.commit f) := of_uw rfl (by decide)
theorem group (f : UW) : Statement (.group f) := of_uw rfl (by decide)
theorem build (f : UW) : Statement (.build f) := of_uw rfl (by decide)
theorem join (f : UW) : Statement (.join f) := of_uw rfl (by decide)
theorem expand (f : UW) : Statement (.expand f) := of_uw rfl (by decide)
theorem repack (f : UW) : Statement (.repack f) := of_uw rfl (by decide)
theorem rcount (f : UW) : Statement (.rcount f) := of_uw rfl (by decide)
theorem cld (f : UW) : Statement (.cld f) := of_uw rfl (by decide)
theorem cnar (f : UW) : Statement (.cnar f) := of_uw rfl (by decide)
theorem cinf (f : UW) : Statement (.cinf f) := of_uw rfl (by decide)
theorem cclr (f : UW) : Statement (.cclr f) := of_uw rfl (by decide)
theorem send (f : UW) : Statement (.send f) := of_uw rfl (by decide)
theorem recv (f : UW) : Statement (.recv f) := of_uw rfl (by decide)
theorem eapp (f : UW) : Statement (.eapp f) := of_uw rfl (by decide)
theorem eadv (f : UW) : Statement (.eadv f) := of_uw rfl (by decide)
theorem eseq (f : UW) : Statement (.eseq f) := of_uw rfl (by decide)
theorem pub (f : UW) : Statement (.pub f) := of_uw rfl (by decide)
theorem wprd (f : UW) : Statement (.wprd f) := of_uw rfl (by decide)
theorem macq (f : UW) : Statement (.macq f) := of_uw rfl (by decide)
theorem mrel (f : UW) : Statement (.mrel f) := of_uw rfl (by decide)
theorem mldb (f : UW) : Statement (.mldb f) := of_uw rfl (by decide)
theorem mbsw (f : UW) : Statement (.mbsw f) := of_uw rfl (by decide)
theorem mlda (f : UW) : Statement (.mlda f) := of_uw rfl (by decide)
theorem mma (f : UW) : Statement (.mma f) := of_uw rfl (by decide)
theorem qmma (f : UW) : Statement (.qmma f) := of_uw rfl (by decide)
theorem mmas (f : UW) : Statement (.mmas f) := of_uw rfl (by decide)
theorem scacc (f : UW) : Statement (.scacc f) := of_uw rfl (by decide)
theorem mrd (f : UW) : Statement (.mrd f) := of_uw rfl (by decide)
theorem mwr (f : UW) : Statement (.mwr f) := of_uw rfl (by decide)
theorem mclr (f : UW) : Statement (.mclr f) := of_uw rfl (by decide)
theorem bind (f : UW) : Statement (.bind f) := of_uw rfl (by decide)
theorem slrd (f : UW) : Statement (.slrd f) := of_uw rfl (by decide)
theorem slfl (f : UW) : Statement (.slfl f) := of_uw rfl (by decide)
theorem ckgen (f : UW) : Statement (.ckgen f) := of_uw rfl (by decide)
theorem ckver (f : UW) : Statement (.ckver f) := of_uw rfl (by decide)
theorem ckrd (f : UW) : Statement (.ckrd f) := of_uw rfl (by decide)
theorem sqcfg (f : UW) : Statement (.sqcfg f) := of_uw rfl (by decide)
theorem sqload (f : UW) : Statement (.sqload f) := of_uw rfl (by decide)
theorem sqstg (f : UW) : Statement (.sqstg f) := of_uw rfl (by decide)
theorem sqdec (f : UW) : Statement (.sqdec f) := of_uw rfl (by decide)
theorem sqhis (f : UW) : Statement (.sqhis f) := of_uw rfl (by decide)
theorem entryNop (ch : Nat) (e : Entry) : Statement (.entryNop ch e) := of_event rfl
theorem copy (ch : Nat) (e : Entry) : Statement (.copy ch e) := of_event rfl
theorem copy2d (ch : Nat) (e : Entry) : Statement (.copy2d ch e) := of_event rfl
theorem fill (ch : Nat) (e : Entry) : Statement (.fill ch e) := of_event rfl
theorem gather (ch : Nat) (e : Entry) : Statement (.gather ch e) := of_event rfl
theorem gatherm (ch : Nat) (e : Entry) : Statement (.gatherm ch e) := of_event rfl
theorem scatadd (ch : Nat) (e : Entry) : Statement (.scatadd ch e) := of_event rfl
theorem allred (ch : Nat) (e : Entry) : Statement (.allred ch e) := of_event rfl
theorem rscat (ch : Nat) (e : Entry) : Statement (.rscat ch e) := of_event rfl
theorem allgath (ch : Nat) (e : Entry) : Statement (.allgath ch e) := of_event rfl
theorem bcast (ch : Nat) (e : Entry) : Statement (.bcast ch e) := of_event rfl
theorem submit (ch : Nat) (e : Entry) : Statement (.submit ch e) := of_event rfl
theorem engineLanding (ch seq : Nat) : Statement (.engineLanding ch seq) := of_event rfl
theorem entryCompletion (ch seq : Nat) : Statement (.entryCompletion ch seq) := of_event rfl
theorem abortToken (die group attempt : Nat) : Statement (.abortToken die group attempt) := of_event rfl
theorem storeEntryDrain (b id : Nat) : Statement (.storeEntryDrain b id) := of_event rfl
theorem releaseArrival (b id : Nat) : Statement (.releaseArrival b id) := of_event rfl
theorem loadReturn (b t id : Nat) : Statement (.loadReturn b t id) := of_event rfl
theorem guardWake (b t e : Nat) : Statement (.guardWake b t e) := of_event rfl
theorem trywTimeout (b t e : Nat) : Statement (.trywTimeout b t e) := of_event rfl
theorem remoteArrival (src seq : Nat) (o : FabOp) : Statement (.remoteArrival src seq o) := of_event rfl
theorem fabricOperation (src seq : Nat) (o : FabOp) : Statement (.fabricOperation src seq o) := of_event rfl
theorem fabricAcknowledgement (dst : Nat) (seq : FabAck) : Statement (.fabricAcknowledgement dst seq) := of_event rfl
theorem linkFailure (link : Nat) : Statement (.linkFailure link) := of_event rfl
theorem operationAbandoned (dst : Nat) (seq : FabId) : Statement (.operationAbandoned dst seq) := of_event rfl
theorem patrolScrub (core : Nat) : Statement (.patrolScrub core) := of_event rfl
theorem pageReplay (b t e : Nat) : Statement (.pageReplay b t e) := of_event rfl
theorem shootdown (id target : Nat) : Statement (.shootdown id target) := of_event rfl
theorem otinvCompletion (id : Nat) : Statement (.otinvCompletion id) := of_event rfl
theorem pubSwap (b t e : Nat) : Statement (.pubSwap b t e) := of_event rfl
theorem messageArrival (m : Msg) : Statement (.messageArrival m) := of_event rfl
theorem messageRefusal (m : Msg) : Statement (.messageRefusal m) := of_event rfl
theorem postCompletion (b t e : Nat) : Statement (.postCompletion b t e) := of_event rfl
theorem binTimer (core bin : Nat) : Statement (.binTimer core bin) := of_event rfl
theorem binDrain (core bin : Nat) : Statement (.binDrain core bin) := of_event rfl
theorem blockPlacement (task : Nat) : Statement (.blockPlacement task) := of_event rfl
theorem blockEnd (b : Nat) : Statement (.blockEnd b) := of_event rfl
theorem troupePromotion (b t : Nat) : Statement (.troupePromotion b t) := of_event rfl
theorem yieldEnd (b t : Nat) : Statement (.yieldEnd b t) := of_event rfl
theorem queueWake (b t e : Nat) : Statement (.queueWake b t e) := of_event rfl
theorem qdryDeadlock (b t : Nat) : Statement (.qdryDeadlock b t) := of_event rfl
theorem populationExecute (b : Nat) (sc : Scope) : Statement (.populationExecute b sc) := of_event rfl
theorem populationComplete (b : Nat) (sc : Scope) : Statement (.populationComplete b sc) := of_event rfl
theorem collstallClose (b : Nat) (sc : Scope) : Statement (.collstallClose b sc) := of_event rfl
theorem macqGrant (core : Nat) : Statement (.macqGrant core) := of_event rfl
theorem matrixCompletion (core : Nat) : Statement (.matrixCompletion core) := of_event rfl
theorem mldbReplay (core : Nat) : Statement (.mldbReplay core) := of_event rfl
theorem graphStart (part : Nat) : Statement (.graphStart part) := of_event rfl
theorem graphCompletion (g : Nat) : Statement (.graphCompletion g) := of_event rfl
theorem kernelNode (g n : Nat) : Statement (.kernelNode g n) := of_event rfl
theorem condNode (g n : Nat) : Statement (.condNode g n) := of_event rfl
theorem whileNode (g n : Nat) : Statement (.whileNode g n) := of_event rfl
theorem whileIteration (g n : Nat) : Statement (.whileIteration g n) := of_event rfl
theorem engineNode (g n : Nat) : Statement (.engineNode g n) := of_event rfl
theorem gangNode (g n : Nat) : Statement (.gangNode g n) := of_event rfl
theorem gangReady (g n pkg tick : Nat) : Statement (.gangReady g n pkg tick) := of_event rfl
theorem gangStartTick (g n : Nat) : Statement (.gangStartTick g n) := of_event rfl
theorem gangTimeout (g n pkg : Nat) : Statement (.gangTimeout g n pkg) := of_event rfl
theorem binNode (g n : Nat) : Statement (.binNode g n) := of_event rfl
theorem eventRecord (src : Nat) : Statement (.eventRecord src) := of_event rfl
theorem preemptHaltComplete (part : Nat) : Statement (.preemptHaltComplete part) := of_event rfl
theorem linkFlitError (link : Nat) : Statement (.linkFlitError link) := of_event rfl
theorem meshBeatError (core dir : Nat) : Statement (.meshBeatError core dir) := of_event rfl
theorem doorbellWrite (part : Nat) (sup : Bool) (v : DWord) : Statement (.doorbellWrite part sup v) := of_event rfl
theorem partition (ses : Bool) (c : PartCfg) : Statement (.partition ses c) := of_event rfl
theorem keyset (ses : Bool) (part slot : Nat) (key : Option Nat) : Statement (.keyset ses part slot key) := of_event rfl
theorem preempt (ses : Bool) (part : Nat) : Statement (.preempt ses part) := of_event rfl
theorem swap (ses : Bool) (part : Nat) : Statement (.swap ses part) := of_event rfl
theorem resume (ses : Bool) (part : Nat) : Statement (.resume ses part) := of_event rfl
theorem capCmd (ses : Bool) (watts : Nat) : Statement (.capCmd ses watts) := of_event rfl
theorem debugCmd (ses : Bool) (part : Nat) (o : DebugOp) : Statement (.debugCmd ses part o) := of_event rfl
theorem stepCommand (ses : Bool) (b t e : Nat) : Statement (.stepCommand ses b t e) := of_event rfl
theorem linkCmd (ses : Bool) (link : Nat) : Statement (.linkCmd ses link) := of_event rfl
theorem getVersion (ok : Bool) : Statement (.getVersion ok) := of_event rfl
theorem getCapabilities (ok : Bool) : Statement (.getCapabilities ok) := of_event rfl
theorem negotiateAlgorithms (ok : Bool) : Statement (.negotiateAlgorithms ok) := of_event rfl
theorem getDigests (ok : Bool) : Statement (.getDigests ok) := of_event rfl
theorem getCertificate (ok : Bool) : Statement (.getCertificate ok) := of_event rfl
theorem challenge (ok : Bool) : Statement (.challenge ok) := of_event rfl
theorem getMeasurements (ok : Bool) : Statement (.getMeasurements ok) := of_event rfl
theorem keyExchange (ok : Bool) : Statement (.keyExchange ok) := of_event rfl
theorem finish (ok : Bool) : Statement (.finish ok) := of_event rfl
theorem securityAlarm (level : AlarmLevel) (part : Nat) : Statement (.securityAlarm level part) := of_event rfl
theorem clockSync (offset : Int) : Statement (.clockSync offset) := of_event rfl
theorem timeMasterTakeover (pkg : Nat) : Statement (.timeMasterTakeover pkg) := of_event rfl
theorem powerStep (n watts : Nat) : Statement (.powerStep n watts) := of_event rfl
theorem powerGood : Statement (.powerGood) := of_event rfl
theorem bringupStageEnd (cause : Nat) : Statement (.bringupStageEnd cause) := of_event rfl

end Sys2Proof.Laws.Framing
end

