-- ==== Sys2Proof/Tests/Slice0.lean ====
section
/-! SUPPORT. Tests: words of the spec's encodings, ill-formed words, single steps, and a witness for the hypotheses of
every statement. Expected results are from the spec's tables and worked examples, or worked by hand from them. -/
namespace Sys2Proof.Tests

-- one theorem after another: each kernel evaluation is done before the next begins
set_option Elab.async false

open Machine

/-! ## States to test on -/

/-- One block of one troupe on core 0, its split 0 about to issue; launch, block and troupe as changed. -/
def st (h : Launch → Launch) (f : Block → Block) (g : Troupe → Troupe) : State :=
  let L := h loadLaunch
  let B := f (mkBlock L 1 0 0 0 none)
  { State.reset.loaded with
    cur := some ⟨1, 0, 0⟩
    fresh := 100
    blocks := [(1, { B with troupes := B.troupes.mod 0 g })]
    tasks := [(1, { part := 0, launch := L, next := 1 })] }

/-- The same with nothing changed. -/
def s0 : State := st id id id

/-- Whether the chosen split may issue `i` and satisfies `p`. -/
def ready (s : State) (i : Instr) (p : Ctx → Bool) : Bool :=
  match s.focus? with
  | some c => (c.causes i).isEmpty && !c.interlock i && (c.poisonRead i).isNone && (c.flipsRead i).isEmpty &&
      (s.core c.blk.core).pipe.isNone && (s.core c.blk.core).upipe.isNone && s.unheld c i && p c
  | none => false

theorem of_ready {s : State} {i : Instr} {p : Ctx → Bool} (h : ready s i p = true) : ∃ c, Ready s c i ∧ p c = true := by
  unfold ready at h
  split at h
  · next c hc =>
    simp only [Bool.and_eq_true, List.isEmpty_iff, Bool.not_eq_true', Option.isNone_iff_eq_none] at h
    exact ⟨c, ⟨hc, h.1.1.1.1.1.1.1, h.1.1.1.1.1.1.2, h.1.1.1.1.1.2, h.1.1.1.1.2, h.1.1.1.2, h.1.1.2, h.1.2⟩, h.2⟩
  · exact absurd h (by decide)

/-- A capability: kind, rights, object, generation, first granule, granules. -/
def capOf (kind : Nat) (rights : BitVec 12) (obj gen base len : Nat) : CapReg :=
  { bits := BitVec.ofNat 4 kind ++ rights ++ BitVec.ofNat 24 obj ++ BitVec.ofNat 16 gen ++ BitVec.ofNat 36 base ++
      BitVec.ofNat 36 len }

/-- The state with the table entry of the object a capability names: valid, of its generation, 16 pages of slice space. -/
def withObj (s : State) (c : CapReg) : State :=
  { s with mem := { s.mem with dev := Mem.write s.mem.dev (32 * c.obj) (leBytes 32 (5 + 2 ^ 32 * c.gen + 2 ^ 196)) } }

/-- The state with capability register 1 set, its object valid. -/
def withCap (s : State) (c : CapReg) : State :=
  (withObj s c).modTrp 1 0 fun T =>
    { T with regs := { T.regs with c := T.regs.c.put 1 c } }

/-- A slice region of 4 KiB at address 4096 of core 0, with every right of its kind, in capability register 1. -/
def sSlice : State := withCap s0 (capOf 2 0xB87#12 1 0 256 256)

/-- A bulk object of one page: its table entry, page entry and frame in device memory. -/
def sBulk : State :=
  let s := withCap s0 (capOf 1 0xB87#12 1 0 0 256)
  let d := Mem.write [] 32 (leBytes 32 (1 + 2 * 1 + 512 * 1 + 2 ^ 64 * 0x1000 + 2 ^ 192))
  { s with mem := { s.mem with dev := Mem.write d 0x1000 (leBytes 8 0x4003) } }

/-- The same object in package 1, as its object 7. -/
def sFarBulk : State :=
  { sBulk with mem := { sBulk.mem with dev := Mem.write [] 32 (leBytes 32 (1 + 2 + 512 + 2 ^ 21 * 3 + 2 ^ 64 * 449 + 2 ^ 192)) } }

/-- A guard of one arrival at address 4096 of core 0, in capability register 1. -/
def sGuard : State :=
  (withCap s0 (capOf 3 0x318#12 1 0 256 26)).sliceWrite 4096 (leBytes 4 0 ++ leBytes 2 1 ++ leBytes 2 1)

/-! ## Statements about words and steps -/

theorem witness_DecodeAndEncodeAgree :
    (Instr.iadd ⟨true, true, 127, 0x83, 0xFF⟩).isWord = true ∧ (Instr.iadd ⟨true, true, 127, 0x83, 0xFF⟩).WellFormed ∧
    (Instr.otinv ⟨false, false, 0, 63, 63, 0, 1⟩).WellFormed ∧ (∃ i, decode 0x00030102#32 0 = .ok i) :=
  ⟨rfl, ⟨rfl, rfl, rfl⟩, ⟨by decide, by decide, by decide⟩, _, rfl⟩

/-- A package with one instruction word to issue. -/
def sIssue (w : Nat) : State := State.reset.loaded.putCode 1 0 (leBytes 4 w)

theorem witness_StepRunsTheDecodedInstruction :
    State.reset.choice = none ∧ ({ State.reset with inputs := [.powerGood] } : State).choice = some (.input .powerGood) ∧
    ({ State.reset with eng := { sent := [{ dst := 1, seq := 1, op := .advance 0 0, b := 0 }] } } : State).choice =
      some (.event (.operationAbandoned 1 ⟨none, 1⟩)) ∧
    (sIssue 0x00030102).choice = some (.issue 0 0 false ⟨1, 0, 0⟩ []) ∧
    (((sIssue 0x00030102).enter (.issue 0 0 false ⟨1, 0, 0⟩ [])).focus?.any fun c =>
      ((sIssue 0x00030102).codeWord c.task 0 = some 0x00030102#32)) = true ∧
    (((sIssue 0x0B800000).enter (.issue 0 0 false ⟨1, 0, 0⟩ [])).focus?.any fun c =>
      ((sIssue 0x0B800000).codeWord c.task 0 = some 0x0B800000#32)) = true ∧
    (State.reset.loaded.enter (.issue 0 2 false ⟨1, 0, 0⟩ [])).focus?.isSome = true ∧
    State.reset.loaded.choice = some (.issue 0 2 false ⟨1, 0, 0⟩ []) := by
  refine ⟨?_, ?_, ?_, ?_, ?_, ?_, ?_, ?_⟩ <;> decide +kernel

theorem witness_StepKeepsMemoryCanonical : State.reset.MemWf ∧ ∃ t, step State.reset = .next t := ⟨⟨rfl, rfl, rfl⟩, _, rfl⟩

theorem witness_WordsTrapOrWaitBeforeTheirEffect :
    (s0.focus?.any fun c => (c.causes (.iadd ⟨false, false, 127, 0x86, 0⟩)).head? = some 4) = true ∧
    ((st id id fun T => { T with loads := [(5, ⟨.slice, [(0, 0)], 4, true, 1, 3, none, 0, false⟩)] }).focus?.any fun c =>
      (c.causes (.iadd ⟨false, false, 3, 1, 2⟩)).isEmpty && c.interlock (.iadd ⟨false, false, 3, 1, 2⟩)) = true ∧
    ((st id id fun T => { T with poison := [32 * 1 + 31] }).focus?.any fun c =>
      (c.causes (.iadd ⟨false, false, 3, 1, 2⟩)).isEmpty && !c.interlock (.iadd ⟨false, false, 3, 1, 2⟩) &&
      c.poisonRead (.iadd ⟨false, false, 3, 1, 2⟩) = some 31) = true ∧
    (({ (st id id fun T => { T with chk := 2 }) with cores := [(0, { pipe := some (4, true) })] } : State).focus?.any fun c =>
      (pipeHits c.trp.chk (c.guarded (.iadd ⟨false, false, 3, 1, 2⟩)) 4).head? = some 3) = true := by
  refine ⟨?_, ?_, ?_, ?_⟩ <;> decide +kernel

theorem witness_FaultsAreDeliveredHeldOrEndTheBlock :
    ((st (fun L => { L with trp := true, trap := 9 }) id id).focus?.any fun c =>
      c.trp.handler.isNone && c.task.launch.trp) = true ∧
    ((st (fun L => { L with trp := true, trap := 9 }) id fun T => { T with handler := some ⟨1, 0, 0⟩ }).focus?.any fun c =>
      c.trp.handler = some ⟨1, 0, 0⟩ && c.task.launch.trp && decide (1 ≠ c.e)) = true ∧
    (s0.focus?.any fun c => c.trp.handler.isNone && !c.task.launch.trp && c.blk.window && decide (c.blk.attempts < 3)) = true ∧
    ((st id id fun T => { T with handler := some ⟨0, 0, 0⟩ }).focus?.any fun c =>
      c.trp.handler = some ⟨0, 0, 0⟩ && c.e = 0) = true ∧
    ((st id (fun B => { B with window := false }) id).focus?.any fun c => !c.blk.window) = true ∧
    ((st id (fun B => { B with attempts := 3 }) id).focus?.any fun c => decide (3 ≤ c.blk.attempts)) = true := by
  refine ⟨?_, ?_, ?_, ?_, ?_, ?_⟩ <;> decide +kernel

/-! ## Lane instructions -/

/-- Fields of a two-word lane instruction with a = v0: d, b, c, type and m. -/
def lw (d : BitVec 7) (b c : BitVec 8) (t : BitVec 4) (m : BitVec 8) : LW := ⟨false, false, d, 0, b, c, t, false, 0, m⟩

/-- Whether every instruction of a list may issue and satisfies `p`. -/
def allOf (is : List Instr) (p : Instr → Ctx → Bool) : Bool := is.all fun i => ready s0 i (p i)

theorem of_allOf {is : List Instr} {p : Instr → Ctx → Bool} (h : allOf is p = true) :
    ∀ i ∈ is, ∃ c, Ready s0 c i ∧ p i c = true := fun i hi => of_ready (List.all_eq_true.mp h i hi)

/-- Whether every instruction of a list is ready, with no queue to wait for. -/
def allReady (is : List Instr) : Bool := allOf is fun i c => (c.popWait i (c.guarded i) s0).isNone

theorem of_allReady {is : List Instr} (h : allReady is = true) : ∀ i ∈ is, ∃ c, Ready s0 c i ∧
    c.popWait i (c.guarded i) s0 = none := by
  intro i hi
  obtain ⟨c, h1, h2⟩ := of_allOf h i hi
  exact ⟨c, h1, Option.isNone_iff_eq_none.mp h2⟩

theorem witness_OneWordIntegerLaneResults : ∀ i ∈ [Instr.iadd ⟨false, false, 127, 0x84, 0xFF⟩, .isub ⟨false, true, 0, 1, 2⟩,
    .imul ⟨false, false, 3, 1, 2⟩, .imulh ⟨false, false, 3, 1, 2⟩, .imin ⟨false, false, 3, 1, 2⟩,
    .imax ⟨false, false, 3, 1, 2⟩, .and ⟨false, false, 3, 1, 2⟩, .or ⟨false, false, 3, 1, 2⟩, .xor ⟨false, false, 3, 1, 2⟩,
    .andn ⟨false, false, 3, 1, 2⟩, .shl ⟨true, false, 3, 1, 2⟩, .shr ⟨false, false, 3, 1, 2⟩, .sar ⟨false, false, 3, 1, 0xEF⟩,
    .popc ⟨false, false, 3, 1, 2⟩, .clz ⟨false, false, 3, 1, 0⟩, .brev ⟨false, false, 3, 1, 0⟩,
    .mov ⟨false, false, 3, 0xCF, 0⟩], ∃ c, Ready s0 c i ∧ c.popWait i (c.guarded i) s0 = none :=
  of_allReady (by decide +kernel)

theorem witness_TypedIntegerLaneResults : ∀ i ∈ [Instr.imulhTyped (lw 4 2 0 1 0), .iminTyped (lw 4 2 0 7 0),
    .imaxTyped (lw 126 2 0 11 0), .imad (lw 4 2 3 0 1), .iabs (lw 4 0 0 6 0)],
    ∃ c, Ready s0 c i ∧ c.popWait i (c.guarded i) s0 = none := of_allReady (by decide +kernel)

theorem witness_CompareAndSelectLaneResults : ∀ i ∈ [Instr.icmp (lw 7 2 0 0 5), .icmp (lw 0 2 0 6 8), .sel (lw 4 2 6 6 0)],
    ∃ c, Ready s0 c i ∧ c.popWait i (c.guarded i) s0 = none := of_allReady (by decide +kernel)

theorem witness_BitFieldAndImmediateLaneResults : ∀ i ∈ [Instr.lut3 (lw 4 2 3 0 0xFF), .bfe (lw 4 2 3 0 1), .bfi (lw 4 2 3 0 0),
    .bsel (lw 4 2 3 0 0), .movi ⟨false, false, 3, 0, 0xFFFFFFFF⟩, .iaddi ⟨false, false, 3, 1, 1000⟩,
    .andi ⟨false, false, 3, 1, 1⟩, .ori ⟨false, false, 3, 1, 1⟩, .xori ⟨false, false, 3, 1, 1⟩],
    ∃ c, Ready s0 c i ∧ c.popWait i (c.guarded i) s0 = none := of_allReady (by decide +kernel)

theorem witness_FloatArithmeticLaneResults : ∀ i ∈ [Instr.faddF32 ⟨false, false, 3, 1, 2⟩, .fmulF32 ⟨false, false, 3, 1, 2⟩,
    .fminF32 ⟨false, false, 3, 1, 2⟩, .fmaxF32 ⟨false, false, 3, 1, 2⟩, .faddi ⟨false, false, 3, 1, 0x3F800000⟩,
    .fmuli ⟨false, false, 3, 1, 0x3F800000⟩, .fadd (lw 4 2 0 2 0), .fadd (lw 4 2 6 2 4), .fmul (lw 4 2 0 5 1),
    .ffma (lw 4 2 3 2 3), .fmin (lw 4 2 0 3 0xF0), .fmax (lw 4 2 0 2 0), .fcmp (lw 7 2 0 2 8), .frnd (lw 4 0 0 2 3),
    .fscl (lw 4 2 0 2 0), .fcls (lw 4 0 0 5 0)], ∃ c, Ready s0 c i ∧ c.popWait i (c.guarded i) s0 = none :=
  of_allReady (by decide +kernel)

theorem witness_FloatFunctionAndConversionLaneResults : ∀ i ∈ [Instr.frcp (lw 4 0 0 2 0), .frsq (lw 4 0 0 5 0),
    .fsqrt (lw 4 0 0 2 0), .fexp2 (lw 4 0 0 2 0), .flog2 (lw 4 0 0 2 0), .cvt (lw 4 0 0 0 2), .pack (lw 4 2 0 3 0),
    .unpk (lw 4 0 0 2 3), .qscl (lw 4 0 0 10 0), .qnt (lw 4 2 3 10 1), .salsel (lw 4 2 0 12 0)],
    ∃ c, Ready s0 c i ∧ c.popWait i (c.guarded i) s0 = none := of_allReady (by decide +kernel)

/-- A shadow pair: troupe 0 and its shadow troupe, 32. -/
def sPair : State := st (fun L => { L with shd := true }) id id

theorem witness_CodebookAndQueuePushComplete :
    (∃ c, Ready sSlice c (.cbdec (lw 4 0 1 2 0)) ∧ (decide (c.blk.unreach = none) && decide (sSlice.mem.flips = []) &&
      (c.popWait (.cbdec (lw 4 0 1 2 0)) (c.guarded (.cbdec (lw 4 0 1 2 0))) sSlice).isNone &&
      (sSlice.accessFault c (c.cap 1) 2 (rightsOf true false false) 2
        ((lanesOf (c.guarded (.cbdec (lw 4 0 1 2 0)))).map fun l => (l, 0))).isNone &&
      !sSlice.loadPoison c .slice 4096 2) = true) ∧
    ∃ c, Ready sPair c (.qpush ⟨false, false, 0, 1, 3⟩) ∧
      ((c.popWait (.qpush ⟨false, false, 0, 1, 3⟩) (c.guarded (.qpush ⟨false, false, 0, 1, 3⟩)) sPair).isNone &&
        !c.full 3 (c.guarded (.qpush ⟨false, false, 0, 1, 3⟩))) = true :=
  ⟨of_ready (by decide +kernel), of_ready (by decide +kernel)⟩

theorem witness_CrossLaneExecutesWithItsValues : ∀ i ∈ [Instr.swizSel ⟨false, false, 3, 1, 2⟩, .swiz (lw 4 2 0xFF 0 4),
    .shx (lw 4 2 0xFF 0 0), .agree (lw 4 0 0xFF 0 2), .elect (lw 4 0 0xFF 0 0), .rank (lw 4 0 0xFF 0 0),
    .peers (lw 4 0 0xFF 0 0), .red (lw 4 0 0xFF 0 1), .scan (lw 4 0 0xFF 0 2), .ballot (lw 4 0 0xFF 0 0)],
    ∃ c, Ready s0 c i ∧ (decide (c.popWait i (c.guarded i) s0 = none) && decide (c.trp.inst = none) && !(i.xscope c).2 &&
      decide (c.trp.lm &&& (i.xscope c).1 = c.guarded i)) = true := by
  apply of_allOf
  decide +kernel

/-! ## Uniform instructions and control -/

/-- Fields of a one-word uniform instruction. -/
def ur (d a b : BitVec 6) (x : BitVec 5) : UR := ⟨false, false, d, a, b, x⟩
/-- Fields of a branch-format word. -/
def ub (sel : BitVec 3) (sense : Bool) (off : BitVec 19) : UB := ⟨false, false, sel, sense, off⟩
/-- Fields of a two-word uniform instruction. -/
def uw (d a b : BitVec 6) (x : BitVec 5) (w : Word) : UW := ⟨false, false, d, a, b, x, w⟩

theorem witness_UniformRegistersGatesAndLanes : ∀ i ∈ [Instr.sadd (ur 63 1 2 0), .ssub (ur 3 1 2 0), .smul (ur 3 1 2 0),
    .smulh (ur 3 1 2 1), .sand (ur 3 1 2 0), .sor (ur 3 1 2 0), .sxor (ur 3 1 2 0), .sshl (ur 3 1 2 0), .sshr (ur 3 1 2 0),
    .ssar (ur 3 1 2 0), .smin (ur 3 1 2 1), .smax (ur 3 1 2 0), .smov (ur 3 1 0 0), .spopc (ur 3 1 0 0), .sclz (ur 3 1 0 0),
    .ssel (ur 3 1 2 15), .saddI ⟨false, false, 3, 1, 0x400⟩, .sandI ⟨false, false, 3, 1, 0x7FF⟩,
    .sshlI ⟨false, false, 3, 1, 63⟩, .sshrI ⟨false, false, 3, 1, 63⟩, .smovI ⟨false, false, 3, 0, 0x7FF⟩,
    .smovi (uw 4 1 0 0 0xFFFFFFFB), .sbfe (uw 4 1 0 0 0x2FC1), .vget (uw 4 0 0 0 0x0003801F), .scmp (ur 7 1 2 5),
    .scmp (ur 0 1 2 8), .vput (uw 0 0 1 0 0x0003801F)], ∃ c, Ready s0 c i ∧ c.popWait i (c.guarded i) s0 = none := of_allReady (by decide +kernel)

theorem witness_BranchesGoOrDivide :
    (∃ c, Ready s0 c (.bra (ub 7 true 0x40000)) ∧ true = true) ∧ (∃ c, Ready s0 c (.dbnz (ub 7 false 1)) ∧ true = true) ∧
    (∃ c, Ready s0 c (.jmpx (ur 0 5 0 0)) ∧ true = true) ∧
    (∃ c, Ready s0 c (.call (ub 0 true 5)) ∧ (!(c.gate 0 != true)) = true) ∧
    (∃ c, Ready s0 c (.brd (ub 1 false 2)) ∧ decide (c.sp.em &&& c.trp.lm &&& c.predMask 1 = 0) = true) ∧
    (∃ c, Ready s0 c (.brd (ub 1 true 2)) ∧ decide (c.sp.own &&& ~~~(c.sp.em &&& c.trp.lm &&& ~~~c.predMask 1) = 0) = true) ∧
    ∃ c, Ready (st id id fun T => { T with regs := { T.regs with p := [(1, 0x80000000#32)] } }) c (.brd (ub 1 true 2)) ∧
      (decide (c.sp.em &&& c.trp.lm &&& ~~~c.predMask 1 ≠ 0) &&
        decide (c.sp.own &&& ~~~(c.sp.em &&& c.trp.lm &&& ~~~c.predMask 1) ≠ 0) && c.trp.freeEntry.isSome) = true := by
  refine ⟨?_, ?_, ?_, ?_, ?_, ?_, ?_⟩ <;> (apply of_ready; decide +kernel)

/-- Return stacks of `n` points in every lane. -/
def sRet (n : Nat) : State := st id id fun T => { T with ret := (List.range 32).map fun l => (l, List.replicate n 7#32) }

theorem witness_CallsAndReturns :
    (∃ c, Ready (sRet 15) c (.call (ub 0 false 5)) ∧ ((c.gate 0 != false) &&
      (lanesOf c.sp.own).all fun l => decide ((c.trp.ret.get [] l).length < 16)) = true) ∧
    (∃ c, Ready (sRet 15) c (.jmpx (ur 0 5 0 1)) ∧
      ((lanesOf c.sp.own).all fun l => decide ((c.trp.ret.get [] l).length < 16)) = true) ∧
    (∃ c, Ready (sRet 16) c (.call (ub 0 false 5)) ∧ ((c.gate 0 != false) &&
      (lanesOf c.sp.own).find? (fun l => decide (16 ≤ (c.trp.ret.get [] l).length)) = some 0) = true) ∧
    (∃ c, Ready (sRet 1) c (.ret (ur 0 0 0 0)) ∧ ((lanesOf c.sp.own).all fun l => (c.trp.ret.get [] l).head? = some 7#32) =
      true) ∧
    ∃ c, Ready s0 c (.ret (ur 0 0 0 0)) ∧
      decide ((lanesOf c.sp.own).find? (fun l => (c.trp.ret.get [] l).isEmpty) = some 0) = true := by
  refine ⟨?_, ?_, ?_, ?_, ?_⟩ <;> (apply of_ready; decide +kernel)

/-- Token 2 armed at word 0, with a second split, of lane 31, parked at it. -/
def sToken (target : Word) : State := st id id fun T => { T with
  k := [(2, ⟨target, 0xFFFFFFFF#32, 1⟩)], now := 2
  splits := [(0, ⟨0x7FFFFFFF#32, 0x7FFFFFFF#32, 0, 0, .ready, none⟩), (1, ⟨0x80000000#32, 0x80000000#32, 0, 1, .meet 2, none⟩)] }

theorem witness_TokensArmMeetAndSettle :
    (∃ c, Ready s0 c (.tok (ub 7 false 0x7FFFF)) ∧ (c.trp.k.find 7).isNone = true) ∧
    (∃ c, Ready (sToken 0) c (.meet (ub 2 false 0)) ∧ ((c.trp.k.find 2).any fun k => k.target = c.sp.pc) = true) ∧
    (∃ c, Ready (sToken 0) c (.tok (ub 2 false 3)) ∧ ((c.trp.k.find 2).isSome && !(c.trp.atMeet 2).isEmpty) = true) ∧
    (∃ c, Ready s0 c (.meet (ub 2 false 0)) ∧ (c.trp.k.find 2).isNone = true) ∧
    (∃ c, Ready (sToken 1) c (.meet (ub 2 false 0)) ∧ ((c.trp.k.find 2).any fun k => k.target ≠ c.sp.pc) = true) ∧
    ((s0.trp? 1 0).any fun T => T.youngest.isNone && !T.stuck && decide (T.lm ≠ 0) && T.inst.isNone) = true ∧
    ((s0.blocks.find 1).any fun B => B.inst.isNone) = true := by
  refine ⟨?_, ?_, ?_, ?_, ?_, ?_, ?_⟩
  all_goals first
    | decide +kernel
    | (apply of_ready; decide +kernel)

theorem witness_ExitRetiresTheActiveLanes : ∃ c, Ready s0 c (.exit (ur 0 0 0 0)) ∧ c.trp.stack.isEmpty = true :=
  of_ready (by decide +kernel)

/-- The debug gate of the partition open. -/
def sGate : State := s0.modPart 0 fun P => { P with gate := true }

theorem witness_NopsTrapsAndHandlerReturn :
    (∃ c, Ready s0 c (.nop (ur 0 0 0 0)) ∧ true = true) ∧ (∃ c, Ready s0 c (.yield (ur 0 0 0 0)) ∧ true = true) ∧
    (∃ c, Ready s0 c (.trap (ur 0 0 63 31)) ∧ true = true) ∧
    (∃ c, Ready s0 c (.brk (ur 0 0 63 31)) ∧ (!s0.gateOpen c.task) = true) ∧
    (∃ c, Ready sGate c (.brk (ur 0 0 0 0)) ∧ sGate.gateOpen c.task = true) ∧
    (∃ c, Ready (st id id fun T => { T with handler := some ⟨0, 3, 4⟩ }) c (.eret (ur 0 0 0 1)) ∧
      decide ((c.trp.handler.map Handler.entry) = some c.e) = true) ∧
    (∃ c, Ready (st id id fun T => { T with handler := some ⟨0, 3, 4⟩, held := [(1, ⟨1, 0, 0, 0⟩, 5, 6)] }) c
      (.eret (ur 0 0 0 0)) ∧ ((c.trp.handler.map Handler.entry) = some c.e && c.trp.held.length = 1) = true) ∧
    ∃ c, Ready s0 c (.eret (ur 0 0 0 0)) ∧ (decide ((c.trp.handler.map Handler.entry) ≠ some c.e)) = true := by
  refine ⟨?_, ?_, ?_, ?_, ?_, ?_, ?_, ?_⟩ <;> (apply of_ready; decide +kernel)

/-- Uniform register 1 set. -/
def sReg (x : DWord) : State := st id id fun T => { T with regs := { T.regs with s := [(1, x)] } }

theorem witness_SpecialRegistersReadAndWrite :
    (∀ i ∈ [0, 1, 2, 3, 4, 5, 6, 7, 8, 9, 10, 11, 12, 13, 14, 16, 23].map fun k => Instr.srd (ur 5 k 0 0),
      ∃ c, Ready s0 c i ∧ true = true) ∧
    (∃ c, Ready s0 c (.swr (ur 0 1 0 0)) ∧ true = true) ∧ (∃ c, Ready s0 c (.swr (ur 2 1 0 0)) ∧ true = true) ∧
    (∃ c, Ready (sReg 2) c (.swr (ur 4 1 0 0)) ∧ decide ((c.sr 1).extractLsb' 0 2 ≠ 3#2) = true) ∧
    ∃ c, Ready (sReg 3) c (.swr (ur 4 1 0 0)) ∧ decide ((c.sr 1).extractLsb' 0 2 = 3#2) = true := by
  refine ⟨of_allOf (p := fun _ _ => true) (by decide +kernel), ?_, ?_, ?_, ?_⟩ <;> (apply of_ready; decide +kernel)

/-! ## Memory -/

/-- Lane register 0 set to `x` in lane 31 only. -/
def sLane (x : Word) : State := st (fun L => { L with arglen := 4 }) id fun T => { T with
  regs := { T.regs with v := [(0, Lanes.of fun l => if l = 31 then x else 0)] } }

/-- The offset a lane names. -/
def offs (f : LW) (c : Ctx) (l : Nat) : Int := (c.operand f.a 0 l : Int) + f.m.toInt * f.msize

/-- Whether every active lane's bytes lie within `n`, aligned. -/
def fits (f : LW) (n : Nat) (al : Bool) (c : Ctx) (m : Mask) : Bool :=
  (lanesOf m).all fun l => decide (0 ≤ offs f c l ∧ offs f c l + f.msize ≤ n) && (!al || decide (offs f c l % f.msize = 0))

theorem witness_LocalAndArgumentLoads :
    (∃ c, Ready (sLane 16380) c (.ldl (lw 4 0 0 0 0)) ∧
      (decide (c.blk.unreach = none) && fits (lw 4 0 0 0 0) 16384 true c (c.guarded (.ldl (lw 4 0 0 0 0)))) = true) ∧
    (∃ c, Ready sPair c (.ldl (lw 0 3 0x40 0 0)) ∧ (fits (lw 0 3 0x40 0 0) 16384 true c (c.guarded (.ldl (lw 0 3 0x40 0 0))) &&
      (lw 0 3 0x40 0 0).queue = some 3 && !c.full 3 (c.guarded (.ldl (lw 0 3 0x40 0 0)))) = true) ∧
    (∃ c, Ready (sLane 16381) c (.ldl (lw 4 0 0 0 0)) ∧ decide ((lanesOf (c.guarded (.ldl (lw 4 0 0 0 0)))).find?
      (fun l => decide (offs (lw 4 0 0 0 0) c l < 0 ∨ (16384 : Int) < offs (lw 4 0 0 0 0) c l + 4)) = some 31) = true) ∧
    (∃ c, Ready (sLane 1) c (.ldl (lw 4 0 0 0 0)) ∧ (fits (lw 4 0 0 0 0) 16384 false c (c.guarded (.ldl (lw 4 0 0 0 0))) &&
      decide ((lanesOf (c.guarded (.ldl (lw 4 0 0 0 0)))).find? (fun l => decide (offs (lw 4 0 0 0 0) c l % 4 ≠ 0)) = some 31)) =
      true) ∧
    (∃ c, Ready (sLane 0) c (.ldk (lw 4 0 0 0 0)) ∧
      fits (lw 4 0 0 0 0) c.task.launch.arglen true c (c.guarded (.ldk (lw 4 0 0 0 0))) = true) ∧
    ∃ c, Ready (sLane 0) c (.ldk (lw 4 0 0 0 1)) ∧ decide ((lanesOf (c.guarded (.ldk (lw 4 0 0 0 1)))).find?
      (fun l => decide (offs (lw 4 0 0 0 1) c l < 0 ∨ (c.task.launch.arglen : Int) < offs (lw 4 0 0 0 1) c l + 4)) = some 0) =
      true := by
  refine ⟨?_, ?_, ?_, ?_, ?_, ?_⟩ <;> (apply of_ready; decide +kernel)

/-- What a shared access needs: its checks pass, and nothing it meets is poisoned, guarded or absent. -/
def sharedOk (s : State) (i : Instr) (f : LW) (sp : Space) (r w : Bool) (c : Ctx) : Bool :=
  let m := c.guarded i
  let cap := c.cap f.mcap
  let at' (x : Int) : Nat := match sp with
    | .slice => s.capSlice cap x.toNat
    | .bulk => s.capKey c.task.part cap x.toNat
  let ps := (f.offsets c m f.msize).map fun x => at' x.2
  (c.popWait i m s).isNone && c.blk.unreach.isNone && s.mem.flips.isEmpty &&
    (s.accessFault c cap (if sp = .slice then 2 else 1) (rightsOf r w false) f.msize (f.offsets c m f.msize)).isNone &&
    ps.all fun p => !s.loadPoison c sp p f.msize && !c.loadAt sp p f.msize &&
      (sp = .bulk || !s.guarded p f.msize) && (sp = .slice || (s.pageOf c.blk.core p f.msize w).isNone)

theorem witness_SharedLoadsGoOutAndPrefetchFills :
    (∃ c, Ready sSlice c (.lds (lw 4 0 1 0 127)) ∧ (sharedOk sSlice (.lds (lw 4 0 1 0 127)) (lw 4 0 1 0 127) .slice true false c &&
      c.trp.run.isNone && decide ((lw 4 0 1 0 127).queue = none)) = true) ∧
    (∃ c, Ready sSlice c (.ldf (lw 4 0 0x31 0 0)) ∧
      sharedOk sSlice (.ldf (lw 4 0 0x31 0 0)) (lw 4 0 0x31 0 0) .slice true false c = true) ∧
    (∃ c, Ready sBulk c (.ldb (lw 4 0 1 0 0)) ∧ sharedOk sBulk (.ldb (lw 4 0 1 0 0)) (lw 4 0 1 0 0) .bulk true false c = true) ∧
    (∃ c, Ready (withCap sPair (capOf 2 0xB87#12 1 0 256 256)) c (.lds (lw 0 3 0x41 0 0)) ∧
      (sharedOk (withCap sPair (capOf 2 0xB87#12 1 0 256 256)) (.lds (lw 0 3 0x41 0 0)) (lw 0 3 0x41 0 0) .slice true false c &&
      !c.full 3 (c.guarded (.lds (lw 0 3 0x41 0 0)))) = true) ∧
    (∃ c, Ready sSlice c (.lds { lw 4 0 1 0 0 with h := true }) ∧
      sharedOk sSlice (.lds { lw 4 0 1 0 0 with h := true }) { lw 4 0 1 0 0 with h := true } .slice true false c = true) ∧
    ∃ c, Ready sBulk c (.pfb (lw 0 0 1 0 0)) ∧ ((c.popWait (.pfb (lw 0 0 1 0 0)) (c.guarded (.pfb (lw 0 0 1 0 0))) sBulk).isNone &&
      (sBulk.laneCapFault c (c.cap 1) 1 (rightsOf true false false) ((lw 0 0 1 0 0).offsets c (c.guarded (.pfb (lw 0 0 1 0 0))) (lw 0 0 1 0 0).msize)).isNone && c.blk.unreach.isNone &&
      decide ((cacheLines (sBulk.core c.blk.core).cache).length ≤ 992)) = true := by
  refine ⟨?_, ?_, ?_, ?_, ?_, ?_⟩ <;> (apply of_ready; decide +kernel)

/-- Two loads in flight, of the same word. -/
def sLoads (q : Option Nat) : State := st (fun L => { L with shd := true }) id fun T => { T with
  loads := [(5, ⟨.slice, [(31, 4096)], 4, true, 1, 3, q, 0, false⟩), (6, ⟨.slice, [(31, 4096)], 4, true, 1, 3, q, 0, false⟩)] }

theorem witness_ReturningLoadsFillTheirRegisters :
    (((sLoads none).trp? 1 0).any fun T => (T.loads.find 5).any fun L => decide (L.space = .slice) && L.queue.isNone &&
      !T.loads.any fun p => p.1 < 5 && p.2.space = .slice) = true ∧
    (((sLoads none).trp? 1 0).any fun T => (T.loads.find 6).any fun L => T.loads.any fun p => p.1 < 6 && p.2.space = .slice &&
      p.2.lanes.any fun x => L.lanes.any fun y => x.2 < y.2 + L.size && y.2 < x.2 + p.2.size) = true ∧
    (((sLoads (some 3)).trp? 1 0).any fun T => (T.loads.find 5).any fun L => L.queue = some 3 && L.transpose = 0 &&
      L.lanes = [(31, 4096)]) = true ∧ ((sLoads (some 3)).trp? 1 32).isSome = true := by
  refine ⟨?_, ?_, ?_, ?_⟩ <;> decide +kernel

theorem witness_LocalStoresReachTheirWindow : ∃ c, Ready (sLane 16380) c (.stl (lw 0 2 0 0 0)) ∧
    (decide (c.blk.unreach = none) && fits (lw 0 2 0 0 0) 16384 true c (c.guarded (.stl (lw 0 2 0 0 0)))) = true := by
  apply of_ready; decide +kernel

/-- A buffered store, committed, and a newer one of its place. -/
def sDrain (a : Nat) : State := st id (fun B => { B with
  buf := [(5, { space := .slice, addr := a, data := [1, 2, 3, 4], committed := true }),
    (6, { space := .slice, addr := a, data := [5, 6, 7, 8], committed := true })] }) id

theorem witness_StoresAreBufferedAndDrain :
    (∃ c, Ready sSlice c (.sts (lw 0 2 1 0 127)) ∧ (sharedOk sSlice (.sts (lw 0 2 1 0 127)) (lw 0 2 1 0 127) .slice false true c &&
      decide (bufSize c.blk.buf + 512 ≤ 65536)) = true) ∧
    (∃ c, Ready sSlice c (.stf (lw 0 8 0x31 0 0)) ∧
      sharedOk sSlice (.stf (lw 0 8 0x31 0 0)) (lw 0 8 0x31 0 0) .slice false true c = true) ∧
    (∃ c, Ready { sBulk with mem := { sBulk.mem with tlb := [(tlbKey 0 0 1 0 0, ⟨0x4000, true⟩)] } } c (.stb (lw 0 2 1 0 0)) ∧
      (sharedOk { sBulk with mem := { sBulk.mem with tlb := [(tlbKey 0 0 1 0 0, ⟨0x4000, true⟩)] } } (.stb (lw 0 2 1 0 0))
        (lw 0 2 1 0 0) .bulk false true c &&
      decide ((State.translate { sBulk with mem := { sBulk.mem with tlb := [(tlbKey 0 0 1 0 0, ⟨0x4000, true⟩)] } } 0 0 1 0 0
        true).2 = { sBulk with mem := { sBulk.mem with tlb := [(tlbKey 0 0 1 0 0, ⟨0x4000, true⟩)] } })) = true) ∧
    ((sDrain 4096).blocks.find 1).any (fun B => (B.buf.find 5).any fun e => drains B.buf 5 e &&
      !(sDrain 4096).unacked 1 (fun x => decide (x.epoch < e.epoch)) &&
      (sDrain 4096).here e.addr && !(sDrain 4096).guarded e.addr 4 && B.fences.isEmpty) = true ∧
    ((sDrain 4096).blocks.find 1).any (fun B => (B.buf.find 6).any fun e => !drains B.buf 6 e) = true ∧
    (({ sDrain 4096 with mem := { (sDrain 4096).mem with guards := [(128, 1)] } } : State).guarded 4096 4 &&
      (sDrain 4096).tasks.all fun k => k.2.launch.errors = 0) = true := by
  refine ⟨?_, ?_, ?_, ?_, ?_, ?_⟩
  all_goals first
    | decide +kernel
    | (apply of_ready; decide +kernel)

/-- What an atomic needs. -/
def atomicOk (s : State) (i : Instr) (f : LW) (kind : Nat) (ret : Bool) (c : Ctx) : Bool :=
  let m := c.guarded i
  let n := if wide f.t.toNat then 8 else 4
  let r := c.cap f.mcap
  (c.popWait i m s).isNone && c.blk.unreach.isNone && s.mem.flips.isEmpty && c.trp.loads.isEmpty && c.blk.buf.isEmpty &&
    (s.capFault c r [kind] (rightsOf ret true true)).isNone &&
    (s.accessFault c r kind (rightsOf ret true true) n (f.offsets c m n)).isNone

theorem witness_SliceAtomicsActInLaneOrder :
    (∀ i ∈ [(Instr.ats (lw 4 2 1 0 0), lw 4 2 1 0 0, true), (.cass (lw 4 2 1 7 0), lw 4 2 1 7 0, true),
      (.reds (lw 0 2 1 0 0), lw 0 2 1 0 0, false)],
      ∃ c, Ready sSlice c i.1 ∧ atomicOk sSlice i.1 i.2.1 2 i.2.2 c = true) ∧
    sSlice.here 4096 = true ∧ sSlice.guarded 4096 8 = false ∧ sSlice.slicePoisoned 4096 8 = false := by
  refine ⟨?_, by decide, by decide, by decide⟩
  simp only [List.mem_cons, List.not_mem_nil, or_false, forall_eq_or_imp, forall_eq]
  refine ⟨?_, ?_, ?_⟩ <;> (apply of_ready; decide +kernel)

/-- Only lane 31 lives. -/
def only31 (s : State) : State := s.modTrp 1 0 fun T => { T with lm := 0x80000000#32 }

/-- Only lane 31 lives, and the translation is cached. -/
def sBulk1 : State := only31 { sBulk with mem := { sBulk.mem with tlb := [(tlbKey 0 0 1 0 0, ⟨0x4000, true⟩)] } }

theorem witness_BulkAtomicsActAtTheHome :
    (∀ i ∈ [(Instr.atb (lw 4 2 1 0 0), lw 4 2 1 0 0, true), (.casb (lw 4 2 1 0 0), lw 4 2 1 0 0, true),
      (.redb (lw 0 2 1 0 0), lw 0 2 1 0 0, false)],
      ∃ c, Ready sBulk1 c i.1 ∧ (atomicOk sBulk1 i.1 i.2.1 1 i.2.2 c && decide (c.guarded i.1 = 1#32 <<< 31) &&
        decide ((sBulk1.obj 0 1).place ≠ 0) && !sBulk1.bulkPoisoned 0 (bulkKey 0 1 0 0) 4 &&
        (sBulk1.pageOf 0 (bulkKey 0 1 0 0) 4 true).isNone &&
        decide (((({ sBulk1 with mem := { sBulk1.mem with tlb := [(tlbKey 0 0 1 0 0, ⟨0x4000, true⟩)] } } : State).translate
          0 0 1 0 0 true).1 = .dev 0x4000))) = true) ∧
    (∃ c, Ready (only31 sFarBulk) c (.casb (lw 4 2 1 0 0)) ∧ (atomicOk (only31 sFarBulk) (.casb (lw 4 2 1 0 0)) (lw 4 2 1 0 0) 1
      true c && decide (c.guarded (.casb (lw 4 2 1 0 0)) = 1#32 <<< 31) && decide ((sFarBulk.obj 0 1).place ≠ 0) &&
      !(only31 sFarBulk).bulkPoisoned 0 (bulkKey 0 1 0 0) 4) = true) ∧
    (only31 sFarBulk).translate 0 0 1 0 0 true = (.far 1 7, only31 sFarBulk) := by
  simp only [List.mem_cons, List.not_mem_nil, or_false, forall_eq_or_imp, forall_eq]
  refine ⟨⟨?_, ?_, ?_⟩, ?_, ?_⟩
  all_goals first
    | decide +kernel
    | (apply of_ready; decide +kernel)

theorem witness_TranslationMarksTheCompanion :
    (sBulk.obj 0 1).size * 4096 ≤ 4096 ∧
    (4095 < (sBulk.obj 0 1).size * 4096 ∧ (sBulk.obj 0 1).tier ≠ 3 ∧ sBulk.mem.tlb.find (tlbKey 0 0 1 0 0) = none ∧
      bit (sBulk.devNat 0x1000 8) 0 = true ∧ bit (sBulk.devNat 0x1000 8) 1 = true ∧ bits (sBulk.devNat 0x1000 8) 11 2 = 0 ∧
      bits (sBulk.devNat 0x1000 8) 63 48 = 0 ∧ bits (sBulk.devNat 0x1000 8) 47 46 ≠ 3) ∧
    (sBulk.keyServes 0 (sBulk.obj 0 1) = true ∧ sBulk.statusAt 0x4000 = false ∧ (sFarBulk.obj 0 1).tier = 3 ∧
      sFarBulk.keyServes 0 (sFarBulk.obj 0 1) = true ∧ sBulk.keyServes 0 { sBulk.obj 0 1 with slot := 1 } = false) ∧
    (bit (({ sBulk with mem := { sBulk.mem with dev := Mem.write sBulk.mem.dev 0x1000 [0x02] } } : State).devNat 0x1000 8) 0 =
      false) ∧
    bit (({ sBulk with mem := { sBulk.mem with dev := Mem.write sBulk.mem.dev 0x1000 [0x01] } } : State).devNat 0x1000 8) 1 =
      false := by
  refine ⟨?_, ⟨?_, ?_, ?_, ?_, ?_, ?_, ?_, ?_⟩, ⟨?_, ?_, ?_, ?_, ?_⟩, ?_, ?_⟩ <;> decide +kernel

/-! ## Guards -/

theorem witness_GuardsCountArrivals :
    (1 < (⟨0, 2, 2, 0, 0, false⟩ : GState).pending) ∧ (0 < (⟨0, 2, 1, 1, 0, false⟩ : GState).bytes) ∧
    ((⟨0, 2, 1, 0, 2 ^ 31 - 1, false⟩ : GState).expBytes < 2 ^ 31) ∧ (0 < (⟨0, 2, 0, 1, 0, false⟩ : GState).bytes) ∧
    ((⟨0, 2, 0, 16, 0, false⟩ : GState).bytes = (16 : Nat)) ∧ (0 ≤ (⟨0, 2, 1, 16, 0, false⟩ : GState).bytes - (16 : Nat)) := by
  refine ⟨?_, ?_, ?_, ?_, ?_, ?_⟩ <;> decide

/-- The guard reached by an operation: its checks pass and no release to it is pending. -/
def guardOk (s : State) (rights : BitVec 12) (c : Ctx) : Bool :=
  (s.guardFault c (c.cap 1) rights).isNone && s.here (c.cap 1).at && !s.behind c (c.cap 1).at true &&
    !s.behind c (c.cap 1).at false && (c.cap 1).at = 4096

/-- The same state with a slice region in capability register 2. -/
def sGuard2 : State := (withObj sGuard (capOf 2 0xB87#12 2 0 512 256)).modTrp 1 0
  fun T => { T with regs := { T.regs with c := T.regs.c.put 2 (capOf 2 0xB87#12 2 0 512 256) } }

theorem witness_GuardsActAndBind :
    (∃ c, Ready sGuard c (.arrive (uw 0 0 0 0 0x10FF)) ∧ guardOk sGuard 0x008#12 c = true) ∧
    (∃ c, Ready sGuard c (.expect (uw 0 1 0 0 0x1000)) ∧ (guardOk sGuard 0x008#12 c && decide ((c.sr 1).toNat < 2 ^ 31)) = true) ∧
    (∃ c, Ready sGuard c (.gflg (uw 0 0 0 0 0x1100)) ∧ guardOk sGuard 0x008#12 c = true) ∧
    (∃ c, Ready sGuard c (.ginit (uw 0 1 2 0 0x1000)) ∧ (guardOk sGuard 0x200#12 c && decide ((c.sr 1).toNat < 2 ^ 16) &&
      sGuard.sliceNat 4124 2 = 0 && (bufTouch c.blk.buf .slice 4096 416).isEmpty) = true) ∧
    (∃ c, Ready sGuard2 c (.gbind (uw 0 0 0 0 0x201000)) ∧ (guardOk sGuard2 0x200#12 c && (c.cap 2).kind = 2 &&
      (sGuard2.capFault c (c.cap 2) [1, 2] 0x200#12).isNone && sGuard2.bound 4096 = 0) = true) ∧
    ∃ c, Ready sGuard c (.gunb (uw 0 0 0 0 0x1100)) ∧ guardOk sGuard 0x200#12 c = true := by
  refine ⟨?_, ?_, ?_, ?_, ?_, ?_⟩ <;> (apply of_ready; decide +kernel)

/-- The guard's first split parked at it. -/
def sParked (w : Wait) : State := sGuard.modSplit 1 0 0 fun S => { S with wait := w }

theorem witness_WaitsParkWakeAndTimeOut :
    (∃ c, Ready sGuard c (.wait (uw 0 0 0 0 0x1100)) ∧ ((sGuard.waitFault c (c.cap 1)).isNone && !c.blk.arriving 4096 && sGuard.phaseHolds 4096 0) = true) ∧
    (∃ c, Ready sGuard c (.wait (uw 0 0 0 0 0x1101)) ∧ ((sGuard.waitFault c (c.cap 1)).isNone && !sGuard.phaseHolds 4096 1 &&
      sGuard.here 4096 && decide (sGuard.sliceNat 4124 2 < 0xFFFF)) = true) ∧
    (∃ c, Ready sGuard c (.tryw (uw 7 1 2 0 0x1000)) ∧ ((sGuard.waitFault c (c.cap 1)).isNone && sGuard.phaseHolds 4096 0) = true) ∧
    (∃ c, Ready (sGuard.modTrp 1 0 fun T => { T with regs := { T.regs with s := [(1, 1)] } }) c (.tryw (uw 7 1 2 0 0x1000)) ∧
      (!sGuard.phaseHolds 4096 1 && (c.sr 1).toNat = 1 && (c.sr 2).toNat = 0) = true) ∧
    (∃ c, Ready (sGuard.modTrp 1 0 fun T => { T with regs := { T.regs with s := [(1, 1), (2, 9)] } }) c
      (.tryw (uw 7 1 2 0 0x1000)) ∧ (!sGuard.phaseHolds 4096 1 && (c.sr 1).toNat = 1 && (c.sr 2).toNat = 9) = true) ∧
    (sParked (.guard 4096 0)).waitOf 1 0 0 = .guard 4096 0 ∧ (sParked (.guard 4096 0)).phaseHolds 4096 0 = true ∧
    (sParked (.guard 4096 0)).phaseHolds 4096 1 = false ∧ (sParked (.tryw 4096 1 7 0)).waitOf 1 0 0 = .tryw 4096 1 7 0 ∧
    (sParked (.recv 0 1)).waitOf 1 0 0 = .recv 0 1 ∧ 0 ≤ (sParked (.tryw 4096 1 7 0)).ctl.clk.toNat ∧
    (sParked (.tryw 4096 1 7 1)).ctl.clk.toNat < 1 := by
  refine ⟨?_, ?_, ?_, ?_, ?_, ?_, ?_, ?_, ?_, ?_, ?_, ?_⟩
  all_goals first
    | decide +kernel
    | (apply of_ready; decide +kernel)

theorem witness_FencesCommitsAndReleases :
    (∃ c, Ready s0 c (.fence (uw 0 0 0 0 0x200)) ∧ true = true) ∧ (∃ c, Ready s0 c (.fence (uw 0 0 0 0 0x400)) ∧ true = true) ∧
    (∃ c, Ready s0 c (.commit (uw 0 0 0 0 0)) ∧ (c.blk.unreach.isNone && c.blk.buf.isEmpty) = true) ∧
    (∃ c, Ready (sDrain 4096) c (.commit (uw 0 0 0 0 0)) ∧ (!c.blk.buf.isEmpty) = true) ∧
    (∃ c, Ready sGuard c (.arrive (uw 0 0 0 0 0x1101)) ∧ (guardOk sGuard 0x008#12 c && c.blk.unreach.isNone) = true) ∧
    ((⟨9, [], .arrive 4096 1⟩ : Release).act = .arrive 4096 1 ∧ sGuard.here 4096 = true ∧
      (sGuard.core 0).cache = [] ∧ (sGuard.blocks.find 1).any (fun B => sGuard.mayArrive 1 B 9 ⟨9, [], .arrive 4096 1⟩) = true) ∧
    ((sDrain 4096).blocks.find 1).any (fun B => !(sDrain 4096).mayArrive 1 B 9 ⟨9, [], .arrive 4096 1⟩) = true := by
  refine ⟨?_, ?_, ?_, ?_, ?_, ⟨?_, ?_, ?_, ?_⟩, ?_⟩
  all_goals first
    | decide +kernel
    | (apply of_ready; decide +kernel)

/-! ## Capabilities, messages, chains -/

/-- Capability registers, their objects valid. -/
def caps (s : State) (cs : List (Nat × CapReg)) : State :=
  (cs.foldl (fun s x => withObj s x.2) s).modTrp 1 0 fun T => { T with regs := { T.regs with c := cs } }

/-- Uniform registers 1 and 2 of the troupe set. -/
def regs (s : State) (x y : DWord) : State := s.modTrp 1 0 fun T => { T with regs := { T.regs with s := [(1, x), (2, y)] } }

/-- A capability table at 8192, its entry 0 given. -/
def sTab (x : Nat) : State :=
  (withCap (st (fun L => { L with table := 8192 }) id id) (capOf 2 0xB87#12 1 0 256 256)).sliceWrite 8192 (leBytes 32 x)

/-- A table in bulk, its page absent. -/
def sTabAbsent : State :=
  let s := st (fun L => { L with table := 2 ^ 40 }) id id
  { s with mem := { s.mem with dev := Mem.write [] 32 (leBytes 32 (1 + 2 + 512 + 2 ^ 64 * 0x1000 + 2 ^ 192 * 2)) } }

/-- A valid table entry of the slice region at 4096. -/
def entry1 : Nat := (capOf 2 0xB87#12 1 0 256 256).bits.toNat + 2 ^ 128

/-- What CLD needs before it looks at its entry. -/
def cldGood (s : State) (c : Ctx) : Bool :=
  (s.waLacks 0 0 (c.task.entryAt 0) 32 false).isEmpty && !s.waPoisoned 0 (c.task.entryAt 0) 32

theorem witness_CapabilitiesAreLoadedNarrowedAndRead :
    (∃ c, Ready sTabAbsent c (.cld (uw 0 0 0 0 0x3000)) ∧ ((c.blk.core = 0 && c.task.part = 0 && c.trp.run.isNone) &&
      !(sTabAbsent.waLacks 0 0 (c.task.entryAt 0) 32 false).isEmpty) = true) ∧
    (∃ c, Ready { sTab 0 with mem := { (sTab 0).mem with slicePoison := [1027] } } c (.cld (uw 0 0 0 0 0x3000)) ∧
      ((State.waLacks { sTab 0 with mem := { (sTab 0).mem with slicePoison := [1027] } } 0 0 (c.task.entryAt 0) 32 false).isEmpty &&
      State.waPoisoned { sTab 0 with mem := { (sTab 0).mem with slicePoison := [1027] } } 0 (c.task.entryAt 0) 32) = true) ∧
    (∃ c, Ready (regs (sTab 0) 256 0) c (.cld (uw 0 1 0 0 0x3100)) ∧ decide (256 ≤ (c.sr 1).toNat) = true) ∧
    (∃ c, Ready (sTab 0) c (.cld (uw 0 0 0 0 0x3000)) ∧ (cldGood (sTab 0) c && !bit ((sTab 0).tabEntry c.task 0) 128) = true) ∧
    (∃ c, Ready (sTab (entry1 + 2 ^ 129 + 14 * 2 ^ 130)) c (.cld (uw 0 0 0 0 0x3000)) ∧
      (bit ((sTab (entry1 + 2 ^ 129 + 14 * 2 ^ 130)).tabEntry c.task 0) 128 &&
        bit ((sTab (entry1 + 2 ^ 129 + 14 * 2 ^ 130)).tabEntry c.task 0) 129) = true) ∧
    (∃ c, Ready (sTab entry1) c (.cld (uw 0 0 0 0 0x3000)) ∧ (let x := (sTab entry1).tabEntry c.task 0
      let r : CapReg := { bits := BitVec.ofNat 128 x, tag := none }
      bit x 128 && !bit x 129 && r.kind = 2 && decide (r.rights &&& ~~~(kindRights r.kind) = 0) &&
        cldGood (sTab entry1) c && (sTab entry1).capOwned c.task.part r && (sTab entry1).current c.blk.core c.task.part r) = true) ∧
    (∃ c, Ready (regs sSlice 0 4112) c (.cnar (uw 0 1 2 0 0x102FFF)) ∧
      ((sSlice.capFault c (c.cap 1) [1, 2, 3, 4, 5, 6, 8] 0x100#12).isNone &&
        decide ((c.cap 1).size < (c.sr 1).toNat + (c.sr 2).toNat)) = true) ∧
    (∃ c, Ready (regs sSlice 16 8) c (.cnar (uw 0 1 2 0 0x102FFF)) ∧
      ((sSlice.capFault c (c.cap 1) [1, 2, 3, 4, 5, 6, 8] 0x100#12).isNone &&
        decide ((c.sr 1).toNat + (c.sr 2).toNat ≤ (c.cap 1).size ∧ (c.sr 2).toNat % 16 ≠ 0)) = true) ∧
    (∃ c, Ready (regs sSlice 16 4080) c (.cnar (uw 0 1 2 0 0x102FFF)) ∧
      ((sSlice.capFault c (c.cap 1) [1, 2, 3, 4, 5, 6, 8] 0x100#12).isNone &&
        decide ((c.sr 1).toNat + (c.sr 2).toNat = (c.cap 1).size)) = true) ∧
    (∃ c, Ready sSlice c (.cinf (uw 3 0 0 0 0x1007)) ∧ true = true) ∧
    ∃ c, Ready sSlice c (.cclr (uw 0 0 0 0 0x1000)) ∧ true = true := by
  refine ⟨?_, ?_, ?_, ?_, ?_, ?_, ?_, ?_, ?_, ?_, ?_⟩ <;> (apply of_ready; decide +kernel)

/-- A slice region in capability 1 and a channel, object 2, in capability 2; its directory entry, of two slots of one
granule, and its ring at 16384, with `n` messages of 16 bytes; offset and length in uniform registers 1 and 2. -/
def sChan (n len : Nat) (off x : DWord) : State :=
  let s := regs (caps s0 [(1, capOf 2 0xB87#12 1 0 256 256), (2, capOf 4 0x160#12 2 0 0 len)]) off x
  let s := s.sliceWrite 32 (leBytes 16 (1 + 4 * 1 + 2 ^ 12 + 2 ^ 16 * 2 + 2 ^ 64 * 16384))
  (s.sliceWrite 16392 (leBytes 4 n)).sliceWrite 16400 (leBytes 8 16)

/-- What SEND has checked first. -/
def sendOk (s : State) (c : Ctx) : Bool :=
  c.blk.unreach.isNone && (s.capFault c (c.cap 2) [4] 0x020#12).isNone && (s.capFault c (c.cap 1) [2] 0x001#12).isNone &&
    decide ((c.sr 1).toNat + (c.sr 2).toNat ≤ (c.cap 1).size)

/-- The same state with a poisoned unit of slice memory. -/
def hurt (s : State) (u : Nat) : State := { s with mem := { s.mem with slicePoison := [u] } }

/-- What RECV has checked first. -/
def recvOk (s : State) (c : Ctx) : Bool :=
  (s.capFault c (c.cap 2) [4] 0x040#12).isNone && (s.capFault c (c.cap 1) [2] 0x002#12).isNone &&
    decide ((c.sr 1).toNat + (c.sr 2).toNat ≤ (c.cap 1).size) && s.chan 0 2 = some ⟨1, 2, 16384⟩ &&
    (s.waLacks 0 0 16384 16 true).isEmpty && (s.waLacks 0 0 16400 32 false).isEmpty

/-- A message for that channel. -/
def msg1 (k : Nat) : Msg :=
  { part := 0, obj := 2, gen := 0, core := 0, pkg := 0, block := 1, task := 1, tag := none, data := List.replicate k 7 }

theorem witness_MessagesAreSentReceivedOrRefused :
    (∃ c, Ready (sChan 0 512 0 0) c (.send (uw 0 1 2 0 0x102000)) ∧ (sendOk (sChan 0 512 0 0) c) = true) ∧
    (∃ c, Ready (sChan 0 0 0 16) c (.send (uw 0 1 2 0 0x102000)) ∧ (sendOk (sChan 0 0 0 16) c && decide ((c.cap 2).len < 1)) =
      true) ∧
    (∃ c, Ready (sChan 0 256 0 4096) c (.send (uw 0 1 2 0 0x102000)) ∧ (sendOk (sChan 0 256 0 4096) c &&
      decide ((c.sr 2).toNat / 16 ≤ (c.cap 2).len) && (c.cap 2).tag.isNone && ((sChan 0 256 0 4096).sendLacks c (c.cap 2)).isEmpty &&
      !(sChan 0 256 0 4096).loadPoison c .slice 4096 4096) = true) ∧
    (∃ c, Ready (hurt (sChan 0 1 0 16) 512) c (.send (uw 0 1 2 0 0x102000)) ∧ (sendOk (hurt (sChan 0 1 0 16) 512) c &&
      decide ((c.sr 2).toNat / 16 ≤ (c.cap 2).len) && (hurt (sChan 0 1 0 16) 512).loadPoison c .slice 4096 16) = true) ∧
    (∃ c, Ready (sChan 0 1 0 16) c (.recv (uw 3 1 2 0 0x102000)) ∧ (!(sChan 0 1 0 16).hasMsg 0 2 &&
      recvOk (sChan 0 1 0 16) c) = true) ∧
    (∃ c, Ready (sChan 0 1 0 16) c (.recv (uw 3 1 2 0 0x102100)) ∧ (!(sChan 0 1 0 16).hasMsg 0 2 && recvOk (sChan 0 1 0 16) c && c.trp.run.isNone) = true) ∧
    (∃ c, Ready (sChan 1 1 0 15) c (.recv (uw 3 1 2 0 0x102000)) ∧ ((sChan 1 1 0 15).hasMsg 0 2 &&
      recvOk (sChan 1 1 0 15) c && !(sChan 1 1 0 15).waPoisoned 0 16400 16 && decide ((c.sr 2).toNat < (sChan 1 1 0 15).waNat 0 16400 8 % 2 ^ 32)) =
      true) ∧
    (∃ c, Ready (sChan 1 1 0 16) c (.recv (uw 3 1 2 0 0x102000)) ∧ ((sChan 1 1 0 16).hasMsg 0 2 &&
      recvOk (sChan 1 1 0 16) c && !(sChan 1 1 0 16).waPoisoned 0 16400 16 && !(sChan 1 1 0 16).waPoisoned 0 16416 16 &&
      (sChan 1 1 0 16).here 4096 && (sChan 1 1 0 16).here 16384 && (sChan 1 1 0 16).waNat 0 16400 8 % 2 ^ 32 = 16) = true) ∧
    (∃ c, Ready (hurt (sChan 1 1 0 16) 2050) c (.recv (uw 3 1 2 0 0x102000)) ∧ ((hurt (sChan 1 1 0 16) 2050).hasMsg 0 2 &&
      recvOk (hurt (sChan 1 1 0 16) 2050) c && (hurt (sChan 1 1 0 16) 2050).waPoisoned 0 16400 16) = true) ∧
    (∃ c, Ready (hurt (sChan 1 1 0 16) 2053) c (.recv (uw 3 1 2 0 0x102000)) ∧ ((hurt (sChan 1 1 0 16) 2053).hasMsg 0 2 &&
      recvOk (hurt (sChan 1 1 0 16) 2053) c && !(hurt (sChan 1 1 0 16) 2053).waPoisoned 0 16400 16 &&
      (hurt (sChan 1 1 0 16) 2053).waPoisoned 0 16416 16) = true) ∧
    (({ s0 with eng := { msgs := [{ msg1 16 with pkg := 5 }] }, ctl := { s0.ctl with pkg := 0 } } : State).firstMsg
        { msg1 16 with pkg := 5 } = true ∧
      ({ s0 with eng := { msgs := [{ msg1 16 with pkg := 5 }] }, ctl := { s0.ctl with pkg := 0 } } : State).refusesMsg
        { msg1 16 with pkg := 5 } = true) ∧
    (({ sChan 1 1 0 0 with eng := { msgs := [msg1 16] } } : State).firstMsg (msg1 16) = true ∧
      ({ sChan 1 1 0 0 with eng := { msgs := [msg1 16] } } : State).refusesMsg (msg1 16) = false ∧
      ({ sChan 1 1 0 0 with eng := { msgs := [msg1 16] } } : State).takesMsg (msg1 16) = true) ∧
    (({ sChan 2 1 0 0 with eng := { msgs := [msg1 16] } } : State).refusesMsg (msg1 16) = false ∧
      ({ sChan 2 1 0 0 with eng := { msgs := [msg1 16] } } : State).takesMsg (msg1 16) = false) ∧
    (({ s0 with eng := { msgs := [msg1 16] } } : State).firstMsg (msg1 16) = true ∧
      ({ s0 with eng := { msgs := [msg1 16] } } : State).refusesMsg (msg1 16) = true) ∧
    (({ s0 with eng := { refused := [msg1 16] } } : State).eng.refused.contains (msg1 16) = true ∧
      s0.tasks.all fun k => k.2.launch.errors = 0) := by
  refine ⟨?_, ?_, ?_, ?_, ?_, ?_, ?_, ?_, ?_, ?_, ⟨?_, ?_⟩, ⟨?_, ?_, ?_⟩, ⟨?_, ?_⟩, ⟨?_, ?_⟩, ?_, ?_⟩
  all_goals first
    | decide +kernel
    | (apply of_ready; decide +kernel)

/-- A copy chain at 4096 with `n` entries appended, in capability 1, and a slice region at 8192 in capability 2. -/
def sChain (n : Nat) (x : DWord) : State :=
  (regs (caps s0 [(1, capOf 6 0x500#12 1 0 256 4), (2, capOf 2 0xB87#12 2 0 512 256)]) x 0).sliceWrite 4096
    (leBytes 8 1 ++ leBytes 8 n)

/-- A shadowed region at 4096, in capability 1. -/
def sShadow : State :=
  { sSlice with mem := { sSlice.mem with shadows := [⟨4096, 4096, 0, 1⟩], dev := Mem.write sSlice.mem.dev 35 [1] } }

/-- A split waiting to publish a bulk object whose page package 1 has marked. -/
def sPubFar : State :=
  let s := sBulk.modSplit 1 0 0 fun S => { S with wait := .pub (capOf 1 0xB87#12 1 0 0 256) }
  { s with
    mem := { s.mem with dev := Mem.write s.mem.dev ((sBulk.obj 0 1).companion 0 0 + 1) [2] }
    ctl := { s.ctl with reach := [1] } }

/-- A copy chain of package 1, which is granted, and a region beside it. -/
def sFarChain : State :=
  (regs (caps s0 [(1, capOf 6 0x500#12 1 0 (2 ^ 29) 4), (2, capOf 2 0xB87#12 2 0 (2 ^ 29 + 512) 256)]) 0 0).modPart 0 fun P =>
    { P with cfg := { P.cfg with peers := [1] } }

/-- An entry of which nothing has landed; op, rows and bytes. -/
def run1 (op : Nat) (rows : List (Option Nat × Nat)) (total : Nat) : Running :=
  { chain := 4096, seq := 1, op := op, e := ⟨2, 0, 0, 0, 0, 16, 1, 0, 0, 0, 0, 0⟩, owner := ⟨4096, 1, none, 0, none, 12288, false, true, none, none⟩
    src := capOf 2 0xB87#12 2 0 512 256, dst := capOf 2 0xB87#12 1 0 1024 256, rows := rows, total := total }

theorem witness_ChainInstructionsAndPublish :
    (∃ c, Ready (sChain 0 4096) c (.eapp (uw 3 1 0 0 0x201000)) ∧
      (((sChain 0 4096).objFault c (c.cap 1) [6] 0x400#12 64).isNone && ((sChain 0 4096).capFault c (c.cap 2) [2] 0x003#12).isNone &&
        decide ((c.cap 2).size < (c.sr 1).toNat + 64)) = true) ∧
    (∃ c, Ready (sChain 0 8) c (.eapp (uw 3 1 0 0 0x201000)) ∧ decide (((c.cap 2).at + (c.sr 1).toNat) % 64 ≠ 0) = true) ∧
    (∃ c, Ready (caps (sChain 0 0) [(1, capOf 6 0x500#12 1 0 256 4), (2, capOf 2 0xB87#12 2 0 (2 ^ 18) 256)]) c
      (.eapp (uw 3 0 0 0 0x201000)) ∧ decide ((c.cap 2).at / 2 ^ 22 ≠ (c.cap 1).at / 2 ^ 22) = true) ∧
    (∃ c, Ready (sChain 0 4032) c (.eapp (uw 3 1 0 0 0x201000)) ∧
      (((sChain 0 4032).objFault c (c.cap 1) [6] 0x400#12 64).isNone && ((sChain 0 4032).capFault c (c.cap 2) [2] 0x003#12).isNone &&
        decide ((c.sr 1).toNat + 64 ≤ (c.cap 2).size ∧ (8192 + (c.sr 1).toNat) % 64 = 0) && (sChain 0 4032).here 4096 &&
        (bufTouch c.blk.buf .slice 12224 64).isEmpty && (sChain 0 4032).chAppended 4096 = 0 &&
        !bit ((sChain 0 4032).chHead 4096) 63) = true) ∧
    (∃ c, Ready (sChain 2 3) c (.eadv (uw 0 1 0 0 0x1000)) ∧ (((sChain 2 3).objFault c (c.cap 1) [6] 0x400#12 64).isNone &&
      (sChain 2 3).here 4096 && decide ((sChain 2 3).chAppended 4096 < (c.sr 1).toNat ∧ (c.cap 1).at % 2 ^ 22 + 64 ≤ 2 ^ 22)) = true) ∧
    (∃ c, Ready (sChain 2 2) c (.eadv (uw 0 1 0 0 0x1000)) ∧ (((sChain 2 2).objFault c (c.cap 1) [6] 0x400#12 64).isNone &&
      (sChain 2 2).here 4096 && decide ((c.sr 1).toNat ≤ (sChain 2 2).chAppended 4096 ∧ (c.cap 1).at % 2 ^ 22 + 64 ≤ 2 ^ 22)) = true) ∧
    (∃ c, Ready (sChain 0 0) c (.eseq (uw 3 0 0 0 0x1001)) ∧ ((sChain 0 0).objFault c (c.cap 1) [6] 0x400#12 64).isNone = true) ∧
    (∃ c, Ready (sChain 0 0) c (.wprd (uw 3 0 0 0 0x1000)) ∧ (((sChain 0 0).objFault c (c.cap 1) [6] 0x400#12 64).isNone && (sChain 0 0).here 4096 &&
      (sChain 0 0).sliceNat 4096 1 = 1 && coreOfSlice 4096 = c.blk.core) = true) ∧
    (∃ c, Ready sFarChain c (.eapp (uw 3 1 0 0 0x201000)) ∧ ((sFarChain.objFault c (c.cap 1) [6] 0x400#12 64).isNone &&
      (sFarChain.capFault c (c.cap 2) [2] 0x003#12).isNone && decide ((c.sr 1).toNat + 64 ≤ (c.cap 2).size) &&
      decide ((c.cap 2).at % 64 = 0 ∧ (c.cap 2).at / 2 ^ 22 = (c.cap 1).at / 2 ^ 22) && !sFarChain.here (c.cap 1).at &&
      (bufTouch c.blk.buf .slice (c.cap 2).at 64).isEmpty) = true) ∧
    (∃ c, Ready sFarChain c (.eadv (uw 0 1 0 0 0x1000)) ∧ ((sFarChain.objFault c (c.cap 1) [6] 0x400#12 64).isNone &&
      !sFarChain.here (c.cap 1).at) = true) ∧
    (sPubFar.waitOf 1 0 0 = .pub (capOf 1 0xB87#12 1 0 0 256) ∧ sPubFar.landing 0 (capOf 1 0xB87#12 1 0 0 256) = false ∧
      1 ∈ sPubFar.markedPkgs 0 1 ∧ (sPubFar.obj 0 1).tier ≠ 3) ∧
    (({ s0 with eng := { sent := [{ dst := 1, seq := 1, op := (.swapped 0 0 1), b := 0 }] } } : State).swapDue 0 0 1 = true) ∧
    (∃ c, Ready sSlice c (.pub (uw 0 0 0 0 0x1000)) ∧ ((sSlice.capFault c (c.cap 1) [1, 2] 0x080#12).isNone &&
      !sSlice.shadowed 0 (c.cap 1)) = true) ∧
    (∃ c, Ready sShadow c (.pub (uw 0 0 0 0 0x1000)) ∧ ((sShadow.capFault c (c.cap 1) [1, 2] 0x080#12).isNone &&
      sShadow.shadowed 0 (c.cap 1)) = true) ∧
    ((sShadow.modSplit 1 0 0 fun S => { S with wait := .pub (capOf 2 0xB87#12 1 0 256 256) }).waitOf 1 0 0 =
      .pub (capOf 2 0xB87#12 1 0 256 256)) ∧ sShadow.landing 0 (capOf 2 0xB87#12 1 0 256 256) = false ∧
    (({ sShadow with eng := { running := [(5, { run1 1 [(some 0, 0)] 16 with dst := capOf 2 0xB87#12 1 0 256 256 })] } } : State).landing
      0 (capOf 2 0xB87#12 1 0 256 256) = true) := by
  refine ⟨?_, ?_, ?_, ?_, ?_, ?_, ?_, ?_, ?_, ?_, ⟨?_, ?_, ?_, ?_⟩, ?_, ?_, ?_, ?_, ?_, ?_⟩
  all_goals first
    | decide +kernel
    | (apply of_ready; decide +kernel)

/-! ## Engines -/

/-- Chain 4096 of a class, with one eligible entry at 12288; the capability table at 8192: 0 source, 1 destination, 2 lists,
3 the entry's guard; group 0 of die 0 alone. -/
def sEng (cls : Nat) (word : List Byte) : State :=
  let ent (i kind base len rights : Nat) : List Byte :=
    leBytes 32 ((capOf kind (BitVec.ofNat 12 rights) i 0 base len).bits.toNat + 2 ^ 128)
  let s := [0, 1, 2, 3].foldl (fun s i => withObj s (capOf 2 0 i 0 0 0)) (st (fun L => { L with table := 8192 }) id id)
  let s := s.sliceWrite 8192 (ent 0 2 1024 256 0xB87 ++ ent 1 2 1280 256 0xB87 ++ ent 2 2 1536 256 0xB87 ++ ent 3 3 2048 26 0x318)
  let s := (s.sliceWrite 4096 (leBytes 4 cls ++ leBytes 4 0 ++ leBytes 8 1 ++ leBytes 8 1 ++ leBytes 8 0 ++
    leBytes 8 (linkTo 12288) ++ leBytes 8 (linkTo 12288))).sliceWrite 12288 word
  { s.sliceWrite 0 (leBytes 32 (1 + 2 ^ 7)) with
    eng := { owners := [{ chain := 4096, seq := 1, block := some (1, 1), part := 0, tag := none, entry := 12288 }] } }

/-- The bytes of an entry: op and control, len, count, strides, param. -/
def entWord (op len count stride param : Nat) : List Byte :=
  leBytes 4 op ++ leBytes 4 0x03020100 ++ leBytes 24 0 ++ leBytes 4 len ++ leBytes 4 count ++ leBytes 4 stride ++
    leBytes 4 stride ++ leBytes 4 param ++ leBytes 4 0 ++ leBytes 8 0

/-- Whether the head entry of that chain is `op`, may be taken, and its checks hold. -/
def entOk (s : State) (op : Nat) : Bool :=
  match s.headEntry 4096 with
  | some (o, op', e) => op' = op && s.mayTake 4096 && match s.checkEntry o op e with
    | some (.ok r) => match s.readMine r with
      | some (.ok _) => true
      | _ => false
    | _ => false
  | none => false

theorem of_entOk {s : State} {op : Nat} (h : entOk s op = true) : ∃ o e r bs, s.headEntry 4096 = some (o, op, e) ∧
    s.mayTake 4096 = true ∧ s.checkEntry o op e = some (.ok r) ∧ s.readMine r = some (.ok bs) := by
  unfold entOk at h
  split at h
  · next o op' e he =>
    simp only [Bool.and_eq_true, decide_eq_true_eq] at h
    obtain ⟨⟨h1, h2⟩, h3⟩ := h
    subst h1
    split at h3
    · next r hr =>
      split at h3
      · next bs hb => exact ⟨o, e, r, bs, he, h2, hr, hb⟩
      · exact absurd h3 (by decide)
    · exact absurd h3 (by decide)
  · exact absurd h (by decide)

theorem witness_EntriesStartOrStopTheirChain :
    (∀ x ∈ [(1, 0x00, 0, 0, 0, 0), (1, 0x01, 16, 0, 0, 0), (1, 0x02, 16, 2, 16, 0), (1, 0x03, 16, 2, 16, 7), (2, 0x10, 4, 2, 4, 0),
        (2, 0x11, 4, 0, 4, 0), (2, 0x12, 4, 2, 4, 0), (3, 0x20 + 2 ^ 12, 0, 1, 0, 0), (3, 0x21 + 2 ^ 12, 0, 1, 0, 0),
        (3, 0x22 + 2 ^ 12, 0, 1, 0, 0), (3, 0x23 + 2 ^ 12, 0, 1, 0, 0), (4, 0x30, 0, 0, 0, 0)],
      entOk (sEng x.1 (entWord x.2.1 x.2.2.1 x.2.2.2.1 x.2.2.2.2.1 x.2.2.2.2.2)) (x.2.1 % 256) = true) ∧
    (match (sEng 1 (entWord 0x05 0 0 0 0)).headEntry 4096 with
      | some (o, op, e) => op = 0x05 && o.tag.isNone && (match (sEng 1 (entWord 0x05 0 0 0 0)).checkEntry o op e with
        | some (.error k) => k = 1
        | _ => false)
      | none => false) = true ∧ (sEng 1 (entWord 0x05 0 0 0 0)).mayTake 4096 = true ∧
    4096 % 2 ^ 22 + 64 ≤ 2 ^ 22 := by
  refine ⟨?_, ?_, ?_, ?_⟩ <;> decide +kernel

/-- Running entries. -/
def sRun (r : Running) : State := { (sGuard.sliceWrite 4096 (leBytes 4 1)) with eng := { running := [(5, r)] } }

theorem witness_LandingsMoveBytesAndCount :
    (∀ r ∈ [run1 0x01 [(some 0, 0)] 32, { run1 0x03 [(none, 0), (none, 32)] 64 with done := 63 }],
      (sRun r).eng.running.find 5 = some r ∧ r.done < r.total ∧ r.total = r.rows.length * 32 ∧ (sRun r).mem.tiles = [] ∧
      r.e.k = false ∧ r.src.kind = 2 ∧ r.dst.kind = 2 ∧ (r.op ≠ 0x03 → (r.rows.getD (r.done / 32) (none, 0)).1 ≠ none) ∧
      (sRun r).here ((sRun r).sliceCopy (r.dst.at + 63) r.e.s) = true ∧ r.flight = 0 ∧ r.owed = [] ∧
      (sRun r).heldCopy r.owner = false) ∧
    (let r := { run1 0x01 [(some 0, 0)] 32 with dst := capOf 2 0xB87#12 1 0 (2 ^ 29) 256 }
     (sRun r).here ((sRun r).sliceCopy r.dst.at r.e.s) = false) ∧
    (State.guarded { sRun (run1 0x01 [(some 0, 0)] 32) with mem := { s0.mem with guards := [(512, 1)] } } 16384 32 = true) := by
  refine ⟨?_, by decide +kernel, by decide +kernel⟩
  intro r hr
  simp only [List.mem_cons, List.not_mem_nil, or_false] at hr
  obtain rfl | rfl := hr <;> decide +kernel

theorem witness_EntriesCompleteAbortOrCombine :
    ((run1 0x01 [(some 0, 0)] 16).done < 16 ∧ (run1 0x01 [(some 0, 0)] 16).passed = false ∧ (run1 0x00 [] 0).total ≤ (run1 0x00 [] 0).done ∧
      (sRun (run1 0x00 [] 0)).chSeq 4096 + 1 = 1 ∧ (sRun (run1 0x00 [] 0)).here 4096 = true ∧ (sRun (run1 0x00 [] 0)).graphs = []) ∧
    (let r := { run1 0x20 [(some 0, 0)] 16 with guard := some 4096, e := { (run1 0x20 [] 0).e with group := 0 } }
     let s := { (sRun r).sliceWrite 4096 (leBytes 4 0) with eng := { running := [(5, r)] } }
     r.e.gid = 0 ∧ r.e.attempt = 0 ∧ dieOf (coreOfSlice r.chain) = 0 ∧ s.sliceNat (4096 + 18) 2 = 0 ∧ s.here r.chain = true ∧
       r.chain % 2 ^ 22 + 64 ≤ 2 ^ 22) ∧
    ((sEng 3 (entWord 0x20 0 0 0 0)).groupMembers 0 0).getD 0 (0, 0) = ((sEng 3 (entWord 0x20 0 0 0 0)).ctl.pkg, dieOf 0) := by
  refine ⟨⟨?_, ?_, ?_, ?_, ?_, ?_⟩, ⟨?_, ?_, ?_, ?_, ?_, ?_⟩, ?_⟩ <;> decide +kernel

/-! ## Population, bins, pod time -/

/-- An instance open at word `pc` of the troupe's scope. -/
def inst (pc : Word) (i : Instr) (arrived active : Tab Mask) : Inst :=
  { pc := pc, size := 2, block := false, opener := 0, instr := i, members := [(0, 0xFFFFFFFF#32)], arrived := arrived, active := active }

/-- That instance, whose splits have all parked; columns and more as changed. -/
def sInst (i : Instr) (a : Mask) (f : Troupe → Troupe) : State := st id id fun T => f { T with
  inst := some { inst 0 i [(0, 0xFFFFFFFF#32)] [(0, a)] with started := true }
  splits := T.splits.map fun p => (p.1, { p.2 with wait := .pop false true }) }

/-- The relation object of BUILD, JOIN. -/
def sRel : State := withCap s0 (capOf 5 0x103#12 1 0 256 256)

/-- The same object in bulk, its page absent. -/
def sRelAbsent : State :=
  let s := withCap s0 (capOf 5 0x103#12 1 0 0 256)
  { s with mem := { s.mem with dev := Mem.write [] 32 (leBytes 32 (1 + 2 + 512 + 2 ^ 64 * 0x1000 + 2 ^ 192)) } }

/-- The relation object with its header, and a store buffer full of stores behind one that another package has not accepted. -/
def sRelFull : State :=
  let s := (sRel.sliceWrite 4096 (leBytes 16 (2 ^ 32 * 8 + 2 ^ 96))).modBlk 1 fun B => { B with
    epoch := 1
    buf := (List.range 65).map fun i => (i, { space := .slice, addr := 2 ^ 20, data := List.replicate 1024 0, sealed := true, epoch := 1 }) }
  { s with eng := { sent := [{ dst := 1, seq := 1, op := .store (2 ^ 33) [0], b := 1 }] } }

set_option maxRecDepth 65536 in
theorem witness_RelationInstructionsOpenAndExecute :
    (∀ i ∈ [Instr.group (uw 0 0 0 0 0), .expand (uw 0 0 0 0 0), .repack (uw 0 0 0 0 0), .rcount (uw 3 0 0 0 0),
      .build (uw 0 0 0 0 0x1000), .join (uw 0 0 0 0 0x1000)],
      (∃ c, Ready sRel c i ∧ (c.trp.inst.isNone && !c.task.launch.shd) = true) ∧
      (∃ c, Ready (sRel.modTrp 1 0 fun T => { T with inst := some (inst 0 i [] []) }) c i ∧
        (c.trp.inst.any fun J => J.pc = c.sp.pc) = true) ∧
      ∃ c, Ready (sRel.modTrp 1 0 fun T => { T with inst := some (inst 9 i [] []) }) c i ∧
        (c.trp.inst.any (fun J => J.pc ≠ c.sp.pc) && c.trp.run.isNone) = true) ∧
    ((sInst (.rcount (uw 3 0 0 0 0)) 1#32 id).instAt 1 (.troupe 0)).isSome = true ∧
    ((sInst (.rcount (uw 3 0 0 0 0)) 1#32 id).blocks.find 1).any (fun B =>
      B.allArrived (inst 0 (.rcount (uw 3 0 0 0 0)) [(0, 0xFFFFFFFF#32)] []) &&
      !B.allArrived (inst 0 (.rcount (uw 3 0 0 0 0)) [] []) &&
      (B.stalled (inst 0 (.rcount (uw 3 0 0 0 0)) [] [])).isSome) = true ∧
    (match (inst 0 (.rcount (uw 3 0 0 0 0)) [(0, 0xFFFFFFFF#32)] []).effect 1 { part := 0, launch := loadLaunch } s0 with
      | .ok _ => true
      | .error _ => false) = true ∧
    (match (inst 0 (.build (uw 0 0 0 0 0x1000)) [(0, 0xFFFFFFFF#32)] []).effect 1 { part := 0, launch := loadLaunch } sRelAbsent with
      | .error (.lack _ _) => true
      | _ => false) = true ∧
    (match (inst 0 (.build (uw 0 0 0 0 0x1000)) [(0, 0xFFFFFFFF#32)] [(0, 1#32)]).effect 1 { part := 0, launch := loadLaunch } sRelFull with
      | .error .full => true
      | _ => false) = true ∧
    (match (inst 0 (.expand (uw 0 0 0 0 0)) [(0, 0xFFFFFFFF#32)] [(0, 0xFFFFFFFF#32)]).effect 1
        { part := 0, launch := loadLaunch } (st id id fun T => { T with regs := { T.regs with v := [(0, Lanes.of fun _ => 2000)] } }) with
      | .error (.fail _) => true
      | _ => false) = true ∧
    (let full (t : Nat) (s : State) : State := s.modTrp 1 t fun T => { T with q := [(96, List.replicate 64 (some 0))] }
     let s := (full 0 (full 32 sPair)).modSplit 1 0 0 fun S => { S with wait := .queue 3 true 1#32 }
     let d := s.modSplit 1 32 0 fun S => { S with wait := .queue 3 true 1#32 }
     (s.blocks.find 1).any (fun B => !s.pairDry 1 B 0) = true ∧ (d.blocks.find 1).any (fun B => d.pairDry 1 B 0) = true) := by
  refine ⟨?_, ?_, ?_, ?_, ?_, ?_, ?_, ?_, ?_⟩
  · simp only [List.mem_cons, List.not_mem_nil, or_false, forall_eq_or_imp, forall_eq]
    refine ⟨?_, ?_, ?_, ?_, ?_, ?_⟩ <;> (refine ⟨?_, ?_, ?_⟩ <;> (apply of_ready; decide +kernel))
  all_goals decide +kernel

theorem witness_CompletedInstancesChangeTheRows :
    (∀ i ∈ [Instr.group (uw 0 0 0 0 0), .expand (uw 0 0 0 0 0), .repack (uw 0 0 0 0 0), .rcount (uw 3 0 0 0 0)],
      let s := sInst i 0x1#32 fun T => { T with regs := { T.regs with v := [(0, Lanes.of fun _ => 1)] } }
      (s.trp? 1 0).any (fun T => T.inst.any (fun I => I.started && !I.block && I.opener = 0 && I.size = 2 &&
        I.arrived = [(0, T.lm)] && decide (I.active = [(0, 1#32)])) && decide (T.lm ≠ 0) && T.stack.isEmpty && T.k.isEmpty &&
        (T.splits.find 0).any fun S => decide (T.splits = [(0, S)]) && S.wait = .pop false true && decide (S.own = T.lm)) = true ∧
      (s.trp? 1 0).any (fun T => let n := ((lanesOf 1#32).map fun l => (T.regs.lane 0 l).toNat).sum
        decide (popcount (T.lm &&& ~~~1#32) + n ≤ 32)) = true) ∧
    (colPairs ({ part := 0, launch := loadLaunch } : Task).columns 0).length ≤ 1 := by
  refine ⟨?_, ?_⟩ <;> decide +kernel

/-- Bin 0 of core 0 with records held, and its card in capability 1. -/
def sBin (x : Bin) : State :=
  let s := regs (caps s0 [(1, capOf 7 0x060#12 0 0 0 2)]) 5 0
  { s with cores := s.cores.put 0 { s.core 0 with bins := [(0, x)] } }

/-- A bin of task 1, with `n` records of two words. -/
def bin1 (n : Nat) : Bin :=
  { task := 1, home := 0, count := 32, timer := 0, ring := 0, ringCap := 0, records := List.replicate n [7#32, 8#32] }

theorem witness_BinsTakeRecordsAndLaunch :
    (∃ c, Ready (sBin (bin1 255)) c (.post (uw 0 0 0 0 0x1000)) ∧ (c.blk.unreach.isNone &&
      ((sBin (bin1 255)).capFault c (c.cap 1) [7] 0x020#12).isNone && decide ((bin1 255).room < (lanesOf c.active).length)) = true) ∧
    (∃ c, Ready ((sBin (bin1 0)).modTrp 1 0 fun T => { T with lm := 1#32 }) c (.post (uw 0 0 0 0 0x1000)) ∧
      (c.blk.buf.isEmpty && decide ((sBin (bin1 0)).core 0 |>.cache.isEmpty) && decide (lanesOf c.active ≠ []) &&
        !(sBin (bin1 0)).unacked 1 (fun _ => true) &&
        (sBin (bin1 0)).bin ((sBin (bin1 0)).postCore 0 0 (c.cap 1) ((sBin (bin1 0)).binHome 0 (c.cap 1))) 0 = some (bin1 0)) = true) ∧
    ((sBin (bin1 0)).modSplit 1 0 0 fun S => { S with wait := .post }).waitOf 1 0 0 = .post ∧
    (∃ c, Ready ((sBin (bin1 3)).modTrp 1 0 fun T => { T with lm := 1#32 }) c (.bintake (uw 3 1 0 0 0x1000)) ∧
      (((sBin (bin1 3)).capFault c (c.cap 1) [7] 0x040#12).isNone && !c.task.launch.shd &&
        (sBin (bin1 3)).cardBin 0 (c.cap 1) = some (0, bin1 3)) = true) ∧
    ((sBin { bin1 1 with deadline := some 1 }).ctl.clk.toNat < 1) ∧ (0 ≤ (sBin { bin1 1 with deadline := some 0 }).ctl.clk.toNat) ∧
    (bin1 1).held ≠ [] ∧ (sBin (bin1 1)).binDrains { bin1 1 with task := 2 } 0 = true ∧
    (sBin (bin1 0)).binDrains (bin1 0) 0 = false ∧ (sBin (bin1 0)).binDone 1 = false ∧ (sBin { bin1 0 with task := 2 }).binDone 2 = true ∧
    ({ sBin (bin1 1) with tasks := [(1, { part := 0, launch := loadLaunch })] } : State).binCore 0 { part := 0, launch := loadLaunch } =
      some 0 := by
  refine ⟨?_, ?_, ?_, ?_, ?_, ?_, ?_, ?_, ?_, ?_, ?_, ?_⟩
  all_goals first
    | decide +kernel
    | (apply of_ready; decide +kernel)

/-- The object in use by a privileged launch. -/
def sPrv (x y : DWord) : State :=
  let s := regs sBulk x y
  { s with tasks := [(1, { part := 0, launch := { loadLaunch with prv := true }, next := 1 })] }

theorem witness_ClockReadsAndRevocations :
    (∃ c, Ready s0 c (.clkrd (uw 3 0 0 0 0)) ∧ true = true) ∧
    (∃ c, Ready (sPrv 0x1000001 0) c (.otinv (uw 0 1 0 0 0)) ∧ decide ((c.sr 1).toNat / 2 ^ 24 ≠ 0) = true) ∧
    (∃ c, Ready (regs s0 1 0) c (.otinv (uw 0 1 0 0 0)) ∧ (!c.task.launch.prv && decide ((c.sr 1).toNat / 2 ^ 24 = 0)) = true) ∧
    (∃ c, Ready (sPrv 1 0) c (.otinv (uw 0 1 0 0 0)) ∧ (c.task.launch.prv && ((sPrv 1 0).obj 0 1).v) = true) ∧
    (∃ c, Ready (sPrv 1 1) c (.otinv (uw 0 1 2 0 1)) ∧ (c.task.launch.prv && decide (1 ≤ ((sPrv 1 1).obj 0 1).pages)) = true) ∧
    (∃ c, Ready (sPrv 1 0) c (.otinv (uw 0 1 2 0 1)) ∧ (c.task.launch.prv && (c.sr 2).toNat = 0) = true) ∧
    (let O : Otinv := { b := 1, t := 0, e := 0, part := 0, obj := 1, gen := false, pages := [0], holders := [0] }
     ({ s0 with eng := { otinv := [(5, O)] } } : State).eng.otinv.find 5 = some O ∧ 0 ∈ O.holders ∧ 1 ∉ O.holders ∧
       ({ s0 with eng := { otinv := [(5, O)] } } : State).dieBusy 0 O = false ∧
       State.dieBusy (sBulk.modTrp 1 0 fun T => { T with
         loads := [(5, ⟨.bulk, [(0, bulkKey 0 1 0 0)], 4, true, 1, 3, none, 0, false⟩)] }) 0 O = true) := by
  refine ⟨?_, ?_, ?_, ?_, ?_, ?_, ?_⟩
  all_goals first
    | decide +kernel
    | (apply of_ready; decide +kernel)

/-- 03 R96, 04 Table 4.7: a landing with K from another package stores its bytes and makes the sums of the tile it fills. -/
theorem test_far_landing_makes_sums :
    ((({ s0 with mem := { s0.mem with skew := [(64, 1#32), (128, 2#32)] } } : State).applyOp 3
      (.remade 4096 none [7#8] [1])).any fun x => x.2.mem.skew == [(128, 2#32)] && x.2.sliceRead 4096 1 == [7#8]) = true := by
  decide

/-- What a bulk atomic needs, its lanes anywhere in the region. -/
def bulkAtomicOk (i : Instr) (f : LW) (ret : Bool) (c : Ctx) : Bool :=
  let n := if wide f.t.toNat then 8 else 4
  let r := c.cap f.mcap
  let xs := f.offsets c (c.guarded i) n
  (c.popWait i (c.guarded i) sBulk).isNone && c.blk.unreach.isNone && c.blk.buf.isEmpty && !xs.isEmpty &&
    (sBulk.accessFault c r 1 (rightsOf ret true true) n xs).isNone && decide ((sBulk.obj c.task.part r.obj).place ≠ 0) &&
    xs.all fun x => !c.loadAt .bulk (sBulk.capKey c.task.part r x.2.toNat) n &&
      !sBulk.bulkPoisoned c.blk.core (sBulk.capKey c.task.part r x.2.toNat) n &&
      (sBulk.pageOf c.blk.core (sBulk.capKey c.task.part r x.2.toNat) n true).isNone

/-- A guard of package 1 in capability register 1, a slice region in capability register 2. -/
def sFarGuard : State := caps s0 [(1, capOf 3 0x318#12 1 0 (2 ^ 29 + 256) 26), (2, capOf 2 0xB87#12 2 0 512 256)]

/-- What an operation on that guard needs. -/
def farGuardOk (s : State) (right : BitVec 12) (c : Ctx) : Bool :=
  (s.guardFault c (c.cap 1) right).isNone && !s.behind c (c.cap 1).at true && !s.behind c (c.cap 1).at false &&
    !s.here (c.cap 1).at

theorem witness_AtomicsGuardsAndMessagesComplete :
    (∃ c, Ready sBulk c (.atb (lw 4 2 1 0 0)) ∧ bulkAtomicOk (.atb (lw 4 2 1 0 0)) (lw 4 2 1 0 0) true c = true) ∧
    (∃ c, Ready sBulk c (.casb (lw 4 2 1 0 0)) ∧ bulkAtomicOk (.casb (lw 4 2 1 0 0)) (lw 4 2 1 0 0) true c = true) ∧
    (∃ c, Ready sBulk c (.redb (lw 0 2 1 0 0)) ∧ bulkAtomicOk (.redb (lw 0 2 1 0 0)) (lw 0 2 1 0 0) false c = true) ∧
    (∃ c, Ready sFarGuard c (.arrive (uw 0 0 0 0 0x1001)) ∧ farGuardOk sFarGuard 0x008#12 c = true) ∧
    (∃ c, Ready sFarGuard c (.expect (uw 0 1 0 0 0x1000)) ∧ farGuardOk sFarGuard 0x008#12 c = true) ∧
    (∃ c, Ready sFarGuard c (.gflg (uw 0 0 0 0 0x1100)) ∧ farGuardOk sFarGuard 0x008#12 c = true) ∧
    (∃ c, Ready sFarGuard c (.ginit (uw 0 1 2 0 0x1000)) ∧ (farGuardOk sFarGuard 0x200#12 c &&
      decide ((c.cap 1).at % 2 ^ 22 + 416 ≤ sliceBytes) && (bufTouch c.blk.buf .slice (c.cap 1).at 416).isEmpty) = true) ∧
    (∃ c, Ready sFarGuard c (.gbind (uw 0 0 0 0 0x201000)) ∧ (farGuardOk sFarGuard 0x200#12 c &&
      (sFarGuard.capFault c (c.cap 2) [1, 2] 0x200#12).isNone) = true) ∧
    (∃ c, Ready sFarGuard c (.gunb (uw 0 0 0 0 0x1100)) ∧ farGuardOk sFarGuard 0x200#12 c = true) ∧
    (∃ c, Ready (sChan 0 256 0 4096) c (.send (uw 0 1 2 0 0x102000)) ∧ (sendOk (sChan 0 256 0 4096) c &&
      (c.cap 2).tag.isNone && ((sChan 0 256 0 4096).sendLacks c (c.cap 2)).isEmpty &&
      !(sChan 0 256 0 4096).loadPoison c .slice 4096 4096) = true) ∧
    (∃ c, Ready (sChan 1 1 0 16) c (.recv (uw 3 1 2 0 0x102000)) ∧ ((sChan 1 1 0 16).hasMsg 0 2 &&
      recvOk (sChan 1 1 0 16) c && !(sChan 1 1 0 16).waPoisoned 0 16400 16 && !(sChan 1 1 0 16).waPoisoned 0 16416 16) = true) ∧
    (({ sChan 1 1 0 0 with eng := { msgs := [msg1 16] } } : State).firstMsg (msg1 16) = true ∧
      ({ sChan 1 1 0 0 with eng := { msgs := [msg1 16] } } : State).takesMsg (msg1 16) = true) ∧
    ({ s0 with eng := { refused := [msg1 16] } } : State).eng.refused.contains (msg1 16) = true := by
  refine ⟨?_, ?_, ?_, ?_, ?_, ?_, ?_, ?_, ?_, ?_, ?_, ⟨?_, ?_⟩, ?_⟩
  all_goals first
    | decide +kernel
    | (apply of_ready; decide +kernel)

/-! ## The matrix unit -/

/-- Core 0's unit held by the block; tiles, plans and more as changed. Tiled regions at 4096 (capability 1, tile right) and
plain bytes at 65536 (capability 2). -/
def sMat (f : MatUnit → MatUnit) : State :=
  let s := caps s0 [(1, capOf 2 0xB87#12 1 0 256 1024), (2, capOf 2 0xB87#12 2 0 4096 4096)]
  { s with
    cores := s.cores.put 0 { s.core 0 with
      mat := f { holder := some 1, planRow := (0, 1, false, true), planActive := (0, 1, 1, false, true) } }
    mem := { s.mem with tiles := [(4096, 16384)] } }

/-- Product words: label from an immediate, all formats 0, one tile; W2 as given. -/
def mw (w : Word) : UW := uw 0 0 0 0 w
/-- SCACC of block-scaled e4m3 operands, its scales in capabilities 2 and 2. -/
def sc1 : UW := uw 25 32 0 2 0x2008

theorem witness_MatrixUnitsAreGrantedAndReleased :
    (∃ c, Ready (sMat id) c (.macq (mw 0)) ∧ ((sMat id).unit c.blk.core).holder = some c.b) ∧
    (∃ c, Ready s0 c (.macq (mw 0x800000)) ∧ (decide ((s0.unit c.blk.core).holder ≠ some c.b) &&
      (s0.defaultSpill c.task).isNone && decide ((mw 0x800000).bit 7 = false ∧ (mw 0x800000).bit 6 = false)) = true) ∧
    (∃ c, Ready sGuard c (.macq (mw 0x140)) ∧ (decide ((mw 0x140).cG = 1) && (sGuard.guardFault c (c.cap 1) 0x008#12).isNone) = true) ∧
    (∃ c, Ready s0 c (.mrel (mw 0)) ∧ decide ((s0.unit c.blk.core).holder ≠ some c.b) = true) ∧
    (∃ c, Ready (sMat id) c (.mrel (mw 0)) ∧ ((sMat id).unit c.blk.core).holder = some c.b ∧
      ((sMat id).unit c.blk.core).queue = [] ∧ ((sMat id).unit c.blk.core).replay = false) ∧
    (∃ c, Ready (sMat fun U => { U with replay := true }) c (.mrel (mw 0)) ∧
      decide (((sMat fun U => { U with replay := true }).unit c.blk.core).holder = some c.b) = true) ∧
    (let q : MReq := ⟨1, 0, 0, false, none, none⟩
     let s := s0.modUnit 0 fun U => { U with requests := [q] }
     (s.unit 0).requests = [q] ∧ s.mayGrant 0 q = true ∧ (sMat id).mayGrant 0 q = false) ∧
    (let M : MRec := ⟨capOf 2 0xB87#12 2 0 4096 4096, {}, 0, 1, 1, false, 0⟩
     (match ((sMat id).modCore 0 fun C => { C with cor := 0 }).loadBank 0 1 M 0 1 with
     | .ok _ => true
     | _ => false) = true) := by
  refine ⟨?_, ?_, ?_, ?_, ?_, ?_, ?_, ?_⟩
  · exact (of_ready (p := fun c => decide (((sMat id).unit c.blk.core).holder = some c.b)) (by decide +kernel)).imp
      fun c h => ⟨h.1, of_decide_eq_true h.2⟩
  · apply of_ready; decide +kernel
  · apply of_ready; decide +kernel
  · apply of_ready; decide +kernel
  · exact (of_ready (p := fun c => decide (((sMat id).unit c.blk.core).holder = some c.b ∧
      ((sMat id).unit c.blk.core).queue = [] ∧ ((sMat id).unit c.blk.core).replay = false)) (by decide +kernel)).imp
      fun c h => ⟨h.1, of_decide_eq_true h.2⟩
  · apply of_ready; decide +kernel
  · decide +kernel
  · decide +kernel

/-- A label of one tile of each accumulator type may be mapped. -/
def isOk {α β : Type} (x : Except α β) : Bool :=
  match x with
  | .ok _ => true
  | .error _ => false

/-- Whether a product's labels of type `ty` may be used, no slot's spilling stopped. -/
def noSpill (s : State) (c : Ctx) (f : UW) (ty : Nat) : Bool :=
  match (s.unit 0).labelled f c ty with
  | .ok x => (s.spillFault c (x.2.2.any SlotAct.spills)).isNone
  | .error _ => false

/-- A queued MBSW. -/
def full : MatOp := { instr := .mbsw (mw 0), b := 1, t := 0, rows := 0, labels := [], acts := [] }

/-- The block of a quad grant, its operands loaded jointly. -/
def sQuad : State :=
  let op (U : MatUnit) : MatUnit := { U with planRow := (0, 1, true, true), planActive := (0, 1, 1, true, true) }
  (quadCores 0).foldl (fun s k => s.modUnit k op) (sMat fun U => { U with quad := true })

theorem witness_MatrixInstructionsEnterTheQueue :
    (∀ i ∈ [Instr.mldb (mw 0x2000), .mbsw (mw 0), .mlda (mw 0x2000), .mma (mw 0), .mmas (mw 0x1000), .scacc sc1,
      .mwr (mw 0), .mclr (mw 0), .bind (mw 0x1008), .slfl (mw 0x1000), .qmma (mw 0)],
      (∃ c, Ready s0 c i ∧ decide ((s0.unit c.blk.core).holder ≠ some c.b) = true) ∧
      ∃ c, Ready (sMat fun U => { U with queue := List.replicate 4 full }) c i ∧
        decide (4 ≤ ((sMat fun U => { U with queue := List.replicate 4 full }).unit c.blk.core).queue.length) = true) ∧
    (∃ c, Ready (sMat id) c (.mldb (mw 0x2000)) ∧
      (decide (geo 0 * geo 0 * planes 0 ≤ 8) && ((sMat id).srcFault c (c.cap 2) [1, 2] (bBytes 0 256 64)).isNone) = true) ∧
    (∃ c, Ready (sMat id) c (.mlda (mw 0x2000)) ∧ (((sMat id).capFault c (c.cap 2) [1, 2] 0x001#12).isNone &&
      decide (256 * windowA 0 ≤ 24576) && (c.cap 2).has 11 && (lanesOf c.active).all fun l =>
        (sMat id).inCap c.task.part (c.cap 2) (c.reg 0 l) (256 * mbits 0 / 8) && decide (c.reg 0 l % 16 = 0)) = true) ∧
    (∃ c, Ready (sMat id) c (.mma (mw 0)) ∧ ((prodGeom (mw 0) false).isNone && ((sMat id).mismatch 0 (mw 0) false true).isNone &&
      noSpill (sMat id) c (mw 0) 1) = true) ∧
    (∃ c, Ready sQuad c (.qmma (mw 0)) ∧ ((sQuad.unit 0).quad && (prodGeom (mw 0) true).isNone && (sQuad.mismatch 0 (mw 0) true true).isNone &&
      noSpill sQuad c (mw 0) 1) = true) ∧
    (∃ c, Ready (sMat id) c (.mmas (mw 0x1000)) ∧ ((prodGeom (mw 0x1000) false).isNone &&
      ((sMat id).mismatch 0 (mw 0x1000) false false).isNone && noSpill (sMat id) c (mw 0x1000) 1 &&
      ((sMat id).capFault c (c.cap 1) [2] 0x801#12).isNone && (sMat id).allTiles ((sMat id).capSlice (c.cap 1) 0) 1 &&
      (sMat id).mem.flips.isEmpty && !(sMat id).halting c.task.part && ((sMat id).unit 0).valid.isNone && ((sMat id).unit 0).queue.isEmpty && (sMat id).mem.skew.isEmpty && (sMat id).mem.slicePoison.isEmpty &&
      (lanesOf c.active).all fun l => isOk ((sMat id).sparseRow c.b (c.cap 1) 0 8 l)) = true) ∧
    (∃ c, Ready (sMat id) c (.scacc sc1) ∧ (((sMat id).srcFault c (c.cap 2) [1, 2] 512).isNone &&
      ((sMat id).srcFault c (c.cap 2) [1, 2] 1024).isNone && (prodGeom sc1 false).isNone && noSpill (sMat id) c sc1 2) = true) ∧
    (∃ c, Ready (sMat id) c (.mwr (mw 0)) ∧ ([0, 1].contains (((sMat id).unit 0).planOf 0).1 &&
      match ((sMat id).unit 0).mapTiles 1 [0] [0] with
      | .ok x => ((sMat id).spillFault c (x.2.any SlotAct.spills)).isNone
      | .error _ => false) = true) ∧
    (∃ c, Ready (sMat fun U => { U with plan := [(0, 2, noLabels)] }) c (.bind (mw 0x1008)) ∧
      (((sMat id).dstFault c (c.cap 1) (mixBytes 2)).isNone && ((sMat id).srcFault c (c.cap 2) [2] 2048).isNone &&
        ((sMat id).spillFault c (noLabels.contains 15)).isNone) = true) ∧
    (∃ c, Ready (sMat id) c (.slfl (mw 0x1000)) ∧ (((sMat id).dstFault c (c.cap 1) (mixBytes 0)).isNone &&
      ((sMat id).spillFault c (decide (labelAt (((sMat id).unit 0).planOf 0).2 0 = 15))).isNone) = true) := by
  refine ⟨?_, ?_, ?_, ?_, ?_, ?_, ?_, ?_, ?_, ?_⟩
  · simp only [List.mem_cons, List.not_mem_nil, or_false, forall_eq_or_imp, forall_eq]
    refine ⟨?_, ?_, ?_, ?_, ?_, ?_, ?_, ?_, ?_, ?_, ?_⟩ <;> (refine ⟨?_, ?_⟩ <;> (apply of_ready; decide +kernel))
  all_goals (apply of_ready; decide +kernel)

/-- A queued instruction of the block, all rows active. -/
def mop (i : Instr) (ty : Nat) (map : List Nat) : MatOp :=
  { instr := i, b := 1, t := 0, rows := 0xFFFFFFFF#32, labels := List.replicate 32 0, acts := [], plans := [(0, ty, map)] }

theorem witness_QueuedMatrixInstructionsComplete :
    (∀ m ∈ [mop (.mma (mw 0)) 1 (noLabels.set 0 1), mop (.mbsw (mw 0)) 1 noLabels, mop (.mclr (mw 0)) 1 noLabels,
      mop (.mwr (mw 0)) 1 (noLabels.set 0 1)],
      let s := sMat fun U => { U with queue := [m] }
      (s.unit 0).queue = m :: [] ∧ ((s.blocks.find m.b).any fun B => (s.tasks.find B.task).isSome) = true ∧ s.replaying 0 = false ∧ (s.unit 0).step = (0, 0, 0) ∧
        (s.unit 0).guard = none ∧
        (s.unit 0).upset = [] ∧ m.acts = [] ∧ ∃ map, m.plans = [(0, 1, map)]) ∧
    (mw 0).tiles = [0] ∧ accType (mw 0).fa = 1 ∧ (mw 0).mx = false ∧ (mw 0).top = false ∧ (mw 0).xc + 1 = 1 ∧
    ((sMat id).unit 0).queue = [] ∧ [1, -2].length = [3, 4].length := by
  refine ⟨?_, ?_, ?_, ?_, ?_, ?_, ?_, ?_⟩
  · intro m hm
    simp only [List.mem_cons, List.not_mem_nil, or_false] at hm
    obtain rfl | rfl | rfl | rfl := hm <;> exact ⟨rfl, rfl, rfl, rfl, rfl, rfl, rfl, _, rfl⟩
  all_goals decide +kernel

/-- The tiled region corrupted in two words of one unit. -/
def sBad : State := { sMat id with mem := { (sMat id).mem with skew := [(64, 1#32), (65, 2#32), (96, 1#32), (97, 2#32)] } }

theorem witness_TilesAreReadAndSummed :
    (∃ c, Ready (sMat fun U => { U with tiles := [(0, { ty := 3, map := noLabels.set 0 1 })] }) c (.mrd (mw 0)) ∧
      (let s := sMat fun U => { U with tiles := [(0, { ty := 3, map := noLabels.set 0 1 })] };
        decide ((s.unit 0).holder = some c.b ∧ (s.unit 0).replay = false ∧ labelAt ((s.unit 0).tile 0).map 0 ≠ 15) &&
        (s.unit 0).queue.isEmpty && ((s.unit 0).tile 0).skew.isEmpty && decide ((mw 0).v % 2 = 0 ∧ (mw 0).v + 2 ≤ c.nregs)) = true) ∧
    (∃ c, Ready (sMat id) c (.slrd (mw 0)) ∧ (decide (((sMat id).unit 0).holder = some c.b) && ((sMat id).unit 0).queue.isEmpty &&
      !((sMat id).unit 0).replay && (((sMat id).unit 0).tile 0).skew.isEmpty) = true) ∧
    (∃ c, Ready (sMat id) c (.ckrd (uw 3 0 0 0 0x1000)) ∧ ((sMat id).ckFault c (c.cap 1) 0x001#12 (some (c.sr 0).toNat)).isNone = true) ∧
    (∃ c, Ready (sMat id) c (.ckgen (mw 0x1000)) ∧ (((sMat id).ckFault c (c.cap 1) 0x002#12 none).isNone && (sMat id).mem.flips.isEmpty && !(sMat id).slicePoisoned 4096 16384 &&
      (bufTouch c.blk.buf .slice 4096 16384).isEmpty) = true) ∧
    (∃ c, Ready (sMat id) c (.ckver (mw 0x1000)) ∧ (((sMat id).ckFault c (c.cap 1) 0x001#12 none).isNone && (sMat id).mem.flips.isEmpty && !(sMat id).slicePoisoned 4096 16384 &&
      (sMat id).mem.skew.isEmpty) = true) ∧
    (∃ c, Ready sBad c (.ckver (mw 0x1000)) ∧ ((sBad.ckFault c (c.cap 1) 0x001#12 none).isNone &&
      (sBad.verifyTiles c.blk.core (sBad.capSlice (c.cap 1) 0) (c.cap 1).size).isNone) = true) := by
  refine ⟨?_, ?_, ?_, ?_, ?_, ?_⟩ <;> (apply of_ready; decide +kernel)

/-! ## The solver -/

/-- One stage, order 1, a history of one, one component, every factor and tolerance 1. -/
def cfg1 : List Byte :=
  leBytes 4 0x111 ++ leBytes 4 1 ++ leBytes 4 0x3F800000 ++ leBytes 4 0 ++ leBytes 4 0x3F800000 ++ leBytes 4 0x3F800000 ++
    leBytes 4 0x3F800000 ++ leBytes 4 0x3F800000 ++ leBytes 4 0x3F800000 ++ leBytes 4 1 ++ leBytes 248 0

/-- Its region at 16384 in capability 1, its configuration in force, sample 0 running from 0 to 1 in steps of 1. -/
def sSq : State :=
  let s := (caps (st id (fun B => { B with sqCfg := some cfg1, sqReg := some (capOf 8 0x103#12 1 0 1024 1024) }) id)
    [(1, capOf 8 0x103#12 1 0 1024 1024), (2, capOf 2 0xB87#12 2 0 256 64)]).sliceWrite 4096 cfg1
  s.sliceWrite 16384 (leBytes 4 0 ++ leBytes 4 0x3F800000 ++ leBytes 4 0x3F800000 ++ leBytes 4 0 ++ leBytes 4 1)

/-- What the sequencer's instructions need. -/
def sqOk (v : Nat) (g : SqCfg → Bool) (vecs : SqCfg → List Nat → List Nat) (c : Ctx) : Bool :=
  sqNamed c v = [0] && c.trp.sq.isNone && !sSq.halting c.task.part && sSq.mem.flips.isEmpty && match sSq.sqReady c v g vecs with
    | .ok (C, r, _) => sqStatus ((⟨c.b, r, C, 0⟩ : Sq).entry sSq) = 1 && decide (bufSize c.blk.buf + 4 * (C.n + 7) ≤ 65536)
    | .error _ => false

theorem witness_SolverInstructionsActOnTheirSamples :
    (∃ c, Ready sSq c (.sqcfg (mw 0x2000)) ∧ ((sSq.capFault c (c.cap 2) [2, 8] 0x001#12).isNone &&
      decide (288 ≤ (c.cap 2).size) && !sSq.loadPoison c .slice 4096 288 &&
      (List.range 72).all fun i => (sqCfg (overlay c.blk.buf .slice 4096 (sSq.sliceRead 4096 288))).wordOk i) = true) ∧
    (sqCfg (leBytes 288 0)).wordOk 0 = false ∧
    (∃ c, Ready sSq c (.sqload (mw 0x1000)) ∧ ((sSq.capFault c (c.cap 1) [8] 0x003#12).isNone && sqNamed c 0 = [0] &&
      sSq.here (c.cap 1).at && coreOfSlice (c.cap 1).at = c.blk.core && (sqRange (c.blk.sqCfg.map sqCfg) c 0 (c.cap 1).size false).isNone &&
      !sSq.loadPoison c .slice 16384 32) = true) ∧
    (∃ c, Ready sSq c (.sqstg (mw 0)) ∧ sqOk 0 (fun C => decide (C.s < 1)) (fun _ _ => [0]) c = true) ∧
    (∃ c, Ready sSq c (.sqdec (mw 0)) ∧ sqOk 0 (fun _ => false) (fun C _ => 0 :: (List.range C.s).map (2 + ·)) c = true) ∧
    (∃ c, Ready sSq c (.sqhis (mw 0)) ∧ sqOk 0 (fun C => C.H == 0) (sqHisVecs false) c = true) := by
  refine ⟨?_, ?_, ?_, ?_, ?_, ?_⟩
  all_goals first
    | decide +kernel
    | (apply of_ready; decide +kernel)

/-! ## Other packages, links -/

theorem witness_RemoteOperationsApplyInOrder :
    sGuard.up = true ∧ sGuard.ctl.locked = false ∧ (sGuard.applyOp 3 (.store 8192 [1])).isSome = true ∧
    (1 = seqNext (sTabAbsent.lastSeq 3 (.bulk 0 1 0 false [1])) ∧ (sTabAbsent.applyOp 3 (.bulk 0 1 0 false [1])).isNone = true) ∧
    (0 + 1 = seqNext (sGuard.lastSeq 3 (.store 8192 [1, 2])) ∧ sGuard.guarded 8192 2 = false ∧
      ({ sGuard with mem := { sGuard.mem with guards := [(128, 1)] } } : State).guarded 4096 2 = true) ∧
    (1 = seqNext (sGuard.lastSeq 3 (.atomic (.slice 8192) false 0 0 [(5, 0)])) ∧ sGuard.here 8192 = true ∧ sGuard.guarded 8192 4 = false ∧
      sGuard.slicePoisoned 8192 4 = false) ∧
    (1 = seqNext (sGuard.lastSeq 3 (.message (msg1 16)))) ∧
    (let g := 4096
     let s := sGuard.sliceWrite (4096 + 24) (leBytes 4 8192)
     1 = seqNext (s.lastSeq 3 (.arrive g 1 0)) ∧ s.here g = true ∧ g % 32 = 0 ∧ sliceKey g + 32 ≤ sliceKey (s.windowWord g 3)) ∧
    (1 = seqNext (sGuard.lastSeq 3 (.expect 4096 8)) ∧ 1 = seqNext (sGuard.lastSeq 3 (.landed 4096 8 0))) ∧
    (seqNext 65535 = 1 ∧ 0 ≠ seqNext (sGuard.lastSeq 3 (.store 8192 [1])) ∧ (0 + 2 ^ 16 - 0 % 2 ^ 16) % 2 ^ 16 < 2 ^ 15) ∧
    (2 ≠ seqNext (sGuard.lastSeq 3 (.store 8192 [1])) ∧ ¬ (0 + 2 ^ 16 - 2 % 2 ^ 16) % 2 ^ 16 < 2 ^ 15) := by
  refine ⟨?_, ?_, ?_, ⟨?_, ?_⟩, ⟨?_, ?_, ?_⟩, ⟨?_, ?_, ?_, ?_⟩, ?_, ⟨?_, ?_, ?_, ?_⟩, ⟨?_, ?_⟩, ⟨?_, ?_, ?_⟩, ?_, ?_⟩ <;>
    decide +kernel

/-- An operation sent to package 5 by the block, not acknowledged. -/
def sent1 : Sent := { dst := 5, seq := 9, op := .advance 0 0, b := 1 }

/-- The entry whose bytes are in flight. -/
def runFar : Running := { run1 0x01 [(some 0, 0)] 16 with flight := 16 }

/-- That operation sent, or the landing of an entry that runs; link 2 up. -/
def sSent (x : Sent) : State := { s0 with
  eng := { sent := [x], running := [(1, runFar)] }
  ctl := { s0.ctl with links := [(2, { up := true })] } }

theorem witness_LinksRetryFailAndAbandon :
    (sSent sent1).sentAs 5 ⟨none, 8⟩ = none ∧ (sSent sent1).sentAs 5 ⟨none, 9⟩ = some sent1 ∧ (sSent sent1).ctl.reach.contains 5 = false ∧
    sent1.land = none ∧
    ((sSent sent1).blocks.find 1).isSome = true ∧ (sSent sent1).tasks.all (fun k => k.2.launch.errors = 0) = true ∧
    (sSent { sent1 with land := some (runFar.chain, runFar.seq) }).sentAs 5 ⟨none, 9⟩ = some { sent1 with land := some (runFar.chain, runFar.seq) } ∧
    (((sSent sent1).eng.running.find? fun y => y.2.chain = runFar.chain && y.2.seq = runFar.seq) = some (1, runFar)) ∧
    ({ sSent sent1 with ctl := { (sSent sent1).ctl with reach := [5] } } : State).ctl.reach.contains 5 = true ∧
    (sSent sent1).ctl.links.find 2 = some { up := true } ∧
    ({ sSent sent1 with ctl := { (sSent sent1).ctl with links := [(2, {})] } } : State).ctl.links.find 2 = some { up := false } ∧
    (sSent sent1).ctl.beats.get 0 (8 * 3 + 1) < 16 ∧ 16 ≤ ({ (sSent sent1).ctl with beats := [(25, 16)] } : Ctl).beats.get 0 (8 * 3 + 1) := by
  decide +kernel

/-! ## Blocks, graphs -/

/-- A task with one block held. -/
def sHeld : State := { s0 with blocks := [], tasks := [(1, { part := 0, launch := loadLaunch })] }

/-- The block with nothing left. -/
def sOver (g : Nat) : State := { s0 with
  blocks := s0.blocks.map fun b => (b.1, { b.2 with troupes := [] })
  tasks := [(1, { part := 0, launch := loadLaunch, next := 1, guard := g })] }

theorem witness_BlocksArePlacedEndAndReturnToIssue :
    ((sHeld.tasks.find 1).any fun K => K.bin.isNone && K.graph.isNone && K.launch.blocks = K.next + 1 && decide (K.launch.troupes ≤ 32)) =
      true ∧
    ((sHeld.ctl.parts.find 0).any fun P => sHeld.chooseCore P loadLaunch = some 0) = true ∧
    ((s0.tasks.find 1).any fun K => decide (K.launch.blocks ≤ K.next)) = true ∧
    ((sOver 4096).blocks.find 1).any (fun B => (sOver 4096).ending B 1 && ((sOver 4096).core B.core).cache.isEmpty) = true ∧
    (sOver 4096).here 4096 = true ∧ (sOver 4096).eng.gangs = [] ∧ (s0.blocks.find 1).any (fun B => !s0.ending B 1) = true ∧
    ((st id id fun T => { T with passed := 64 }).trp? 1 0).any (fun T => decide (64 ≤ T.passed)) = true ∧
    ((st id id fun T => { T with passed := 63 }).trp? 1 0).any (fun T => decide (T.passed < 64)) = true ∧
    sBulk.pageUsable 1 0 1 [0] false false = true ∧ s0.pageUsable 1 0 1 [0] false false = true ∧
    ({ sBulk with mem := { sBulk.mem with dev := Mem.write sBulk.mem.dev 0x1000 [0x02] } } : State).pageUsable 1 0 1 [0] false false =
      false ∧
    ((sBulk.modSplit 1 0 0 fun S => { S with wait := .page 0 1 [0] false false 3#32 }).waitOf 1 0 0 = .page 0 1 [0] false false 3#32) := by
  refine ⟨?_, ?_, ?_, ?_, ?_, ?_, ?_, ?_, ?_, ?_, ?_, ?_, ?_⟩ <;> decide +kernel

/-- A graph of `n` nodes at 4096, its words given; a submission ring of partition 0 at 0x2000, its record given. -/
def graph (n : Nat) : Graph :=
  { part := 0, sub := 0, nodes := 4096, count := n, super := false, serial := false, src := .ring false 0, status := 0x2010,
    indeg := [(0, 0)], ready := [0] }

/-- That graph running; its nodes' bytes. -/
def sGraph (G : Graph) (bs : List Byte) : State := { s0.sliceWrite 4096 bs with graphs := [(5, G)] }

/-- A pending submission, its record of `count` nodes. -/
def sSub (count s : Nat) : State :=
  let s1 := s0.modPart 0 fun P => { P with cfg := { P.cfg with user := 0x2000 }, queue := [⟨.ring false 0, 0, false⟩] }
  s1.sliceWrite 0x2000 (leBytes 8 4096 ++ leBytes 8 (count + 2 ^ 20 * s))

theorem witness_GraphsStartAndComplete :
    (∀ x ∈ [(0, 0), (1, 0), (1, 1)],
      ((sSub x.1 x.2).ctl.parts.find 0).any (fun P => (P.queue.head?).any fun q => (sSub x.1 x.2).subReady P q.src = some true &&
        P.subAt q.src = 0x2000 && !(sSub x.1 x.2).ctl.locked && !(sSub x.1 x.2).waAbsent 0 0x2000 32 &&
        ((sSub x.1 x.2).waRead 0 0x2000 32).isSome) = true ∧ bits ((sSub x.1 x.2).waNat 0 0x2000 32) 79 64 = x.1 ∧
        bits ((sSub x.1 x.2).waNat 0 0x2000 32) 127 85 = 0 ∧ bit ((sSub x.1 x.2).waNat 0 0x2000 32) 84 = decide (x.2 = 1)) ∧
    ((sSub 1 1).graphs.all fun g => g.2.sub ≠ 0) = true ∧
    (({ sSub 1 1 with graphs := [(5, graph 1)] } : State).graphs.any fun g => g.2.sub = 0) = true ∧
    (sGraph (graph 1) []).graphs.find 5 = some (graph 1) ∧ (graph 1).finished = false ∧
    ({ graph 1 with ready := [] } : Graph).finished = true ∧ ({ graph 1 with ended := some (1, 0) } : Graph).finished = true ∧
    ((sGraph (graph 1) []).ctl.parts.find 0).isSome = true := by
  refine ⟨?_, ?_, ?_, ?_, ?_, ?_, ?_, ?_⟩ <;> decide +kernel

/-- A node's 64 bytes: kind, in-degree, edges all absent but next, w4 to w5, w6 to w7, w8 to w15. -/
def node (kind deg next : Nat) (w4 w6 w8 w10 w12 : Nat) : List Byte :=
  leBytes 2 kind ++ leBytes 2 deg ++ leBytes 2 next ++ leBytes 6 0xFFFFFFFFFFFF ++ leBytes 4 0 ++ leBytes 8 w4 ++ leBytes 8 w6 ++
    leBytes 8 w8 ++ leBytes 8 w10 ++ leBytes 16 w12

/-- A launch descriptor at 8192: 8 registers, one troupe, one block of code object 1, a table that cannot be
read. -/
def descr (x : Nat) : List Byte := leBytes 64 (x + 2 ^ 32 + 2 ^ 64 + 2 ^ 232)

/-- A node that may start: its kind is `kind`. -/
def starts (s : State) (kind : Nat) (p : Graph → Bool) : Bool :=
  match s.graphs.find 5 with
  | some G => s.startable 5 0 && decide (s.kindOf G 0 = kind) && !s.nodeBad G 0 && p G
  | none => false

theorem of_starts {s : State} {k : Nat} {p : Graph → Bool} (h : starts s k p = true) : ∃ G, Starts s 5 0 k G ∧ p G = true := by
  unfold starts at h
  split at h
  · next G hG =>
    simp only [Bool.and_eq_true, decide_eq_true_eq, Bool.not_eq_true'] at h
    exact ⟨G, ⟨hG, h.1.1.1, h.1.1.2, h.1.2⟩, h.2⟩
  · exact absurd h (by decide)

/-- One node of a graph, with words at 8192. -/
def sNode (bs at8192 : List Byte) : State := (sGraph (graph 1) bs).sliceWrite 8192 at8192

/-- One node of a graph; object 1 of the partition in bulk, its page absent. -/
def sAway (bs : List Byte) : State :=
  let s := sGraph (graph 1) bs
  { s with mem := { s.mem with dev := sTabAbsent.mem.dev } }

/-- Whether a node's descriptor is read, or refused. -/
def reads (s : State) (bin ok : Bool) (G : Graph) : Bool :=
  match s.readLaunch 5 0 G bin with
  | some (.ok _) => ok
  | some (.error _) => !ok
  | none => false

/-- Whether a condition word is read as `w`. -/
def condIs (s : State) (w : Option Nat) (G : Graph) : Bool :=
  match s.condWord G 0 with
  | some (.ok x) => w = some x
  | some (.error _) => w = none
  | none => false

theorem witness_NodesRunAndEnd :
    (∃ G, Starts (sNode (node 1 0 0xFFFF 8192 0 0 0 0) (descr 0)) 5 0 1 G ∧
      reads (sNode (node 1 0 0xFFFF 8192 0 0 0 0) (descr 0)) false true G = true) ∧
    (∃ G, Starts (sNode (node 1 0 0xFFFF 8192 0 0 0 0) (descr (2 ^ 22))) 5 0 1 G ∧
      reads (sNode (node 1 0 0xFFFF 8192 0 0 0 0) (descr (2 ^ 22))) false false G = true) ∧
    (∃ G, Starts (sAway (node 1 0 0xFFFF (2 ^ 40) 0 0 0 0)) 5 0 1 G ∧
      ((sAway (node 1 0 0xFFFF (2 ^ 40) 0 0 0 0)).readLaunch 5 0 G false).isNone = true) ∧
    (∃ G, Starts (sAway (node 2 0 0xFFFF (2 ^ 40) 0 0 0 0)) 5 0 2 G ∧
      ((sAway (node 2 0 0xFFFF (2 ^ 40) 0 0 0 0)).condWord G 0).isNone = true) ∧
    (let s := sNode (node 7 0 0xFFFF 0 0 0 0 0) []
     s.graphs.find 5 = some (graph 1) ∧ s.startable 5 0 = true ∧ 6 < s.kindOf (graph 1) 0) ∧
    (∀ w ∈ [0, 9], ∃ G, Starts (sNode (node 2 0 0xFFFF 8192 0 0 0 0) (leBytes 4 w)) 5 0 2 G ∧
      condIs (sNode (node 2 0 0xFFFF 8192 0 0 0 0) (leBytes 4 w)) (some w) G = true) ∧
    (∃ G, Starts (sNode (node 2 0 0xFFFF 8193 0 0 0 0) []) 5 0 2 G ∧ condIs (sNode (node 2 0 0xFFFF 8193 0 0 0 0) []) none G = true) ∧
    (∀ w ∈ [0, 9], ∃ G, Starts (sNode (node 3 0 0xFFFF 8192 0 1 0 0) (leBytes 4 w)) 5 0 3 G ∧
      condIs (sNode (node 3 0 0xFFFF 8192 0 1 0 0) (leBytes 4 w)) (some w) G = true) ∧
    (let G := { graph 1 with ready := [], running := [0], loops := [0], iters := [(0, 1)] }
     let s := { sNode (node 3 0 0xFFFF 8192 0 1 0 0) (leBytes 4 9) with graphs := [(5, G)] }
     s.iterated 5 0 = true ∧ G.ended = none ∧ condIs s (some 9) G = true ∧ s.nodeNat G 0 32 8 ≤ G.iters.get 0 0) ∧
    (sGraph (graph 1) []).iterated 5 0 = false ∧
    (∀ k ∈ [0, 2], ∃ G, Starts (sNode (node 4 0 0xFFFF 8192 12288 k 0 0) []) 5 0 4 G ∧ (decide (G.engines.find 0 = none) &&
      !(sNode (node 4 0 0xFFFF 8192 12288 k 0 0) []).waAbsent 0 8192 (64 * k) &&
      ((sNode (node 4 0 0xFFFF 8192 12288 k 0 0) []).waRead 0 8192 (64 * k)).isSome &&
      (sNode (node 4 0 0xFFFF 8192 12288 k 0 0) []).here 12288 &&
      decide ((sNode (node 4 0 0xFFFF 8192 12288 k 0 0) []).chStatus 12288 % 256 = 0)) = true) ∧
    (∃ G, Starts ((sNode (node 4 0 0xFFFF 8192 12288 2 0 0) []).sliceWrite 12292 [6]) 5 0 4 G ∧
      decide (((sNode (node 4 0 0xFFFF 8192 12288 2 0 0) []).sliceWrite 12292 [6]).chStatus 12288 % 256 ≠ 0) = true) ∧
    ∃ G, Starts (sNode (node 4 0 0xFFFF 8192 (2 ^ 33) 2 0 0) []) 5 0 4 G ∧ (decide (G.engines.find 0 = none) &&
      !(sNode (node 4 0 0xFFFF 8192 (2 ^ 33) 2 0 0) []).here (2 ^ 33) &&
      !(sNode (node 4 0 0xFFFF 8192 (2 ^ 33) 2 0 0) []).waAbsent 0 8192 128 &&
      ((sNode (node 4 0 0xFFFF 8192 (2 ^ 33) 2 0 0) []).waRead 0 8192 128).isSome) = true := by
  refine ⟨?_, ?_, ?_, ?_, ⟨?_, ?_, ?_⟩, ?_, ?_, ?_, ⟨?_, ?_, ?_, ?_⟩, ?_, ?_, ?_, ?_⟩
  all_goals try simp only [List.mem_cons, List.not_mem_nil, or_false, forall_eq_or_imp, forall_eq]
  all_goals first
    | decide +kernel
    | (apply of_starts; decide +kernel)
    | (refine ⟨?_, ?_⟩ <;> (apply of_starts; decide +kernel))

/-- A gang of this package at node 0. -/
def gang1 : Gang := { task := some 1, mask := [0], want := 0, began := 0 }

/-- That gang, its clock in step at `clk`. -/
def sGang (A : Gang) (clk : DWord) : State :=
  { sGraph { graph 1 with ready := [], running := [0], gangs := [(0, A)] } [] with ctl := { s0.ctl with clk := clk, sync := true } }

/-- A GANG node of this package alone, its clock in step or not. -/
def sGangNode (sync : Bool) : State :=
  { sNode (node 5 0 0xFFFF 8192 0 1 0 0) (descr 0) with ctl := { s0.ctl with sync := sync } }

/-- A share of a gang of package 3, its start tick given. -/
def share1 (t : Option Nat) : FarGang := { src := 3, g := 9, n := 0, task := 1, start := t }

/-- That share here, its block resident or not. -/
def sShare (A : FarGang) (next : Nat) : State := { s0 with
  tasks := [(1, { part := 0, launch := loadLaunch, next := next })]
  eng := { gangs := [(7, A)] } }

theorem witness_shares :
    ((sShare (share1 none) 1).graphs.find 7).isNone = true ∧ (sShare (share1 none) 1).eng.gangs.find 7 = some (share1 none) ∧
    (sShare (share1 none) 1).shareReady (share1 none) = true ∧ (sShare (share1 none) 0).shareReady (share1 none) = false ∧
    (sShare (share1 none) 1).shareDue (share1 none) = false ∧ (sShare (share1 (some 0)) 1).shareDue (share1 (some 0)) = true := by
  decide +kernel

/-- Whether the launch of a node has more blocks than the four cores of the partition take. -/
def tooMany (s : State) (G : Graph) : Bool :=
  match s.readLaunch 5 0 G false with
  | some (.ok K) => decide (K.launch.perCore * 4 < K.launch.blocks)
  | _ => false

theorem witness_gangs :
    (∀ sync ∈ [true, false], ∃ G, Starts (sGangNode sync) 5 0 5 G ∧
      (reads (sNode (node 5 0 0xFFFF 8192 0 1 0 0) (descr 0)) false true G &&
        maskPkgs ((sNode (node 5 0 0xFFFF 8192 0 1 0 0) (descr 0)).nodeNat G 0 32 8) = [0] &&
        (({ s0 with ctl := { s0.ctl with sync := sync } } : State).unsynced 0 != sync)) = true) ∧
    (∃ G, Starts (sNode (node 5 0 0xFFFF 8192 0 0 0 0) (descr 0)) 5 0 5 G ∧
      (reads (sNode (node 5 0 0xFFFF 8192 0 0 0 0) (descr 0)) false true G &&
        maskPkgs ((sNode (node 5 0 0xFFFF 8192 0 0 0 0) (descr 0)).nodeNat G 0 32 8) = []) = true) ∧
    (∃ G, Starts (sNode (node 5 0 0xFFFF 8192 0 1 0 0) (descr (2 ^ 32 * 1000))) 5 0 5 G ∧
      tooMany (sNode (node 5 0 0xFFFF 8192 0 1 0 0) (descr (2 ^ 32 * 1000))) G = true) ∧
    (sGang { gang1 with ready := [0] } 2000).gangDue { gang1 with ready := [0] } = true ∧ gang1.ended = [] ∧ gang1.mask ≠ [] ∧
    ((sGang gang1 0).graphs.find 5).any (fun G => G.gangs.find 0 = some gang1) = true ∧ (sGang gang1 0).gangResident gang1 = true ∧
    (sGang gang1 0).gangDue gang1 = false ∧ (sGang gang1 2000).gangDue { gang1 with ready := [0] } = true ∧
    (sGang gang1 1999).gangDue { gang1 with ready := [0] } = false ∧ (sGang gang1 999999).gangLate gang1 0 = false ∧
    (sGang gang1 1000000).gangLate gang1 0 = true ∧ 1 ∉ gang1.mask := by
  refine ⟨?_, ?_, ?_, ?_, ?_, ?_, ?_, ?_, ?_, ?_, ?_, ?_, ?_, ?_⟩
  case refine_2 | refine_3 => apply of_starts; decide +kernel
  case refine_1 =>
    intro sync hs
    simp only [List.mem_cons, List.not_mem_nil, or_false] at hs
    obtain rfl | rfl := hs <;> (apply of_starts; decide +kernel)
  all_goals decide +kernel

/-- A BIN node: its words w8 and w9. -/
def sBinNode (w : Nat) : State := sNode (node 6 0 0xFFFF 8192 0 w 0 0) (descr 0)

theorem witness_GangsAndBinsAreArmed :
    ((sGang gang1 0).gangResident gang1 = true ∧ (sGang gang1 0).gangDue gang1 = false ∧
      (sGang gang1 999999).gangLate gang1 0 = false ∧ (sGang gang1 1000000).gangLate gang1 0 = true) ∧
    ((sShare (share1 none) 1).shareReady (share1 none) = true ∧ (sShare (share1 (some 0)) 1).shareDue (share1 (some 0)) = true) ∧
    (∀ w ∈ [0, 2 ^ 37, 33 * 2 ^ 32, 2 ^ 37 + 2 ^ 20], ∃ G, Starts (sBinNode w) 5 0 6 G ∧
      (reads (sBinNode w) true true G && decide ((sBinNode w).nodeNat G 0 36 4 = w / 2 ^ 32)) = true) ∧
    (s0.ctl.parts.find 0).any (fun P => P.cores.contains 0 && !P.cores.contains 16) = true ∧
    (sBin (bin1 0)).bin 0 0 = some (bin1 0) := by
  refine ⟨⟨?_, ?_, ?_, ?_⟩, ⟨witness_shares.2.2.1, witness_shares.2.2.2.2.2⟩, ?_, ?_, ?_⟩
  case refine_5 =>
    intro w hw
    simp only [List.mem_cons, List.not_mem_nil, or_false] at hw
    obtain rfl | rfl | rfl | rfl := hw <;> (apply of_starts; decide +kernel)
  all_goals decide +kernel

/-! ## Host and Dycor -/

/-- A partition that keeps Table 9.5's limits. -/
def goodPart : PartCfg := { loadPart with status := 0x4000 }

/-- A session open; partition 0 as changed. -/
def sHost (f : Part → Part) : State := (s0.modPart 0 f).modCtl fun C => { C with session := true }

theorem witness_ManagementCommandsAnswer :
    s0.ctl.session = false ∧ (sHost id).ctl.session = true ∧
    ((sHost fun P => { P with alarmed := true }).ctl.parts.find 0).any (fun P => P.alarmed) = true ∧
    (sHost id).ctl.attested = false ∧ ((sHost id).ctl.parts.find 0).any (fun P => !P.alarmed && !P.halted && !P.gate) = true ∧
    (sHost id).up = true ∧ (({ sHost id with ctl := { (sHost id).ctl with stage := 5 } } : State).up = false) ∧
    ((sHost id).changed loadPart).any (sHost id).resident = true ∧
    (let s := { sHost id with blocks := [] }
     (s.changed goodPart).any s.resident = false ∧ s.cfgBad goodPart = false ∧ s.cfgBad { goodPart with lenU := 3 } = true ∧
       s.cfgBad { goodPart with quads := [336] } = true ∧ s.cfgBad { goodPart with part := 16 } = true) ∧
    ((sHost fun P => { P with cfg := { P.cfg with slots := [1] } }).ctl.parts.find 0).any (fun P => P.cfg.slots.contains 1) = true ∧
    ((sHost fun P => { P with halted := true }).ctl.parts.find 0).any (fun P => P.halted && P.cores.all fun k =>
      ((sHost fun P => { P with halted := true }).core k).mat.tiles.isEmpty) = true ∧
    ((sHost fun P => { P with gate := true }).ctl.parts.find 0).any (fun P => P.gate) = true ∧
    ((sHost id).trp? 1 0).isSome = true ∧ ((sHost id).blocks.find 1).any (fun B => (((sHost id).tasks.find B.task).map Task.part) = some 0) =
      true ∧
    (((sHost id).modTrp 1 0 fun T => { T with stopped := true }).trp? 1 0).any (fun T => T.stopped && (T.splits.find 0).isSome) =
      true ∧
    ((sHost fun P => { P with halting := true }).ctl.parts.find 0).any (fun P => P.halting) = true ∧
    (((sHost fun P => { P with halting := true }).partOf 0 = some 0) ∧
      ((sHost fun P => { P with halting := true }).core 0).mat.queue = []) ∧
    ({ sHost id with ctl := { (sHost id).ctl with links := [(3, {})] } } : State).ctl.links.find 3 = some {} := by
  refine ⟨?_, ?_, ?_, ?_, ?_, ?_, ?_, ?_, ⟨?_, ?_, ?_, ?_, ?_⟩, ?_, ?_, ?_, ?_, ?_, ?_, ?_, ?_, ?_⟩ <;> decide +kernel

/-- An event of the block's partition, and one of the package. -/
def ev (code : Nat) : Event := ⟨9, 5, code, 0, 0, 0⟩

/-- Events waiting; the ring of partition 0 at 0x3000, of `cap` records. -/
def sEv (cap : Nat) (e : Event) : State :=
  (s0.modPart 0 fun P => { P with cfg := { P.cfg with events := 0x3000, eventCap := cap, user := 0x2000 } }).modCtl fun C =>
    { C with events := [e] }

theorem witness_EventsDoorbellsAndAlarms :
    ((sEv 4 (ev 1)).ctl.events.find? fun e => e.src = 9) = some (ev 1) ∧ (sEv 4 (ev 1)).eventRoom (ev 1) = true ∧
    (sEv 0 (ev 1)).eventRoom (ev 1) = false ∧ (ev 6).package = true ∧ (ev 1).package = false ∧ (sEv 0 (ev 6)).eventRoom (ev 6) = true ∧
    ((sEv 4 (ev 1)).ctl.parts.find 0).any (fun P => P.cfg.user ≠ 0 && P.cfg.super = 0 && P.tailU = 0 &&
      decide ((2#32 - P.headU).toNat ≤ P.cfg.lenU) && decide (P.cfg.lenU < (3#32 - P.headU).toNat)) = true ∧
    (sEv 4 (ev 1)).up = true ∧ (sEv 4 (ev 1)).ctl.locked = false := by
  refine ⟨?_, ?_, ?_, ?_, ?_, ?_, ?_, ?_, ?_⟩ <;> decide +kernel

theorem witness_SessionsClockPowerAndBringup :
    (State.reset.ctl.stage = 0 ∧ s0.ctl.stage ≠ 0 ∧ State.reset.ctl.failed = none) ∧
    (∀ k ∈ [1, 2, 3, 4, 5], ({ State.reset.ctl with stage := k } : Ctl).stage ≤ 5) ∧
    (State.reset.up = false ∧ s0.up = true ∧ 5 ≤ s0.ctl.stage ∧ s0.ctl.master = s0.ctl.pkg ∧ State.reset.ctl.stage < 5 ∧
      s0.ctl.lost = false ∧ s0.ctl.spdm.filter (· ≠ 0) = []) ∧
    (let c : Ctl := { State.reset.ctl with master := 0, pkg := 2, pods := 4, reach := [3] }
     ((List.range c.pods).find? fun q => decide (c.master < q) && (q = c.pkg || c.reach.contains q)) = some 2) ∧
    (([8, 3, 2, 1] : List Nat).filter (· ≠ 0)).takeWhile (· ≠ 1) = [8, 3, 2] ∧ (([2, 1, 0] : List Nat).filter (· ≠ 0)).head? = some 2 := by
  refine ⟨⟨?_, ?_, ?_⟩, ?_, ⟨?_, ?_, ?_, ?_, ?_, ?_, ?_⟩, ?_, ?_, ?_⟩ <;> decide +kernel

/-! ## Second forms of the statements' hypotheses -/

theorem witness_StepRunsTheDecodedInstruction_again :
    ({ sIssue 0x00030102 with cores := [(0, { again := [(0, (0, 1, 0))] })] } : State).choice =
      some (.again 0 0 0 (1, 0) []) := by decide +kernel

/-- Return points that differ: lane 31 returns to word 9, the others to word 7. -/
def sRets : State := st id id fun T => { T with
  ret := (List.range 32).map fun l => (l, [if l = 31 then 9#32 else 7#32]) }

/-- No hardware entry free: entry 0 has lanes 0 to 30, the other seven none. -/
def sNoEntry : State := st id id fun T => { T with
  regs := { T.regs with p := [(1, 1#32)] }
  splits := T.splits ++ (List.range 7).map fun e => (e + 1, ⟨0, 0, 0, 0, .ready, none⟩) }

theorem witness_ReturnsAndBranchesDivide :
    (∃ c, Ready sRets c (.ret (ur 0 0 0 0)) ∧ ((lanesOf c.sp.own).all (fun l => !(c.trp.ret.get [] l).isEmpty) &&
      (((lanesOf c.sp.own).map fun l => (c.trp.ret.get [] l).headD 0).eraseDups = [7#32, 9#32])) = true) ∧
    ∃ c, Ready sNoEntry c (.brd (ub 1 false 2)) ∧
      (decide (c.sp.em &&& c.trp.lm &&& c.predMask 1 ≠ 0) && decide (c.sp.own &&& ~~~(c.sp.em &&& c.trp.lm &&& c.predMask 1) ≠ 0) &&
        c.trp.freeEntry.isNone) = true := by
  refine ⟨?_, ?_⟩ <;> (apply of_ready; decide +kernel)

theorem witness_CrossLaneExecutesWithItsValues_tree (m : Mask) (v : Nat → Nat × Nat) (op ty : Nat) :
    ∃ tree : Nat → Nat → Nat × Flags,
      (∀ i, tree 0 i = (if i < 32 ∧ m.getLsbD i = true then (v i).1 else redIdent op ty, 0)) ∧
      ∀ n i, tree (n + 1) i =
        let x := tree n i
        let y := tree n (i + 2 ^ n)
        let z := redStep op ty x.1 y.1
        (z.1, z.2 ||| x.2 ||| y.2) :=
  ⟨fun n => n.rec (fun i => (if i < 32 ∧ m.getLsbD i = true then (v i).1 else redIdent op ty, 0))
    fun n t i => ((redStep op ty (t i).1 (t (i + 2 ^ n)).1).1,
      (redStep op ty (t i).1 (t (i + 2 ^ n)).1).2 ||| (t i).2 ||| (t (i + 2 ^ n)).2), fun _ => rfl, fun _ _ => rfl⟩

/-- Troupe 0's windows with a unit of lane 31 that cannot be corrected. -/
def sPriv : State := st id (fun B => { B with privPoison := [2048 * 31] }) id

theorem witness_LocalAndArgumentLoads_poison : ∃ c, Ready sPriv c (.ldl (lw 4 0 0 0 0)) ∧
    (c.blk.privFlips.isEmpty && fits (lw 4 0 0 0 0) 16384 true c (c.guarded (.ldl (lw 4 0 0 0 0))) &&
      decide ((lanesOf (c.guarded (.ldl (lw 4 0 0 0 0)))).find? (fun l =>
        (unitsOf 8 (16384 * (32 * c.t + l) + (offs (lw 4 0 0 0 0) c l).toNat) 4).any c.blk.privPoison.contains) = some 31)) = true :=
  of_ready (by decide +kernel)

/-- A bulk load in flight, of the first words of the object's page. -/
def sLoadB (q : Option Nat) : State :=
  { sBulk with mem := { sBulk.mem with tlb := [(tlbKey 0 0 1 0 0, ⟨0x4000, true⟩)] } }.modTrp 1 0 fun T => { T with
    loads := [(5, ⟨.bulk, [(31, bulkKey 0 1 0 0)], 4, true, 1, 3, q, 0, false⟩)] }

/-- What a return of load 5 meets: whether its places are poisoned. -/
def meetsBad (s : State) : Bool := (s.blocks.find 1).any fun B => (B.troupes.find 0).any fun T => (T.loads.find 5).any fun L =>
  L.lanes.any fun x => s.placePoison B.buf B.core L.space x.2 L.size

theorem witness_ReturningLoadsFillTheirRegisters_bulk :
    meetsBad (hurt (sLoads none) 512) = true ∧ meetsBad (sLoads none) = false ∧ meetsBad (sLoadB none) = false ∧
    ((sLoadB none).keyRead 0 (bulkKey 0 1 0 0) 128).any (fun x => decide (x.2 = sLoadB none)) = true ∧
    bulkKey 0 1 0 0 % 128 + 4 ≤ 128 ∧ ((sLoadB none).core 0).cache = [] := by
  refine ⟨?_, ?_, ?_, ?_, ?_, ?_⟩ <;> decide +kernel

/-- One live lane, and 64 KiB buffered at other places. -/
def sBufFull : State := only31 (sSlice.modBlk 1 fun B => { B with
  buf := [(5, { space := .slice, addr := 2 ^ 20, data := List.replicate 65536 0 })] })

/-- A committed bulk store. -/
def sDrainB : State := sBulk.modBlk 1 fun B => { B with
  buf := [(5, { space := .bulk, addr := bulkKey 0 1 0 0, data := [1, 2, 3, 4], committed := true })] }

theorem witness_StoresAreBufferedAndDrain_bulk :
    (∃ c, Ready sBufFull c (.sts (lw 0 2 1 0 0)) ∧ (sharedOk sBufFull (.sts (lw 0 2 1 0 0)) (lw 0 2 1 0 0) .slice false true c &&
      decide (((lw 0 2 1 0 0).offsets c (c.guarded (.sts (lw 0 2 1 0 0))) 4).length = 1) &&
      (bufTouch c.blk.buf .slice 4096 4).isEmpty && decide (65536 < bufSize c.blk.buf + 4)) = true) ∧
    (sDrainB.blocks.find 1).any (fun B => (B.buf.find 5).any fun e => drains B.buf 5 e && B.fences.isEmpty &&
      !sDrainB.unacked 1 (fun x => decide (x.epoch < e.epoch)) && !(sDrainB.obj (keyPart e.addr) (keyObj e.addr)).t &&
      (sDrainB.core B.core).cache.isEmpty) = true := by
  refine ⟨?_, ?_⟩
  · apply of_ready; decide +kernel
  · decide +kernel

theorem witness_PrefetchOnlyFillsTheCache_lines :
    (sBulk1.keyRead 0 (bulkKey 0 1 0 0) 128).any (fun x => decide (x.2 = sBulk1)) = true ∧
    (sBulk1.pageOf 0 (bulkKey 0 1 0 0) 4 true).isNone = true := by
  refine ⟨?_, ?_⟩ <;> decide +kernel

theorem witness_GuardsCountArrivals_below :
    (⟨0, 2, 1, -4, 4, false⟩ : GState).bytes ≤ 0 ∧ (⟨0, 2, 0, -4, 4, false⟩ : GState).bytes ≤ 0 ∧
    (⟨0, 2, 0, 8, 16, false⟩ : GState).bytes - (16 : Nat) ≤ 0 ∧ 0 < (⟨0, 2, 1, 8, 16, false⟩ : GState).pending ∧
    (⟨0, 2, 0, -8, 16, false⟩ : GState).bytes + (8 : Nat) ≤ 0 ∧ (-2 ^ 31 : Int) ≤ 16 + (8 - 16) ∧ (16 + (8 - 16) : Int) < 2 ^ 31 := by
  refine ⟨?_, ?_, ?_, ?_, ?_, ?_, ?_⟩ <;> decide

/-- The guard's words hurt, from unit `u` of 8 bytes after its first. -/
def sGuardBad (u : Nat) : State := hurt sGuard (512 + u)

/-- The guard's list of `n` entries, each of its own region, the first that of capability 2 for `j` 0. -/
def sBound (n j : Nat) : State := (sGuard2.sliceWrite 4116 (leBytes 4 (n * 2 ^ 22 + 4384))).sliceWrite (4096 + 288)
  ((List.range 8).flatMap fun k => leBytes 16 ((bindOf (capOf 2 0xB87#12 2 0 512 256)) + k + j))

theorem witness_GuardInstructionsTrap :
    (∃ c, Ready (sGuardBad 0) c (.arrive (uw 0 0 0 0 0x1001)) ∧ (guardOk (sGuardBad 0) 0x008#12 c &&
      (sGuardBad 0).slicePoisoned 4096 16) = true) ∧
    (∃ c, Ready (sGuardBad 1) c (.expect (uw 0 1 0 0 0x1000)) ∧ (guardOk (sGuardBad 1) 0x008#12 c &&
      (sGuardBad 1).slicePoisoned 4096 16) = true) ∧
    (∃ c, Ready (sGuardBad 2) c (.gflg (uw 0 0 0 0 0x1100)) ∧ (guardOk (sGuardBad 2) 0x008#12 c &&
      (sGuardBad 2).slicePoisoned 4112 2) = true) ∧
    (∃ c, Ready (sGuardBad 3) c (.ginit (uw 0 1 2 0 0x1000)) ∧ (guardOk (sGuardBad 3) 0x200#12 c &&
      (sGuardBad 3).slicePoisoned 4124 2) = true) ∧
    (∃ c, Ready (sGuard.sliceWrite 4124 [1]) c (.ginit (uw 0 1 2 0 0x1000)) ∧ (guardOk (sGuard.sliceWrite 4124 [1]) 0x200#12 c &&
      decide ((sGuard.sliceWrite 4124 [1]).sliceNat 4124 2 ≠ 0)) = true) ∧
    (∃ c, Ready (sBound 8 1) c (.gbind (uw 0 0 0 0 0x201000)) ∧ (guardOk (sBound 8 1) 0x200#12 c &&
      ((sBound 8 1).capFault c (c.cap 2) [1, 2] 0x200#12).isNone && !(sBound 8 1).listPoisoned 4096 &&
      decide (8 ≤ (sBound 8 1).bound 4096) && (List.range 8).all fun i => decide ((sBound 8 1).bindEntry 4096 i ≠ bindOf (c.cap 2))) =
      true) ∧
    (∃ c, Ready (sBound 8 0) c (.gbind (uw 0 0 0 0 0x201000)) ∧ (guardOk (sBound 8 0) 0x200#12 c && !(sBound 8 0).listPoisoned 4096 &&
      decide ((sBound 8 0).bindEntry 4096 0 = bindOf (c.cap 2))) = true) ∧
    (∃ c, Ready (sBound 2 0) c (.gunb (uw 0 0 0 0 0x201000)) ∧ (guardOk (sBound 2 0) 0x200#12 c && (sBound 2 0).bound 4096 = 2 &&
      ((sBound 2 0).capFault c (c.cap 2) [1, 2] 0x200#12).isNone && (sBound 2 0).bindList 4096 = 4096 + 288) = true) ∧
    (∃ c, Ready (sGuardBad 2) c (.gunb (uw 0 0 0 0 0x1100)) ∧ (guardOk (sGuardBad 2) 0x200#12 c &&
      (sGuardBad 2).slicePoisoned 4116 4) = true) ∧
    (∃ c, Ready (sGuardBad 0) c (.wait (uw 0 0 0 0 0x1100)) ∧ (((sGuardBad 0).waitFault c (c.cap 1)).isNone &&
      !c.blk.arriving 4096 && (sGuardBad 0).slicePoisoned 4096 4) = true) ∧
    (∃ c, Ready (sGuardBad 0) c (.tryw (uw 7 1 2 0 0x1000)) ∧ (((sGuardBad 0).waitFault c (c.cap 1)).isNone &&
      !c.blk.arriving 4096 && (sGuardBad 0).slicePoisoned 4096 4) = true) ∧
    ((hurt (sParked (.guard 4096 0)) 512).waitOf 1 0 0 = .guard 4096 0 ∧ (hurt (sParked (.guard 4096 0)) 512).slicePoisoned 4096 4 = true) := by
  refine ⟨?_, ?_, ?_, ?_, ?_, ?_, ?_, ?_, ?_, ?_, ?_, ?_, ?_⟩
  all_goals first
    | decide +kernel
    | (apply of_ready; decide +kernel)

/-- No store left and a separator's write-back owed. -/
theorem witness_FencesCommitsAndReleases_owed :
    ∃ c, Ready (s0.modBlk 1 fun B => { B with epoch := 1, fences := [0] }) c (.commit (uw 0 0 0 0 0)) ∧
      (c.blk.unreach.isNone && c.blk.buf.isEmpty && !c.blk.fences.isEmpty) = true := of_ready (by decide +kernel)

/-- The payload's region in another package. -/
def sRecvFar : State :=
  { sChan 1 1 0 16 with blocks := ((sChan 1 1 0 16).modTrp 1 0 fun T => { T with
      regs := { T.regs with c := T.regs.c.put 1 (capOf 2 0xB87#12 1 0 (2 ^ 29 + 256) 256) } }).blocks }

theorem witness_CapabilityAndChainWordsStop :
    (∃ c, Ready (sTab (entry1 + 2 ^ 129 + 14 * 2 ^ 130)) c (.cinf (uw 3 0 0 0 0x1007)) ∧ (decide ((c.cap 1).kind ≠ 0) &&
      ((sTab (entry1 + 2 ^ 129 + 14 * 2 ^ 130)).capFault c (c.cap 1) [(c.cap 1).kind] 0x000#12).isNone) = true) ∧
    (∃ c, Ready (withCap s0 (capOf 2 0xB87#12 1 0 256 256)).stir c (.cinf (uw 3 0 0 0 0x2007)) ∧ decide ((c.cap 2).kind = 0) = true) ∧
    (let s := sSlice.modTrp 1 0 fun T => { T with regs := { T.regs with c := T.regs.c.put 1 (capOf 2 0xB87#12 1 7 256 256) } }
     ∃ c, Ready s c (.cinf (uw 3 0 0 0 0x1007)) ∧ (decide ((c.cap 1).kind ≠ 0) &&
      (s.capFault c (c.cap 1) [(c.cap 1).kind] 0x000#12).isSome) = true) ∧
    (∃ c, Ready (hurt (sChan 0 1 0 16) 4) c (.recv (uw 3 1 2 0 0x102000)) ∧ ((hurt (sChan 0 1 0 16) 4).waPoisoned 0
      ((hurt (sChan 0 1 0 16) 4).chanAt 0 2) 16 && ((hurt (sChan 0 1 0 16) 4).waLacks 0 0 ((hurt (sChan 0 1 0 16) 4).chanAt 0 2) 16
        false).isEmpty) = true) ∧
    (∃ c, Ready sRecvFar c (.recv (uw 3 1 2 0 0x102000)) ∧ (recvOk sRecvFar c && sRecvFar.hasMsg 0 2 &&
      !sRecvFar.here (sRecvFar.capSlice (c.cap 1) 0) && !sRecvFar.waPoisoned 0 16400 16 && !sRecvFar.waPoisoned 0 16416 16 &&
      (sRecvFar.waRead 0 16416 16).isSome) = true) ∧
    (∃ c, Ready (hurt (sChain 0 4032) 513) c (.eapp (uw 3 1 0 0 0x201000)) ∧
      (((hurt (sChain 0 4032) 513).objFault c (c.cap 1) [6] 0x400#12 64).isNone && (hurt (sChain 0 4032) 513).slicePoisoned 4104 8) = true) ∧
    (∃ c, Ready (hurt (sChain 2 2) 513) c (.eadv (uw 0 1 0 0 0x1000)) ∧
      (((hurt (sChain 2 2) 513).objFault c (c.cap 1) [6] 0x400#12 64).isNone && (hurt (sChain 2 2) 513).slicePoisoned 4104 16) = true) ∧
    (let s : State := { sPubFar with mem := sFarBulk.mem }
     s.waitOf 1 0 0 = .pub (capOf 1 0xB87#12 1 0 0 256) ∧ s.landing 0 (capOf 1 0xB87#12 1 0 0 256) = false ∧ (s.obj 0 1).tier = 3) ∧
    (let s : State := { s0 with eng := { sent := [{ dst := 1, seq := 1, op := .pub 0 7, b := 0 }] } }
     ∃ x ∈ s.eng.sent, x.op = .pub 0 7 ∧ x.dst = 1) := by
  refine ⟨?_, ?_, ?_, ?_, ?_, ?_, ?_, ⟨?_, ?_, ?_⟩, ?_⟩
  all_goals first
    | decide +kernel
    | exact ⟨_, List.mem_cons_self, rfl, rfl⟩
    | (apply of_ready; decide +kernel)

/-- An allreduce whose entry has still to start: its member is meeting the token's attempt on its guard, at 32768. -/
def sUnstarted : State :=
  let s := sEng 3 (entWord 0x20 0 0 0 0)
  { s with eng := { s.eng with owners := s.eng.owners.map fun o => { o with taken := false } } }

theorem witness_CollectiveMembersAbort_unstarted :
    (sUnstarted.eng.running.isEmpty && sUnstarted.eng.owners.any fun o => !o.taken && sUnstarted.here o.chain &&
      let r := sUnstarted.unstarted o (sUnstarted.sliceNat o.entry 1) (Entry.ofBytes (sUnstarted.sliceRead o.entry 64))
      decide (0x20 ≤ r.op ∧ r.op ≤ 0x23 ∧ r.e.gid = 0 ∧ r.e.attempt = 0 ∧ dieOf (coreOfSlice r.chain) = 0) &&
        r.guard = some 32768 && sUnstarted.here 32768 && sUnstarted.sliceNat (32768 + 18) 2 = 0) = true := by
  decide +kernel

/-- A relation object at 4096 in capability 1, its header and its rows given, and an instance of one row open on it. -/
def sRows (i : Instr) (bs : List Byte) : State :=
  (withCap (sInst i 1#32 fun T => { T with lm := 1#32, splits := T.splits.map fun p => (p.1, { p.2 with own := 1, em := 1 })
                                           inst := T.inst.map fun I => { I with arrived := [(0, 1#32)] } })
    (capOf 5 0x103#12 1 0 256 256)).sliceWrite 4096 bs

/-- Its header: rows used, capacity 8, two buckets, keys of one word and payloads of one; its bucket 0 and its row 0. -/
def rel1 (used bucket : Nat) : List Byte :=
  leBytes 4 used ++ leBytes 4 8 ++ leBytes 4 1 ++ leBytes 4 1 ++ leBytes 48 0 ++ leBytes 4 bucket ++ leBytes 4 bucket ++
    leBytes 8 0 ++ leBytes 8 0 ++ leBytes 4 7

/-- The premises that BUILD and JOIN of one row share. -/
def opens1 (s : State) : Bool := (s.blocks.find 1).any fun B => (B.troupes.find 0).any fun T => (s.tasks.find B.task).any fun K =>
  let r := T.regs.c.get {} 1
  (s.capCheck B.core K r [5] 3 = none) && decide ((s.obj K.part r.obj).kind ≠ 1) && s.mem.shadows.isEmpty && s.mem.flips.isEmpty &&
    s.mem.slicePoison.isEmpty && B.buf.isEmpty && decide (r.at = 4096 ∧ s.sliceNat 4096 4 ≤ s.sliceNat 4100 4 ∧
      s.sliceNat 4100 4 = 8 ∧ s.sliceNat 4104 4 = 1 ∧ s.sliceNat 4108 4 = 1 ∧ 64 + 16 + 4 * 8 * 3 ≤ r.size) &&
    ((List.range 16).all fun i => i < 4 || s.sliceNat (4096 + 4 * i) 4 = 0) && s.mem.guards.isEmpty &&
    T.inst.any (fun I => I.started && !I.block && I.size = 2 && I.arrived = [(0, T.lm)]) && T.lm = 1#32 &&
    decide (1 < K.launch.regs ∧ K.launch.regs ≤ 128) && B.cursor.isNone

theorem witness_CompletedInstancesChangeTheRows_relations :
    opens1 (sRows (.build (uw 0 0 0 0 0x1000)) (rel1 0 0)) = true ∧ opens1 (sRows (.build (uw 0 0 0 0 0x1000)) (rel1 1 1)) = true ∧
    opens1 (sRows (.build (uw 0 0 0 0 0x1000)) (rel1 8 1)) = true ∧
    opens1 (sRows (.join (uw 0 0 0 0 0x1000)) (rel1 1 1)) = true ∧ opens1 (sRows (.join (uw 0 0 0 0 0x1800)) (rel1 0 0)) = true ∧
    (let s := sRows (.join (uw 0 0 0 0 0x1000)) (rel1 1 1)
     s.sliceNat (4096 + 64) 4 = 1 ∧ s.sliceNat (4096 + 80) 4 = 0 ∧ s.sliceNat (4096 + 84) 4 = 0) ∧
    (let s := sRows (.join (uw 0 0 0 0 0x1800)) (rel1 0 0)
     s.sliceNat (4096 + 64) 4 = 0) := by
  refine ⟨?_, ?_, ?_, ?_, ?_, ?_, ?_⟩ <;> decide +kernel

theorem witness_BinsTakeRecordsAndLaunch_count :
    (∃ c, Ready ((sBin (bin1 31)).modTrp 1 0 fun T => { T with lm := 1#32 }) c (.post (uw 0 0 0 0 0x1000)) ∧
      (c.blk.unreach.isNone && ((sBin (bin1 31)).capFault c (c.cap 1) [7] 0x020#12).isNone && c.blk.buf.isEmpty &&
        decide ((lanesOf c.active).length = 1) && ((sBin (bin1 31)).blocks.find (sBin (bin1 31)).fresh).isNone &&
        (bin1 31).held.length + 1 = (bin1 31).count && (sBin (bin1 31)).binCore 0 c.task = some 0) = true) ∧
    ∃ c, Ready ((sBin (bin1 0)).modSplit 1 0 0 fun S => { S with em := 0 }) c (.post (uw 0 0 0 0 0x1000)) ∧
      (decide (c.active = 0) && c.blk.unreach.isNone && c.blk.buf.isEmpty &&
        ((sBin (bin1 0)).capFault c (c.cap 1) [7] 0x020#12).isNone) = true := by
  refine ⟨?_, ?_⟩ <;> (apply of_ready; decide +kernel)

theorem witness_MatrixUnitsAreGrantedAndReleased_waits :
    (∃ c, Ready (sMat fun U => { U with queue := [full] }) c (.mrel (mw 0)) ∧
      (let U := (sMat fun U => { U with queue := [full] }).unit c.blk.core
       decide (U.holder = some c.b ∧ U.queue.length < 4 ∧ U.queue ≠ [])) = true) ∧
    ∃ c, Ready (sMat fun U => { U with queue := List.replicate 4 full }) c (.mrel (mw 0)) ∧
      (let U := (sMat fun U => { U with queue := List.replicate 4 full }).unit c.blk.core
       decide (U.holder = some c.b ∧ 4 ≤ U.queue.length)) = true := by
  refine ⟨?_, ?_⟩ <;> (apply of_ready; decide +kernel)

/-- A queued instruction with a source and a second capability. -/
def mop2 (i : Instr) (src src2 : CapReg) (plans : List (Nat × Nat × List Nat)) : MatOp :=
  { mop i 1 noLabels with src := src, src2 := src2, plans := plans }

/-- The plain region of capability 2, and the tiled one of capability 1. -/
def reg1 : CapReg := capOf 2 0xB87#12 1 0 256 1024
def reg2 : CapReg := capOf 2 0xB87#12 2 0 4096 4096

theorem witness_QueuedMatrixInstructionsComplete_all :
    (∀ m ∈ [mop2 (.mldb (mw 0x2000)) reg2 {} [], mop2 (.mldb (mw 0x2000)) reg2 reg2 [], mop2 (.mlda (mw 0x2000)) reg2 {} [],
      mop2 (.mmas (mw 0x1000)) {} {} [(0, 1, noLabels.set 0 1)], mop2 (.qmma (mw 0)) {} {} [(0, 1, noLabels.set 0 1)],
      mop2 (.scacc sc1) reg2 reg2 [(0, 2, noLabels.set 0 1)], mop2 (.bind (mw 0x1008)) reg1 reg2 [],
      mop2 (.slfl (mw 0x1000)) reg1 {} []],
      let s := sMat fun U => { U with queue := [m], quad := true }
      (s.unit 0).queue = m :: [] ∧ ((s.blocks.find m.b).any fun B => (s.tasks.find B.task).isSome) = true ∧ s.replaying 0 = false ∧
        (s.unit 0).step = (0, 0, 0) ∧ (s.unit 0).guard = none ∧ m.ran = false ∧ s.unacked m.b (fun _ => true) = false ∧
        (∀ k ∈ quadUnits true 0, (s.unit k).upset = []) ∧ s.mem.flips = [] ∧ s.mem.slicePoison = [] ∧ s.mem.skew = [] ∧
        m.acts = [] ∧ m.rows ≠ 0 ∧ ((s.unit 0).tile 0).skew = [] ∧ ∀ l ∈ List.range 16, labelAt ((s.unit 0).tile 0).map l ≠ 15) ∧
    reg1.kind = 2 ∧ reg2.kind = 2 ∧ (sMat id).here ((sMat id).capSlice reg1 0) = true ∧
    sliceKey ((sMat id).capSlice reg1 0) + mixBytes 2 ≤ 2 ^ 33 ∧ (mw 0x10).mx = false := by
  refine ⟨?_, ?_, ?_, ?_, ?_, ?_⟩ <;> decide +kernel

theorem witness_TilesAreReadAndSummed_poison :
    (∃ c, Ready (hurt (sMat id) 512) c (.ckgen (mw 0x1000)) ∧ (((hurt (sMat id) 512).ckFault c (c.cap 1) 0x002#12 none).isNone &&
      (bufTouch c.blk.buf .slice 4096 16384).isEmpty && (hurt (sMat id) 512).slicePoisoned 4096 16384) = true) ∧
    ∃ c, Ready (hurt (sMat id) 512) c (.ckver (mw 0x1000)) ∧ (((hurt (sMat id) 512).ckFault c (c.cap 1) 0x001#12 none).isNone &&
      (hurt (sMat id) 512).slicePoisoned 4096 16384) = true := by
  refine ⟨?_, ?_⟩ <;> (apply of_ready; decide +kernel)

/-- A partition that halts; the configuration and the region of the solver as before. -/
def sSqHalt : State := sSq.modPart 0 fun P => { P with halting := true }

theorem witness_SolverInstructionsActOnTheirSamples_halt : ∀ i ∈ [Instr.sqload (mw 0x1000), .sqstg (mw 0), .sqdec (mw 0), .sqhis (mw 0)],
    ∃ c, Ready sSqHalt c i ∧ (c.trp.sq.isNone && c.trp.run.isNone && sSqHalt.halting c.task.part &&
      decide ((sqNamed c 0).length = 1)) = true := by
  simp only [List.mem_cons, List.not_mem_nil, or_false, forall_eq_or_imp, forall_eq]
  refine ⟨?_, ?_, ?_, ?_⟩ <;> (apply of_ready; decide +kernel)

theorem witness_RemoteOperationsApplyInOrder_refused :
    State.reset.up = false ∧ ({ s0 with ctl := { s0.ctl with locked := true } } : State).ctl.locked = true ∧
    ((sGuard.sliceWrite 4124 [1]).slicePoisoned 4124 2 = false ∧ (sGuard.sliceWrite 4124 [1]).sliceNat 4124 2 ≠ 0 ∧
      1 = seqNext (sGuard.lastSeq 3 (.ginit 4096 1 0 1))) ∧
    ((sBound 8 1).slicePoisoned 4116 4 = false ∧ (sBound 8 1).slicePoisoned 4384 128 = false ∧ 8 ≤ (sBound 8 1).bound 4096 ∧
      ∀ k < 8, (sBound 8 1).bindEntry 4096 k ≠ bindOf (capOf 2 0xB87#12 2 0 512 256)) ∧
    ((sChain 2 3).slicePoisoned 4104 16 = false ∧ (sChain 2 3).chAppended 4096 < 3) := by
  refine ⟨?_, ?_, ⟨?_, ?_, ?_⟩, ⟨?_, ?_, ?_, ?_⟩, ?_, ?_⟩ <;> decide +kernel

/-- Troupe 0 stopped, its two splits parked at the MEETs of two tokens that await both, with a trap handler. -/
def sMeetStop (stop : Bool) : State :=
  (st (fun L => { L with trp := true, trap := 9 }) (fun B => { B with stopBit := stop }) fun T => { T with
    stopped := true, k := [(2, ⟨0, 0xFFFFFFFF#32, 1⟩), (3, ⟨4, 0xFFFFFFFF#32, 1⟩)]
    splits := [(0, ⟨0x7FFFFFFF#32, 0x7FFFFFFF#32, 0, 1, .meet 2, none⟩), (1, ⟨0x80000000#32, 0x80000000#32, 4, 0, .meet 3, none⟩)] }).modPart 0
    fun P => { P with gate := true }

theorem witness_ManagementCommandsAnswer_go : ∀ stop ∈ [true, false],
    ((sMeetStop stop).trp? 1 0).any (fun T => decide (T.lm ≠ 0) && T.youngest.isNone && T.handler.isNone && T.held.isEmpty &&
      T.run.isNone && T.inst.isNone && ({ T with stopped := false, stepping := none } : Troupe).stuck &&
      ({ T with stopped := false, stepping := none } : Troupe).youngestSplit (fun _ => true) = some 0 &&
      (T.splits.find 0).any fun S => S.wait = .meet 2) = true ∧
    ((sMeetStop stop).blocks.find 1).any (fun B => B.stopBit = stop && B.inst.isNone) = true ∧
    ((sMeetStop stop).ctl.parts.find 0).any Part.gate = true := by
  intro stop h
  simp only [List.mem_cons, List.not_mem_nil, or_false] at h
  obtain rfl | rfl := h <;> (refine ⟨?_, ?_, ?_⟩ <;> decide +kernel)

theorem witness_QueuedMatrixInstructionsComplete_scaled : (uw 0 0 0 2 0).mx = true ∧
    ((sMat fun U => { U with queue := [mop (.mma (uw 0 0 0 2 0)) 1 noLabels] }).unit 0).queue = [mop (.mma (uw 0 0 0 2 0)) 1 noLabels] ∧
    (mop (.mma (uw 0 0 0 2 0)) 1 noLabels).rows ≠ 0 := by
  refine ⟨?_, ?_, ?_⟩ <;> decide +kernel

theorem witness_LinksRetryFailAndAbandon_payload :
    ((sSent { sent1 with op := .store (2 ^ 33 * 5) [1], ent := 7 }).modSplit 1 0 0 fun S => { S with wait := .payload 7 }).waitOf 1 0 0 =
      .payload 7 ∧
    ((sSent { sent1 with op := .store (2 ^ 33 * 5) [1], ent := 7 }).sentAs 5 ⟨none, 9⟩).isSome = true := by
  refine ⟨?_, ?_⟩ <;> decide +kernel

theorem witness_GraphsStartAndComplete_far :
    (let K : Task := { part := 0, launch := loadLaunch, graph := some (5, 0), farGuards := [5] }
     let s : State := { sGraph { graph 1 with ready := [], told := [5] } [] with tasks := [(1, K)] }
     s.tasks.find 1 = some K ∧ K.graph = some (5, 0) ∧ 5 ∈ K.farGuards ∧
       ({ graph 1 with ready := [], told := [5] } : Graph).finished = true) ∧
    (let r := capOf 3 0x218#12 3 0 (2 ^ 29 + 128) 26
     let s := (withObj (sTab (r.bits.toNat + 2 ^ 128)) r).modPart 0 fun P => { P with cfg := { P.cfg with peers := [1] } }
     (s.tasks.find 1).any (fun K => bit (s.tabEntry K 0) 128 && s.capOwned 0 r) = true ∧ r.rights &&& 0x218#12 = 0x218#12 ∧
       s.here r.at = false) := by
  refine ⟨⟨?_, ?_, ?_, ?_⟩, ?_, ?_, ?_⟩ <;> decide +kernel

/-! ## Decoding: words written from 10 Tables 10.1 to 10.7, one for every instruction word -/

theorem test_decode_lane_one_word :
    decode 0x40050102#32 0#32 = .ok (.iadd ⟨true, false, 5, 1, 2⟩) ∧
    decode 0x20850102#32 0#32 = .ok (.isub ⟨false, true, 5, 1, 2⟩) ∧
    decode 0x01050102#32 0#32 = .ok (.imul ⟨false, false, 5, 1, 2⟩) ∧
    decode 0x01850102#32 0#32 = .ok (.imulh ⟨false, false, 5, 1, 2⟩) ∧
    decode 0x02050102#32 0#32 = .ok (.imin ⟨false, false, 5, 1, 2⟩) ∧
    decode 0x02850102#32 0#32 = .ok (.imax ⟨false, false, 5, 1, 2⟩) ∧
    decode 0x03050102#32 0#32 = .ok (.and ⟨false, false, 5, 1, 2⟩) ∧
    decode 0x03850102#32 0#32 = .ok (.or ⟨false, false, 5, 1, 2⟩) ∧
    decode 0x04050102#32 0#32 = .ok (.xor ⟨false, false, 5, 1, 2⟩) ∧
    decode 0x04850102#32 0#32 = .ok (.andn ⟨false, false, 5, 1, 2⟩) ∧
    decode 0x05050102#32 0#32 = .ok (.shl ⟨false, false, 5, 1, 2⟩) ∧
    decode 0x05850102#32 0#32 = .ok (.shr ⟨false, false, 5, 1, 2⟩) ∧
    decode 0x06050102#32 0#32 = .ok (.sar ⟨false, false, 5, 1, 2⟩) ∧
    decode 0x06850100#32 0#32 = .ok (.popc ⟨false, false, 5, 1, 0⟩) ∧
    decode 0x07050100#32 0#32 = .ok (.clz ⟨false, false, 5, 1, 0⟩) ∧
    decode 0x07850100#32 0#32 = .ok (.brev ⟨false, false, 5, 1, 0⟩) ∧
    decode 0x08050100#32 0#32 = .ok (.mov ⟨false, false, 5, 1, 0⟩) ∧
    decode 0x48850102#32 0#32 = .ok (.faddF32 ⟨true, false, 5, 1, 2⟩) ∧
    decode 0x29050102#32 0#32 = .ok (.fmulF32 ⟨false, true, 5, 1, 2⟩) ∧
    decode 0x09850102#32 0#32 = .ok (.fminF32 ⟨false, false, 5, 1, 2⟩) ∧
    decode 0x0A050102#32 0#32 = .ok (.fmaxF32 ⟨false, false, 5, 1, 2⟩) ∧
    decode 0x0A850102#32 0#32 = .ok (.swizSel ⟨false, false, 5, 1, 2⟩) ∧
    decode 0x0B000103#32 0#32 = .ok (.qpush ⟨false, false, 0, 1, 3⟩) :=
  ⟨rfl, rfl, rfl, rfl, rfl, rfl, rfl, rfl, rfl, rfl, rfl, rfl, rfl, rfl, rfl, rfl, rfl, rfl, rfl, rfl, rfl, rfl, rfl⟩

theorem test_decode_IOP :
    decode 0x18040608#32 0x00001000#32 = .ok (.imulhTyped ⟨false, false, 4, 6, 8, 0, 1, false, 0, 0⟩) ∧
    decode 0x18040608#32 0x01007A00#32 = .ok (.iminTyped ⟨false, false, 4, 6, 8, 0, 7, true, 2, 0⟩) ∧
    decode 0x18040608#32 0x0200B300#32 = .ok (.imaxTyped ⟨false, false, 4, 6, 8, 0, 11, false, 3, 0⟩) ∧
    decode 0x18040608#32 0x030A0001#32 = .ok (.imad ⟨false, false, 4, 6, 8, 0xA, 0, false, 0, 1⟩) ∧
    decode 0x18040600#32 0x04006000#32 = .ok (.iabs ⟨false, false, 4, 6, 0, 0, 6, false, 0, 0⟩) ∧
    decode 0x18070608#32 0x05000005#32 = .ok (.icmp ⟨false, false, 7, 6, 8, 0, 0, false, 0, 5⟩) ∧
    decode 0x18040608#32 0x06066000#32 = .ok (.sel ⟨false, false, 4, 6, 8, 6, 6, false, 0, 0⟩) ∧
    decode 0x18040608#32 0x070A0FCA#32 = .ok (.lut3 ⟨false, false, 4, 6, 8, 0xA, 0, true, 7, 0xCA⟩) ∧
    decode 0x18040608#32 0x080A0001#32 = .ok (.bfe ⟨false, false, 4, 6, 8, 0xA, 0, false, 0, 1⟩) ∧
    decode 0x18040608#32 0x090A0000#32 = .ok (.bfi ⟨false, false, 4, 6, 8, 0xA, 0, false, 0, 0⟩) ∧
    decode 0x18040608#32 0x0A0A0000#32 = .ok (.bsel ⟨false, false, 4, 6, 8, 0xA, 0, false, 0, 0⟩) :=
  ⟨rfl, rfl, rfl, rfl, rfl, rfl, rfl, rfl, rfl, rfl, rfl⟩

theorem test_decode_FOP :
    decode 0x18840608#32 0x00002091#32 = .ok (.fadd ⟨false, false, 4, 6, 8, 0, 2, false, 0, 0x91⟩) ∧
    decode 0x18840608#32 0x01005001#32 = .ok (.fmul ⟨false, false, 4, 6, 8, 0, 5, false, 0, 1⟩) ∧
    decode 0x18840608#32 0x020A3012#32 = .ok (.ffma ⟨false, false, 4, 6, 8, 0xA, 3, false, 0, 0x12⟩) ∧
    decode 0x18840608#32 0x030030F0#32 = .ok (.fmin ⟨false, false, 4, 6, 8, 0, 3, false, 0, 0xF0⟩) ∧
    decode 0x18840608#32 0x04002000#32 = .ok (.fmax ⟨false, false, 4, 6, 8, 0, 2, false, 0, 0⟩) ∧
    decode 0x18870608#32 0x05002008#32 = .ok (.fcmp ⟨false, false, 7, 6, 8, 0, 2, false, 0, 8⟩) ∧
    decode 0x18840600#32 0x06002003#32 = .ok (.frnd ⟨false, false, 4, 6, 0, 0, 2, false, 0, 3⟩) ∧
    decode 0x18840608#32 0x07002000#32 = .ok (.fscl ⟨false, false, 4, 6, 8, 0, 2, false, 0, 0⟩) ∧
    decode 0x18840600#32 0x08005000#32 = .ok (.fcls ⟨false, false, 4, 6, 0, 0, 5, false, 0, 0⟩) :=
  ⟨rfl, rfl, rfl, rfl, rfl, rfl, rfl, rfl, rfl⟩

theorem test_decode_FSFU :
    decode 0x19040600#32 0x00002000#32 = .ok (.frcp ⟨false, false, 4, 6, 0, 0, 2, false, 0, 0⟩) ∧
    decode 0x19040600#32 0x01005000#32 = .ok (.frsq ⟨false, false, 4, 6, 0, 0, 5, false, 0, 0⟩) ∧
    decode 0x19040600#32 0x02002000#32 = .ok (.fsqrt ⟨false, false, 4, 6, 0, 0, 2, false, 0, 0⟩) ∧
    decode 0x19040600#32 0x03002000#32 = .ok (.fexp2 ⟨false, false, 4, 6, 0, 0, 2, false, 0, 0⟩) ∧
    decode 0x19040600#32 0x04002000#32 = .ok (.flog2 ⟨false, false, 4, 6, 0, 0, 2, false, 0, 0⟩) :=
  ⟨rfl, rfl, rfl, rfl, rfl⟩

theorem test_decode_CONV :
    decode 0x19840600#32 0x000000A2#32 = .ok (.cvt ⟨false, false, 4, 6, 0, 0, 0, false, 0, 0xA2⟩) ∧
    decode 0x19840608#32 0x01003000#32 = .ok (.pack ⟨false, false, 4, 6, 8, 0, 3, false, 0, 0⟩) ∧
    decode 0x19840600#32 0x02002003#32 = .ok (.unpk ⟨false, false, 4, 6, 0, 0, 2, false, 0, 3⟩) ∧
    decode 0x19840600#32 0x03012000#32 = .ok (.cbdec ⟨false, false, 4, 6, 0, 1, 2, false, 0, 0⟩) ∧
    decode 0x19840600#32 0x0400A000#32 = .ok (.qscl ⟨false, false, 4, 6, 0, 0, 10, false, 0, 0⟩) ∧
    decode 0x19840608#32 0x050AA001#32 = .ok (.qnt ⟨false, false, 4, 6, 8, 0xA, 10, false, 0, 1⟩) ∧
    decode 0x19840608#32 0x0600C000#32 = .ok (.salsel ⟨false, false, 4, 6, 8, 0, 12, false, 0, 0⟩) :=
  ⟨rfl, rfl, rfl, rfl, rfl, rfl, rfl⟩

theorem test_decode_XLANE :
    decode 0x1A040608#32 0x00FF0004#32 = .ok (.swiz ⟨false, false, 4, 6, 8, 0xFF, 0, false, 0, 4⟩) ∧
    decode 0x1A040608#32 0x01FF0000#32 = .ok (.shx ⟨false, false, 4, 6, 8, 0xFF, 0, false, 0, 0⟩) ∧
    decode 0x1A040600#32 0x02FF0002#32 = .ok (.agree ⟨false, false, 4, 6, 0, 0xFF, 0, false, 0, 2⟩) ∧
    decode 0x1A040600#32 0x03FF0000#32 = .ok (.ballot ⟨false, false, 4, 6, 0, 0xFF, 0, false, 0, 0⟩) ∧
    decode 0x1A040600#32 0x04FF0000#32 = .ok (.peers ⟨false, false, 4, 6, 0, 0xFF, 0, false, 0, 0⟩) ∧
    decode 0x1A040600#32 0x05FF0001#32 = .ok (.red ⟨false, false, 4, 6, 0, 0xFF, 0, false, 0, 1⟩) ∧
    decode 0x1A040600#32 0x06FF0002#32 = .ok (.scan ⟨false, false, 4, 6, 0, 0xFF, 0, false, 0, 2⟩) ∧
    decode 0x1A040000#32 0x07FF0000#32 = .ok (.elect ⟨false, false, 4, 0, 0, 0xFF, 0, false, 0, 0⟩) ∧
    decode 0x1A040600#32 0x08FF0000#32 = .ok (.rank ⟨false, false, 4, 6, 0, 0xFF, 0, false, 0, 0⟩) :=
  ⟨rfl, rfl, rfl, rfl, rfl, rfl, rfl, rfl, rfl⟩

theorem test_decode_LMEM :
    decode 0x1A840600#32 0x002000FF#32 = .ok (.ldl ⟨false, false, 4, 6, 0, 0x20, 0, false, 0, 0xFF⟩) ∧
    decode 0x1A800608#32 0x01200001#32 = .ok (.stl ⟨false, false, 0, 6, 8, 0x20, 0, false, 0, 1⟩) ∧
    decode 0x1A840600#32 0x0203007F#32 = .ok (.lds ⟨false, false, 4, 6, 0, 3, 0, false, 0, 0x7F⟩) ∧
    decode 0x1A800608#32 0x03030080#32 = .ok (.sts ⟨false, false, 0, 6, 8, 3, 0, false, 0, 0x80⟩) ∧
    decode 0x1A840600#32 0x04020001#32 = .ok (.ldb ⟨false, false, 4, 6, 0, 2, 0, false, 0, 1⟩) ∧
    decode 0x1A800608#32 0x05020001#32 = .ok (.stb ⟨false, false, 0, 6, 8, 2, 0, false, 0, 1⟩) ∧
    decode 0x1A840600#32 0x06200001#32 = .ok (.ldk ⟨false, false, 4, 6, 0, 0x20, 0, false, 0, 1⟩) ∧
    decode 0x1A840600#32 0x07330000#32 = .ok (.ldf ⟨false, false, 4, 6, 0, 0x33, 0, false, 0, 0⟩) ∧
    decode 0x1A800608#32 0x08330000#32 = .ok (.stf ⟨false, false, 0, 6, 8, 0x33, 0, false, 0, 0⟩) ∧
    decode 0x1A800600#32 0x09020000#32 = .ok (.pfb ⟨false, false, 0, 6, 0, 2, 0, false, 0, 0⟩) :=
  ⟨rfl, rfl, rfl, rfl, rfl, rfl, rfl, rfl, rfl, rfl⟩

theorem test_decode_LATOM :
    decode 0x1B040608#32 0x00030000#32 = .ok (.ats ⟨false, false, 4, 6, 8, 3, 0, false, 0, 0⟩) ∧
    decode 0x1B040608#32 0x01020001#32 = .ok (.atb ⟨false, false, 4, 6, 8, 2, 0, false, 0, 1⟩) ∧
    decode 0x1B040608#32 0x02037000#32 = .ok (.cass ⟨false, false, 4, 6, 8, 3, 7, false, 0, 0⟩) ∧
    decode 0x1B040608#32 0x03020000#32 = .ok (.casb ⟨false, false, 4, 6, 8, 2, 0, false, 0, 0⟩) ∧
    decode 0x1B000608#32 0x04030000#32 = .ok (.reds ⟨false, false, 0, 6, 8, 3, 0, false, 0, 0⟩) ∧
    decode 0x1B000608#32 0x05020000#32 = .ok (.redb ⟨false, false, 0, 6, 8, 2, 0, false, 0, 0⟩) :=
  ⟨rfl, rfl, rfl, rfl, rfl, rfl⟩

theorem test_decode_LIMM :
    decode 0x1F030000#32 0x3F800000#32 = .ok (.movi ⟨false, false, 3, 0, 0x3F800000⟩) ∧
    decode 0x1F030101#32 0x3F800001#32 = .ok (.iaddi ⟨false, false, 3, 1, 0x3F800001⟩) ∧
    decode 0x1F030201#32 0x3F800002#32 = .ok (.andi ⟨false, false, 3, 1, 0x3F800002⟩) ∧
    decode 0x1F030301#32 0x3F800003#32 = .ok (.ori ⟨false, false, 3, 1, 0x3F800003⟩) ∧
    decode 0x1F030401#32 0x3F800004#32 = .ok (.xori ⟨false, false, 3, 1, 0x3F800004⟩) ∧
    decode 0x1F030501#32 0x3F800005#32 = .ok (.faddi ⟨false, false, 3, 1, 0x3F800005⟩) ∧
    decode 0x1F030601#32 0x3F800006#32 = .ok (.fmuli ⟨false, false, 3, 1, 0x3F800006⟩) :=
  ⟨rfl, rfl, rfl, rfl, rfl, rfl, rfl⟩

theorem test_decode_uniform_one_word1 :
    decode 0x80060840#32 0#32 = .ok (.sadd ⟨false, false, 3, 1, 2, 0⟩) ∧
    decode 0x80860840#32 0#32 = .ok (.ssub ⟨false, false, 3, 1, 2, 0⟩) ∧
    decode 0x81060840#32 0#32 = .ok (.smul ⟨false, false, 3, 1, 2, 0⟩) ∧
    decode 0x81860841#32 0#32 = .ok (.smulh ⟨false, false, 3, 1, 2, 1⟩) ∧
    decode 0x82060840#32 0#32 = .ok (.sand ⟨false, false, 3, 1, 2, 0⟩) ∧
    decode 0x82860840#32 0#32 = .ok (.sor ⟨false, false, 3, 1, 2, 0⟩) ∧
    decode 0x83060840#32 0#32 = .ok (.sxor ⟨false, false, 3, 1, 2, 0⟩) ∧
    decode 0x83860840#32 0#32 = .ok (.sshl ⟨false, false, 3, 1, 2, 0⟩) ∧
    decode 0x84060840#32 0#32 = .ok (.sshr ⟨false, false, 3, 1, 2, 0⟩) ∧
    decode 0x84860840#32 0#32 = .ok (.ssar ⟨false, false, 3, 1, 2, 0⟩) ∧
    decode 0x85060841#32 0#32 = .ok (.smin ⟨false, false, 3, 1, 2, 1⟩) ∧
    decode 0x85860840#32 0#32 = .ok (.smax ⟨false, false, 3, 1, 2, 0⟩) ∧
    decode 0x860E0845#32 0#32 = .ok (.scmp ⟨false, false, 7, 1, 2, 5⟩) ∧
    decode 0x8686084F#32 0#32 = .ok (.ssel ⟨false, false, 3, 1, 2, 15⟩) ∧
    decode 0x87060800#32 0#32 = .ok (.smov ⟨false, false, 3, 1, 0, 0⟩) ∧
    decode 0x87860800#32 0#32 = .ok (.spopc ⟨false, false, 3, 1, 0, 0⟩) ∧
    decode 0x88060800#32 0#32 = .ok (.sclz ⟨false, false, 3, 1, 0, 0⟩) ∧
    decode 0x89060C00#32 0#32 = .ok (.saddI ⟨false, false, 3, 1, 0x400⟩) ∧
    decode 0x89860C00#32 0#32 = .ok (.sandI ⟨false, false, 3, 1, 0x400⟩) ∧
    decode 0x8A06083F#32 0#32 = .ok (.sshlI ⟨false, false, 3, 1, 0x3F⟩) ∧
    decode 0x8A86083F#32 0#32 = .ok (.sshrI ⟨false, false, 3, 1, 0x3F⟩) ∧
    decode 0x8B0607FF#32 0#32 = .ok (.smovI ⟨false, false, 3, 0, 0x7FF⟩) ∧
    decode 0x8C580002#32 0#32 = .ok (.bra ⟨false, false, 5, true, 0x2⟩) ∧
    decode 0x8CD80002#32 0#32 = .ok (.brd ⟨false, false, 5, true, 0x2⟩) ∧
    decode 0x8D700003#32 0#32 = .ok (.tok ⟨false, false, 7, false, 0x3⟩) ∧
    decode 0x8DA00000#32 0#32 = .ok (.meet ⟨false, false, 2, false, 0x0⟩) ∧
    decode 0x8E0FFFFF#32 0#32 = .ok (.call ⟨false, false, 0, true, 0x7FFFF⟩) ∧
    decode 0x8E800000#32 0#32 = .ok (.ret ⟨false, false, 0, 0, 0, 0⟩) ∧
    decode 0x8F002801#32 0#32 = .ok (.jmpx ⟨false, false, 0, 5, 0, 1⟩) ∧
    decode 0x8FF40000#32 0#32 = .ok (.dbnz ⟨false, false, 7, false, 0x40000⟩) :=
  ⟨rfl, rfl, rfl, rfl, rfl, rfl, rfl, rfl, rfl, rfl, rfl, rfl, rfl, rfl, rfl, rfl, rfl, rfl, rfl, rfl, rfl, rfl, rfl, rfl, rfl, rfl, rfl, rfl, rfl, rfl⟩

theorem test_decode_uniform_one_word2 :
    decode 0x90000000#32 0#32 = .ok (.exit ⟨false, false, 0, 0, 0, 0⟩) ∧
    decode 0x90800000#32 0#32 = .ok (.yield ⟨false, false, 0, 0, 0, 0⟩) ∧
    decode 0x91000000#32 0#32 = .ok (.nop ⟨false, false, 0, 0, 0, 0⟩) ∧
    decode 0x918007FF#32 0#32 = .ok (.trap ⟨false, false, 0, 0, 63, 31⟩) ∧
    decode 0x920007FF#32 0#32 = .ok (.brk ⟨false, false, 0, 0, 63, 31⟩) ∧
    decode 0x92800001#32 0#32 = .ok (.eret ⟨false, false, 0, 0, 0, 1⟩) ∧
    decode 0x930A2000#32 0#32 = .ok (.srd ⟨false, false, 5, 4, 0, 0⟩) ∧
    decode 0x93880800#32 0#32 = .ok (.swr ⟨false, false, 4, 1, 0, 0⟩) ∧
    decode 0x9F080800#32 0xFFFFFFFB#32 = .ok (.smovi ⟨false, false, 4, 1, 0, 0, 0xFFFFFFFB⟩) :=
  ⟨rfl, rfl, rfl, rfl, rfl, rfl, rfl, rfl, rfl⟩

theorem test_decode_UOP :
    decode 0x98080800#32 0x00002FC1#32 = .ok (.sbfe ⟨false, false, 4, 1, 0, 0, 0x2FC1⟩) ∧
    decode 0x98080000#32 0x0103801F#32 = .ok (.vget ⟨false, false, 4, 0, 0, 0, 0x3801F⟩) ∧
    decode 0x98000020#32 0x0203801F#32 = .ok (.vput ⟨false, false, 0, 0, 1, 0, 0x3801F⟩) :=
  ⟨rfl, rfl, rfl⟩

theorem test_decode_SYNC :
    decode 0x98800840#32 0x00003000#32 = .ok (.ginit ⟨false, false, 0, 1, 2, 0, 0x3000⟩) ∧
    decode 0x98800000#32 0x010030FF#32 = .ok (.arrive ⟨false, false, 0, 0, 0, 0, 0x30FF⟩) ∧
    decode 0x98800000#32 0x02003101#32 = .ok (.wait ⟨false, false, 0, 0, 0, 0, 0x3101⟩) ∧
    decode 0x988E0840#32 0x03003000#32 = .ok (.tryw ⟨false, false, 7, 1, 2, 0, 0x3000⟩) ∧
    decode 0x98800800#32 0x04003000#32 = .ok (.expect ⟨false, false, 0, 1, 0, 0, 0x3000⟩) ∧
    decode 0x98800000#32 0x05203000#32 = .ok (.gbind ⟨false, false, 0, 0, 0, 0, 0x203000⟩) ∧
    decode 0x98800000#32 0x06003100#32 = .ok (.gunb ⟨false, false, 0, 0, 0, 0, 0x3100⟩) ∧
    decode 0x98800000#32 0x07003100#32 = .ok (.gflg ⟨false, false, 0, 0, 0, 0, 0x3100⟩) ∧
    decode 0x98800000#32 0x08000400#32 = .ok (.fence ⟨false, false, 0, 0, 0, 0, 0x400⟩) ∧
    decode 0x98800000#32 0x09000000#32 = .ok (.commit ⟨false, false, 0, 0, 0, 0, 0x0⟩) :=
  ⟨rfl, rfl, rfl, rfl, rfl, rfl, rfl, rfl, rfl, rfl⟩

theorem test_decode_REL :
    decode 0x99000000#32 0x00050000#32 = .ok (.group ⟨false, false, 0, 0, 0, 0, 0x50000⟩) ∧
    decode 0x99000000#32 0x01003000#32 = .ok (.build ⟨false, false, 0, 0, 0, 0, 0x3000⟩) ∧
    decode 0x99000000#32 0x02003000#32 = .ok (.join ⟨false, false, 0, 0, 0, 0, 0x3000⟩) ∧
    decode 0x99000000#32 0x03050000#32 = .ok (.expand ⟨false, false, 0, 0, 0, 0, 0x50000⟩) ∧
    decode 0x99000000#32 0x04000000#32 = .ok (.repack ⟨false, false, 0, 0, 0, 0, 0x0⟩) ∧
    decode 0x99060000#32 0x05000000#32 = .ok (.rcount ⟨false, false, 3, 0, 0, 0, 0x0⟩) :=
  ⟨rfl, rfl, rfl, rfl, rfl, rfl⟩

theorem test_decode_CAP :
    decode 0x99800000#32 0x000030FF#32 = .ok (.cld ⟨false, false, 0, 0, 0, 0, 0x30FF⟩) ∧
    decode 0x99800840#32 0x01203FFF#32 = .ok (.cnar ⟨false, false, 0, 1, 2, 0, 0x203FFF⟩) ∧
    decode 0x99860000#32 0x02003007#32 = .ok (.cinf ⟨false, false, 3, 0, 0, 0, 0x3007⟩) ∧
    decode 0x99800000#32 0x03003000#32 = .ok (.cclr ⟨false, false, 0, 0, 0, 0, 0x3000⟩) ∧
    decode 0x99800840#32 0x04203000#32 = .ok (.send ⟨false, false, 0, 1, 2, 0, 0x203000⟩) ∧
    decode 0x99860840#32 0x05203100#32 = .ok (.recv ⟨false, false, 3, 1, 2, 0, 0x203100⟩) :=
  ⟨rfl, rfl, rfl, rfl, rfl, rfl⟩

theorem test_decode_ENG :
    decode 0x9A060800#32 0x00203000#32 = .ok (.eapp ⟨false, false, 3, 1, 0, 0, 0x203000⟩) ∧
    decode 0x9A000800#32 0x01003000#32 = .ok (.eadv ⟨false, false, 0, 1, 0, 0, 0x3000⟩) ∧
    decode 0x9A060000#32 0x02003001#32 = .ok (.eseq ⟨false, false, 3, 0, 0, 0, 0x3001⟩) ∧
    decode 0x9A000000#32 0x03003000#32 = .ok (.pub ⟨false, false, 0, 0, 0, 0, 0x3000⟩) ∧
    decode 0x9A060000#32 0x04003000#32 = .ok (.wprd ⟨false, false, 3, 0, 0, 0, 0x3000⟩) :=
  ⟨rfl, rfl, rfl, rfl, rfl⟩

theorem test_decode_TASK :
    decode 0x9A800000#32 0x00053000#32 = .ok (.post ⟨false, false, 0, 0, 0, 0, 0x53000⟩) ∧
    decode 0x9A860800#32 0x01053000#32 = .ok (.bintake ⟨false, false, 3, 1, 0, 0, 0x53000⟩) ∧
    decode 0x9A860000#32 0x02000000#32 = .ok (.clkrd ⟨false, false, 3, 0, 0, 0, 0x0⟩) ∧
    decode 0x9A800840#32 0x03000001#32 = .ok (.otinv ⟨false, false, 0, 1, 2, 0, 0x1⟩) :=
  ⟨rfl, rfl, rfl, rfl⟩

theorem test_decode_MAT :
    decode 0x9B000000#32 0x00800000#32 = .ok (.macq ⟨false, false, 0, 0, 0, 0, 0x800000⟩) ∧
    decode 0x9B000000#32 0x01000000#32 = .ok (.mrel ⟨false, false, 0, 0, 0, 0, 0x0⟩) ∧
    decode 0x9B000000#32 0x02803000#32 = .ok (.mldb ⟨false, false, 0, 0, 0, 0, 0x803000⟩) ∧
    decode 0x9B000000#32 0x03800000#32 = .ok (.mbsw ⟨false, false, 0, 0, 0, 0, 0x800000⟩) ∧
    decode 0x9B000000#32 0x04053000#32 = .ok (.mlda ⟨false, false, 0, 0, 0, 0, 0x53000⟩) ∧
    decode 0x9B000004#32 0x05000000#32 = .ok (.mma ⟨false, false, 0, 0, 0, 4, 0x0⟩) ∧
    decode 0x9B000000#32 0x06000000#32 = .ok (.qmma ⟨false, false, 0, 0, 0, 0, 0x0⟩) ∧
    decode 0x9B000000#32 0x07003000#32 = .ok (.mmas ⟨false, false, 0, 0, 0, 0, 0x3000⟩) ∧
    decode 0x9B330002#32 0x08003008#32 = .ok (.scacc ⟨false, false, 25, 32, 0, 2, 0x3008⟩) ∧
    decode 0x9B000000#32 0x09050000#32 = .ok (.mrd ⟨false, false, 0, 0, 0, 0, 0x50000⟩) ∧
    decode 0x9B000000#32 0x0A050000#32 = .ok (.mwr ⟨false, false, 0, 0, 0, 0, 0x50000⟩) ∧
    decode 0x9B000000#32 0x0B000000#32 = .ok (.mclr ⟨false, false, 0, 0, 0, 0, 0x0⟩) :=
  ⟨rfl, rfl, rfl, rfl, rfl, rfl, rfl, rfl, rfl, rfl, rfl, rfl⟩

theorem test_decode_SLCK :
    decode 0x9B800004#32 0x00003008#32 = .ok (.bind ⟨false, false, 0, 0, 0, 4, 0x3008⟩) ∧
    decode 0x9B800000#32 0x01000000#32 = .ok (.slrd ⟨false, false, 0, 0, 0, 0, 0x0⟩) ∧
    decode 0x9B800000#32 0x02003000#32 = .ok (.slfl ⟨false, false, 0, 0, 0, 0, 0x3000⟩) ∧
    decode 0x9B800000#32 0x03003000#32 = .ok (.ckgen ⟨false, false, 0, 0, 0, 0, 0x3000⟩) ∧
    decode 0x9B800000#32 0x04003000#32 = .ok (.ckver ⟨false, false, 0, 0, 0, 0, 0x3000⟩) ∧
    decode 0x9B860800#32 0x05003000#32 = .ok (.ckrd ⟨false, false, 3, 1, 0, 0, 0x3000⟩) :=
  ⟨rfl, rfl, rfl, rfl, rfl, rfl⟩

theorem test_decode_SQ :
    decode 0x9C000000#32 0x00003000#32 = .ok (.sqcfg ⟨false, false, 0, 0, 0, 0, 0x3000⟩) ∧
    decode 0x9C000000#32 0x01053000#32 = .ok (.sqload ⟨false, false, 0, 0, 0, 0, 0x53000⟩) ∧
    decode 0x9C000000#32 0x02050007#32 = .ok (.sqstg ⟨false, false, 0, 0, 0, 0, 0x50007⟩) ∧
    decode 0x9C060000#32 0x03050000#32 = .ok (.sqdec ⟨false, false, 3, 0, 0, 0, 0x50000⟩) ∧
    decode 0x9C000000#32 0x04050001#32 = .ok (.sqhis ⟨false, false, 0, 0, 0, 0, 0x50001⟩) :=
  ⟨rfl, rfl, rfl, rfl, rfl⟩

/-! ## Ill-formed instructions, one for each check -/

theorem test_illformed :
    (Instr.gflg ⟨false, false, 0, 0, 0, 0, 0x01001100⟩).wellFormed = false ∧
    (Instr.smovi ⟨false, false, 4, 2, 0, 0, 0⟩).wellFormed = false ∧
    (Instr.mov ⟨false, false, 3, 1, 1⟩).unused = true ∧ (Instr.mov ⟨false, false, 3, 1, 1⟩).wellFormed = false ∧
    (Instr.iadd ⟨false, false, 3, 0x86, 0⟩).staticCause = some 4 ∧
    (Instr.swiz ⟨false, false, 4, 0, 2, 3, 0, false, 0, 0⟩).staticCause = some 4 ∧
    (Instr.fadd ⟨false, false, 3, 2, 4, 0, 5, false, 0, 0⟩).staticCause = some 5 ∧
    (Instr.fadd ⟨false, false, 4, 2, 4, 0, 0, false, 0, 0⟩).staticCause = some 6 ∧
    (Instr.icmp ⟨false, false, 1, 2, 4, 0, 0, false, 0, 6⟩).staticCause = some 6 ∧
    (Instr.qpush ⟨false, true, 0, 1, 3⟩).staticCause = some 7 ∧
    (Instr.fadd ⟨false, false, 4, 2, 4, 0, 2, true, 0, 0⟩).staticCause = some 7 ∧
    (Instr.scacc ⟨false, false, 25, 32, 0, 0, 0x3008⟩).staticCause = some 11 ∧
    (Instr.powerGood).wellFormed = true := by
  refine ⟨rfl, rfl, rfl, rfl, rfl, rfl, rfl, rfl, rfl, rfl, rfl, rfl, rfl⟩

/-- Words that decode to none, by the causes of 10 Table 10.8; the first is the spec's worked case. -/
theorem test_decode_refuses :
    decode 0x0B800000#32 0 = .error 1 ∧ decode 0x88800000#32 0 = .error 1 ∧ decode 0x18050102#32 0x0B000000#32 = .error 2 ∧
    decode 0x1F050701#32 0 = .error 2 ∧ decode 0x9F041000#32 0 = .error 2 ∧ decode 0x08050101#32 0 = .error 3 := by
  refine ⟨rfl, rfl, rfl, rfl, rfl, rfl⟩

/-! ## Single steps: the spec's worked cases -/

/-- Whether an instruction goes on, to a state that satisfies `p`. -/
def goes (s : State) (i : Instr) (p : State → Bool) : Bool :=
  match exec i s with
  | .next t => p t
  | _ => false

/-- A lane's register after a step. -/
def laneOf (t : State) (r l : Nat) : Word := ((t.trp? 1 0).map fun T => T.regs.lane r l).getD 0
/-- The numeric flags after a step. -/
def nfOf (t : State) : BitVec 16 := ((t.trp? 1 0).map fun T => T.regs.nf).getD 0
/-- A uniform register after a step. -/
def uniOf (t : State) (r : Nat) : DWord := ((t.trp? 1 0).map fun T => T.regs.s.get 0 r).getD 0
/-- The live lanes after a step. -/
def lmOf (t : State) : Mask := ((t.trp? 1 0).map Troupe.lm).getD 0

/-- Lane registers set, the same in every lane. -/
def sV (vs : List (Nat × Word)) : State := st id id fun T => { T with
  regs := { T.regs with v := vs.map fun p => (p.1, Lanes.of fun _ => p.2) } }

/-- Lane registers set lane by lane, the rest 0; live lanes. -/
def sL (lm : Mask) (vs : List (Nat × List Word)) : State := st id id fun T => { T with
  lm := lm, splits := [(0, ⟨lm, lm, 0, 0, .ready, none⟩)]
  regs := { T.regs with v := vs.map fun p => (p.1, Lanes.of fun l => p.2.getD l 0) } }

/-- 12 R299. -/
theorem test_imad_i8x4_saturates :
    goes (sV [(1, 0x7F0180FF), (3, 0x010101FF)]) (.imad ⟨false, false, 5, 1, 0xD1, 3, 10, false, 0, 1⟩) (fun t =>
      laneOf t 5 0 = 0x7F0281FE && nfOf t ≠ 0) = true ∧
    goes (sV [(1, 0x7F0180FF), (3, 0x010101FF)]) (.imad ⟨false, false, 5, 1, 0xD1, 3, 10, false, 0, 0⟩) (fun t =>
      laneOf t 5 31 = 0x800281FE && nfOf t = 0) = true ∧
    decode 0x180501D1#32 0x0303A001#32 = .ok (.imad ⟨false, false, 5, 1, 0xD1, 3, 10, false, 0, 1⟩) := by
  refine ⟨?_, ?_, rfl⟩ <;> decide +kernel

/-- 12, SHR by a uniform register: its low 32 bits count. -/
theorem test_shr_reads_low_word :
    goes ((sV [(1, 0xABCD1234)]).modTrp 1 0 fun T => { T with regs := { T.regs with s := [(2, 0x100000004)] } })
      (.shr ⟨false, false, 3, 1, 0x92⟩) (fun t => laneOf t 3 7 = 0x0ABCD123) = true := by decide +kernel

/-- 12, BSEL. -/
theorem test_bsel :
    goes (sV [(1, 0x44332211), (2, 0x88776655), (3, 0x2F04)]) (.bsel ⟨false, false, 4, 1, 2, 3, 0, false, 0, 0⟩)
      (fun t => laneOf t 4 0 = 0x33FF1155) = true ∧
    goes (sV [(1, 0x44338211), (2, 0x88776655), (3, 0xCC10)]) (.bsel ⟨false, false, 4, 1, 2, 3, 0, false, 0, 0⟩)
      (fun t => laneOf t 4 0 = 0xFFFF8211) = true := by
  refine ⟨?_, ?_⟩ <;> decide +kernel

/-- 12, CBDEC, with 02 R49's code and entry: the table entry 0x2B stands at byte 86 of the region. -/
theorem test_cbdec :
    let s := (withCap (sV [(1, 0x2B0B)]) (capOf 2 0xB87#12 1 0 256 256)).sliceWrite (4096 + 2 * 0x2B) (leBytes 2 0xE41B)
    goes s (.cbdec ⟨false, false, 3, 1, 0, 1, 12, false, 0, 0⟩) (fun t => laneOf t 3 5 = 0x28B43ABE) = true ∧
    goes s (.cbdec ⟨false, false, 3, 1, 0, 1, 10, false, 0, 0⟩) (fun t => laneOf t 3 5 = 0x01FD05F9) = true := by
  refine ⟨?_, ?_⟩ <;> decide +kernel

/-- 12 R318 to R320. -/
theorem test_quantise :
    goes (sV [(5, 0x40600000)]) (.qscl ⟨false, false, 2, 5, 0, 0, 12, false, 0, 0⟩) (fun t => laneOf t 2 0 = 0x3C00) = true ∧
    goes (sV [(2, 0x3C00), (3, 0x62), (6, 0x40600000)]) (.qnt ⟨false, false, 3, 6, 2, 3, 12, false, 0, 0x81⟩)
      (fun t => laneOf t 3 0 = 0x7E62 && nfOf t = 0) = true ∧
    goes (sV [(1, 0x3E980000), (2, 0x3C00)]) (.salsel ⟨false, false, 4, 1, 2, 0, 12, false, 0, 0⟩)
      (fun t => laneOf t 4 0 = 0xBC800000 && nfOf t = 0) = true := by
  refine ⟨?_, ?_, ?_⟩ <;> decide +kernel

/-- 02 R61, R62: RED and SCAN of 2^24, 1, 1, 1. -/
theorem test_red_scan :
    goes (sL 0xF#32 [(1, [0x4B800000, 0x3F800000, 0x3F800000, 0x3F800000])]) (.red ⟨false, false, 4, 1, 0, 0xFF, 2, false, 0, 0⟩)
      (fun t => laneOf t 4 0 = 0x4B800001) = true ∧
    goes (sL 0xF#32 [(1, [0x4B800000, 0x3F800000, 0x3F800000, 0x3F800000])]) (.scan ⟨false, false, 4, 1, 0, 0xFF, 2, false, 0, 0⟩)
      (fun t => laneOf t 4 3 = 0x4B800000) = true := by
  refine ⟨?_, ?_⟩ <;> decide +kernel

/-- 13, PEERS: mask and lead. -/
theorem test_peers :
    let s := sL 0x3F#32 [(1, [7, 3, 7, 9, 3, 7])]
    goes s (.peers ⟨false, false, 4, 1, 0, 0xFF, 0, false, 0, 0⟩) (fun t => (List.range 6).map (laneOf t 4) =
      [0x25, 0x12, 0x25, 0x08, 0x12, 0x25]) = true ∧
    goes s (.peers ⟨false, false, 4, 1, 0, 0xFF, 0, false, 0, 1⟩) (fun t => (List.range 6).map (laneOf t 4) =
      [0, 1, 0, 3, 1, 0]) = true := by
  refine ⟨?_, ?_⟩ <;> decide +kernel

/-- 13 R342 with 05 R150: CASS in lane order, the word at the start of the region. -/
theorem test_cass_in_lane_order :
    let s := (withCap (sL 0x212#32 [(5, List.replicate 32 5), (6, List.replicate 32 7)]) (capOf 2 0xB87#12 1 0 256 256)).sliceWrite 4096
      (leBytes 4 5)
    goes (s.modTrp 1 0 fun T => { T with regs := { T.regs with v := T.regs.v ++ [(8, Lanes.of fun _ => 7)] } })
      (.cass ⟨false, false, 5, 4, 8, 1, 1, false, 0, 0⟩) (fun t => t.sliceNat 4096 4 = 7 &&
        [1, 4, 9].map (laneOf t 5) = [5, 7, 7]) = true := by decide +kernel

/-- 11 R283: the split of lanes 0 to 3 returns to two sites. -/
theorem test_ret_divides :
    let s := st id id fun T => { T with lm := 0xF#32, splits := [(0, ⟨0xF#32, 0xF#32, 0, 0, .ready, none⟩)], now := 1
                                        ret := [(0, [40]), (1, [40]), (2, [52]), (3, [52])] }
    goes s (.ret ⟨false, false, 0, 0, 0, 0⟩) (fun t => (t.trp? 1 0).any fun T =>
      T.splits.map (fun p => (p.1, p.2.own, p.2.pc)) = [(0, 0x3#32, 40#32), (1, 0xC#32, 52#32)] &&
        T.ret.isEmpty) = true := by decide +kernel

/-- 07 R199: the worked case of narrowing. -/
theorem test_cnar :
    let c : CapReg := { bits := 0x29030004120007000941000000001000#128 }
    let r := c.narrow 0x4000 0x1000 1#12
    c.kind = 2 ∧ c.rights = 0x903#12 ∧ c.obj = 0x412 ∧ c.gen = 7 ∧ c.base = 0x941000 ∧ c.len = 0x1000 ∧
      r.bits = 0x20010004120007000941400000000100#128 := by
  refine ⟨?_, ?_, ?_, ?_, ?_, ?_, ?_⟩ <;> decide +kernel

/-- 04 R112: the five steps of the worked case of a guard. -/
theorem test_guard_phases :
    let g0 : GState := ⟨5, 2, 2, 8192, 8192, false⟩
    let g1 := g0.land 4096
    let g2 := g1.arrive 1
    let g3 := g2.land 4096
    let g4 := g3.land 1024
    let g5 := g4.arrive 1
    (g1.pending, g1.bytes, g1.phase) = (2, 4096, 5) ∧ (g2.pending, g2.bytes, g2.phase) = (1, 4096, 5) ∧
      (g3.pending, g3.bytes, g3.phase) = (1, 0, 5) ∧ (g4.pending, g4.bytes, g4.phase) = (1, -1024, 5) ∧
      (g5.pending, g5.bytes, g5.phase) = (2, 7168, 6) := by decide +kernel

/-- 13 R332: GROUP v1, 0 of six rows, set 0 = v2:add.f32, v3:count. -/
theorem test_group :
    let s0 := sL 0x3F#32 [(1, [3, 1, 3, 2, 1, 3]), (2, [0x3F800000, 0x40000000, 0x3F000000, 0x40800000, 0x3E000000, 0x3E800000])]
    let s := { s0 with tasks := s0.tasks.map fun k => (k.1, { k.2 with columns := leBytes 2 0x1082 ++ leBytes 2 0x0483 }) }
    let i : Instr := .group ⟨false, false, 0, 0, 0, 0, 0x10000⟩
    goes s i (fun t => match exec (.populationExecute 1 (.troupe 0)) t with
      | .next u => match exec (.populationComplete 1 (.troupe 0)) u with
        | .next v => lmOf v = 0xB#32 && [0, 1, 3].map (laneOf v 2) = [0x3FE00000, 0x40080000, 0x40800000] &&
          [0, 1, 3].map (laneOf v 3) = [3, 2, 1]
        | _ => false
      | _ => false) = true := by decide +kernel

/-- 03 R73, R79: the worked row block against ones. -/
theorem test_matrix_block :
    let a := mkBlk true 7 ([0x7E, 0x01, 0x39] ++ List.replicate 29 0)
    let b := mkBlk false 7 (List.replicate 32 0x38)
    a.v.take 3 = [1792, 0, 4] ∧ a.trn = true ∧ a.e = -2 ∧ b.v.head? = some 64 ∧ b.e = -6 := by
  refine ⟨?_, ?_, ?_, ?_, ?_⟩ <;> decide +kernel

/-- 04 R121: ALLRED.add.f32 of 2^24, 1, 1. -/
theorem test_rank_tree : (rankTree 0 2 [0x4B800000, 0x3F800000, 0x3F800000]).1 = 0x4B800000 := by decide +kernel

/-- 01 R20: core 37's die, quad and position. -/
theorem test_core_places : dieOf 37 = 0 ∧ quadOf 37 = 6 ∧ quadPos 37 = 3 ∧ [24, 25, 36, 37].map quadOf = [6, 6, 6, 6] := by decide

/-- 06 R169: WHILE at node 0 whose word is 0 takes its exit. -/
theorem test_while_exit :
    goes (sNode (node 3 0 0xFFFF 8192 0 0 0 0) (leBytes 4 0)) (.whileNode 5 0) (fun t =>
      (t.graphs.find 5).any fun G => G.running.isEmpty && G.ended.isNone) = true := by decide +kernel

end Sys2Proof.Tests
end

/-! PROOFS. The statements of 01: branches, tokens, EXIT and relation instructions (O18, O20, O21, O43). -/

namespace Sys2Proof

theorem Tab.mem_of_find {α : Type} {t : Tab α} {k : Nat} {v : α} (h : t.find k = some v) : (k, v) ∈ t := by
  induction t with
  | nil => cases h
  | cons p r ih =>
    obtain ⟨j, w⟩ := p
    rw [Tab.find_cons] at h
    split at h
    case isTrue hk => cases h; exact hk ▸ List.mem_cons_self ..
    case isFalse => exact List.mem_cons_of_mem _ (ih h)

/-- A table that lists no key twice finds what it lists. -/
theorem Tab.find_of_mem {α : Type} {t : Tab α} {p : Nat × α} (hn : (t.map Prod.fst).Nodup) (h : p ∈ t) :
    t.find p.1 = some p.2 := by
  induction t with
  | nil => cases h
  | cons x r ih =>
    obtain ⟨hx, hr⟩ := List.nodup_cons.1 hn
    rw [Tab.find_cons]
    rcases List.mem_cons.1 h with rfl | h
    · exact if_pos rfl
    · rw [if_neg, ih hr h]
      intro he
      exact hx (he ▸ List.mem_map_of_mem h)

theorem Tab.find_map {α β : Type} (t : Tab α) (f : α → β) (j : Nat) :
    Tab.find (t.map fun p => (p.1, f p.2)) j = (t.find j).map f := by
  induction t with
  | nil => rfl
  | cons p r ih =>
    obtain ⟨k, v⟩ := p
    simp only [List.map_cons, Tab.find_cons, ih]
    split <;> rfl

/-- A change that leaves every pair at a key as it is leaves the table. -/
theorem Tab.mod_eq_self {α : Type} {t : Tab α} {i : Nat} {f : α → α} (h : ∀ p ∈ t, p.1 = i → f p.2 = p.2) :
    t.mod i f = t := by
  rw [Tab.mod_congr_find t i f (fun x => x) fun x hx => h (i, x) hx rfl, Tab.mod_id]

/-- The relation instructions (13 R330). -/
def Instr.isRelation (i : Instr) : Bool :=
  match i with
  | .group _ | .build _ | .join _ | .expand _ | .repack _ | .rcount _ => true
  | _ => false

end Sys2Proof

namespace Sys2Proof.Machine

/-! ## Reading a troupe after a change -/

/-- What a state in focus holds: the block, the troupe, the task and the split of its context. -/
theorem State.focus?_holds {s : State} {c : Ctx} (h : s.focus? = some c) :
    s.blocks.find c.b = some c.blk ∧ c.blk.troupes.find c.t = some c.trp ∧ s.tasks.find c.blk.task = some c.task ∧
      c.trp.splits.find c.e = some c.sp := by
  unfold State.focus? at h
  split at h
  case h_1 => cases h
  case h_2 r _ =>
    split at h
    case h_1 => cases h
    case h_2 B hB =>
      split at h
      case h_2 => cases h
      case h_1 T K hT hK =>
        split at h
        case h_2 => cases h
        case h_1 S hS => cases h; exact ⟨hB, hT, hK, hS⟩

theorem State.trp?_of_find {s : State} {b t : Nat} {B : Block} {T : Troupe} (hB : s.blocks.find b = some B)
    (hT : B.troupes.find t = some T) : s.trp? b t = some T := by
  simp only [State.trp?, hB, hT]

/-- A troupe is one of its block's. -/
theorem State.trp?_eq_some {s : State} {b t : Nat} {T : Troupe} :
    s.trp? b t = some T ↔ ∃ B, s.blocks.find b = some B ∧ B.troupes.find t = some T := by
  cases hB : s.blocks.find b <;> simp [State.trp?, hB]

/-- A block with a troupe changed holds the change, and has the same population open. -/
theorem State.modTrp_find {s : State} {b t : Nat} {B : Block} {T : Troupe} (hB : s.blocks.find b = some B)
    (hT : B.troupes.find t = some T) (f : Troupe → Troupe) :
    ∃ B', (s.modTrp b t f).blocks.find b = some B' ∧ B'.troupes.find t = some (f T) ∧ B'.inst = B.inst :=
  ⟨{ B with troupes := B.troupes.mod t f }, by simp [hB], by simp [hT], rfl⟩

/-- A troupe that changes reads as its change. -/
theorem State.trp?_modTrp {s : State} {b t : Nat} {T : Troupe} (h : s.trp? b t = some T) (f : Troupe → Troupe) :
    (s.modTrp b t f).trp? b t = some (f T) := by
  obtain ⟨B, hB, hT⟩ := State.trp?_eq_some.1 h
  obtain ⟨B', hB', hT', -⟩ := State.modTrp_find hB hT f
  exact State.trp?_of_find hB' hT'

/-- A change of a block that leaves its troupes leaves each of them. -/
theorem State.trp?_modBlk (s : State) (b t : Nat) (f : Block → Block) (hf : ∀ B, (f B).troupes = B.troupes) :
    (s.modBlk b f).trp? b t = s.trp? b t := by
  cases hB : s.blocks.find b <;> simp [State.trp?, hB, hf]

/-! ## What opening a run leaves of the issuing split -/

/-- The troupe of a split in focus once its word has opened a run differs from what it was in the run alone. -/
theorem Ctx.opened_trp_eq (c : Ctx) (i : Instr) : ∃ r, (c.opened i).trp = { c.trp with run := r } :=
  ⟨_, Troupe.openRun_eq ..⟩

@[simp] theorem Ctx.opened_now (c : Ctx) (i : Instr) : (c.opened i).trp.now = c.trp.now := by
  simp [Ctx.opened, Troupe.openRun_eq]
@[simp] theorem Ctx.opened_stack (c : Ctx) (i : Instr) : (c.opened i).trp.stack = c.trp.stack := by
  simp [Ctx.opened, Troupe.openRun_eq]
@[simp] theorem Ctx.opened_trp_inst (c : Ctx) (i : Instr) : (c.opened i).trp.inst = c.trp.inst := by
  simp [Ctx.opened, Troupe.openRun_eq]
@[simp] theorem Ctx.opened_handler (c : Ctx) (i : Instr) : (c.opened i).trp.handler = c.trp.handler := by
  simp [Ctx.opened, Troupe.openRun_eq]

@[simp] theorem Ctx.opened_freeEntry (c : Ctx) (i : Instr) : (c.opened i).trp.freeEntry = c.trp.freeEntry := by
  simp [Troupe.freeEntry]
@[simp] theorem Ctx.opened_atMeet (c : Ctx) (i : Instr) (k : Nat) : (c.opened i).trp.atMeet k = c.trp.atMeet k := by
  simp [Troupe.atMeet]

@[simp] theorem Ctx.s_opened (c : Ctx) (i : Instr) (r : Nat) : (c.opened i).s r = c.s r := by simp [Ctx.s]
@[simp] theorem Ctx.sr_opened (c : Ctx) (i : Instr) (r : BitVec 6) : (c.opened i).sr r = c.sr r := by simp [Ctx.sr]
@[simp] theorem Ctx.gate_opened (c : Ctx) (i : Instr) (k : Nat) : (c.opened i).gate k = c.gate k := by simp [Ctx.gate]
@[simp] theorem Ctx.predMask_opened (c : Ctx) (i : Instr) (k : Nat) : (c.opened i).predMask k = c.predMask k := by
  simp [Ctx.predMask]
@[simp] theorem Ctx.active_opened (c : Ctx) (i : Instr) : (c.opened i).active = c.active := by simp [Ctx.active]

@[simp] theorem Ctx.inst_opened (c : Ctx) (i : Instr) (bl : Bool) : (c.opened i).inst bl = c.inst bl := by
  simp [Ctx.inst]
@[simp] theorem Ctx.members_opened (c : Ctx) (i : Instr) (bl : Bool) (m : Mask) :
    (c.opened i).members bl m = c.members bl m := by
  simp [Ctx.members]

/-! ## Shapes of issue -/

theorem WentCompletes.mono {i : Instr} {pre : State → Ctx → Prop} {post post' : State → Ctx → Troupe → Prop}
    (h : WentCompletes i pre post) (hp : ∀ s c T, Ready s c i → pre s c → post s c T → post' s c T) :
    WentCompletes i pre post' := by
  intro s c hr hc
  obtain ⟨u, T, hu, ho, hT⟩ := h s c hr hc
  exact ⟨u, T, hu, ho, hp s c T hr hc hT⟩

/-- A word whose effect is a fault traps. -/
theorem Traps.of {s : State} {c : Ctx} {i : Instr} {r : Raise} (eff : Ctx → State → Res)
    (hx : ∀ s, exec i s = s.issueWord i eff) (h : Ready s c i)
    (he : eff (c.opened i) (s.onTrp c fun T => T.openRun i c.e c.sp.pc) = .trap r)
    (hr : ¬ (r.code = 0x01 ∧ r.detail % 16 = 10)) : Traps s c i r :=
  (hx s).trans (State.issueWord_trap s c i eff r h he hr)

/-! ## Going to a word (01 R27) -/

/-- A split of a troupe goes to a word. -/
def Troupe.goto (T : Troupe) (e : Nat) (pc : Word) : Troupe :=
  { T with splits := T.splits.mod e fun S => { S with pc := pc, only := none } }

/-- `State.goto` is `Troupe.goto` of the issuing split. -/
theorem State.goto_eq (s : State) (c : Ctx) (pc : Word) : s.goto c pc = s.onTrp c fun T => T.goto c.e pc := rfl

/-- What a change of the issuing split's entry reads as. -/
theorem Ctx.find_mod_split {c : Ctx} (h : c.trp.splits.find c.e = some c.sp) (g : Split → Split) (e : Nat) :
    (c.trp.splits.mod c.e g).find e = if e = c.e then some (g c.sp) else c.trp.splits.find e := by
  rw [Tab.find_mod]
  split
  case isTrue he => rw [he, h]; rfl
  case isFalse => rfl

/-- A troupe that holds the issuing split's entry at a new pc, and is else as it was but for its run, has moved the split. -/
theorem Ctx.movedTo_of_splits {c : Ctx} {T : Troupe} {pc : Word} (h : c.trp.splits.find c.e = some c.sp)
    (hs : T.splits = c.trp.splits.mod c.e fun S => { S with pc := pc, only := none })
    (hr : { T with splits := c.trp.splits, run := c.trp.run } = c.trp) : c.movedTo T pc :=
  ⟨fun e => by rw [hs, Ctx.find_mod_split h], hr⟩

/-- A word whose effect is to go to a word, which opening its run does not change, moves the split as a whole. -/
theorem WentCompletes.of_goto {i : Instr} {pre : State → Ctx → Prop} (eff : Ctx → State → Res) (dest : Ctx → Word)
    (hx : ∀ s, exec i s = s.issueWord i eff)
    (he : ∀ s c, pre s c → ∀ u, eff (c.opened i) u = .went (u.goto c (dest c))) :
    WentCompletes i pre fun _ c T => c.movedTo { T with run := c.trp.run } (dest c) := by
  refine WentCompletes.of eff (fun _ c T => T.goto c.e (dest c)) hx (fun s c _ h => he s c h _) fun s c hr _ => ?_
  obtain ⟨r, hT⟩ := c.opened_trp_eq i
  refine Ctx.movedTo_of_splits (State.focus?_splits s c hr.1) ?_ ?_
  · rw [hT]; rfl
  · rw [hT]; rfl

@[simp] theorem Ctx.gateHolds_opened (c : Ctx) (i : Instr) (f : UB) : (c.opened i).gateHolds f = c.gateHolds f := by
  simp [Ctx.gateHolds]

/-- 01 R27: BRA goes to its target where its gate holds, and else to the next word. -/
theorem bra_moves (f : UB) : WentCompletes (.bra f) (fun _ _ => True) fun _ c T =>
    c.movedTo { T with run := c.trp.run }
      (if c.gate f.sel.toNat != f.sense then c.sp.pc + f.off.signExtend 32 else c.sp.pc + 1) := by
  refine WentCompletes.of_goto _ (fun c => if c.gateHolds f then f.target c.sp.pc else c.sp.pc + 1)
    (fun s => (rfl : execBra f s = _)) ?_
  intro s c _ u
  simp only [Ctx.gateHolds_opened, Ctx.opened_sp]
  rfl

/-- 11 R284: JMPX without its link bit goes to the word its register names. -/
theorem jmpx_moves (f : UR) (hf : f.x.getLsbD 0 = false) : WentCompletes (.jmpx f) (fun _ _ => True) fun _ c T =>
    c.movedTo { T with run := c.trp.run } ((c.sr f.a).setWidth 32) := by
  refine WentCompletes.of_goto _ (fun c => (c.sr f.a).setWidth 32) (fun s => (rfl : execJmpx f s = _)) ?_
  intro s c _ u
  simp only [hf, Bool.false_eq_true, if_false, Ctx.sr_opened]
  rfl

/-- 11 R281: CALL with a false gate falls through. -/
theorem call_falls_through (f : UB) :
    WentCompletes (.call f) (fun _ c => (c.gate f.sel.toNat != f.sense) = false) fun _ c T =>
      c.movedTo { T with run := c.trp.run } (c.sp.pc + 1) := by
  refine WentCompletes.of_goto _ (fun c => c.sp.pc + 1) (fun s => (rfl : execCall f s = _)) ?_
  intro s c (hg : c.gateHolds f = false) u
  simp only [Ctx.gateHolds_opened, hg, Bool.false_eq_true, if_false, Ctx.opened_sp]
  rfl

/-- 11 R280: DBNZ writes the count less 1, and goes to its target where that is not 0. -/
theorem dbnz_counts_and_moves (f : UB) : WentCompletes (.dbnz f) (fun _ _ => True) fun _ c T =>
    let n := c.s f.sel.toNat - 1
    (∀ r, T.regs.s.get 0 r = if r = f.sel.toNat then n else c.trp.regs.s.get 0 r) ∧
    c.movedTo
      { T with
        regs := { T.regs with s := c.trp.regs.s }, poison := c.trp.poison, flips := c.trp.flips, run := c.trp.run }
      (if n ≠ 0 then c.sp.pc + f.off.signExtend 32 else c.sp.pc + 1) := by
  refine WentCompletes.of _ (fun _ c T => (T.setS f.sel.toNat (c.s f.sel.toNat - 1)).goto c.e
    (if c.s f.sel.toNat - 1 ≠ 0 then f.target c.sp.pc else c.sp.pc + 1)) (fun s => (rfl : execDbnz f s = _)) ?_ ?_
  · intro s c _ _
    simp only [Ctx.s_opened, Ctx.opened_sp]
    exact congrArg Res.went (State.onTrp_onTrp ..)
  · intro s c hr _
    obtain ⟨r, hT⟩ := c.opened_trp_eq (.dbnz f)
    refine ⟨fun r => ?_, Ctx.movedTo_of_splits (State.focus?_splits s c hr.1) ?_ ?_⟩
    · simp [Troupe.goto, Troupe.setS, Tab.get_set]
    · rw [hT]; rfl
    · rw [hT]; rfl

/-! ## Dividing a split (01 R28) -/

/-- A change of an entry that is taken leaves the lowest free entry. -/
theorem Troupe.freeEntry_put (T : Troupe) (e : Nat) (S S' : Split) (h : T.splits.find e = some S) :
    { T with splits := T.splits.put e S' }.freeEntry = T.freeEntry := by
  unfold Troupe.freeEntry
  congr 1
  funext j
  rw [Tab.find_put]
  split
  case isTrue hj => rw [hj, h]; rfl
  case isFalse => rfl

/-- The lowest free entry holds no split. -/
theorem Troupe.find_freeEntry {T : Troupe} {e : Nat} (h : T.freeEntry = some e) : T.splits.find e = none := by
  simpa using List.find?_some h

theorem Troupe.spawn_of_free {T : Troupe} {e : Nat} (h : T.freeEntry = some e) (own em : Mask) (pc : Word) :
    T.spawn own em pc = { T with
      now := T.now + 1, splits := T.splits.put e ⟨own, em, pc, T.now + 1, .ready, none⟩ } := by
  have h' : T.tick.freeEntry = some e := h
  simp only [Troupe.spawn, h']
  rfl

@[simp] theorem Troupe.spawn_regs (T : Troupe) (own em : Mask) (pc : Word) : (T.spawn own em pc).regs = T.regs := by
  unfold Troupe.spawn; dsimp only; split <;> rfl
@[simp] theorem Troupe.spawn_lm (T : Troupe) (own em : Mask) (pc : Word) : (T.spawn own em pc).lm = T.lm := by
  unfold Troupe.spawn; dsimp only; split <;> rfl

theorem Troupe.divide_none (T : Troupe) (e : Nat) (S : Split) (target : Word) :
    T.divide e S 0 target = { T with splits := T.splits.put e { S with pc := S.pc + 1 } } := by
  simp [Troupe.divide]

theorem Troupe.divide_whole (T : Troupe) (e : Nat) (S : Split) {taken : Mask} (target : Word) (ht : taken ≠ 0)
    (hr : S.own &&& ~~~taken = 0) :
    T.divide e S taken target = { T with splits := T.splits.put e { S with pc := target } } := by
  simp only [Troupe.divide, ht, hr, if_false, if_true]

/-- With a free entry, the taken lanes get it, and the others fall through. -/
theorem Troupe.divide_free {T : Troupe} {e e' : Nat} {S S' : Split} {taken : Mask} (target : Word) (ht : taken ≠ 0)
    (hr : S.own &&& ~~~taken ≠ 0) (hS : T.splits.find e = some S') (hf : T.freeEntry = some e') :
    T.divide e S taken target = { T with
      now := T.now + 1
      splits := (T.splits.put e
        { S with own := S.own &&& ~~~taken, em := S.em &&& (S.own &&& ~~~taken), pc := S.pc + 1 }).put e'
          ⟨taken, taken, target, T.now + 1, .ready, none⟩ } := by
  simp only [Troupe.divide, ht, hr, if_false, hf]
  rw [Troupe.spawn_of_free ((Troupe.freeEntry_put T e S' _ hS).trans hf)]

/-- With no free entry, the split goes with the taken lanes, and the others wait on the split stack. -/
theorem Troupe.divide_full {T : Troupe} {e : Nat} {S : Split} {taken : Mask} (target : Word) (ht : taken ≠ 0)
    (hr : S.own &&& ~~~taken ≠ 0) (hf : T.freeEntry = none) :
    T.divide e S taken target = { T with
      now := T.now + 1
      stack := ⟨S.pc + 1, S.own &&& ~~~taken, S.em &&& (S.own &&& ~~~taken), S.age⟩ :: T.stack
      splits := T.splits.put e { S with own := taken, em := taken, pc := target, age := T.now + 1 } } := by
  simp only [Troupe.divide, ht, hr, if_false, hf]
  rfl

@[simp] theorem Troupe.divide_regs (T : Troupe) (e : Nat) (S : Split) (taken : Mask) (target : Word) :
    (T.divide e S taken target).regs = T.regs := by
  simp only [Troupe.divide]
  repeat' split
  · rfl
  · rfl
  · exact Troupe.spawn_regs ..
  · rfl
@[simp] theorem Troupe.divide_lm (T : Troupe) (e : Nat) (S : Split) (taken : Mask) (target : Word) :
    (T.divide e S taken target).lm = T.lm := by
  simp only [Troupe.divide]
  repeat' split
  · rfl
  · rfl
  · exact Troupe.spawn_lm ..
  · rfl

/-- The lanes a BRD takes (01 R28): those active whose predicate, inverted when sense is 1, is true. -/
def Ctx.brdTaken (c : Ctx) (f : UB) : Mask :=
  c.sp.em &&& c.trp.lm &&& if f.sense then ~~~c.predMask f.sel.toNat else c.predMask f.sel.toNat

/-- 01 R28: BRD divides its split by the lanes it takes. -/
theorem brd_divides (f : UB) : WentCompletes (.brd f) (fun _ _ => True) fun _ c T =>
    T = (c.opened (.brd f)).trp.divide c.e { c.sp with only := none } (c.brdTaken f) (f.target c.sp.pc) := by
  refine WentCompletes.of _
    (fun _ c T => T.divide c.e { c.sp with only := none } (c.brdTaken f) (f.target c.sp.pc))
    (fun s => (rfl : execBrd f s = _)) ?_ fun _ _ _ _ => rfl
  intro s c _ _
  simp only [Ctx.predMask_opened, Ctx.opened_sp, Ctx.opened_lm]
  rfl

/-- Settles O18. The words that move the split as a whole are one `goto`; BRD is `Troupe.divide`, case by case. -/
theorem branchesGoOrDivide : Obligations.BranchesGoOrDivide := by
  unfold Obligations.BranchesGoOrDivide
  refine ⟨⟨bra_moves, dbnz_counts_and_moves, jmpx_moves, call_falls_through⟩, fun f => ?_⟩
  refine (brd_divides f).mono fun s c T hr _ hT => ?_
  have hS : (c.opened (.brd f)).trp.splits.find c.e = some c.sp := by
    rw [Ctx.opened_splits]; exact State.focus?_splits s c hr.1
  have hnow := c.opened_now (.brd f)
  have hsplits := c.opened_splits (.brd f)
  rw [hT, ← c.opened_freeEntry (.brd f), ← hnow, ← hsplits]
  refine ⟨?_, ?_, fun (h0 : c.brdTaken f = 0) => ?_,
    fun (ht : c.brdTaken f ≠ 0) (hw : c.sp.own &&& ~~~c.brdTaken f = 0) => ?_,
    fun (ht : c.brdTaken f ≠ 0) (hw : c.sp.own &&& ~~~c.brdTaken f ≠ 0) e' hf => ?_,
    fun (ht : c.brdTaken f ≠ 0) (hw : c.sp.own &&& ~~~c.brdTaken f ≠ 0) hf => ?_⟩
  · rw [Troupe.divide_regs, Ctx.opened_regs]
  · rw [Troupe.divide_lm, Ctx.opened_lm]
  · rw [h0, Troupe.divide_none]
    exact ⟨Tab.find_put_same .., fun e he => Tab.find_put_other _ _ he⟩
  · rw [Troupe.divide_whole _ _ { c.sp with only := none } _ ht hw]
    exact ⟨Tab.find_put_same .., fun e he => Tab.find_put_other _ _ he⟩
  · have hne : c.e ≠ e' := by
      rintro rfl
      rw [Troupe.find_freeEntry hf] at hS
      cases hS
    rw [Troupe.divide_free (S := { c.sp with only := none }) _ ht hw hS hf]
    refine ⟨?_, Tab.find_put_same .., fun e he he' => ?_⟩
    · exact (Tab.find_put_other _ _ hne).trans (Tab.find_put_same ..)
    · exact (Tab.find_put_other _ _ he').trans (Tab.find_put_other _ _ he)
  · rw [Troupe.divide_full (S := { c.sp with only := none }) _ ht hw hf, ← c.opened_stack (.brd f)]
    exact ⟨Tab.find_put_same .., rfl, fun e he => Tab.find_put_other _ _ he⟩

/-! ## EXIT (01 R32) -/

theorem Troupe.refill_of_stack_nil {T : Troupe} (h : T.stack = []) : T.refill = T := by
  unfold Troupe.refill
  rw [h]
  cases T.freeEntry <;> rfl

theorem Troupe.refills_of_stack_nil {T : Troupe} (h : T.stack = []) : T.refills = T := by
  have hn : ∀ n, Nat.repeat Troupe.refill n T = T := by
    intro n
    induction n with
    | zero => rfl
    | succ n ih => rw [Nat.repeat, ih, Troupe.refill_of_stack_nil h]
  exact hn 8

/-- Lanes that leave a split, where no descriptor waits for a freed entry. -/
theorem Troupe.retire_of_stack_nil {T : Troupe} {e : Nat} {S : Split} (m : Mask) (h : T.stack = [])
    (hS : T.splits.find e = some S) :
    T.retire e m = if S.own &&& ~~~m = 0
      then { T with lm := T.lm &&& ~~~m, splits := T.splits.del e }.tidy
      else { T with
        lm := T.lm &&& ~~~m
        splits := T.splits.put e { S with own := S.own &&& ~~~m, em := S.own &&& ~~~m } } := by
  have hr : { T with lm := T.lm &&& ~~~m, splits := T.splits.del e }.tidy.refills = _ := Troupe.refills_of_stack_nil h
  unfold Troupe.retire
  simp only [hS, hr]

/-- Settles O21. The split goes on and is retired of its active lanes, and nothing is on the split stack to return. -/
theorem exitRetiresTheActiveLanes : Obligations.ExitRetiresTheActiveLanes := by
  unfold Obligations.ExitRetiresTheActiveLanes
  intro f
  refine WentCompletes.of _
    (fun _ c T => (T.goto c.e (c.sp.pc + 1)).retire c.e (c.sp.em &&& c.trp.lm)) (fun s => (rfl : execExit f s = _)) ?_ ?_
  · intro s c _ _
    simp only [Ctx.opened_sp, Ctx.opened_lm]
    exact congrArg Res.went (State.onTrp_onTrp ..)
  · intro s c hr hstack
    obtain ⟨r, hT⟩ := c.opened_trp_eq (.exit f)
    have hsp := Ctx.find_mod_split (State.focus?_splits s c hr.1) fun S => { S with pc := c.sp.pc + 1, only := none }
    have hS : ((c.opened (.exit f)).trp.goto c.e (c.sp.pc + 1)).splits.find c.e =
        some { c.sp with pc := c.sp.pc + 1, only := none } := by
      rw [hT]; exact (hsp c.e).trans (if_pos rfl)
    have hoff : ∀ e, e ≠ c.e → ((c.opened (.exit f)).trp.goto c.e (c.sp.pc + 1)).splits.find e = c.trp.splits.find e := by
      intro e he
      rw [hT]; exact (hsp e).trans (if_neg he)
    rw [Troupe.retire_of_stack_nil _ (by rw [hT]; exact hstack) hS]
    dsimp only
    split
    case isTrue =>
      refine ⟨by rw [hT]; rfl, by rw [hT]; rfl, by rw [hT]; rfl, fun e he => ?_, ?_⟩
      · exact (Tab.find_del ..).trans ((if_neg he).trans (hoff e he))
      · exact (Tab.find_del ..).trans (if_pos rfl)
    case isFalse =>
      refine ⟨by rw [hT]; rfl, by rw [hT]; rfl, by rw [hT]; rfl, fun e he => ?_, ?_⟩
      · exact (Tab.find_put_other _ _ he).trans (hoff e he)
      · exact Tab.find_put_same ..

/-! ## Tokens (01 R29 to R31) -/

/-- 01 R29: TOK arms its token where none is armed or no split is parked at it. -/
theorem tok_arms (f : UB) : WordCompletes (.tok f)
    (fun _ c => c.trp.k.find f.sel.toNat = none ∨ c.trp.atMeet f.sel.toNat = []) fun _ c T =>
    (∀ k, T.k.find k = if k = f.sel.toNat then some ⟨c.sp.pc + f.off.signExtend 32, c.sp.own, c.trp.now + 1⟩
      else c.trp.k.find k) ∧
    { T with k := c.trp.k, now := c.trp.now } = (c.opened (.tok f)).trp := by
  refine WordCompletes.of _ (fun _ c T =>
    { T.tick with k := T.tick.k.put f.sel.toNat ⟨f.target c.sp.pc, c.sp.own, T.tick.now⟩ })
    (fun s => (rfl : execTok f s = _)) ?_ ?_
  · intro s c _ hfree
    have hno : ((c.trp.k.find f.sel.toNat).isSome && !(c.trp.atMeet f.sel.toNat).isEmpty) = false := by
      rcases hfree with hk | hm
      · rw [hk]; rfl
      · rw [hm]; exact Bool.and_false _
    simp only [Ctx.opened_k, Ctx.opened_atMeet, hno, Bool.false_eq_true, if_false]
    rfl
  · intro s c _ _
    refine ⟨fun k => ?_, ?_⟩
    · simp only [Troupe.tick, Tab.find_put, Ctx.opened_k, Ctx.opened_now]
      rfl
    · rw [← c.opened_k (.tok f), ← c.opened_now (.tok f)]
      rfl

/-- 01 R30: MEET at the target of its armed token parks the split. -/
theorem meet_parks (f : UB) (k : Token) : WentCompletes (.meet f)
    (fun _ c => c.trp.k.find f.sel.toNat = some k ∧ k.target = c.sp.pc) fun _ c T =>
    (∀ e, T.splits.find e = if e = c.e then some { c.sp with wait := .meet f.sel.toNat, only := none }
      else c.trp.splits.find e) ∧
    { T with splits := c.trp.splits, run := c.trp.run } = c.trp := by
  refine WentCompletes.of _ (fun _ c T =>
    { T with splits := T.splits.mod c.e fun S => { S with wait := .meet f.sel.toNat, only := none } })
    (fun s => (rfl : execMeet f s = _)) ?_ ?_
  · rintro s c _ ⟨hk, ht⟩
    simp only [Ctx.opened_k, hk, Ctx.opened_sp, ht, ne_eq, not_true_eq_false, if_false]
    rfl
  · intro s c hr _
    obtain ⟨r, hT⟩ := c.opened_trp_eq (.meet f)
    refine ⟨fun e => ?_, ?_⟩
    · rw [Ctx.opened_splits, Ctx.find_mod_split (State.focus?_splits s c hr.1)]
    · rw [hT]

theorem tokenFault_code_ne (k cause : Nat) :
    ¬ ((tokenFault k cause).code = 0x01 ∧ (tokenFault k cause).detail % 16 = 10) := by
  simp [tokenFault]

/-- 01 R29: TOK over a token that a split is parked at faults TOKEN, cause 2. -/
theorem tok_traps_where_parked {f : UB} {s : State} {c : Ctx} (h : Ready s c (.tok f))
    (hk : c.trp.k.find f.sel.toNat ≠ none) (hm : c.trp.atMeet f.sel.toNat ≠ []) :
    Traps s c (.tok f) (tokenFault f.sel.toNat 2) := by
  have hbusy : ((c.trp.k.find f.sel.toNat).isSome && !(c.trp.atMeet f.sel.toNat).isEmpty) = true := by
    simp [Option.isSome_iff_ne_none, hk, hm]
  refine Traps.of _ (fun s => (rfl : execTok f s = _)) h ?_ (tokenFault_code_ne _ _)
  simp only [Ctx.opened_k, Ctx.opened_atMeet, hbusy, if_true]

/-- 01 R30: MEET of an unarmed token faults TOKEN, cause 0. -/
theorem meet_traps_where_unarmed {f : UB} {s : State} {c : Ctx} (h : Ready s c (.meet f))
    (hk : c.trp.k.find f.sel.toNat = none) : Traps s c (.meet f) (tokenFault f.sel.toNat 0) := by
  refine Traps.of _ (fun s => (rfl : execMeet f s = _)) h ?_ (tokenFault_code_ne _ _)
  simp only [Ctx.opened_k, hk]

/-- 01 R30: MEET elsewhere than at the target of its token faults TOKEN, cause 1. -/
theorem meet_traps_elsewhere {f : UB} {s : State} {c : Ctx} {k : Token} (h : Ready s c (.meet f))
    (hk : c.trp.k.find f.sel.toNat = some k) (ht : k.target ≠ c.sp.pc) :
    Traps s c (.meet f) (tokenFault f.sel.toNat 1) := by
  refine Traps.of _ (fun s => (rfl : execMeet f s = _)) h ?_ (tokenFault_code_ne _ _)
  simp only [Ctx.opened_k, hk, Ctx.opened_sp, ne_eq, ht, not_false_eq_true, if_true]

theorem Troupe.settle_of_youngest_none {T : Troupe} (h : T.youngest = none) : T.settle = T := by
  simp only [Troupe.settle, Troupe.settleN, h]

theorem Troupe.nextHeld_of_no_held {T : Troupe} (trap : Word) (h : T.handler = none → T.held = []) :
    T.nextHeld trap = T := by
  unfold Troupe.nextHeld
  split
  case h_1 hn hh => rw [h hn] at hh; cases hh
  case h_2 => rfl

/-- A population whose members in a troupe all live stays as it is when the others are taken out. -/
theorem Inst.prune_eq_self {I : Inst} {t : Nat} {lm : Mask} (h : ∀ p ∈ I.members, p.1 = t → p.2 &&& lm = p.2) :
    I.prune t lm = I := by
  rw [Inst.prune, Tab.mod_eq_self h]

/-- 01 R30, R31: a troupe in which no token completes, some split can move and lanes live is only written back. -/
theorem State.settleTrp_quiet {s : State} {b t : Nat} {T : Troupe} (hT : s.trp? b t = some T) (hy : T.youngest = none)
    (hs : T.stuck = false) (hl : T.lm ≠ 0) (hh : T.handler = none → T.held = []) :
    s.settleTrp b t = (s.modTrp b t fun _ => T).prune b t T.lm := by
  have hT1 : T.settle.nextHeld (s.trapOf b) = T := by
    rw [Troupe.settle_of_youngest_none hy, Troupe.nextHeld_of_no_held _ hh]
  simp only [State.settleTrp, hT, hT1, hl, hs, if_false, Bool.false_eq_true]

theorem State.modTrp_prune_find {s : State} {b : Nat} {B : Block} (hB : s.blocks.find b = some B) (t : Nat) (lm : Mask)
    (f : Troupe → Troupe) : ((s.modTrp b t f).prune b t lm).blocks.find b = some { B with
      inst := B.inst.map (·.prune t lm)
      troupes := (B.troupes.mod t f).mod t fun T => { T with inst := T.inst.map (·.prune t lm) } } := by
  simp only [State.prune, State.modTrp, State.modBlk_find, if_true, hB, Option.map_some]

/-- A block whose troupe is written back, with the gone lanes taken out of its populations, reads as before where every
member there lives. -/
theorem State.prune_reads_as_before {s : State} {b t : Nat} {B : Block} {T : Troupe} (hB : s.blocks.find b = some B)
    (hT : B.troupes.find t = some T)
    (hBI : ∀ I, B.inst = some I → ∀ p ∈ I.members, p.1 = t → p.2 &&& T.lm = p.2)
    (hTI : ∀ I, T.inst = some I → ∀ p ∈ I.members, p.1 = t → p.2 &&& T.lm = p.2) :
    ∃ B', ((s.modTrp b t fun _ => T).prune b t T.lm).blocks.find b = some B' ∧
      { B' with troupes := B.troupes } = B ∧ ∀ k, B'.troupes.find k = B.troupes.find k := by
  have hBi : B.inst.map (·.prune t T.lm) = B.inst :=
    (Option.map_congr fun I hI => Inst.prune_eq_self (hBI I hI)).trans Option.map_id'
  have hTi : T.inst.map (·.prune t T.lm) = T.inst :=
    (Option.map_congr fun I hI => Inst.prune_eq_self (hTI I hI)).trans Option.map_id'
  refine ⟨_, State.modTrp_prune_find hB t T.lm _, ?_, fun k => ?_⟩
  · simp only [hBi]
  · simp only [Tab.find_mod]
    by_cases hk : k = t
    · subst hk
      simp only [if_true, hT, Option.map_some, hTi]
    · simp only [hk, if_false]

/-- Settles O20. TOK and MEET issue; a quiet troupe is only written back, and reads as it did. -/
theorem tokensArmMeetAndSettle : Obligations.TokensArmMeetAndSettle := by
  unfold Obligations.TokensArmMeetAndSettle
  refine ⟨⟨tok_arms, meet_parks, fun f s c => ⟨tok_traps_where_parked, meet_traps_where_unarmed, fun h k =>
    meet_traps_elsewhere h⟩⟩, ?_⟩
  intro s b t T B hB hT hy hs hl hh hBI hTI
  have hset := State.settleTrp_quiet (s := s) (b := b) (by simpa only [State.trp?, hB] using hT) hy hs hl hh
  simp only [hset]
  refine ⟨rfl, fun j hj => ?_, State.prune_reads_as_before hB hT hBI hTI⟩
  simp only [State.prune, State.modTrp, State.modBlk_find, hj, if_false]

/-! ## Arriving at a population (01 R33, R34) -/

/-- The state in which the issuing split has parked at a population of its scope that now stands as `I`. -/
def State.parkedAt (s : State) (c : Ctx) (bl : Bool) (I : Inst) : State :=
  (s.modInst c.b c.t bl fun _ => some I).onSplit c fun S => { S with wait := .pop bl true, only := none }

/-- Where no population is open, one opens and the split arrives at it. -/
theorem State.joinInst_opens {s : State} {c : Ctx} {i : Instr} {bl : Bool} (mask act : Mask) (vals : Nat → Nat × Nat)
    (hh : i.h = false) (hn : c.trp.handler.map Handler.entry ≠ some c.e) (ho : c.inst bl = none) :
    s.joinInst c i bl mask act vals = .went (s.parkedAt c bl (Inst.arrive
      { pc := c.sp.pc, size := i.size, block := bl, opener := c.t, instr := i, members := c.members bl mask }
      c.t c.sp.own act vals)) := by
  simp only [State.joinInst, hh, ho, hn, Bool.false_and, Bool.false_eq_true, if_false]
  rfl

/-- At the open population of its own word the split arrives. -/
theorem State.joinInst_arrives {s : State} {c : Ctx} {i : Instr} {bl : Bool} {J : Inst} (mask act : Mask)
    (vals : Nat → Nat × Nat) (hn : c.trp.handler.map Handler.entry ≠ some c.e) (ho : c.inst bl = some J)
    (hp : J.pc = c.sp.pc) :
    s.joinInst c i bl mask act vals = .went (s.parkedAt c bl (J.arrive c.t c.sp.own act vals)) := by
  simp only [State.joinInst, ho, hn, hp, Option.isNone_some, Bool.and_false, Bool.false_eq_true, if_false, if_true]
  rfl

/-- Behind the open population of another word the split waits. -/
theorem State.joinInst_waits {s : State} {c : Ctx} {i : Instr} {bl : Bool} {J : Inst} (mask act : Mask)
    (vals : Nat → Nat × Nat) (hn : c.trp.handler.map Handler.entry ≠ some c.e) (ho : c.inst bl = some J)
    (hp : J.pc ≠ c.sp.pc) :
    s.joinInst c i bl mask act vals = .park (s.onSplit c fun S => { S with wait := .pop bl false }) := by
  simp only [State.joinInst, ho, hn, hp, Option.isNone_some, Bool.and_false, Bool.false_eq_true, if_false]

/-- The state of a split parked at a population, the run of its troupe at an end, holds the population at its scope and the
split at it. -/
theorem State.parkedAt_reads {s : State} {c : Ctx} {T : Troupe} (hT : s.trp? c.b c.t = some T) (bl : Bool) (I : Inst) :
    ∃ (B : Block) (U : Troupe),
      ((s.parkedAt c bl I).onTrp c fun T => { T with run := none }).blocks.find c.b = some B ∧
      B.troupes.find c.t = some U ∧ (if bl then B.inst else U.inst) = some I ∧ U.regs = T.regs ∧ U.lm = T.lm ∧
      U.splits = T.splits.mod c.e fun S => { S with wait := .pop bl true, only := none } := by
  obtain ⟨B, hB, hT⟩ := State.trp?_eq_some.1 hT
  simp only [State.parkedAt, State.onSplit, State.modSplit, State.onTrp, State.modTrp_modTrp]
  cases bl with
  | false =>
    simp only [State.modInst, Bool.false_eq_true, if_false, State.modTrp_modTrp]
    obtain ⟨B', hB', hU, -⟩ := State.modTrp_find hB hT _
    exact ⟨B', _, hB', hU, rfl, rfl, rfl, rfl⟩
  | true =>
    have hB1 : (s.modBlk c.b fun B => { B with inst := some I }).blocks.find c.b = some { B with inst := some I } := by
      simp [hB]
    obtain ⟨B', hB', hU, hI⟩ := State.modTrp_find hB1 hT _
    exact ⟨B', _, hB', hU, hI, rfl, rfl, rfl⟩

@[simp] theorem Inst.arrive_arrived (I : Inst) (t : Nat) (own act : Mask) (vals : Nat → Nat × Nat) :
    (I.arrive t own act vals).arrived.get 0 t = I.arrived.get 0 t ||| (own &&& I.members.get 0 t) :=
  (Tab.get_put ..).trans (if_pos rfl)
@[simp] theorem Inst.arrive_active (I : Inst) (t : Nat) (own act : Mask) (vals : Nat → Nat × Nat) :
    (I.arrive t own act vals).active.get 0 t = I.active.get 0 t ||| (act &&& I.members.get 0 t) :=
  (Tab.get_put ..).trans (if_pos rfl)

/-- A population has the members its scope has rows: with the whole mask, every live lane. -/
theorem Ctx.members_get (c : Ctx) (bl : Bool) (t : Nat) :
    (c.members bl 0xFFFFFFFF#32).get 0 t =
      if bl then ((c.blk.troupes.find t).map Troupe.lm).getD 0 else if t = c.t then c.trp.lm else 0 := by
  cases bl with
  | false =>
    have hall : (0xFFFFFFFF#32 : Mask) = BitVec.allOnes 32 := by decide
    simp only [Ctx.members, hall, BitVec.and_allOnes, Tab.get, Bool.false_eq_true, if_false]
  | true =>
    simp only [Ctx.members, if_true, Tab.get_eq, Tab.find_map]

/-! ## The relation instructions (13 R330) -/

/-- A split in the handler may issue no relation instruction (11 R279). -/
theorem Ctx.not_inHandler_of_relation {c : Ctx} {i : Instr} (h : c.causes i = []) (hi : i.isRelation = true) :
    c.trp.handler.map Handler.entry ≠ some c.e := by
  intro hh
  unfold Instr.isRelation at hi
  split at hi
  case h_7 => cases hi
  all_goals simp [Ctx.causes, hh] at h

theorem opened_not_inHandler_of_ready {s : State} {c : Ctx} {i : Instr} (hr : Ready s c i) (hi : i.isRelation = true) :
    (c.opened i).trp.handler.map Handler.entry ≠ some c.e := by
  obtain ⟨-, hcauses, -⟩ := hr
  rw [Ctx.opened_handler]
  exact Ctx.not_inHandler_of_relation hcauses hi

/-- A relation instruction has two words. -/
theorem Instr.size_of_relation {i : Instr} (hi : i.isRelation = true) : i.size = 2 := by
  unfold Instr.isRelation at hi
  split at hi
  case h_7 => cases hi
  all_goals rfl

/-- How a relation instruction issues where `ok` holds: it joins the population of its scope, in a state that holds its
troupe and memory as they were. -/
def IssuesAsRelation (i : Instr) (f : UW) (ok : Ctx → Prop) : Prop :=
  ∀ s c, Ready s c i → ok c → ∃ s1 s2 : State, s2.mem = s.mem ∧ s2.trp? c.b c.t = some (c.opened i).trp ∧
    exec i s = .next (s1.finish (c.opened i) i
      (s2.joinInst (c.opened i) i (f.bit 23) 0xFFFFFFFF#32 c.active fun _ => (0, 0)))

theorem State.joinInst_ne_stall (s : State) (c : Ctx) (i : Instr) (bl : Bool) (mask act : Mask)
    (vals : Nat → Nat × Nat) : s.joinInst c i bl mask act vals ≠ .stall := by
  unfold State.joinInst
  dsimp only
  repeat' split
  all_goals exact Res.noConfusion

/-- A word whose effect is to join a population, once `pre` has changed nothing that the joining reads. -/
theorem IssuesAsRelation.of {i : Instr} {f : UW} {ok : Ctx → Prop} (eff : Ctx → State → Res)
    (hx : ∀ s, exec i s = s.issueWord i eff) (pre : Ctx → State → State) (hmem : ∀ c s, (pre c s).mem = s.mem)
    (htrp : ∀ c s, (pre c s).trp? c.b c.t = s.trp? c.b c.t)
    (he : ∀ s c, ok c → eff (c.opened i) s =
      (pre c s).joinInst (c.opened i) i (f.bit 23) 0xFFFFFFFF#32 c.active fun _ => (0, 0)) :
    IssuesAsRelation i f ok := by
  intro s c hr hok
  obtain ⟨hB, hT, -, -⟩ := State.focus?_holds hr.1
  refine ⟨s.onTrp c fun T => T.openRun i c.e c.sp.pc, pre c (s.onTrp c fun T => T.openRun i c.e c.sp.pc), ?_, ?_, ?_⟩
  · rw [hmem]; rfl
  · rw [htrp]; exact State.trp?_modTrp (State.trp?_of_find hB hT) _
  · rw [hx, State.issueWord_ready s c i eff hr, he _ c hok]
    split
    case h_1 h => exact (State.joinInst_ne_stall _ _ _ _ _ _ _ h).elim
    case h_2 => rfl

/-- Discarding a JOIN's cursor leaves the troupes of the block. -/
theorem State.dropCursor_trp? (s : State) (c : Ctx) (keep : Bool) (b t : Nat) (hb : b = c.b) :
    (s.dropCursor c keep).trp? b t = s.trp? b t := by
  subst hb
  exact State.trp?_modBlk _ _ _ _ fun _ => rfl

/-- A relation instruction without a shadow-troupe bar in its way joins its population. -/
theorem relFx_eq {i : Instr} {f : UW} {bar : Bool} {c : Ctx} (s : State) (h : (bar && c.task.launch.shd) = false) :
    relFx i f bar (c.opened i) s = s.joinInst (c.opened i) i (f.bit 23) 0xFFFFFFFF#32 c.active fun _ => (0, 0) := by
  simp only [relFx, Ctx.opened_task, h, Bool.false_eq_true, if_false, Ctx.active_opened]

theorem group_issues (f : UW) : IssuesAsRelation (.group f) f fun c => c.task.launch.shd = false :=
  .of _ (fun s => (rfl : execGroup f s = _)) (fun _ s => s) (fun _ _ => rfl) (fun _ _ => rfl)
    fun s _ h => relFx_eq s h

theorem build_issues (f : UW) : IssuesAsRelation (.build f) f fun _ => True :=
  .of _ (fun s => (rfl : execBuild f s = _)) (fun _ s => s) (fun _ _ => rfl) (fun _ _ => rfl)
    fun s _ _ => relFx_eq s rfl

theorem rcount_issues (f : UW) : IssuesAsRelation (.rcount f) f fun _ => True :=
  .of _ (fun s => (rfl : execRcount f s = _)) (fun _ s => s) (fun _ _ => rfl) (fun _ _ => rfl)
    fun s _ _ => relFx_eq s rfl

theorem expand_issues (f : UW) : IssuesAsRelation (.expand f) f fun c => c.task.launch.shd = false :=
  .of _ (fun s => (rfl : execExpand f s = _)) (fun c s => s.dropCursor c false) (fun _ _ => rfl)
    (fun _ _ => State.dropCursor_trp? _ _ _ _ _ rfl) fun s c h => relFx_eq (s.dropCursor c false) h

theorem repack_issues (f : UW) : IssuesAsRelation (.repack f) f fun c => c.task.launch.shd = false :=
  .of _ (fun s => (rfl : execRepack f s = _)) (fun c s => s.dropCursor c false) (fun _ _ => rfl)
    (fun _ _ => State.dropCursor_trp? _ _ _ _ _ rfl) fun s c h => relFx_eq (s.dropCursor c false) h

theorem join_issues (f : UW) :
    IssuesAsRelation (.join f) f fun c => c.task.launch.shd = false ∧ f.f 7 1 + 1 < c.nregs := by
  refine .of _ (fun s => (rfl : execJoin f s = _)) (fun c s => s.dropCursor c true) (fun _ _ => rfl)
    (fun _ _ => State.dropCursor_trp? _ _ _ _ _ rfl) fun s c ⟨h, hreg⟩ => ?_
  have hn : ¬ f.f 7 1 + 1 ≥ (c.opened (.join f)).nregs := Nat.not_le.2 hreg
  simp only [hn, if_false]
  exact relFx_eq (s.dropCursor c true) h

/-- A split whose run has just begun, or that is in none, is where it was once its run is abandoned. -/
theorem Troupe.abandon_find {T : Troupe} {e : Nat} {S : Split} (hS : T.splits.find e = some S)
    (hr : ∀ r, T.run = some r → r.first = S.pc) : (T.abandon e).splits.find e = some S := by
  unfold Troupe.abandon
  split
  case h_1 => exact hS
  case h_2 r h =>
    dsimp only
    rw [Tab.find_mod_same, hS, Option.map_some, hr r h]

@[simp] theorem Troupe.endStep_splits (T : Troupe) : T.endStep.splits = T.splits := by
  unfold Troupe.endStep
  repeat' split
  all_goals rfl

/-- A run that a word opens begins at the word. -/
theorem Ctx.opened_run_first {c : Ctx} {i : Instr} {r : Run} (hn : c.trp.run = none)
    (hr : (c.opened i).trp.run = some r) : r.first = c.sp.pc := by
  simp only [Ctx.opened, Troupe.openRun, hn] at hr
  split at hr
  case isTrue => cases hr; rfl
  case isFalse => rw [hn] at hr; cases hr

/-- The splits of a troupe whose issuing split has parked before its word's effect. -/
theorem State.finish_park_trp? {s2 : State} {c : Ctx} {T : Troupe} (s1 : State) (i : Instr)
    (hT : s2.trp? c.b c.t = some T) :
    ∃ U, (s1.finish c i (.park s2)).trp? c.b c.t = some U ∧ U.splits = (T.abandon c.e).splits := by
  refine ⟨_, State.trp?_modTrp hT _, ?_⟩
  dsimp only
  split
  case isTrue => rfl
  case isFalse => exact Troupe.endStep_splits _

/-- A word `i` that leaves its split parked at a population of its scope of which `p` holds: lanes, registers and memory
stand. -/
def ArrivesAt (i : Instr) (s : State) (c : Ctx) (bl : Bool) (p : Inst → Prop) : Prop :=
  ∃ (u : State) (B : Block) (T : Troupe) (I : Inst),
    exec i s = .next ((u.settleTrp c.b c.t).stepEnds c.b c.t c.e c.sp.own) ∧ u.blocks.find c.b = some B ∧
    B.troupes.find c.t = some T ∧ (if bl then B.inst else T.inst) = some I ∧ p I ∧ u.mem = s.mem ∧
    T.regs = c.trp.regs ∧ T.lm = c.trp.lm ∧
    T.splits.find c.e = some { c.sp with wait := .pop bl true, only := none }

theorem ArrivesAt.of_parkedAt {i : Instr} {s s1 s2 : State} {c : Ctx} {bl : Bool} {p : Inst → Prop} {I : Inst}
    (hf : s.focus? = some c) (hm : s2.mem = s.mem) (hT : s2.trp? c.b c.t = some (c.opened i).trp)
    (hx : exec i s = .next (s1.finish (c.opened i) i (.went (s2.parkedAt c bl I)))) (hp : p I) :
    ArrivesAt i s c bl p := by
  obtain ⟨-, -, -, hS⟩ := State.focus?_holds hf
  obtain ⟨B, U, hB, hU, hI, hregs, hlm, hsplits⟩ := State.parkedAt_reads hT bl I
  refine ⟨_, B, U, I, hx, hB, hU, hI, hp, ?_, ?_, ?_, ?_⟩
  · rw [← hm]; cases bl <;> rfl
  · rw [hregs, Ctx.opened_regs]
  · rw [hlm, Ctx.opened_lm]
  · rw [hsplits, Ctx.opened_splits, Ctx.find_mod_split hS, if_pos rfl]

section Issues
variable {i : Instr} {f : UW} {ok : Ctx → Prop} {s : State} {c : Ctx}

/-- 01 R33: with no population open at its scope, the word opens one and its split arrives at it. -/
theorem IssuesAsRelation.opens (hi : IssuesAsRelation i f ok) (hrel : i.isRelation = true) (hr : Ready s c i) (hok : ok c)
    (hopen : (if f.bit 23 then c.blk.inst else c.trp.inst) = none) (hh : i.h = false) :
    ArrivesAt i s c (f.bit 23) fun I => I.pc = c.sp.pc ∧ I.size = 2 ∧ I.instr = i ∧ I.block = f.bit 23 ∧
      I.opener = c.t ∧ I.started = false ∧ I.arrived.get 0 c.t = c.sp.own &&& c.trp.lm ∧
      I.active.get 0 c.t = c.active &&& c.trp.lm ∧
      ∀ t, I.members.get 0 t = if f.bit 23 then ((c.blk.troupes.find t).map Troupe.lm).getD 0
        else if t = c.t then c.trp.lm else 0 := by
  obtain ⟨s1, s2, hm, hT, hx⟩ := hi s c hr hok
  obtain ⟨-, hct, -, -⟩ := State.focus?_holds hr.1
  have hn := opened_not_inHandler_of_ready hr hrel
  have hmine : (c.members (f.bit 23) 0xFFFFFFFF#32).get 0 c.t = c.trp.lm := by
    rw [Ctx.members_get, hct]
    cases f.bit 23 <;> simp
  rw [State.joinInst_opens _ _ _ hh hn ((Ctx.inst_opened ..).trans hopen)] at hx
  refine ArrivesAt.of_parkedAt hr.1 hm hT hx ⟨rfl, Instr.size_of_relation hrel, rfl, rfl, rfl, rfl, ?_, ?_, fun t => ?_⟩
  · simp only [Inst.arrive_arrived, Ctx.opened_t, Ctx.members_opened, hmine, Ctx.opened_sp, Tab.get_nil]
    exact BitVec.zero_or
  · simp only [Inst.arrive_active, Ctx.opened_t, Ctx.members_opened, hmine, Tab.get_nil]
    exact BitVec.zero_or
  · simp only [Inst.arrive, Ctx.members_opened, Ctx.members_get]

/-- 01 R34: at the open population of its own word the split joins those that have arrived. -/
theorem IssuesAsRelation.arrives (hi : IssuesAsRelation i f ok) (hrel : i.isRelation = true) (hr : Ready s c i)
    (hok : ok c) {J : Inst} (hopen : (if f.bit 23 then c.blk.inst else c.trp.inst) = some J) (hpc : J.pc = c.sp.pc) :
    ArrivesAt i s c (f.bit 23) fun I =>
      I.arrived.get 0 c.t = J.arrived.get 0 c.t ||| (c.sp.own &&& J.members.get 0 c.t) ∧
      I.active.get 0 c.t = J.active.get 0 c.t ||| (c.active &&& J.members.get 0 c.t) ∧
      I.members = J.members ∧ I.opener = J.opener ∧ I.instr = J.instr := by
  obtain ⟨s1, s2, hm, hT, hx⟩ := hi s c hr hok
  have hn := opened_not_inHandler_of_ready hr hrel
  rw [State.joinInst_arrives _ _ _ hn ((Ctx.inst_opened ..).trans hopen) hpc] at hx
  exact ArrivesAt.of_parkedAt hr.1 hm hT hx ⟨Inst.arrive_arrived .., Inst.arrive_active .., rfl, rfl, rfl⟩

/-- 01 R34: behind the population of another word the split waits at its own, and a run that its word began is abandoned. -/
theorem IssuesAsRelation.waits (hi : IssuesAsRelation i f ok) (hrel : i.isRelation = true) (hr : Ready s c i)
    (hok : ok c) {J : Inst} (hopen : (if f.bit 23 then c.blk.inst else c.trp.inst) = some J) (hpc : J.pc ≠ c.sp.pc)
    (hrun : c.trp.run = none) : ∃ (t : State) (T : Troupe), exec i s = .next t ∧ t.trp? c.b c.t = some T ∧
      T.splits.find c.e = some { c.sp with wait := .pop (f.bit 23) false } ∧ t.mem = s.mem := by
  obtain ⟨s1, s2, hm, hT, hx⟩ := hi s c hr hok
  obtain ⟨-, -, -, hS⟩ := State.focus?_holds hr.1
  have hn := opened_not_inHandler_of_ready hr hrel
  rw [State.joinInst_waits _ _ _ hn ((Ctx.inst_opened ..).trans hopen) hpc] at hx
  obtain ⟨U, hU, hsplits⟩ := State.finish_park_trp? (c := c.opened i) s1 i (State.trp?_modTrp hT fun T =>
    { T with splits := T.splits.mod c.e fun S => { S with wait := .pop (f.bit 23) false } })
  refine ⟨_, U, hx, hU, ?_, hm⟩
  rw [hsplits]
  refine Troupe.abandon_find ?_ fun r hr => Ctx.opened_run_first hrun hr
  dsimp only
  rw [Ctx.opened_splits]
  exact (Ctx.find_mod_split hS _ c.e).trans (if_pos rfl)

end Issues

/-! ## Executing a population (01 R34, R35, 06 R185 to R188) -/

section Executes
variable {s : State} {b t : Nat} {sc : Scope} {I : Inst} {B : Block} {K : Task}

/-- What a population comes to, by its effect: why it cannot go on, or its completion. -/
theorem State.runInst_eq (hB : s.blocks.find b = some B) (hK : s.tasks.find B.task = some K) :
    s.runInst b t I = (I.effect b K s).map fun x => x.2.completeInst b t I K.launch B.troupes x.1.1 x.1.2 := by
  simp only [State.runInst, hB, hK]
  cases I.effect b K s <;> rfl

/-- A population whose members have not all arrived, or that has started, does not start. -/
theorem populationExecute_waits (hI : s.instAt b sc = some (t, I)) (hB : s.blocks.find b = some B)
    (hw : I.started = true ∨ B.allArrived I = false) : exec (.populationExecute b sc) s = .next s := by
  have hwait : (I.started || !B.allArrived I) = true := by
    rcases hw with h | h <;> simp [h]
  show execPopulationExecute b sc s = _
  simp only [execPopulationExecute, hI, hB, hwait, if_true]

/-- A population that has not started does not complete. -/
theorem populationComplete_waits (hI : s.instAt b sc = some (t, I)) (hs : I.started = false) :
    exec (.populationComplete b sc) s = .next s := by
  show execPopulationComplete b sc s = _
  simp only [execPopulationComplete, hI, hs, Bool.not_false, if_true]

/-- A population that cannot go on now: it fails, or waits for a page, or for the store buffer. -/
def State.haltInst (s : State) (b t : Nat) (I : Inst) : PopErr → State
  | .fail r => s.failInst b t I r
  | .lack k w => s.lackPage b t I k w
  | .full => s.overflow b

theorem populationExecute_error (hI : s.instAt b sc = some (t, I)) (hB : s.blocks.find b = some B)
    (hK : s.tasks.find B.task = some K) {e : PopErr} (he : I.effect b K s = .error e)
    (hw : ¬ (I.started = true ∨ B.allArrived I = false)) :
    exec (.populationExecute b sc) s = .next (s.haltInst b t I e) := by
  have hgo : (I.started || !B.allArrived I) = false := by simpa using hw
  show execPopulationExecute b sc s = _
  simp only [execPopulationExecute, hI, hB, hgo, Bool.false_eq_true, if_false, State.runInst_eq hB hK, he]
  cases e <;> rfl

theorem populationComplete_error (hI : s.instAt b sc = some (t, I)) (hB : s.blocks.find b = some B)
    (hK : s.tasks.find B.task = some K) {e : PopErr} (he : I.effect b K s = .error e) (hs : I.started = true) :
    exec (.populationComplete b sc) s = .next (s.haltInst b t I e) := by
  show execPopulationComplete b sc s = _
  simp only [execPopulationComplete, hI, hs, Bool.not_true, Bool.false_eq_true, if_false, State.runInst_eq hB hK, he]
  cases e <;> rfl

theorem populationExecute_ok (hI : s.instAt b sc = some (t, I)) (hB : s.blocks.find b = some B)
    (hK : s.tasks.find B.task = some K) {x : (List Birth × Tab Mask) × State} (he : I.effect b K s = .ok x)
    (hw : ¬ (I.started = true ∨ B.allArrived I = false)) :
    exec (.populationExecute b sc) s =
      .next (s.modInst b t I.block fun o => o.map fun I => { I with started := true, lack := none }) := by
  have hgo : (I.started || !B.allArrived I) = false := by simpa using hw
  show execPopulationExecute b sc s = _
  simp only [execPopulationExecute, hI, hB, hgo, Bool.false_eq_true, if_false, State.runInst_eq hB hK, he]
  rfl

theorem populationComplete_ok (hI : s.instAt b sc = some (t, I)) (hB : s.blocks.find b = some B)
    (hK : s.tasks.find B.task = some K) {x : (List Birth × Tab Mask) × State} (he : I.effect b K s = .ok x)
    (hs : I.started = true) :
    exec (.populationComplete b sc) s = .next (x.2.completeInst b t I K.launch B.troupes x.1.1 x.1.2).tock := by
  show execPopulationComplete b sc s = _
  simp only [execPopulationComplete, hI, hs, Bool.not_true, Bool.false_eq_true, if_false, State.runInst_eq hB hK, he]
  rfl

/-- 01 R35, 06 R188: a population whose awaited members cannot move closes with COLLSTALL. -/
theorem collstallClose_fails (hI : s.instAt b sc = some (t, I)) (hB : s.blocks.find b = some B) {pc : Word}
    (hp : B.stalled I = some pc) :
    exec (.collstallClose b sc) s = .next (s.failInst b t I ⟨0x0F, 0, pc.toNat⟩) := by
  show execCollstallClose b sc s = _
  simp only [execCollstallClose, hI, hB, hp]

theorem collstallClose_stays (hI : s.instAt b sc = some (t, I)) (hB : s.blocks.find b = some B)
    (hp : B.stalled I = none) : exec (.collstallClose b sc) s = .next s := by
  show execCollstallClose b sc s = _
  simp only [execCollstallClose, hI, hB, hp]

end Executes

/-! ## Queues (06 R185, R186) -/

section Queues
variable {s : State} {b t e q : Nat} {push : Bool} {m : Mask} {B : Block} {T : Troupe} {S : Split}

theorem queueWake_eq (hB : s.blocks.find b = some B) (hT : B.troupes.find t = some T) (hS : T.splits.find e = some S)
    (hw : S.wait = .queue q push m) : exec (.queueWake b t e) s =
      .next (if s.queueReady b t e q push m then s.modSplit b t e fun S => { S with wait := .ready } else s) := by
  show execQueueWake b t e s = _
  simp only [execQueueWake, State.trp?_of_find hB hT, Option.bind_some, hS, Option.map_some, hw]
  split <;> rfl

/-- 06 R185: a split whose queue is ready issues again, and nothing else changes. -/
theorem queueWake_wakes (hB : s.blocks.find b = some B) (hT : B.troupes.find t = some T)
    (hS : T.splits.find e = some S) (hw : S.wait = .queue q push m) (hq : s.queueReady b t e q push m = true) :
    ∃ (u : State) (U : Troupe), exec (.queueWake b t e) s = .next u ∧ u.trp? b t = some U ∧
      U.splits.find e = some { S with wait := .ready } ∧ (∀ k, k ≠ e → U.splits.find k = T.splits.find k) ∧
      U.regs = T.regs ∧ U.q = T.q ∧ { u with blocks := s.blocks } = s := by
  have hfind := Tab.find_mod T.splits e fun S => { S with wait := .ready }
  refine ⟨s.modSplit b t e fun S => { S with wait := .ready }, _, (queueWake_eq hB hT hS hw).trans (by rw [if_pos hq]),
    State.trp?_modTrp (State.trp?_of_find hB hT) _, ?_, fun k hk => ?_, rfl, rfl, rfl⟩
  · exact (hfind e).trans (by rw [if_pos rfl, hS, Option.map_some])
  · exact (hfind k).trans (if_neg hk)

/-- The younger of two splits of which the first satisfies `p`, where the second does: a step of `Troupe.youngestSplit`. -/
def youngerSplit (p : Split → Bool) (r : Option (Nat × Split)) (x : Nat × Split) : Option (Nat × Split) :=
  if !p x.2 then r
  else match r with
    | none => some x
    | some y => if y.2.age < x.2.age then some x else some y

theorem Troupe.youngestSplit_eq_foldl (T : Troupe) (p : Split → Bool) :
    T.youngestSplit p = (T.splits.foldl (youngerSplit p) none).map Prod.fst := rfl

/-- While every split that satisfies `p` is older than `a`, so is the youngest of them. -/
theorem foldl_youngerSplit_lt {p : Split → Bool} {a : Nat} {xs : List (Nat × Split)}
    (hx : ∀ x ∈ xs, p x.2 = true → x.2.age < a) (r : Option (Nat × Split)) (hr : ∀ y, r = some y → y.2.age < a) :
    ∀ y, xs.foldl (youngerSplit p) r = some y → y.2.age < a := by
  induction xs generalizing r with
  | nil => exact hr
  | cons x xs ih =>
    refine ih (fun z hz => hx z (List.mem_cons_of_mem _ hz)) _ fun y hy => ?_
    unfold youngerSplit at hy
    split at hy
    case isTrue => exact hr y hy
    case isFalse hp =>
      have hxa := hx x (List.mem_cons_self ..) (by simpa using hp)
      split at hy
      · cases hy; exact hxa
      · split at hy <;> cases hy
        · exact hxa
        · exact hr _ rfl

/-- A split younger than every other that satisfies `p` stays the youngest. -/
theorem foldl_youngerSplit_stays {p : Split → Bool} {z : Nat × Split} {xs : List (Nat × Split)}
    (hx : ∀ x ∈ xs, p x.2 = true → x.2.age < z.2.age) : xs.foldl (youngerSplit p) (some z) = some z := by
  induction xs with
  | nil => rfl
  | cons x xs ih =>
    have hstep : youngerSplit p (some z) x = some z := by
      unfold youngerSplit
      split
      case isTrue => rfl
      case isFalse hp =>
        have hxz := hx x (List.mem_cons_self ..) (by simpa using hp)
        exact if_neg (Nat.not_lt.2 (Nat.le_of_lt hxz))
    rw [List.foldl_cons, hstep]
    exact ih fun y hy => hx y (List.mem_cons_of_mem _ hy)

/-- The youngest split that satisfies `p` is the one that every other such split is older than. -/
theorem Troupe.youngestSplit_eq_some {p : Split → Bool} (hn : (T.splits.map Prod.fst).Nodup)
    (hS : T.splits.find e = some S) (hp : p S = true)
    (hy : ∀ k R, T.splits.find k = some R → k ≠ e → p R = true → R.age < S.age) : T.youngestSplit p = some e := by
  obtain ⟨before, after, hsplit⟩ := List.append_of_mem (Tab.mem_of_find hS)
  have hother : ∀ x ∈ T.splits, x.1 ≠ e → p x.2 = true → x.2.age < S.age :=
    fun x hx => hy x.1 x.2 (Tab.find_of_mem hn hx)
  rw [hsplit] at hn hother
  have hkeys : e ∉ before.map Prod.fst ∧ e ∉ after.map Prod.fst := by
    simp only [List.map_append, List.map_cons, List.nodup_append, List.nodup_cons] at hn
    obtain ⟨-, ⟨hafter, -⟩, hdisjoint⟩ := hn
    exact ⟨fun h => hdisjoint e h e (List.mem_cons_self ..) rfl, hafter⟩
  have hbefore : ∀ x ∈ before, p x.2 = true → x.2.age < S.age := fun x hx =>
    hother x (List.mem_append_left _ hx) fun he => hkeys.1 (he ▸ List.mem_map_of_mem hx)
  have hafter : ∀ x ∈ after, p x.2 = true → x.2.age < S.age := fun x hx =>
    hother x (List.mem_append_right _ (List.mem_cons_of_mem _ hx)) fun he => hkeys.2 (he ▸ List.mem_map_of_mem hx)
  have hmid : youngerSplit p (before.foldl (youngerSplit p) none) (e, S) = some (e, S) := by
    have hlt := foldl_youngerSplit_lt hbefore none nofun
    unfold youngerSplit
    rw [hp]
    split
    case isTrue h => cases h
    case isFalse =>
      split
      case h_1 => rfl
      case h_2 y hy => exact if_pos (hlt y hy)
  rw [Troupe.youngestSplit_eq_foldl, hsplit, List.foldl_append, List.foldl_cons, hmid, foldl_youngerSplit_stays hafter]
  rfl

/-- Whether a split waits on a queue. -/
def Split.onQueue (S : Split) : Bool :=
  match S.wait with
  | .queue _ _ _ => true
  | _ => false

theorem Split.wait_of_onQueue {S : Split} (h : S.onQueue = true) : ∃ q p m, S.wait = .queue q p m := by
  unfold Split.onQueue at h
  split at h
  case h_1 q p m hw => exact ⟨q, p, m, hw⟩
  case h_2 => cases h

/-- 06 R186: a shadow pair that can move, or has no such troupe, does not fault. -/
theorem qdryDeadlock_moves (hB : s.blocks.find b = some B) (hd : s.pairDry b B t = false) :
    exec (.qdryDeadlock b t) s = .next s := by
  show execQdryDeadlock b t s = _
  simp only [execQdryDeadlock, hB, hd, Bool.not_false, if_true]

/-- 06 R186: the youngest split that waits on a queue, of the compute troupe of a pair that cannot move, faults QDRY. -/
theorem qdryDeadlock_faults (hB : s.blocks.find b = some B) (hT : B.troupes.find t = some T)
    (hS : T.splits.find e = some S) (hw : S.wait = .queue q push m) (hd : s.pairDry b B t = true)
    (hn : (T.splits.map Prod.fst).Nodup)
    (hy : ∀ k R, T.splits.find k = some R → k ≠ e → (∃ q p m, R.wait = .queue q p m) → R.age < S.age) :
    ∃ skip, exec (.qdryDeadlock b t) s = .next (s.takeFault b t e ⟨0x10, 0, 1⟩ S.pc S.pc skip) := by
  have hyoung : T.youngestSplit Split.onQueue = some e :=
    Troupe.youngestSplit_eq_some hn hS (by rw [Split.onQueue, hw]) fun k R hR hk hq =>
      hy k R hR hk (Split.wait_of_onQueue hq)
  show ∃ skip, execQdryDeadlock b t s = _
  unfold execQdryDeadlock
  simp only [hB, hd, hT, Bool.not_true, Bool.false_eq_true, if_false]
  split
  case h_1 h => cases h.symm.trans hyoung
  case h_2 e' h =>
    cases h.symm.trans hyoung
    simp only [hS]
    exact ⟨_, rfl⟩

end Queues

/-- Settles O43. Each relation instruction joins its population; the events run by the population's effect or the queues. -/
theorem relationInstructionsOpenAndExecute : Obligations.RelationInstructionsOpenAndExecute := by
  unfold Obligations.RelationInstructionsOpenAndExecute
  have issues {i : Instr} {f : UW} {ok : Ctx → Prop} (hi : IssuesAsRelation i f ok) (hrel : i.isRelation = true)
      (s : State) (c : Ctx) (hr : Ready s c i) (hok : ok c) := And.intro (hi.opens hrel hr hok)
    (And.intro (fun J => hi.arrives (J := J) hrel hr hok) fun J => hi.waits (J := J) hrel hr hok)
  refine ⟨⟨fun f => issues (group_issues f) rfl, fun f => issues (build_issues f) rfl,
    fun f => issues (join_issues f) rfl, fun f => issues (expand_issues f) rfl, fun f => issues (repack_issues f) rfl,
    fun f => issues (rcount_issues f) rfl⟩, ?_, ?_⟩
  · intro s b t sc I B K hI hB hK
    refine ⟨populationExecute_waits hI hB, populationComplete_waits hI,
      fun r he => ⟨populationExecute_error hI hB hK he, populationComplete_error hI hB hK he⟩,
      fun k w he => ⟨populationExecute_error hI hB hK he, populationComplete_error hI hB hK he⟩,
      fun he => ⟨populationExecute_error hI hB hK he, populationComplete_error hI hB hK he⟩,
      fun x he => ⟨populationExecute_ok hI hB hK he, populationComplete_ok hI hB hK he⟩,
      fun pc hp => collstallClose_fails hI hB hp, collstallClose_stays hI hB⟩
  · intro s b t e q push m B T S hB hT hS hw
    refine ⟨fun hq => ?_, queueWake_wakes hB hT hS hw, qdryDeadlock_moves hB, qdryDeadlock_faults hB hT hS hw⟩
    rw [queueWake_eq hB hT hS hw, hq]
    rfl

end Sys2Proof.Machine

/-! PROOFS. The statement of 03 and 14 about the completion of queued matrix instructions (O49). -/

namespace Sys2Proof

/-! ## Folds and tables -/

/-- A fold whose steps keep a reading keeps it. -/
theorem foldl_reading_stays {σ α β : Type*} {f : σ → α → σ} {obs : σ → β} {xs : List α}
    (h : ∀ s, ∀ x ∈ xs, obs (f s x) = obs s) (s : σ) : obs (xs.foldl f s) = obs s :=
  List.foldlRecOn xs f (motive := fun t => obs t = obs s) rfl fun t ht x hx => (h t x hx).trans ht

/-- What a fold leaves of a reading that some of its steps, the hits, set to one value and the others keep, while an
invariant of the steps holds. -/
theorem foldl_reading_of_hit {σ α β : Type*} {f : σ → α → σ} {obs : σ → β} {inv : σ → Prop} {hit : α → Prop} {v : β}
    {xs : List α} (hinv : ∀ s, ∀ x ∈ xs, inv s → inv (f s x)) (hhit : ∀ s, ∀ x ∈ xs, inv s → hit x → obs (f s x) = v)
    (hmiss : ∀ s, ∀ x ∈ xs, inv s → ¬ hit x → obs (f s x) = obs s) (hex : ∃ x ∈ xs, hit x) (s : σ) (hs : inv s) :
    obs (xs.foldl f s) = v := by
  obtain ⟨x, hx, hxhit⟩ := hex
  obtain ⟨before, rest, rfl⟩ := List.append_of_mem hx
  have hbefore : inv (before.foldl f s) :=
    List.foldlRecOn before f (motive := inv) hs fun t ht y hy => hinv t y (List.mem_append_left _ hy) ht
  have hafter : inv (rest.foldl f (f (before.foldl f s) x)) ∧ obs (rest.foldl f (f (before.foldl f s) x)) = v := by
    refine List.foldlRecOn rest f (motive := fun t => inv t ∧ obs t = v)
      ⟨hinv _ x hx hbefore, hhit _ x hx hbefore hxhit⟩ fun t ht y hy => ?_
    obtain ⟨hinvt, hv⟩ := ht
    have hmem := List.mem_append_right before (List.mem_cons_of_mem x hy)
    refine ⟨hinv t y hmem hinvt, ?_⟩
    by_cases h : hit y
    · exact hhit t y hmem hinvt h
    · rw [hmiss t y hmem hinvt h, hv]
  rw [List.foldl_append, List.foldl_cons]
  exact hafter.2

/-- A fold of changes, each at a key of its own: what it leaves at one of the keys. -/
theorem foldl_reading_at_key {σ α κ β : Type*} {f : σ → α → σ} {key : α → κ} {read : σ → κ → β} {g : α → β → β}
    {xs : List α} (hsame : ∀ s x, read (f s x) (key x) = g x (read s (key x)))
    (hother : ∀ s x k, k ≠ key x → read (f s x) k = read s k) (hn : (xs.map key).Nodup) {a : α} (ha : a ∈ xs) (s : σ) :
    read (xs.foldl f s) (key a) = g a (read s (key a)) := by
  induction xs generalizing s with
  | nil => cases ha
  | cons x xs ih =>
    obtain ⟨hx, hn⟩ := List.nodup_cons.1 hn
    rw [List.foldl_cons]
    rcases List.mem_cons.1 ha with rfl | ha
    · rw [foldl_reading_stays (obs := fun s => read s (key a)), hsame]
      exact fun s y hy => hother s y _ fun h => hx (h ▸ List.mem_map_of_mem hy)
    · rw [ih hn ha, hother]
      exact fun h => hx (h ▸ List.mem_map_of_mem ha)

/-- A fold of changes that may fail, none of which does here. -/
theorem foldl_option_pair {α β σ : Type*} {f : Option (β × σ) → α → Option (β × σ)} {g : β → α → β} {s : σ} {xs : List α}
    (h : ∀ b, ∀ x ∈ xs, f (some (b, s)) x = some (g b x, s)) (b : β) :
    xs.foldl f (some (b, s)) = some (xs.foldl g b, s) := by
  induction xs generalizing b with
  | nil => rfl
  | cons x xs ih =>
    rw [List.foldl_cons, h b x (List.mem_cons_self ..), ih fun b y hy => h b y (List.mem_cons_of_mem _ hy)]
    rfl

/-- A table after values have been put at keys: at a key they agree on, that value. -/
theorem Tab.find_foldl_put {α β : Type} {key : β → Nat} {val : β → α} {xs : List β} {k : Nat} {v : α}
    (hex : ∃ x ∈ xs, key x = k) (hv : ∀ x ∈ xs, key x = k → val x = v) (t : Tab α) :
    (xs.foldl (fun t x => t.put (key x) (val x)) t).find k = some v := by
  refine foldl_reading_of_hit (obs := fun t : Tab α => t.find k) (inv := fun _ => True) (hit := fun x => key x = k)
    (fun _ _ _ _ => trivial) (fun t x hx _ hk => ?_) (fun t x hx _ hk => ?_) hex t trivial
  · subst hk
    exact (Tab.find_put_same ..).trans (congrArg some (hv x hx rfl))
  · exact Tab.find_put_other _ _ fun h => hk h.symm

/-- A table after values have been put at keys: elsewhere it is as it was. -/
theorem Tab.find_foldl_put_other {α β : Type} {key : β → Nat} {val : β → α} {xs : List β} {k : Nat}
    (h : ∀ x ∈ xs, key x ≠ k) (t : Tab α) : (xs.foldl (fun t x => t.put (key x) (val x)) t).find k = t.find k :=
  foldl_reading_stays (obs := fun t : Tab α => t.find k) (fun _ x hx => Tab.find_put_other _ _ (h x hx).symm) t

/-- A table of values with a default after values have been set at keys: at a key they agree on, that value. -/
theorem Tab.get_foldl_set {α β : Type} [DecidableEq α] {d : α} {key : β → Nat} {val : β → α} {xs : List β} {k : Nat} {v : α}
    (hex : ∃ x ∈ xs, key x = k) (hv : ∀ x ∈ xs, key x = k → val x = v) (t : Tab α) :
    (xs.foldl (fun t x => t.set d (key x) (val x)) t).get d k = v := by
  refine foldl_reading_of_hit (obs := fun t : Tab α => t.get d k) (inv := fun _ => True) (hit := fun x => key x = k)
    (fun _ _ _ _ => trivial) (fun t x hx _ hk => ?_) (fun t x hx _ hk => ?_) hex t trivial
  · subst hk
    exact (Tab.get_set_same ..).trans (hv x hx rfl)
  · exact Tab.get_set_other _ _ _ fun h => hk h.symm

/-- The numbers below a product, by quotient and remainder. -/
theorem range_mul_eq_flatMap (m n : Nat) :
    List.range (m * n) = (List.range m).flatMap fun p => (List.range n).map fun b => p * n + b := by
  induction m with
  | zero => simp
  | succ m ih => rw [Nat.succ_mul, List.range_add, ih, List.range_succ, List.flatMap_append]; simp

/-! ## Fields of a product (14 Table 14.4) -/

theorem UW.yc_lt (f : UW) : f.yc < 4 := (f.raw.extractLsb' 8 2).isLt

theorem UW.tiles_nodup (f : UW) : f.tiles.Nodup :=
  List.nodup_range.map (fun a b (h : f.tile + a = f.tile + b) => by omega)

theorem UW.mem_tiles {f : UW} {j : Nat} (h : j < 64 * Machine.geo f.yc) : f.tile + j / 64 ∈ f.tiles :=
  List.mem_map.2 ⟨j / 64, List.mem_range.2 (by omega), rfl⟩

end Sys2Proof

namespace Sys2Proof.Machine

/-! ## Lanes -/

theorem lanesOf_lt {m : Mask} : ∀ i ∈ lanesOf m, i < 32 := fun _ hi =>
  List.mem_range.1 (List.mem_of_mem_filter hi)

theorem lanesOf_nodup (a : Mask) : (lanesOf a).Nodup := List.nodup_range.filter _

/-- The lanes a mask names are none only where the mask is empty. -/
theorem lanesOf_ne_nil {a : Mask} (h : a ≠ 0) : lanesOf a ≠ [] := by
  intro hnil
  refine h (BitVec.eq_of_getLsbD_eq fun i hi => ?_)
  have := List.filter_eq_nil_iff.1 hnil i (List.mem_range.2 hi)
  simpa using this

/-! ## Units -/

theorem State.modUnit_unit (s : State) (c : Nat) (f : MatUnit → MatUnit) (k : Nat) :
    (s.modUnit c f).unit k = if k = c then f (s.unit c) else s.unit k := by
  unfold State.unit State.modUnit
  rw [State.modCore_core]
  split <;> rfl

@[simp] theorem State.modUnit_unit_same (s : State) (c : Nat) (f : MatUnit → MatUnit) :
    (s.modUnit c f).unit c = f (s.unit c) := by rw [State.modUnit_unit, if_pos rfl]

theorem State.modUnit_unit_other (s : State) {c k : Nat} (f : MatUnit → MatUnit) (h : k ≠ c) :
    (s.modUnit c f).unit k = s.unit k := by rw [State.modUnit_unit, if_neg h]

/-- `t` is `s` but for the contents of cores. -/
def OnlyCores (s t : State) : Prop := t = { s with cores := t.cores }

theorem OnlyCores.rfl {s : State} : OnlyCores s s := Eq.refl _

theorem OnlyCores.trans {s t u : State} (h : OnlyCores s t) (k : OnlyCores t u) : OnlyCores s u :=
  Eq.trans k (congrArg (fun x : State => { x with cores := u.cores }) h)

theorem OnlyCores.modUnit (s : State) (c : Nat) (f : MatUnit → MatUnit) : OnlyCores s (s.modUnit c f) := Eq.refl _

theorem OnlyCores.mem {s t : State} (h : OnlyCores s t) : t.mem = s.mem := (congrArg State.mem h :)
theorem OnlyCores.blocks {s t : State} (h : OnlyCores s t) : t.blocks = s.blocks := (congrArg State.blocks h :)
theorem OnlyCores.tasks {s t : State} (h : OnlyCores s t) : t.tasks = s.tasks := (congrArg State.tasks h :)
theorem OnlyCores.eng {s t : State} (h : OnlyCores s t) : t.eng = s.eng := (congrArg State.eng h :)

theorem OnlyCores.foldl {α : Type} {f : State → α → State} (xs : List α) (h : ∀ s x, OnlyCores s (f s x)) (s : State) :
    OnlyCores s (xs.foldl f s) :=
  List.foldlRecOn xs f (motive := OnlyCores s) .rfl fun t ht x _ => ht.trans (h t x)

/-- `t` is `s` but for the contents of cores, whose units are as they were. -/
structure SameUnits (s t : State) : Prop where
  only : OnlyCores s t
  unit : ∀ k, t.unit k = s.unit k

/-- Changes of units, each of another one: what they leave of one of them. -/
theorem foldl_modUnit_unit {α : Type} {key : α → Nat} {g : α → MatUnit → MatUnit} {us : List α}
    (hn : (us.map key).Nodup) {a : α} (ha : a ∈ us) (s : State) :
    (us.foldl (fun s u => s.modUnit (key u) (g u)) s).unit (key a) = g a (s.unit (key a)) :=
  foldl_reading_at_key (f := fun s u => s.modUnit (key u) (g u)) (read := State.unit) (fun s _ => s.modUnit_unit_same _ _)
    (fun s _ _ => s.modUnit_unit_other _) hn ha s

/-- Changes of units that keep some part of each. -/
theorem foldl_modUnit_part {α β : Type} {key : α → Nat} {g : α → MatUnit → MatUnit} {us : List α} {part : MatUnit → β}
    (h : ∀ u ∈ us, ∀ U, part (g u U) = part U) (k : Nat) (s : State) :
    part ((us.foldl (fun s u => s.modUnit (key u) (g u)) s).unit k) = part (s.unit k) :=
  foldl_reading_stays (obs := fun s : State => part (s.unit k)) (fun s u hu => by
    rw [State.modUnit_unit]
    split
    case isTrue hk => rw [h u hu, hk]
    case isFalse => rfl) s

theorem quadCores_nodup (q : Nat) : (quadCores q).Nodup := by
  simp [quadCores, coreAt, List.range_succ]; omega

theorem quadUnits_nodup (quad : Bool) (core : Nat) : (quadUnits quad core).Nodup := by
  unfold quadUnits
  split
  · exact quadCores_nodup _
  · exact List.nodup_singleton _

/-- The units an instruction works in, each with its quad position. -/
theorem quadUnits_zip_nodup (quad : Bool) (core : Nat) :
    (((quadUnits quad core).zip (List.range (quadUnits quad core).length)).map Prod.fst).Nodup := by
  rw [List.map_fst_zip (by simp)]
  exact quadUnits_nodup quad core

theorem mem_zip_range {us : List Nat} {p k : Nat} (h : us[p]? = some k) : (k, p) ∈ us.zip (List.range us.length) := by
  rw [List.range_eq_range', ← List.zipIdx_eq_zip_range']
  exact List.mk_mem_zipIdx_iff_getElem?.2 h

/-! ## Completion (14 R350, R366) -/

/-- The core's count of corrections set aside while its unit runs (03 R97, R98). -/
def State.uncounted (s : State) (core : Nat) : State := s.modCore core fun C => { C with cor := 0 }

theorem State.setCor_same (s : State) (core : Nat) (x : Word) : SameUnits s (s.modCore core fun C => { C with cor := x }) where
  only := Eq.refl _
  unit k := by
    unfold State.unit
    rw [State.modCore_core]
    split
    case isTrue h => rw [h]
    case isFalse => rfl

theorem State.uncounted_same (s : State) (core : Nat) : SameUnits s (s.uncounted core) := s.setCor_same core 0

theorem State.corrected_same (s : State) (core n : Nat) : SameUnits s (s.corrected core n) := s.setCor_same core _

theorem SameUnits.trans {s t u : State} (h : SameUnits s t) (k : SameUnits t u) : SameUnits s u where
  only := h.only.trans k.only
  unit i := (k.unit i).trans (h.unit i)

/-- An instruction that runs whole has its corrections counted after it; the units are as it left them. -/
theorem State.counting_ok {s t : State} {core : Nat} {f : State → Exe (State × Flags)} {fl : Flags}
    (h : f (s.uncounted core) = .ok (t, fl)) : ∃ u fl', s.counting core f = .ok (u, fl') ∧ SameUnits t u := by
  unfold State.counting
  rw [show f (s.modCore core fun C => { C with cor := 0 }) = _ from h]
  exact ⟨_, _, rfl, (State.setCor_same t core _).trans (State.corrected_same _ _ _)⟩

/-- A queued instruction `m` that stands at the head of a unit's queue, to be run from its start. -/
structure AtHead (s : State) (core : Nat) (m : MatOp) (r : List MatOp) (B : Block) (K : Task) : Prop where
  queue : (s.unit core).queue = m :: r
  block : s.blocks.find m.b = some B
  task : s.tasks.find B.task = some K
  ready : s.replaying core = false
  step : (s.unit core).step = (0, 0, 0)
  guard : (s.unit core).guard = none
  notRun : m.ran = false
  accepted : s.unacked m.b (fun _ => true) = false

/-- What a run must leave as it is for its instruction to leave the queue. -/
structure KeepsQueue (s t : State) (core : Nat) : Prop where
  blocks : t.blocks = s.blocks
  tasks : t.tasks = s.tasks
  eng : t.eng = s.eng
  queue : (t.unit core).queue = (s.unit core).queue
  guard : (t.unit core).guard = (s.unit core).guard

theorem KeepsQueue.trans {s t u : State} {core : Nat} (h : KeepsQueue s t core) (k : KeepsQueue t u core) :
    KeepsQueue s u core where
  blocks := k.blocks.trans h.blocks
  tasks := k.tasks.trans h.tasks
  eng := k.eng.trans h.eng
  queue := k.queue.trans h.queue
  guard := k.guard.trans h.guard

theorem OnlyCores.keepsQueue {s t : State} {core : Nat} (h : OnlyCores s t)
    (hq : (t.unit core).queue = (s.unit core).queue) (hg : (t.unit core).guard = (s.unit core).guard) :
    KeepsQueue s t core where
  blocks := h.blocks
  tasks := h.tasks
  eng := h.eng
  queue := hq
  guard := hg

theorem SameUnits.keepsQueue {s t : State} (h : SameUnits s t) (core : Nat) : KeepsQueue s t core :=
  h.only.keepsQueue (by rw [h.unit]) (by rw [h.unit])

/-- Changes of units that leave queues and guards alone. -/
theorem foldl_modUnit_keepsQueue {α : Type} (key : α → Nat) (g : α → MatUnit → MatUnit) (us : List α) (core : Nat) (s : State)
    (hq : ∀ u U, (g u U).queue = U.queue) (hg : ∀ u U, (g u U).guard = U.guard) :
    KeepsQueue s (us.foldl (fun s u => s.modUnit (key u) (g u)) s) core :=
  (OnlyCores.foldl us (fun s u => .modUnit s (key u) (g u)) s).keepsQueue
    (foldl_modUnit_part (part := MatUnit.queue) (fun u _ => hq u) core s)
    (foldl_modUnit_part (part := MatUnit.guard) (fun u _ => hg u) core s)

/-- `V` is `U` but for its queue and step counter. -/
def OnlyQueue (U V : MatUnit) : Prop := V = { U with queue := V.queue, step := V.step }

theorem OnlyQueue.tiles {U V : MatUnit} (h : OnlyQueue U V) : V.tiles = U.tiles := (congrArg MatUnit.tiles h :)
theorem OnlyQueue.tile {U V : MatUnit} (h : OnlyQueue U V) (t : Nat) : V.tile t = U.tile t := by
  unfold MatUnit.tile
  rw [h.tiles]
theorem OnlyQueue.rowBuf {U V : MatUnit} (h : OnlyQueue U V) : V.rowBuf = U.rowBuf := (congrArg MatUnit.rowBuf h :)
theorem OnlyQueue.active {U V : MatUnit} (h : OnlyQueue U V) : V.active = U.active := (congrArg MatUnit.active h :)
theorem OnlyQueue.loading {U V : MatUnit} (h : OnlyQueue U V) : V.loading = U.loading := (congrArg MatUnit.loading h :)
theorem OnlyQueue.partials {U V : MatUnit} (h : OnlyQueue U V) : V.partials = U.partials := (congrArg MatUnit.partials h :)
theorem OnlyQueue.recs {U V : MatUnit} (h : OnlyQueue U V) : V.recs = U.recs := (congrArg MatUnit.recs h :)

/-- `u` has the units of `t` but for their queues and step counters. -/
def UnitsAfter (t u : State) : Prop := ∀ k, OnlyQueue (t.unit k) (u.unit k)

theorem State.lateFlags_unit (s : State) (b t : Nat) (f : Flags) (k : Nat) : (s.lateFlags b t f).unit k = s.unit k := by
  unfold State.lateFlags
  split <;> rfl

theorem State.lateFlags_mem (s : State) (b t : Nat) (f : Flags) : (s.lateFlags b t f).mem = s.mem := by
  unfold State.lateFlags
  split <;> rfl

theorem State.lateFlags_tasks (s : State) (b t : Nat) (f : Flags) : (s.lateFlags b t f).tasks = s.tasks := by
  unfold State.lateFlags
  split <;> rfl

theorem State.lateFlags_find_other (s : State) {b j : Nat} (t : Nat) (f : Flags) (h : j ≠ b) :
    (s.lateFlags b t f).blocks.find j = s.blocks.find j := by
  unfold State.lateFlags
  split <;> exact (State.modBlk_find ..).trans (if_neg h)

/-- With no guard recorded, an instruction that is done leaves the queue and raises its flags (14 R366). -/
theorem State.matDone_of_noGuard {s : State} {core : Nat} (h : (s.unit core).guard = none) (m : MatOp) :
    s.matDone core m =
      (s.modUnit core fun U => { U with queue := U.queue.drop 1, step := (0, 0, 0) }).lateFlags m.b m.t m.fl := by
  unfold State.matDone
  simp only [State.lateFlags_unit, State.modUnit_unit_same, h]

section Completion
variable {s t : State} {core : Nat} {m : MatOp} {r : List MatOp} {B : Block} {K : Task} {fl : Flags}

theorem matrixCompletion_of_empty (h : (s.unit core).queue = []) : exec (.matrixCompletion core) s = .next s := by
  show execMatrixCompletion core s = _
  unfold execMatrixCompletion
  rw [h]

theorem AtHead.notHeld (h : AtHead s core m r B K) : s.matHeld core = false := by
  unfold State.matHeld
  rw [h.queue]
  simp [h.notRun]

/-- An instruction that runs whole from the head of the queue completes: it leaves the queue, and the state is what its
run made of it but for flags of its own block and the count of corrections. -/
theorem AtHead.completes (h : AtHead s core m r B K)
    (hrun : (s.uncounted core).runMat core K.part m K.launch.ck ⟨(0, 0, 0), none⟩ = .ok (t, fl))
    (hkeep : KeepsQueue (s.uncounted core) t core) : ∃ u, exec (.matrixCompletion core) s = .next u ∧
      (u.unit core).queue = r ∧ (∀ b, b ≠ m.b → u.blocks.find b = s.blocks.find b) ∧ u.tasks = s.tasks ∧
      u.mem = t.mem ∧ UnitsAfter t u := by
  obtain ⟨v, fl', hcount, hv⟩ := State.counting_ok (f := fun s => s.runMat core K.part m K.launch.ck ⟨(s.unit core).step, none⟩)
    (s := s) (core := core) (t := t) (fl := fl) (by
      show State.runMat _ core K.part m K.launch.ck ⟨((s.uncounted core).unit core).step, none⟩ = _
      rw [(s.uncounted_same core).unit, h.step, hrun])
  have hkv := ((s.uncounted_same core).keepsQueue core).trans (hkeep.trans (hv.keepsQueue core))
  have hacc : v.unacked m.b (fun _ => true) = false := by
    have := h.accepted
    unfold State.unacked at *
    rwa [hkv.eng]
  refine ⟨(v.matDone core { m with fl := fl' ||| m.fl }).tock, ?_, ?_⟩
  · show execMatrixCompletion core s = _
    unfold execMatrixCompletion
    rw [h.queue]
    simp only [h.block, Option.bind_some, h.task, h.ready, h.notHeld, h.notRun, hcount, hacc, Bool.or_self, Bool.false_eq_true,
      if_false, Bool.and_false]
  · rw [State.matDone_of_noGuard (hkv.guard.trans h.guard)]
    have hunit (k : Nat) := State.modUnit_unit v core (fun U => { U with queue := U.queue.drop 1, step := (0, 0, 0) }) k
    refine ⟨?_, fun b hb => ?_, ?_, ?_, fun k => ?_⟩
    · show (State.unit (State.lateFlags ..) core).queue = r
      rw [State.lateFlags_unit, hunit, if_pos rfl, hkv.queue, h.queue]
      rfl
    · exact (State.lateFlags_find_other _ _ _ hb).trans (congrArg (Tab.find · b) hkv.blocks)
    · exact (State.lateFlags_tasks ..).trans hkv.tasks
    · exact (State.lateFlags_mem ..).trans hv.only.mem
    · show OnlyQueue _ (State.unit (State.lateFlags ..) k)
      rw [State.lateFlags_unit, hunit, ← hv.unit]
      split
      case isTrue hk => rw [hk]; exact Eq.refl _
      case isFalse => exact Eq.refl _

end Completion

/-- How a queued instruction completes, as O49 says it: `p` holds of the state it leaves and of the core's unit there. -/
def Completes (s : State) (core : Nat) (m : MatOp) (r : List MatOp) (p : State → MatUnit → Prop) : Prop :=
  ∃ u, exec (.matrixCompletion core) s = .next u ∧ (u.unit core).queue = r ∧
    (∀ b, b ≠ m.b → u.blocks.find b = s.blocks.find b) ∧ u.tasks = s.tasks ∧ p u (u.unit core)

theorem Completes.mono {s : State} {core : Nat} {m : MatOp} {r : List MatOp} {p q : State → MatUnit → Prop}
    (h : Completes s core m r p) (hpq : ∀ u, p u (u.unit core) → q u (u.unit core)) : Completes s core m r q := by
  obtain ⟨u, hexec, hqueue, hblocks, htasks, hp⟩ := h
  exact ⟨u, hexec, hqueue, hblocks, htasks, hpq u hp⟩

/-- An instruction whose run makes `t` of the state completes with what is true of `t`'s memory and units. -/
theorem AtHead.completes_of_run {s : State} {core : Nat} {m : MatOp} {r : List MatOp} {B : Block} {K : Task}
    (h : AtHead s core m r B K) {p : State → MatUnit → Prop}
    (hrun : ∃ t fl, (s.uncounted core).runMat core K.part m K.launch.ck ⟨(0, 0, 0), none⟩ = .ok (t, fl) ∧
      KeepsQueue (s.uncounted core) t core ∧ ∀ u, u.mem = t.mem → UnitsAfter t u → p u (u.unit core)) :
    Completes s core m r p := by
  obtain ⟨t, fl, hrun, hkeep, hp⟩ := hrun
  obtain ⟨u, hexec, hqueue, hblocks, htasks, hmem, hunits⟩ := h.completes hrun hkeep
  exact ⟨u, hexec, hqueue, hblocks, htasks, hp u hmem hunits⟩

/-! ## Tiles -/

@[simp] theorem MatUnit.tile_modTile_same (U : MatUnit) (t : Nat) (f : Tile → Tile) : (U.modTile t f).tile t = f (U.tile t) := by
  simp [MatUnit.tile, MatUnit.modTile, Tab.get_put]

theorem MatUnit.tile_modTile_other (U : MatUnit) {t k : Nat} (f : Tile → Tile) (h : k ≠ t) :
    (U.modTile t f).tile k = U.tile k := by
  simp [MatUnit.tile, MatUnit.modTile, Tab.get_put, h]

/-- `V` is `U` but for its tiles. -/
def OnlyTiles (U V : MatUnit) : Prop := V = { U with tiles := V.tiles }

theorem OnlyTiles.rfl {U : MatUnit} : OnlyTiles U U := Eq.refl _

theorem OnlyTiles.trans {U V W : MatUnit} (h : OnlyTiles U V) (k : OnlyTiles V W) : OnlyTiles U W :=
  Eq.trans k (congrArg (fun X : MatUnit => { X with tiles := W.tiles }) h)

theorem OnlyTiles.modTile (U : MatUnit) (t : Nat) (f : Tile → Tile) : OnlyTiles U (U.modTile t f) := Eq.refl _

theorem OnlyTiles.foldl {α : Type} {f : MatUnit → α → MatUnit} (xs : List α) (h : ∀ U x, OnlyTiles U (f U x)) (U : MatUnit) :
    OnlyTiles U (xs.foldl f U) :=
  List.foldlRecOn xs f (motive := OnlyTiles U) .rfl fun V hV x _ => hV.trans (h V x)

theorem OnlyTiles.queue {U V : MatUnit} (h : OnlyTiles U V) : V.queue = U.queue := (congrArg MatUnit.queue h :)
theorem OnlyTiles.guard {U V : MatUnit} (h : OnlyTiles U V) : V.guard = U.guard := (congrArg MatUnit.guard h :)
theorem OnlyTiles.rowBuf {U V : MatUnit} (h : OnlyTiles U V) : V.rowBuf = U.rowBuf := (congrArg MatUnit.rowBuf h :)
theorem OnlyTiles.active {U V : MatUnit} (h : OnlyTiles U V) : V.active = U.active := (congrArg MatUnit.active h :)
theorem OnlyTiles.upset {U V : MatUnit} (h : OnlyTiles U V) : V.upset = U.upset := (congrArg MatUnit.upset h :)

/-- One more than the greatest raw element of a tile type. -/
def elRange (ty : Nat) : Nat := 2 ^ (if ty = 3 then 64 else 32)

@[simp] theorem Tile.setEl_ty (T : Tile) (k i j x : Nat) : (T.setEl k i j x).ty = T.ty := by
  unfold Tile.setEl; dsimp only; split <;> rfl

@[simp] theorem Tile.setEl_map (T : Tile) (k i j x : Nat) : (T.setEl k i j x).map = T.map := by
  unfold Tile.setEl; dsimp only; split <;> rfl

/-- An element reads as it was written (03 R76). -/
theorem Tile.el_setEl_same (T : Tile) (k i j x : Nat) : (T.setEl k i j x).el k i j = x % elRange T.ty := by
  have hkeys : (2 * k * 32 + i) * 64 + j ≠ ((2 * k + 1) * 32 + i) * 64 + j := by omega
  unfold Tile.setEl Tile.el elRange
  dsimp only
  by_cases h : T.ty = 3
  · simp only [if_pos h, Tab.get_set_same, Tab.get_set_other _ _ _ hkeys, BitVec.toNat_ofNat]
    omega
  · simp only [if_neg h, Tab.get_set_same, BitVec.toNat_ofNat]

/-- Writing an element leaves those of the other places of a tile. -/
theorem Tile.el_setEl_other (T : Tile) {k k' i i' j j' : Nat} (x : Nat) (hi : i < 32) (hi' : i' < 32) (hj : j < 64)
    (hj' : j' < 64) (h : ¬ (i' = i ∧ j' = j)) : (T.setEl k i j x).el k' i' j' = T.el k' i' j' := by
  have hkeys (a b : Nat) : (a * 32 + i') * 64 + j' ≠ (b * 32 + i) * 64 + j := by omega
  unfold Tile.setEl Tile.el
  dsimp only
  by_cases ht : T.ty = 3
  · simp only [if_pos ht, Tab.get_set_other _ _ _ (hkeys _ _)]
  · simp only [if_neg ht, Tab.get_set_other _ _ _ (hkeys _ _)]

/-- A unit whose tiles take the types and maps of plans, where no slot is to be cleared or moved. -/
def MatUnit.planned (U : MatUnit) (ty : Nat) (plans : List (Nat × Nat × List Nat)) : MatUnit :=
  plans.foldl (fun U p => U.modTile p.1 fun T => { T with map := p.2.2 })
    (plans.foldl (fun U p => U.modTile p.1 fun T => { T with ty := ty }) U)

theorem MatUnit.planned_onlyTiles (U : MatUnit) (ty : Nat) (plans : List (Nat × Nat × List Nat)) :
    OnlyTiles U (U.planned ty plans) :=
  (OnlyTiles.foldl plans (fun U _ => OnlyTiles.modTile U _ _) U).trans
    (OnlyTiles.foldl plans (fun U _ => OnlyTiles.modTile U _ _) _)

theorem MatUnit.planned_tile (U : MatUnit) (ty : Nat) (map : Nat → List Nat) {ts : List Nat} (hn : ts.Nodup) {t : Nat}
    (ht : t ∈ ts) : (U.planned ty (ts.map fun t => (t, ty, map t))).tile t = { U.tile t with ty := ty, map := map t } := by
  have once (g : Nat → Tile → Tile) (U : MatUnit) : (ts.foldl (fun U t => U.modTile t (g t)) U).tile t = g t (U.tile t) :=
    foldl_reading_at_key (f := fun U t => U.modTile t (g t)) (read := MatUnit.tile) (key := id) (fun U _ => U.tile_modTile_same _ _)
      (fun U _ _ => U.tile_modTile_other _) (by simpa using hn) ht U
  unfold MatUnit.planned
  simp only [List.foldl_map]
  rw [once (fun t T => { T with map := map t }), once (fun _ T => { T with ty := ty })]

theorem State.prepare_of_noActs (s : State) (core part b ty : Nat) (plans : List (Nat × Nat × List Nat)) :
    ∃ t, s.prepare core part b ty plans [] = .ok t ∧ OnlyCores s t ∧
      ∀ k, t.unit k = if k = core then (s.unit core).planned ty plans else s.unit k := by
  refine ⟨_, rfl, (OnlyCores.modUnit s core _).trans (.modUnit _ core _), fun k => ?_⟩
  rw [State.modUnit_unit, State.modUnit_unit_same]
  split
  case isTrue => rfl
  case isFalse hk => exact State.modUnit_unit_other _ _ hk

/-! ## MBSW, MCLR, MWR (14 R367, R371) -/

section Simple
variable {s : State} {core : Nat} {m : MatOp} {r : List MatOp} {B : Block} {K : Task}

theorem MatUnit.swapBanks_recs (U : MatUnit) :
    U.swapBanks.recs.find 0 = U.recs.find 1 ∧ U.swapBanks.recs.find 1 = U.recs.find 0 := by
  unfold MatUnit.swapBanks
  cases U.recs.find 0 <;> cases U.recs.find 1 <;> exact ⟨rfl, rfl⟩

/-- MBSW exchanges the banks and their records in each of its units. -/
theorem mbsw_completes {f : UW} (h : AtHead s core m r B K) (hi : m.instr = .mbsw f) :
    Completes s core m r fun u _ => u.mem = s.mem ∧ ∀ k ∈ quadUnits f.top core,
      (u.unit k).active = (s.unit k).loading ∧ (u.unit k).loading = (s.unit k).active ∧
      (u.unit k).recs.find 0 = (s.unit k).recs.find 1 ∧ (u.unit k).recs.find 1 = (s.unit k).recs.find 0 := by
  refine h.completes_of_run ⟨(quadUnits f.top core).foldl (fun s u => s.modUnit u MatUnit.swapBanks) (s.uncounted core),
    0, by simp only [State.runMat, hi], foldl_modUnit_keepsQueue id (fun _ => MatUnit.swapBanks) _ core _ (fun _ _ => rfl)
      (fun _ _ => rfl), fun u hmem hu => ⟨hmem.trans (OnlyCores.foldl _ (fun s k => .modUnit s k _) _).mem, fun k hk => ?_⟩⟩
  · have hswap := foldl_modUnit_unit (key := id) (g := fun _ => MatUnit.swapBanks) (by simpa using quadUnits_nodup f.top core)
      hk (s.uncounted core)
    have hunit := (s.uncounted_same core).unit k
    rw [(hu k).active, (hu k).loading, (hu k).recs, ← hunit]
    simp only [id] at hswap
    rw [hswap]
    exact ⟨rfl, rfl, MatUnit.swapBanks_recs _⟩

/-- MCLR clears its tile. -/
theorem mclr_completes {f : UW} (h : AtHead s core m r B K) (hi : m.instr = .mclr f) :
    Completes s core m r fun u V => V.tile f.tile = {} ∧ (∀ t, t ≠ f.tile → V.tile t = (s.unit core).tile t) ∧
      u.mem = s.mem := by
  refine h.completes_of_run ⟨(s.uncounted core).modUnit core fun U => { U with tiles := U.tiles.del f.tile }, 0,
    by simp only [State.runMat, hi], (OnlyCores.modUnit _ core _).keepsQueue ?_ ?_, fun u hmem hu => ?_⟩
  · rw [State.modUnit_unit_same]
  · rw [State.modUnit_unit_same]
  · have hdel (t : Nat) : (u.unit core).tile t = if t = f.tile then {} else (s.unit core).tile t := by
      rw [(hu core).tile, State.modUnit_unit_same, (s.uncounted_same core).unit]
      exact Tab.get_del ..
    exact ⟨(hdel _).trans (if_pos rfl), fun t ht => (hdel t).trans (if_neg ht), hmem⟩

/-- What writing one element of a slot, which the tile's map names, in each of some rows leaves. -/
theorem Tile.foldl_setEl {T : Tile} {slot : List Nat → Nat} {col : Nat} {x : Nat → Nat} {rows : List Nat}
    (hrows : ∀ i ∈ rows, i < 32) (hcol : col < 64) {i : Nat} (hi : i ∈ rows) :
    (rows.foldl (fun T i => T.setEl (slot T.map) i col (x i)) T).el (slot T.map) i col = x i % elRange T.ty := by
  refine foldl_reading_of_hit (f := fun T i => T.setEl (slot T.map) i col (x i)) (obs := fun T' => T'.el (slot T.map) i col)
    (inv := fun T' => T'.ty = T.ty ∧ T'.map = T.map) (hit := fun a => a = i) (fun T' a _ h => by simpa using h)
    (fun T' a _ hinv ha => ?_) (fun T' a ha _ hne => ?_) ⟨i, hi, rfl⟩ T ⟨rfl, rfl⟩
  · obtain ⟨hty, hmap⟩ := hinv
    rw [ha, hmap, Tile.el_setEl_same, hty]
  · exact Tile.el_setEl_other _ _ (hrows a ha) (hrows i hi) hcol hcol fun h => hne h.1.symm

/-- MWR writes its column of its label. -/
theorem mwr_completes {f : UW} {map : List Nat} (h : AtHead s core m r B K) (hi : m.instr = .mwr f) (hacts : m.acts = [])
    (hplans : m.plans = [(f.tile, f.xc + 1, map)]) :
    Completes s core m r fun u V => u.mem = s.mem ∧ ∀ i ∈ lanesOf m.rows,
      (V.tile f.tile).el (labelAt map f.lbl - 1) i f.col = m.addrs.getD i 0 % elRange (f.xc + 1) := by
  obtain ⟨t, hprep, honly, hunit⟩ := (s.uncounted core).prepare_of_noActs core K.part m.b (f.xc + 1) m.plans
  have hcol : f.col < 64 := (f.raw.extractLsb' 17 6).isLt
  have hplanned : (t.unit core).tile f.tile = { (s.unit core).tile f.tile with ty := f.xc + 1, map := map } := by
    rw [hunit, if_pos rfl, (s.uncounted_same core).unit, hplans]
    exact MatUnit.planned_tile _ _ (fun _ => map) (List.nodup_singleton f.tile) (List.mem_singleton_self _)
  have htiles := (MatUnit.planned_onlyTiles ((s.uncounted core).unit core) (f.xc + 1) m.plans)
  refine h.completes_of_run ⟨_, 0, by simp only [State.runMat, hi, State.runMwr, hacts, hprep]; rfl,
    (honly.trans (.modUnit _ core _)).keepsQueue ?_ ?_, fun u hmem hu => ⟨hmem.trans honly.mem, fun i hrow => ?_⟩⟩
  · rw [State.modUnit_unit_same, hunit, if_pos rfl]
    exact htiles.queue
  · rw [State.modUnit_unit_same, hunit, if_pos rfl]
    exact htiles.guard
  · rw [(hu core).tile, State.modUnit_unit_same, MatUnit.tile_modTile_same, hplanned]
    exact Tile.foldl_setEl (T := { (s.unit core).tile f.tile with ty := f.xc + 1, map := map })
      (slot := fun map => labelAt map f.lbl - 1) lanesOf_lt hcol hrow

end Simple

/-! ## Results stored in tiles (03 R79, R88) -/

/-- One element stored: its row, column, tile and slot, and the value. -/
def MatUnit.storeCell (U : MatUnit) (q : (Nat × Nat × Nat × Nat) × Nat × Flags) : MatUnit :=
  U.modTile q.1.2.2.1 fun T => T.setEl q.1.2.2.2 q.1.1 (q.1.2.1 % 64) q.2.1

theorem MatUnit.storeCell_ty (U : MatUnit) (q : (Nat × Nat × Nat × Nat) × Nat × Flags) (t : Nat) :
    ((U.storeCell q).tile t).ty = (U.tile t).ty := by
  unfold MatUnit.storeCell
  by_cases h : t = q.1.2.2.1
  · rw [h, MatUnit.tile_modTile_same, Tile.setEl_ty]
  · rw [MatUnit.tile_modTile_other _ _ h]

theorem MatUnit.mem_places {U : MatUnit} {rows labels : List Nat} {base y : Nat} {q : Nat × Nat × Nat × Nat} :
    q ∈ U.places rows labels base y ↔ ∃ i ∈ rows, ∃ j < 64 * y,
      q = (i, j, base + j / 64, labelAt (U.tile (base + j / 64)).map (labels.getD i 0) - 1) := by
  simp only [MatUnit.places, List.mem_flatMap, List.mem_map, List.mem_range, eq_comm]

/-- The element of each place of an instruction, once its results are stored, is the result for it. -/
theorem MatUnit.stored_el {U V : MatUnit} {rows labels : List Nat} {base y ty : Nat} {X : Nat × Nat × Nat × Nat → Nat × Flags}
    (hrows : ∀ i ∈ rows, i < 32) {i j : Nat} (hi : i ∈ rows) (hj : j < 64 * y) (hty : (V.tile (base + j / 64)).ty = ty) :
    let slot := labelAt (U.tile (base + j / 64)).map (labels.getD i 0) - 1
    let W := ((U.places rows labels base y).map fun p => (p, X p)).foldl MatUnit.storeCell V
    (W.tile (base + j / 64)).ty = ty ∧
      (W.tile (base + j / 64)).el slot i (j % 64) = (X (i, j, base + j / 64, slot)).1 % elRange ty := by
  intro slot W
  have hmod (a : Nat) : a % 64 < 64 := Nat.mod_lt _ (by omega)
  refine ⟨(foldl_reading_stays (obs := fun W : MatUnit => (W.tile (base + j / 64)).ty)
    (fun W q _ => W.storeCell_ty q _) V).trans hty, ?_⟩
  have hplace : (i, j, base + j / 64, slot) ∈ U.places rows labels base y := MatUnit.mem_places.2 ⟨i, hi, j, hj, rfl⟩
  refine foldl_reading_of_hit (obs := fun W : MatUnit => (W.tile (base + j / 64)).el slot i (j % 64))
    (inv := fun W : MatUnit => (W.tile (base + j / 64)).ty = ty) (hit := fun q => q.1.1 = i ∧ q.1.2.1 = j)
    (fun W q _ h => (W.storeCell_ty q _).trans h) (fun W q hq hW hit => ?_) (fun W q hq _ hmiss => ?_)
    ⟨_, List.mem_map_of_mem hplace, rfl, rfl⟩ V hty
  · obtain ⟨p, hp, rfl⟩ := List.mem_map.1 hq
    obtain ⟨i', -, j', -, rfl⟩ := MatUnit.mem_places.1 hp
    obtain ⟨rfl, rfl⟩ := hit
    unfold MatUnit.storeCell
    rw [MatUnit.tile_modTile_same, Tile.el_setEl_same, hW]
  · obtain ⟨p, hp, rfl⟩ := List.mem_map.1 hq
    obtain ⟨i', hi', j', -, rfl⟩ := MatUnit.mem_places.1 hp
    unfold MatUnit.storeCell
    by_cases ht : base + j / 64 = base + j' / 64
    · rw [ht, MatUnit.tile_modTile_same]
      refine Tile.el_setEl_other _ _ (hrows _ hi') (hrows _ hi) (hmod _) (hmod _) fun hsame => hmiss ?_
      obtain ⟨hii, hjj⟩ := hsame
      exact ⟨hii.symm, by dsimp only at *; omega⟩
    · rw [MatUnit.tile_modTile_other _ _ ht]

/-! ## Reading operands (14 R367, R368) -/

/-- Slices with no single error, no poison and no sum that differs from its data. -/
def State.CleanSlices (s : State) : Prop := s.mem.flips = [] ∧ s.mem.slicePoison = [] ∧ s.mem.skew = []

section Clean
variable {s : State} {core part b : Nat} {c : CapReg}

theorem State.correctSlice_of_noFlips (h : s.mem.flips = []) (core a n : Nat) : s.correctSlice core a n = (false, s) := by
  have hnone : (if s.here a then (unitsOf 8 (sliceKey a) n).filter s.mem.flips.contains else []) = [] := by
    rw [h]; split <;> simp
  unfold State.correctSlice
  rw [hnone]

theorem State.verifyTile_of_noSkew (h : s.mem.skew = []) (core u : Nat) : s.verifyTile core u = some (false, s) := by
  unfold State.verifyTile deltas
  rw [h]
  simp [verdict]

theorem State.verifyTiles_of_noSkew (h : s.mem.skew = []) (core a n : Nat) : s.verifyTiles core a n = some (false, s) :=
  List.foldlRecOn (s.tilesOf a n) _ (motive := (· = some (false, s))) rfl fun r hr u _ => by
    rw [hr, Option.bind_some, State.verifyTile_of_noSkew h]; rfl

theorem State.placeOf_of_slice (s : State) (part : Nat) (hc : c.kind = 2) (off : Nat) :
    s.placeOf part c off = (.slice, s.capSlice c off) := by
  unfold State.placeOf
  rw [if_neg (by omega)]

/-- A clean source in a slice passes its checks, and nothing is mended on the way. -/
theorem State.source_of_clean (h : s.CleanSlices) (hc : c.kind = 2) (core part b off n : Nat) :
    s.source core part b c off n = .ok s := by
  obtain ⟨hflips, hpoison, hskew⟩ := h
  have hpure : s.slicePoisoned (s.capSlice c off) n = false := by simp [State.slicePoisoned, hpoison]
  unfold State.source
  simp only [s.placeOf_of_slice part hc, State.placePoison, hpure, Bool.and_false, Bool.false_eq_true, if_false,
    State.verifyTiles_of_noSkew hskew, State.correctSlice_of_noFlips hflips, ite_self]

theorem State.matRead_of_clean (h : s.CleanSlices) (hc : c.kind = 2) (core part b off n : Nat) :
    s.matRead core b (s.placeOf part c off) n =
      some (overlay (s.bufOf b) .slice (s.capSlice c off) (s.sliceRead (s.capSlice c off) n), s) := by
  obtain ⟨hflips, -, -⟩ := h
  unfold State.matRead State.engRead
  simp only [s.placeOf_of_slice part hc, State.correctSlice_of_noFlips hflips, Option.map_some]

/-- The 32 element codes of a block of a region, as a block's unit reads them. -/
def State.blkCodes (s : State) (b : Nat) (c : CapReg) (off f : Nat) : List Nat :=
  (List.range 32).map fun k => s.sparseNat b c off (4 * mbits f) / 2 ^ (mbits f * k) % 2 ^ mbits f

theorem State.readBlk_of_clean (h : s.CleanSlices) (hc : c.kind = 2) (core part b off f : Nat) :
    s.readBlk core part b c off f = some (s.blkCodes b c off f, s) := by
  unfold State.readBlk
  dsimp only
  rw [State.matRead_of_clean h hc]
  rfl

/-- The 32 weights of a cb8 block of a region, through the table of another (02 R47). -/
def State.cbWeights (s : State) (b : Nat) (c tab : CapReg) (off : Nat) : List Int :=
  (List.range 32).map fun q =>
    let code := s.sparseNat b c off 8 / 2 ^ (16 * (q / 8)) % 2 ^ 16
    cbWeight code (s.sparseNat b tab (2 * (code / 256)) 2) (q % 8)

theorem leNat_lt (bs : List Byte) : leNat bs < 256 ^ bs.length := by
  induction bs with
  | nil => simp [leNat]
  | cons b r ih =>
    have := b.isLt
    rw [leNat, List.length_cons, Nat.pow_succ]
    omega

theorem leNat_append (xs ys : List Byte) : leNat (xs ++ ys) = leNat xs + 256 ^ xs.length * leNat ys := by
  induction xs with
  | nil => simp [leNat]
  | cons b r ih => rw [List.cons_append, leNat, leNat, ih, List.length_cons, Nat.pow_succ]; ring

/-- Part of a number's bytes, as a number. -/
theorem leNat_take_drop (bs : List Byte) {i n : Nat} (h : i + n ≤ bs.length) :
    leNat ((bs.drop i).take n) = leNat bs / 256 ^ i % 256 ^ n := by
  have hi : (bs.take i).length = i := by simp; omega
  have hn : ((bs.drop i).take n).length = n := by simp; omega
  have hlow := leNat_lt (bs.take i)
  have hmid := leNat_lt ((bs.drop i).take n)
  have hsplit := leNat_append (bs.take i) (bs.drop i)
  have hrest := leNat_append ((bs.drop i).take n) ((bs.drop i).drop n)
  rw [List.take_append_drop, hi] at hsplit
  rw [List.take_append_drop, hn] at hrest
  rw [hi] at hlow
  rw [hn] at hmid
  rw [hsplit, Nat.add_mul_div_left _ _ (by positivity), Nat.div_eq_of_lt hlow, Nat.zero_add, hrest, Nat.add_mul_mod_self_left,
    Nat.mod_eq_of_lt hmid]

@[simp] theorem overlay_length (buf : Tab BufEntry) (sp : Space) (a : Nat) (bs : List Byte) :
    (overlay buf sp a bs).length = bs.length := by simp [overlay]

@[simp] theorem State.sliceRead_length (s : State) (a n : Nat) : (s.sliceRead a n).length = n := by
  unfold State.sliceRead
  split <;> simp

theorem State.readCb_of_clean (h : s.CleanSlices) (hc : c.kind = 2) (core part b : Nat) (tab : CapReg) (off : Nat) :
    s.readCb core part b c tab off = some (s.cbWeights b c tab off, s) := by
  unfold State.readCb
  rw [State.matRead_of_clean h hc, Option.map_some]
  refine congrArg (fun x => some (x, s)) (List.map_congr_left fun k hk => ?_)
  have hk := List.mem_range.1 hk
  have hpow : (256 : Nat) ^ (2 * (k / 8)) = 2 ^ (16 * (k / 8)) := by
    rw [show (256 : Nat) = 2 ^ 8 from rfl, ← Nat.pow_mul]
    congr 1; ring
  dsimp only
  rw [leNat_take_drop _ (by simp; omega), hpow]
  rfl

/-- The block that MLDB makes of block `blk` of K of column `j` of a record's source, for quad position `p` of `q`. -/
def State.colBlk (s : State) (b : Nat) (M : MRec) (p q blk j : Nat) : MBlk :=
  let k0 := j * (32 * (8 * M.x) * q) + 32 * (p * (8 * M.x) + blk)
  if M.fmt = 13 then intBlk (-2) (s.cbWeights b M.src M.tab (k0 / 4))
  else mkBlk false M.fmt (s.blkCodes b M.src (k0 * mbits M.fmt / 8) M.fmt)

/-- The blocks and columns of a bank. -/
def bankCells (M : MRec) : List (Nat × Nat) :=
  (List.range (8 * M.x)).flatMap fun b => (List.range (64 * M.y)).map fun j => (b, j)

theorem mem_bankCells {M : MRec} {x : Nat × Nat} : x ∈ bankCells M ↔ x.1 < 8 * M.x ∧ x.2 < 64 * M.y := by
  obtain ⟨b, j⟩ := x
  simp [bankCells]

/-- The bank that MLDB loads from a clean slice, for quad position `p` of `q`. -/
def State.bankOf (s : State) (b : Nat) (M : MRec) (p q : Nat) : Bank where
  fmt := M.fmt
  x := M.x
  y := M.y
  quad := M.quad
  cols := (bankCells M).foldl (fun t bj => t.put (512 * bj.1 + bj.2) (s.colBlk b M p q bj.1 bj.2)) []
  loaded := true

/-! What the cores hold is no part of what is read from a slice. -/

theorem OnlyCores.capSlice {s t : State} (h : OnlyCores s t) (c : CapReg) (off : Nat) : t.capSlice c off = s.capSlice c off := by
  rw [show t = { s with cores := t.cores } from h]; rfl

theorem OnlyCores.here {s t : State} (h : OnlyCores s t) (a : Nat) : t.here a = s.here a := by
  rw [show t = { s with cores := t.cores } from h]; rfl

theorem OnlyCores.sparseNat {s t : State} (h : OnlyCores s t) (b : Nat) (c : CapReg) (off n : Nat) :
    t.sparseNat b c off n = s.sparseNat b c off n := by
  rw [show t = { s with cores := t.cores } from h]; rfl

theorem OnlyCores.blkCodes {s t : State} (h : OnlyCores s t) (b : Nat) (c : CapReg) (off f : Nat) :
    t.blkCodes b c off f = s.blkCodes b c off f := by simp only [State.blkCodes, h.sparseNat]

theorem OnlyCores.bankOf {s t : State} (h : OnlyCores s t) (b : Nat) (M : MRec) (p q : Nat) :
    t.bankOf b M p q = s.bankOf b M p q := by
  simp only [State.bankOf, State.colBlk, State.cbWeights, h.blkCodes, h.sparseNat]

theorem State.bankOf_col (s : State) (b : Nat) {M : MRec} (p q : Nat) {blk j : Nat} (hy : M.y ≤ 8) (hb : blk < 8 * M.x)
    (hj : j < 64 * M.y) : (s.bankOf b M p q).cols.find (512 * blk + j) = some (s.colBlk b M p q blk j) := by
  refine Tab.find_foldl_put (key := fun x : Nat × Nat => 512 * x.1 + x.2) ⟨(blk, j), mem_bankCells.2 ⟨hb, hj⟩, rfl⟩
    (fun x hx hkey => ?_) []
  obtain ⟨-, hx⟩ := mem_bankCells.1 hx
  obtain ⟨b', j'⟩ := x
  dsimp only at hx hkey ⊢
  obtain ⟨rfl, rfl⟩ : b' = blk ∧ j' = j := by omega
  rfl

theorem State.loadBank_of_clean (h : s.CleanSlices) {M : MRec} (hsrc : M.src.kind = 2) (htab : M.fmt = 13 → M.tab.kind = 2)
    (core b p q : Nat) : s.loadBank core b M p q = .ok (s.bankOf b M p q, s) := by
  have htable : (if M.fmt = 13 then s.source core M.part b M.tab 0 512 else .ok s) = .ok s := by
    split
    case isTrue hfmt => exact State.source_of_clean h (htab hfmt) ..
    case isFalse => rfl
  unfold State.loadBank
  simp only [State.source_of_clean h hsrc, Exe.bind, htable]
  rw [foldl_option_pair (g := fun t bj => t.put (512 * bj.1 + bj.2) (s.colBlk b M p q bj.1 bj.2))]
  · rfl
  · intro t bj _
    rw [Option.bind_some]
    unfold State.colBlk
    split
    · rw [State.readCb_of_clean h hsrc]
      rfl
    · rw [State.readBlk_of_clean h hsrc]
      rfl

/-- A unit with its loading bank filled, and the load's record (14 R367). -/
def MatUnit.load (X : Bank) (M : MRec) (U : MatUnit) : MatUnit := { U with loading := X, recs := U.recs.put 1 M }

theorem each_loadBank {M : MRec} (hsrc : M.src.kind = 2) (htab : M.fmt = 13 → M.tab.kind = 2) (core b q : Nat)
    (us : List (Nat × Nat)) {s : State} (h : s.CleanSlices) :
    Exe.each (fun s u => (s.loadBank core b M u.2 q).bind fun r => .ok (r.2.modUnit u.1 fun U =>
      { U with loading := r.1, recs := U.recs.put 1 M })) us s =
      .ok (us.foldl (fun t u => t.modUnit u.1 (MatUnit.load (s.bankOf b M u.2 q) M)) s) := by
  induction us generalizing s with
  | nil => rfl
  | cons u us ih =>
    rw [Exe.each, State.loadBank_of_clean h hsrc htab]
    have hnext := ih (s := s.modUnit u.1 (MatUnit.load (s.bankOf b M u.2 q) M)) h
    simp only [(OnlyCores.modUnit s _ _).bankOf] at hnext
    exact hnext

end Clean

section Loads
variable {s : State} {core : Nat} {m : MatOp} {r : List MatOp} {B : Block} {K : Task}

theorem AtHead.bufOf (h : AtHead s core m r B K) : s.bufOf m.b = B.buf := by
  unfold State.bufOf
  rw [h.block]
  rfl

/-- A number of a region as the block that holds the unit reads it. -/
theorem AtHead.sparseNat (h : AtHead s core m r B K)
    (c : CapReg) (off n : Nat) :
    s.sparseNat m.b c off n = leNat (overlay B.buf .slice (s.capSlice c off) (s.sliceRead (s.capSlice c off) n)) := by
  unfold State.sparseNat
  rw [h.bufOf]

theorem geo_le_eight {n : Nat} (h : n < 4) : geo n ≤ 8 := Nat.pow_le_pow_right (n := 2) (by omega) (by omega : n ≤ 3)

theorem geo_pos (n : Nat) : 0 < geo n := Nat.two_pow_pos n

/-- MLDB fills the loading bank of each of its units from a clean slice, and records the load. -/
theorem mldb_completes {f : UW} (h : AtHead s core m r B K) (hi : m.instr = .mldb f) (hsrc : m.src.kind = 2)
    (htab : f.fb = 13 → m.src2.kind = 2) (hclean : s.CleanSlices) :
    let M : MRec := ⟨m.src, m.src2, f.fb, geo f.xc, geo f.yc, f.top, K.part⟩
    Completes s core m r fun u _ => u.mem = s.mem ∧ ∀ p k, (quadUnits f.top core)[p]? = some k →
      let X := (u.unit k).loading
      X = s.bankOf m.b M p (quadUnits f.top core).length ∧ (u.unit k).active = (s.unit k).active ∧
        (u.unit k).recs.find 1 = some M := by
  intro M
  let units := quadUnits f.top core
  let load (u : Nat × Nat) := MatUnit.load (s.bankOf m.b M u.2 units.length) M
  refine h.completes_of_run ⟨(units.zip (List.range units.length)).foldl (fun t u => t.modUnit u.1 (load u)) (s.uncounted core),
    0, ?_, foldl_modUnit_keepsQueue Prod.fst load _ core _ (fun _ _ => rfl) (fun _ _ => rfl),
    fun u hmem hu => ⟨hmem.trans (OnlyCores.foldl _ (fun s k => .modUnit s _ _) _).mem, fun p k hk => ?_⟩⟩
  · simp only [State.runMat, hi, State.runMldb]
    rw [each_loadBank (M := M) hsrc htab _ _ _ _ (s := s.uncounted core) hclean]
    simp only [Exe.bind, (s.uncounted_same core).only.bankOf]
    rfl
  · have hload := foldl_modUnit_unit (g := load) (quadUnits_zip_nodup f.top core) (mem_zip_range hk) (s.uncounted core)
    rw [(s.uncounted_same core).unit] at hload
    dsimp only at hload ⊢
    rw [(hu k).loading, (hu k).active, (hu k).recs, hload]
    exact ⟨rfl, rfl, Tab.find_put_same ..⟩

/-! ## MLDA (14 R368) -/

theorem each_ok {α : Type} {f : State → α → Exe State} {xs : List α} {s : State} (h : ∀ x ∈ xs, f s x = .ok s) :
    Exe.each f xs s = .ok s := by
  induction xs with
  | nil => rfl
  | cons x xs ih =>
    rw [Exe.each, h x (List.mem_cons_self ..)]
    exact ih fun y hy => h y (List.mem_cons_of_mem _ hy)

/-- The block that MLDA makes for row `i`, block `blk` of K, at a quad position. -/
def State.rowBlk (s : State) (m : MatOp) (f : UW) (p blk i : Nat) : MBlk :=
  mkBlk true f.fa (s.blkCodes m.b m.src (m.addrs.getD i 0 + 4 * mbits f.fa * (p * (8 * geo f.xc) + blk)) f.fa)

/-- What MLDA reads: position, key in the row buffer, and block. -/
def State.rowBlks (s : State) (m : MatOp) (f : UW) (n : Nat) : List (Nat × Nat × MBlk) :=
  ((List.range n).flatMap fun p => (List.range (8 * geo f.xc)).flatMap fun b => (lanesOf m.rows).map fun i => (p, b, i)).map
    fun q => (q.1, 32 * q.2.1 + q.2.2, s.rowBlk m f q.1 q.2.1 q.2.2)

theorem State.mem_rowBlks {f : UW} {n : Nat} {x : Nat × Nat × MBlk} : x ∈ s.rowBlks m f n ↔
    ∃ p < n, ∃ b < 8 * geo f.xc, ∃ i ∈ lanesOf m.rows, x = (p, 32 * b + i, s.rowBlk m f p b i) := by
  simp only [State.rowBlks, List.mem_map, List.mem_flatMap, List.mem_range]
  constructor
  · rintro ⟨-, ⟨p, hp, b, hb, i, hi, rfl⟩, rfl⟩
    exact ⟨p, hp, b, hb, i, hi, rfl⟩
  · rintro ⟨p, hp, b, hb, i, hi, rfl⟩
    exact ⟨_, ⟨p, hp, b, hb, i, hi, rfl⟩, rfl⟩

/-- A unit with its share of the rows read put in its row buffer. -/
def MatUnit.loadRows (xs : List (Nat × Nat × MBlk)) (f : UW) (p : Nat) (U : MatUnit) : MatUnit :=
  { U with rowBuf :=
    { fmt := f.fa, x := geo f.xc, quad := f.top, loaded := true,
      rows := (xs.filter fun q => q.1 = p).foldl (fun t q => t.put q.2.1 q.2.2) U.rowBuf.rows } }

theorem OnlyCores.rowBlks {s t : State} (h : OnlyCores s t) (m : MatOp) (f : UW) (n : Nat) :
    t.rowBlks m f n = s.rowBlks m f n := by simp only [State.rowBlks, State.rowBlk, h.blkCodes]

theorem State.loadRows_find {f : UW} {n p blk i : Nat} (hp : p < n) (hb : blk < 8 * geo f.xc) (hi : i < 32) (U : MatUnit) :
    (U.loadRows (s.rowBlks m f n) f p).rowBuf.rows.find (32 * blk + i) =
      if i ∈ lanesOf m.rows then some (s.rowBlk m f p blk i) else U.rowBuf.rows.find (32 * blk + i) := by
  have hkey (x : Nat × Nat × MBlk) (hx : x ∈ (s.rowBlks m f n).filter fun q => q.1 = p) (hk : x.2.1 = 32 * blk + i) :
      i ∈ lanesOf m.rows ∧ x.2.2 = s.rowBlk m f p blk i := by
    obtain ⟨hx, hpos⟩ := List.mem_filter.1 hx
    obtain ⟨p', -, b', -, i', hi', rfl⟩ := State.mem_rowBlks.1 hx
    have hlt := lanesOf_lt i' hi'
    simp only [decide_eq_true_eq] at hpos hk
    obtain ⟨rfl, rfl⟩ : b' = blk ∧ i' = i := by omega
    exact ⟨hi', by rw [hpos]⟩
  split
  case isTrue hrow =>
    refine Tab.find_foldl_put (key := fun q : Nat × Nat × MBlk => q.2.1) (val := fun q : Nat × Nat × MBlk => q.2.2)
      ⟨(p, 32 * blk + i, s.rowBlk m f p blk i), ?_, rfl⟩ (fun x hx hk => (hkey x hx hk).2) _
    exact List.mem_filter.2 ⟨State.mem_rowBlks.2 ⟨p, hp, blk, hb, i, hrow, rfl⟩, by simp⟩
  case isFalse hrow =>
    exact Tab.find_foldl_put_other (key := fun q : Nat × Nat × MBlk => q.2.1) (fun x hx hk => hrow (hkey x hx hk).1) _

theorem State.runMlda_of_clean {f : UW} (h : s.CleanSlices) (hsrc : m.src.kind = 2) (core part : Nat) :
    let units := quadUnits f.top core
    s.runMlda core part m f = .ok ((units.zip (List.range units.length)).foldl (fun t u => t.modUnit u.1
      (MatUnit.loadRows (s.rowBlks m f units.length) f u.2)) s, 0) := by
  intro units
  unfold State.runMlda
  dsimp only
  rw [each_ok fun i _ => State.source_of_clean h hsrc ..]
  simp only [Exe.bind]
  rw [foldl_option_pair (g := fun (l : List (Nat × Nat × MBlk)) q => l ++ [(q.1, 32 * q.2.1 + q.2.2, s.rowBlk m f q.1 q.2.1 q.2.2)])]
  · rw [List.foldl_append_eq_append, List.nil_append, ← List.flatMap_def, ← List.map_eq_flatMap]
    rfl
  · intro l q _
    rw [Option.bind_some, State.readBlk_of_clean h hsrc]
    rfl

/-- MLDA puts each active row's blocks in the row buffers of its units, from a clean slice. -/
theorem mlda_completes {f : UW} (h : AtHead s core m r B K) (hi : m.instr = .mlda f) (hsrc : m.src.kind = 2)
    (hclean : s.CleanSlices) : Completes s core m r fun u _ => u.mem = s.mem ∧
      ∀ p k, (quadUnits f.top core)[p]? = some k →
        (u.unit k).rowBuf = ((s.unit k).loadRows (s.rowBlks m f (quadUnits f.top core).length) f p).rowBuf := by
  let units := quadUnits f.top core
  let load (u : Nat × Nat) := MatUnit.loadRows (s.rowBlks m f units.length) f u.2
  refine h.completes_of_run ⟨(units.zip (List.range units.length)).foldl (fun t u => t.modUnit u.1 (load u)) (s.uncounted core),
    0, ?_, foldl_modUnit_keepsQueue Prod.fst load _ core _ (fun _ _ => rfl) (fun _ _ => rfl),
    fun u hmem hu => ⟨hmem.trans (OnlyCores.foldl _ (fun s k => .modUnit s _ _) _).mem, fun p k hk => ?_⟩⟩
  · simp only [State.runMat, hi, State.runMlda_of_clean (s := s.uncounted core) hclean hsrc,
      (s.uncounted_same core).only.rowBlks]
    rfl
  · have hload := foldl_modUnit_unit (g := load) (quadUnits_zip_nodup f.top core) (mem_zip_range hk) (s.uncounted core)
    rw [(s.uncounted_same core).unit] at hload
    dsimp only at hload
    rw [(hu k).rowBuf, hload]

end Loads

/-! ## Products (03 R79, R80, R87, R90) -/

section Products
variable {s : State} {core : Nat} {m : MatOp} {r : List MatOp} {B : Block} {K : Task} {units : List Nat} {sparse : Option (Tab MBlk)}

/-- Block `g` of a product's K, counted over its units, where no error is met. -/
def cleanBlk (x g : Nat) : ProdBlk := ⟨g, g / (8 * x), g % (8 * x), .fold false []⟩

/-- The blocks of a product that meets no error. -/
def cleanBlks (x n : Nat) : List ProdBlk := (List.range (8 * x * n)).map (cleanBlk x)

theorem checkBlk_nil (on : Bool) : checkBlk on [] = .fold false [] := by cases on <;> rfl

theorem State.prodBlks_of_noUpset (h : ∀ k ∈ units, (s.unit k).upset = []) {x : Nat} (hx : 0 < x) (rows : List Nat) (cols : Nat)
    (on : Bool) : s.prodBlks units sparse rows x cols on = cleanBlks x units.length := by
  have hnone (p : Nat) (hp : p < units.length) : (s.unit (units.getD p 0)).upset = [] := by
    refine h _ ?_
    rw [List.getD_eq_getElem _ _ hp]
    exact List.getElem_mem hp
  unfold State.prodBlks cleanBlks
  rw [Nat.mul_comm (8 * x), range_mul_eq_flatMap units.length (8 * x)]
  simp only [List.map_flatMap, List.map_map]
  refine List.flatMap_congr fun p hp => List.map_congr_left fun b hb => ?_
  have hb := List.mem_range.1 hb
  simp only [Function.comp, hnone p (List.mem_range.1 hp), List.filter_nil, checkBlk_nil, cleanBlk]
  rw [Nat.mul_comm p, Nat.mul_add_div (by omega), Nat.div_eq_of_lt hb, Nat.mul_add_mod, Nat.mod_eq_of_lt hb, Nat.add_zero]

theorem cleanBlks_folds (x n : Nat) :
    ((cleanBlks x n).filter fun b => (⟨(0, 0, 0), none⟩ : Span).folds b.glob) = cleanBlks x n :=
  List.filter_eq_self.2 fun b _ => by simp [Span.folds]

theorem cleanBlks_takeWhile (x n : Nat) : ((cleanBlks x n).takeWhile fun b => !b.fails) = cleanBlks x n := by
  refine List.takeWhile_eq_self_iff.2 fun b hb => ?_
  obtain ⟨g, -, rfl⟩ := List.mem_map.1 hb
  rfl

theorem cleanBlks_find (x n : Nat) : (cleanBlks x n).find? ProdBlk.fails = none := by
  refine List.find?_eq_none.2 fun b hb => ?_
  obtain ⟨g, -, rfl⟩ := List.mem_map.1 hb
  exact Bool.false_ne_true

/-- Where no error was met, nothing is counted or taken away. -/
theorem State.settleBlks_same (h : ∀ k ∈ units, (s.unit k).upset = []) (x n : Nat) :
    SameUnits s (s.settleBlks units (cleanBlks x n)) := by
  unfold State.settleBlks
  refine List.foldlRecOn _ _ (motive := SameUnits s) ⟨.rfl, fun _ => rfl⟩ fun t ht u hu => ?_
  have hcount : ((cleanBlks x n).filter fun b => b.pos = u.2).countP ProdBlk.fixed = 0 := by
    refine List.countP_eq_zero.2 fun b hb => ?_
    obtain ⟨g, -, rfl⟩ := List.mem_map.1 (List.mem_of_mem_filter hb)
    exact Bool.false_ne_true
  have hempty : (t.unit u.1).upset = [] := by
    rw [ht.unit]
    exact h _ (List.of_mem_zip hu).1
  simp only [hcount, if_true]
  refine ⟨ht.only.trans (.modUnit _ _ _), fun k => ?_⟩
  rw [State.modUnit_unit, ← ht.unit]
  split
  case isTrue hk => rw [hk, hempty, List.filter_nil, ← hempty]
  case isFalse => rfl

/-- The contribution of block `g` of K to an element, where no error is met. -/
def State.prodCon (s : State) (units : List Nat) (sparse : Option (Tab MBlk)) (x g i j : Nat) : Contrib :=
  contrib (s.opA units sparse (g / (8 * x)) (g % (8 * x)) i) (s.opB units (g / (8 * x)) (g % (8 * x)) j) 0

theorem SameUnits.prodCon {t : State} (h : SameUnits s t) : t.prodCon units sparse = s.prodCon units sparse := by
  funext x g i j
  simp only [State.prodCon, State.opA, State.opB, h.unit]

/-- Operands are no part of a unit's tiles. -/
theorem State.opA_onlyTiles {t : State} (h : ∀ k, OnlyTiles (s.unit k) (t.unit k)) : t.opA units sparse = s.opA units sparse := by
  funext p b i
  unfold State.opA
  split
  · rfl
  · rw [(h _).rowBuf]

theorem State.opB_onlyTiles {t : State} (h : ∀ k, OnlyTiles (s.unit k) (t.unit k)) : t.opB units = s.opB units := by
  funext p b j
  unfold State.opB
  rw [(h _).active]

/-- A state in which the tiles of an instruction have the types and maps of its plans. -/
theorem State.prepare_tiles (s : State) (core part b ty : Nat) (f : UW) (map : Nat → List Nat) :
    ∃ t, s.prepare core part b ty (f.tiles.map fun t => (t, ty, map t)) [] = .ok t ∧ OnlyCores s t ∧
      (∀ k, OnlyTiles (s.unit k) (t.unit k)) ∧ ∀ j, j < 64 * geo f.yc →
        (t.unit core).tile (f.tile + j / 64) = { (s.unit core).tile (f.tile + j / 64) with ty := ty, map := map (f.tile + j / 64) } := by
  obtain ⟨t, hprep, honly, hunit⟩ := s.prepare_of_noActs core part b ty (f.tiles.map fun t => (t, ty, map t))
  refine ⟨t, hprep, honly, fun k => ?_, fun j hj => ?_⟩
  · rw [hunit]
    split
    case isTrue hk => rw [hk]; exact MatUnit.planned_onlyTiles ..
    case isFalse => exact .rfl
  · rw [hunit, if_pos rfl]
    exact MatUnit.planned_tile _ _ _ f.tiles_nodup (UW.mem_tiles hj)

/-- A state with the results of an instruction stored at its places (03 R79, R88). -/
def State.stored (s : State) (core : Nat) (rows labels : List Nat) (base y : Nat) (X : Nat × Nat × Nat × Nat → Nat × Flags) :
    State :=
  s.modUnit core fun U => (((s.unit core).places rows labels base y).map fun p => (p, X p)).foldl MatUnit.storeCell U

section Stored
variable (s : State) (core : Nat) (rows labels : List Nat) (base y : Nat) (X : Nat × Nat × Nat × Nat → Nat × Flags)

theorem State.stored_only : OnlyCores s (s.stored core rows labels base y X) := .modUnit ..

theorem State.stored_keepsQueue : KeepsQueue s (s.stored core rows labels base y X) core := by
  have honly (out : List ((Nat × Nat × Nat × Nat) × Nat × Flags)) : OnlyTiles (s.unit core) (out.foldl MatUnit.storeCell _) :=
    .foldl out (fun U _ => .modTile U _ _) _
  refine (s.stored_only core rows labels base y X).keepsQueue ?_ ?_ <;> unfold State.stored <;> rw [State.modUnit_unit_same]
  · exact (honly _).queue
  · exact (honly _).guard

variable {s core rows labels base y X}

/-- Each element of a place is the result for it; the tile's type stays. -/
theorem State.stored_el (hrows : ∀ i ∈ rows, i < 32) {i j : Nat} (hi : i ∈ rows) (hj : j < 64 * y) {T : Tile} {v : Nat}
    (hT : (s.unit core).tile (base + j / 64) = T)
    (hX : (X (i, j, base + j / 64, labelAt T.map (labels.getD i 0) - 1)).1 = v) :
    let T' := ((s.stored core rows labels base y X).unit core).tile (base + j / 64)
    T'.ty = T.ty ∧ T'.el (labelAt T.map (labels.getD i 0) - 1) i (j % 64) = v % elRange T.ty := by
  subst hT hX
  unfold State.stored
  rw [State.modUnit_unit_same]
  exact MatUnit.stored_el hrows hi hj rfl

end Stored

/-- The first of two values folded along, where it does not depend on the second. -/
theorem foldl_fst {α β φ : Type} {F : α × φ → β → α × φ} {g : α → β → α} (h : ∀ r x, (F r x).1 = g r.1 x) (xs : List β)
    (p : α × φ) : (xs.foldl F p).1 = xs.foldl g p.1 :=
  (List.foldl_hom Prod.fst fun r x => (h r x).symm).symm

/-- A product without `.mx` folds the contribution of each block, in order, into each element. -/
theorem State.runProduct_tiles {part : Nat} {f : UW} {joint on : Bool} (hmx : f.mx = false)
    (hup : ∀ k ∈ quadUnits joint core, (s.unit k).upset = []) (hacts : m.acts = []) {map : Nat → List Nat}
    (hplans : m.plans = f.tiles.map fun t => (t, accType f.fa, map t)) :
    ∃ t fl, s.runProduct core part m f joint sparse on ⟨(0, 0, 0), none⟩ = .ok (t, fl) ∧ OnlyCores s t ∧ KeepsQueue s t core ∧
      ∀ i j, i ∈ lanesOf m.rows → j < 64 * geo f.yc →
        let T := (t.unit core).tile (f.tile + j / 64)
        let slot := labelAt (map (f.tile + j / 64)) (m.labels.getD i 0) - 1
        T.ty = accType f.fa ∧ T.el slot i (j % 64) =
          (List.range (8 * geo f.xc * (quadUnits joint core).length)).foldl
            (fun acc g => (fold (accType f.fa) acc (s.prodCon (quadUnits joint core) sparse (geo f.xc) g i j)).1)
            ({ (s.unit core).tile (f.tile + j / 64) with ty := accType f.fa }.el slot i (j % 64)) % elRange (accType f.fa) := by
  by_cases hrows : lanesOf m.rows = []
  · refine ⟨s, 0, ?_, .rfl, OnlyCores.rfl.keepsQueue rfl rfl, fun i j hi => ?_⟩
    · simp [State.runProduct, hrows]
    · rw [hrows] at hi
      cases hi
  · obtain ⟨s1, hprep, honly, htiles, hplanned⟩ := s.prepare_tiles core part m.b (accType f.fa) f map
    have hup1 : ∀ k ∈ quadUnits joint core, (s1.unit k).upset = [] := fun k hk => (htiles k).upset.trans (hup k hk)
    have hsettle := State.settleBlks_same hup1 (geo f.xc) (quadUnits joint core).length
    unfold State.runProduct
    simp only [hrows, List.isEmpty_iff, if_false, hmx, ne_eq, not_true_eq_false, Bool.false_eq_true, decide_false, Bool.or_self,
      hacts, hplans, hprep, Exe.bind, State.prodBlks_of_noUpset hup1 (geo_pos _), cleanBlks_folds, cleanBlks_takeWhile,
      cleanBlks_find]
    refine ⟨State.stored _ core _ m.labels _ _ fun p => _, _, rfl, (honly.trans hsettle.only).trans (State.stored_only ..), ?_,
      fun i j hi hj => ?_⟩
    · exact (honly.keepsQueue (htiles core).queue (htiles core).guard).trans
        ((hsettle.keepsQueue core).trans (State.stored_keepsQueue ..))
    · refine State.stored_el lanesOf_lt hi hj ((congrArg (MatUnit.tile · _) (hsettle.unit core)).trans (hplanned j hj)) ?_
      unfold cleanBlks
      rw [List.foldl_map]
      refine (foldl_fst (g := fun acc g => (fold (accType f.fa) acc
        (s.prodCon (quadUnits joint core) sparse (geo f.xc) g i j)).1) (fun r g => ?_) _ _).trans ?_
      · rw [State.opA_onlyTiles htiles, State.opB_onlyTiles htiles]
        rfl
      · rw [← cleanBlks, hsettle.unit, hplanned j hj]
        rfl

theorem Span.whole_has (x : Nat × Nat × Nat) : (⟨(0, 0, 0), none⟩ : Span).has x = true := by
  simp [Span.has, stepBefore]

/-- Where an element's partial of block `g` of K stands in the partial file (03 R87). -/
def partKey (f : UW) (g i j : Nat) : Nat := (f.f 11 6 + g * geo f.yc + j / 64) * 2048 + i * 64 + j % 64

theorem partKey_inj {f : UW} {g g' i i' j j' : Nat} (hi : i < 32) (hi' : i' < 32) (hj : j < 64 * geo f.yc)
    (hj' : j' < 64 * geo f.yc) (h : partKey f g i j = partKey f g' i' j') : g = g' ∧ i = i' ∧ j = j' := by
  have hpos : g * geo f.yc + j / 64 = g' * geo f.yc + j' / 64 := by unfold partKey at h; omega
  have hblk (a b : Nat) (hb : b < 64 * geo f.yc) : (a * geo f.yc + b / 64) / geo f.yc = a := by
    rw [Nat.mul_comm, Nat.mul_add_div (geo_pos _), Nat.div_eq_of_lt (by omega), Nat.add_zero]
  have hg : g = g' := by rw [← hblk g j hj, hpos, hblk g' j' hj']
  subst hg
  unfold partKey at h
  exact ⟨rfl, by omega, by omega⟩

/-- An `.mx` product puts the contribution of each block in the partial file, and Z markers in the rows not active. -/
theorem State.runProduct_partials {part : Nat} {f : UW} {joint on : Bool} (hmx : f.mx = true) (hrows : m.rows ≠ 0)
    (hup : ∀ k ∈ quadUnits joint core, (s.unit k).upset = []) :
    ∃ t fl, s.runProduct core part m f joint sparse on ⟨(0, 0, 0), none⟩ = .ok (t, fl) ∧ OnlyCores s t ∧ KeepsQueue s t core ∧
      (t.unit core).tiles = (s.unit core).tiles ∧
      ∀ g i j, g < 8 * geo f.xc * (quadUnits joint core).length → i < 32 → j < 64 * geo f.yc →
        (t.unit core).partials.get 0x80000000#32 (partKey f g i j) = BitVec.ofNat 32 (if i ∈ lanesOf m.rows then
          (entryOf (s.prodCon (quadUnits joint core) sparse (geo f.xc) g i j)).1 else 0x80000000) := by
  have hsettle := State.settleBlks_same hup (geo f.xc) (quadUnits joint core).length
  unfold State.runProduct
  simp only [lanesOf_ne_nil hrows, List.isEmpty_iff, if_false, hmx, Bool.true_or, if_true, Exe.bind,
    State.prodBlks_of_noUpset hup (geo_pos _), cleanBlks_folds, cleanBlks_takeWhile, cleanBlks_find]
  refine ⟨_, _, rfl, hsettle.only.trans (.modUnit ..), (hsettle.keepsQueue core).trans ((OnlyCores.modUnit ..).keepsQueue ?_ ?_),
    ?_, fun g i j hg hi hj => ?_⟩
  · rw [State.modUnit_unit_same]
  · rw [State.modUnit_unit_same]
  · rw [State.modUnit_unit_same, hsettle.unit]
  · rw [State.modUnit_unit_same]
    refine Tab.get_foldl_set (key := fun e : Nat × Nat × Flags => e.1) (val := fun e => BitVec.ofNat 32 e.2.1) ?_
      (fun e he hk => ?_) _
    · exact ⟨_, List.mem_flatMap.2 ⟨cleanBlk _ g, List.mem_map_of_mem (List.mem_range.2 hg), List.mem_flatMap.2
        ⟨i, List.mem_range.2 hi, List.mem_map_of_mem (List.mem_range.2 hj)⟩⟩, rfl⟩
    · obtain ⟨b, hb, he⟩ := List.mem_flatMap.1 he
      obtain ⟨g', -, rfl⟩ := List.mem_map.1 hb
      obtain ⟨i', hi', he⟩ := List.mem_flatMap.1 he
      obtain ⟨j', hj', rfl⟩ := List.mem_map.1 he
      obtain ⟨rfl, rfl, rfl⟩ := partKey_inj (List.mem_range.1 hi') hi (List.mem_range.1 hj') hj hk
      dsimp only
      by_cases hmem : i' ∈ lanesOf m.rows
      · rw [if_pos hmem, if_pos (List.contains_iff_mem.2 hmem)]
        rfl
      · rw [if_neg hmem, if_neg fun h => hmem (List.contains_iff_mem.1 h)]

/-! ## SCACC (03 R88, R89) -/

/-- The scales at some places of a clean region. -/
theorem State.readScales_of_clean {c : CapReg} (h : s.CleanSlices) (hc : c.kind = 2) (core part b : Nat) (ks : List Nat) :
    ∃ t, s.readScales core part b c ks = .ok (t, s) ∧ ∀ k ∈ ks, t.get 0 k = s.sparseNat b c (2 * k) 2 := by
  induction ks with
  | nil => exact ⟨[], rfl, nofun⟩
  | cons k ks ih =>
    obtain ⟨t, hread, hget⟩ := ih
    refine ⟨t.put k (s.sparseNat b c (2 * k) 2), ?_, fun k' hk' => ?_⟩
    · rw [State.readScales, hread]
      simp only [Exe.bind, State.source_of_clean h hc, State.matRead_of_clean h hc]
      rfl
    · rw [Tab.get_put]
      split
      case isTrue heq => rw [heq]
      case isFalse hne => exact hget k' ((List.mem_cons.1 hk').resolve_left hne)

/-- A marker's scales do not count (03 R89). -/
theorem scaleStep_of_marker {ent : Nat} (h : isMarker ent = true) (acc a b a' b' : Nat) :
    scaleStep acc ent a b = scaleStep acc ent a' b' := by
  have he : sextN 8 (ent / 2 ^ 24 % 256) = -128 := by
    rw [show ent / 2 ^ 24 % 256 = 0x80 by simpa [isMarker] using h]
    decide
  unfold scaleStep
  simp only [he, if_true]

/-- The partial entry that SCACC takes for an element of block `b` of K. -/
def State.partEntry (s : State) (core : Nat) (f : UW) (i j b : Nat) : Nat :=
  ((s.unit core).partials.get 0x80000000#32 (partKey f b i j)).toNat

/-- The columns of a row whose entry of block `b` is no marker. -/
def State.usedCols (s : State) (core : Nat) (f : UW) (i b : Nat) : List Nat :=
  (List.range (64 * geo f.yc)).filter fun j => !isMarker (s.partEntry core f i j b)

/-- The rows and blocks of K that SCACC takes. -/
def scaleCells (rows : List Nat) (nb : Nat) : List (Nat × Nat) := rows.flatMap fun i => (List.range nb).map fun b => (i, b)

/-- The places of the scales of A that SCACC reads. -/
def State.rowScales (s : State) (core : Nat) (f : UW) (rows : List Nat) : List Nat :=
  (scaleCells rows (f.blocks false)).filterMap fun x =>
    if (s.usedCols core f x.1 x.2).isEmpty then none else some (x.1 * f.blocks false + x.2)

/-- The places of the scales of B that SCACC reads. -/
def State.colScales (s : State) (core : Nat) (f : UW) (rows : List Nat) : List Nat :=
  ((scaleCells rows (f.blocks false)).flatMap fun x =>
    (s.usedCols core f x.1 x.2).map fun j => j * f.blocks false + x.2).eraseDups

section Scales
variable {f : UW} {rows : List Nat} {i j b : Nat}

theorem mem_scaleCells {nb : Nat} (hi : i ∈ rows) (hb : b < nb) : (i, b) ∈ scaleCells rows nb :=
  List.mem_flatMap.2 ⟨i, hi, List.mem_map_of_mem (List.mem_range.2 hb)⟩

theorem State.mem_usedCols (hj : j < 64 * geo f.yc) (hent : isMarker (s.partEntry core f i j b) = false) :
    j ∈ s.usedCols core f i b :=
  List.mem_filter.2 ⟨List.mem_range.2 hj, by rw [hent]; rfl⟩

theorem State.mem_rowScales (hi : i ∈ rows) (hb : b < f.blocks false) (hj : j < 64 * geo f.yc)
    (hent : isMarker (s.partEntry core f i j b) = false) : i * f.blocks false + b ∈ s.rowScales core f rows :=
  List.mem_filterMap.2 ⟨(i, b), mem_scaleCells hi hb, if_neg fun h =>
    List.ne_nil_of_mem (State.mem_usedCols hj hent) (List.isEmpty_iff.1 h)⟩

theorem State.mem_colScales (hi : i ∈ rows) (hb : b < f.blocks false) (hj : j < 64 * geo f.yc)
    (hent : isMarker (s.partEntry core f i j b) = false) : j * f.blocks false + b ∈ s.colScales core f rows :=
  List.mem_eraseDups.2 (List.mem_flatMap.2 ⟨(i, b), mem_scaleCells hi hb, List.mem_map_of_mem (State.mem_usedCols hj hent)⟩)

/-- The cells of one of the rows. -/
theorem scaleCells_filter (hn : rows.Nodup) (hi : i ∈ rows) (nb : Nat) :
    ((scaleCells rows nb).filter fun x => x.1 = i) = (List.range nb).map fun b => (i, b) := by
  have hnone (xs : List Nat) (h : i ∉ xs) : ((scaleCells xs nb).filter fun x => decide (x.1 = i)) = [] := by
    refine List.filter_eq_nil_iff.2 fun x hx => ?_
    obtain ⟨a, ha, hx⟩ := List.mem_flatMap.1 hx
    obtain ⟨b, -, rfl⟩ := List.mem_map.1 hx
    simpa using fun hai : a = i => h (hai ▸ ha)
  obtain ⟨before, after, rfl⟩ := List.append_of_mem hi
  obtain ⟨hafter, hbefore⟩ : i ∉ after ∧ i ∉ before := by
    simp only [List.nodup_append, List.nodup_cons] at hn
    obtain ⟨-, ⟨hafter, -⟩, hdisjoint⟩ := hn
    exact ⟨hafter, fun h => hdisjoint i h i (List.mem_cons_self ..) rfl⟩
  have hsplit : scaleCells (before ++ i :: after) nb =
      scaleCells before nb ++ (((List.range nb).map fun b => (i, b)) ++ scaleCells after nb) := by simp [scaleCells]
  rw [hsplit, List.filter_append, List.filter_append, hnone _ hbefore, hnone _ hafter, List.append_nil, List.nil_append]
  exact List.filter_eq_self.2 fun x hx => by obtain ⟨b, -, rfl⟩ := List.mem_map.1 hx; simp

end Scales

/-- SCACC folds each partial entry, with its two scales, into each element. -/
theorem State.runScacc_tiles {part : Nat} {f : UW} (h : s.CleanSlices) (hsrc : m.src.kind = 2) (hsrc2 : m.src2.kind = 2)
    (hacts : m.acts = []) {map : Nat → List Nat} (hplans : m.plans = f.tiles.map fun t => (t, 2, map t)) :
    ∃ t fl, s.runScacc core part m f ⟨(0, 0, 0), none⟩ = .ok (t, fl) ∧ OnlyCores s t ∧ KeepsQueue s t core ∧
      ∀ i j, i ∈ lanesOf m.rows → j < 64 * geo f.yc →
        let nb := 8 * geo f.xc
        let T := (t.unit core).tile (f.tile + j / 64)
        let slot := labelAt (map (f.tile + j / 64)) (m.labels.getD i 0) - 1
        T.ty = 2 ∧ T.el slot i (j % 64) =
          (List.range nb).foldl (fun acc b => (scaleStep acc (s.partEntry core f i j b) (s.sparseNat m.b m.src (2 * (i * nb + b)) 2)
            (s.sparseNat m.b m.src2 (2 * (j * nb + b)) 2)).1)
            ({ (s.unit core).tile (f.tile + j / 64) with ty := 2 }.el slot i (j % 64)) % elRange 2 := by
  by_cases hrows : lanesOf m.rows = []
  · refine ⟨s, 0, ?_, .rfl, OnlyCores.rfl.keepsQueue rfl rfl, fun i j hi => ?_⟩
    · simp [State.runScacc, hrows]
    · rw [hrows] at hi
      cases hi
  · obtain ⟨s1, hprep, honly, htiles, hplanned⟩ := s.prepare_tiles core part m.b 2 f map
    have hne : (lanesOf m.rows).isEmpty = false := List.isEmpty_eq_false_iff.2 hrows
    choose ta hreadA hgetA using State.readScales_of_clean h hsrc core part m.b
    choose tb hreadB hgetB using State.readScales_of_clean h hsrc2 core part m.b
    unfold State.runScacc
    simp only [hne, Bool.false_eq_true, if_false, hreadA, hreadB, Exe.bind, if_true, hacts, hplans, hprep, Span.whole_has,
      List.filterMap_eq_map']
    refine ⟨State.stored s1 core _ m.labels _ _ fun p => _, _, rfl, honly.trans (State.stored_only ..),
      (honly.keepsQueue (htiles core).queue (htiles core).guard).trans (State.stored_keepsQueue ..), fun i j hi hj => ?_⟩
    refine State.stored_el lanesOf_lt hi hj (hplanned j hj) ?_
    rw [← scaleCells, scaleCells_filter (lanesOf_nodup _) hi, List.foldl_map]
    refine (foldl_fst (g := fun acc b => (scaleStep acc (s.partEntry core f i j b)
      ((ta (s.rowScales core f (lanesOf m.rows))).get 0 (i * f.blocks false + b))
      ((tb (s.colScales core f (lanesOf m.rows))).get 0 (j * f.blocks false + b))).1) (fun r b => ?_) _ _).trans ?_
    · rfl
    rw [hplanned j hj]
    refine List.foldl_ext _ _ _ fun acc b hb => congrArg Prod.fst ?_
    cases hent : isMarker (s.partEntry core f i j b) with
    | true => exact scaleStep_of_marker hent ..
    | false =>
      have hb := List.mem_range.1 hb
      rw [hgetA _ _ (State.mem_rowScales hi hb hj hent), hgetB _ _ (State.mem_colScales hi hb hj hent)]
      rfl
/-! ## Completion of products and SCACC -/

/-- A product without `.mx` at the head of the queue completes with its elements folded (03 R79, R80, R90). -/
theorem product_tiles_completes {f : UW} {joint : Bool} (h : AtHead s core m r B K)
    (hrun : ∀ (s : State) part on w, s.runMat core part m on w = s.runProduct core part m f joint sparse on w)
    (hmx : f.mx = false) (hup : ∀ k ∈ quadUnits joint core, (s.unit k).upset = []) (hacts : m.acts = []) {map : Nat → List Nat}
    (hplans : m.plans = f.tiles.map fun t => (t, accType f.fa, map t)) :
    Completes s core m r fun u V => u.mem = s.mem ∧ ∀ i j, i ∈ lanesOf m.rows → j < 64 * geo f.yc →
      let T := V.tile (f.tile + j / 64)
      let slot := labelAt (map (f.tile + j / 64)) (m.labels.getD i 0) - 1
      T.ty = accType f.fa ∧ T.el slot i (j % 64) =
        (List.range (8 * geo f.xc * (quadUnits joint core).length)).foldl
          (fun acc g => (fold (accType f.fa) acc (s.prodCon (quadUnits joint core) sparse (geo f.xc) g i j)).1)
          ({ (s.unit core).tile (f.tile + j / 64) with ty := accType f.fa }.el slot i (j % 64)) % elRange (accType f.fa) := by
  have hsame := s.uncounted_same core
  obtain ⟨t, fl, hprod, honly, hkeep, hel⟩ := State.runProduct_tiles (s := s.uncounted core) (core := core) (sparse := sparse)
    (part := K.part) (on := K.launch.ck) hmx (fun k hk => (congrArg _ (hsame.unit k)).trans (hup k hk)) hacts hplans
  refine h.completes_of_run ⟨t, fl, (hrun ..).trans hprod, hkeep, fun u hmem hu => ⟨hmem.trans honly.mem, fun i j hi hj => ?_⟩⟩
  have hij := hel i j hi hj
  rw [hsame.prodCon, hsame.unit] at hij
  rw [(hu core).tile]
  exact hij

/-- An `.mx` product at the head of the queue completes with its partial entries written (03 R87). -/
theorem product_partials_completes {f : UW} {joint : Bool} (h : AtHead s core m r B K)
    (hrun : ∀ (s : State) part on w, s.runMat core part m on w = s.runProduct core part m f joint sparse on w)
    (hmx : f.mx = true) (hrows : m.rows ≠ 0) (hup : ∀ k ∈ quadUnits joint core, (s.unit k).upset = []) :
    Completes s core m r fun u V => u.mem = s.mem ∧ V.tiles = (s.unit core).tiles ∧
      ∀ g i j, g < 8 * geo f.xc * (quadUnits joint core).length → i < 32 → j < 64 * geo f.yc →
        V.partials.get 0x80000000#32 (partKey f g i j) = BitVec.ofNat 32 (if i ∈ lanesOf m.rows then
          (entryOf (s.prodCon (quadUnits joint core) sparse (geo f.xc) g i j)).1 else 0x80000000) := by
  have hsame := s.uncounted_same core
  obtain ⟨t, fl, hprod, honly, hkeep, htiles, hents⟩ := State.runProduct_partials (s := s.uncounted core) (core := core)
    (sparse := sparse) (part := K.part) (on := K.launch.ck) hmx hrows fun k hk => (congrArg _ (hsame.unit k)).trans (hup k hk)
  refine h.completes_of_run ⟨t, fl, (hrun ..).trans hprod, hkeep, fun u hmem hu => ⟨hmem.trans honly.mem, ?_,
    fun g i j hg hi hj => ?_⟩⟩
  · rw [(hu core).tiles, htiles, hsame.unit]
  · rw [(hu core).partials, hents g i j hg hi hj, hsame.prodCon]

/-- SCACC at the head of the queue completes with its partial entries folded, scaled (03 R88). -/
theorem scacc_completes {f : UW} (h : AtHead s core m r B K) (hi : m.instr = .scacc f) (hsrc : m.src.kind = 2)
    (hsrc2 : m.src2.kind = 2) (hclean : s.CleanSlices) (hacts : m.acts = []) {map : Nat → List Nat}
    (hplans : m.plans = f.tiles.map fun t => (t, 2, map t)) :
    Completes s core m r fun u V => u.mem = s.mem ∧ ∀ i j, i ∈ lanesOf m.rows → j < 64 * geo f.yc →
      let nb := 8 * geo f.xc
      let T := V.tile (f.tile + j / 64)
      let slot := labelAt (map (f.tile + j / 64)) (m.labels.getD i 0) - 1
      T.ty = 2 ∧ T.el slot i (j % 64) =
        (List.range nb).foldl (fun acc b => (scaleStep acc (s.partEntry core f i j b) (s.sparseNat m.b m.src (2 * (i * nb + b)) 2)
          (s.sparseNat m.b m.src2 (2 * (j * nb + b)) 2)).1)
          ({ (s.unit core).tile (f.tile + j / 64) with ty := 2 }.el slot i (j % 64)) % elRange 2 := by
  have hsame := s.uncounted_same core
  obtain ⟨t, fl, hrun, honly, hkeep, hel⟩ := State.runScacc_tiles (s := s.uncounted core) (core := core) (part := K.part) hclean hsrc
    hsrc2 hacts hplans
  refine h.completes_of_run ⟨t, fl, by simp only [State.runMat, hi, hrun], hkeep, fun u hmem hu => ⟨hmem.trans honly.mem,
    fun i j hi hj => ?_⟩⟩
  have hij := hel i j hi hj
  simp only [State.partEntry, hsame.unit, hsame.only.sparseNat] at hij
  rw [(hu core).tile]
  exact hij

end Products

/-! ## Writing a mix (14 R372) -/

/-- `t` is `s` but for the bytes of slices, with their poison, single errors and sums. -/
def OnlySliceData (s t : State) : Prop :=
  t = { s with mem := { s.mem with
    slice := t.mem.slice, slicePoison := t.mem.slicePoison, flips := t.mem.flips, skew := t.mem.skew } }

theorem OnlySliceData.rfl {s : State} : OnlySliceData s s := Eq.refl _

theorem OnlySliceData.trans {s t u : State} (h : OnlySliceData s t) (k : OnlySliceData t u) : OnlySliceData s u :=
  Eq.trans k (congrArg (fun x : State => { x with mem := { x.mem with
    slice := u.mem.slice, slicePoison := u.mem.slicePoison, flips := u.mem.flips, skew := u.mem.skew } }) h)

theorem OnlySliceData.sliceWrite (s : State) (a : Nat) (bs : List Byte) : OnlySliceData s (s.sliceWrite a bs) := Eq.refl _

theorem OnlySliceData.regenTile (s : State) (u : Nat) : OnlySliceData s (s.regenTile u) := Eq.refl _

theorem OnlySliceData.foldl {α : Type} {f : State → α → State} (xs : List α) (h : ∀ s x, OnlySliceData s (f s x)) (s : State) :
    OnlySliceData s (xs.foldl f s) :=
  List.foldlRecOn xs f (motive := OnlySliceData s) .rfl fun t ht x _ => ht.trans (h t x)

theorem OnlySliceData.unit {s t : State} (h : OnlySliceData s t) (k : Nat) : t.unit k = s.unit k :=
  (congrArg (State.unit · k) h :)

theorem OnlySliceData.keepsQueue {s t : State} (h : OnlySliceData s t) (core : Nat) : KeepsQueue s t core where
  blocks := (congrArg State.blocks h :)
  tasks := (congrArg State.tasks h :)
  eng := (congrArg State.eng h :)
  queue := by rw [h.unit]
  guard := by rw [h.unit]

theorem OnlySliceData.tilesOf {s t : State} (h : OnlySliceData s t) (a n : Nat) : t.tilesOf a n = s.tilesOf a n := by
  rw [show t = _ from h]; rfl

@[simp] theorem leBytes_length (n x : Nat) : (leBytes n x).length = n := by
  induction n generalizing x with
  | zero => rfl
  | succ n ih => rw [leBytes, List.length_cons, ih]

/-- Two writes, one behind the other, are one. -/
theorem Mem.write_append (m : Mem) (a : Nat) (xs ys : List Byte) :
    Mem.write m a (xs ++ ys) = Mem.write (Mem.write m a xs) (a + xs.length) ys := by
  induction xs generalizing m a with
  | nil => rfl
  | cons x xs ih =>
    rw [List.cons_append, Mem.write, ih, Mem.write, List.length_cons, Nat.add_assoc, Nat.add_comm 1]

/-- Elements written one behind the other. -/
theorem Mem.write_flatMap_leBytes (m : Mem) (a z n : Nat) (v : Nat → Nat) :
    Mem.write m a ((List.range n).flatMap fun j => leBytes z (v j)) =
      (List.range n).foldl (fun m j => Mem.write m (a + z * j) (leBytes z (v j))) m := by
  have hlen (n : Nat) : ((List.range n).flatMap fun j => leBytes z (v j)).length = z * n := by
    simp [List.length_flatMap, Nat.mul_comm]
  induction n with
  | zero => rfl
  | succ n ih =>
    rw [List.range_succ, List.flatMap_append, Mem.write_append, ih, hlen, List.foldl_append]
    simp

theorem sliceKey_add {a n : Nat} (h : sliceKey a + n < 2 ^ 33) : sliceKey (a + n) = sliceKey a + n := by
  unfold sliceKey at *; omega

theorem State.here_add {s : State} {a n : Nat} (h : s.here a = true) (hn : sliceKey a + n < 2 ^ 33) : s.here (a + n) = true := by
  have hpkg : pkgOfSlice (a + n) = pkgOfSlice a := by
    unfold pkgOfSlice bits
    unfold sliceKey at hn
    omega
  unfold State.here at *
  rwa [hpkg]

/-- Rows of tiles of this package, written each at its place. -/
theorem foldl_putRow {s : State} {b : Nat} {ps : List (Nat × List Byte)} (h : ∀ p ∈ ps, s.here p.1 = true) :
    ps.foldl (fun s p => s.putRow b p.1 p.2) s = ps.foldl (fun s p => s.sliceWrite p.1 p.2) s := by
  induction ps generalizing s with
  | nil => rfl
  | cons p ps ih =>
    rw [List.foldl_cons, List.foldl_cons, State.putRow, if_pos (h p (List.mem_cons_self ..))]
    exact ih fun q hq => h q (List.mem_cons_of_mem _ hq)

theorem foldl_sliceWrite_slice (s : State) (ps : List (Nat × List Byte)) :
    (ps.foldl (fun s p => s.sliceWrite p.1 p.2) s).mem.slice =
      ps.foldl (fun m p => Mem.write m (sliceKey p.1) p.2) s.mem.slice :=
  (List.foldl_hom (fun s : State => s.mem.slice) fun _ _ => rfl).symm

/-- The sums of tiles that are made again agree with the data. -/
theorem foldl_regenTile_skew {s : State} {us : List Nat} {u q : Nat} (hu : u ∈ us) (hq : q < 64) :
    (us.foldl (fun s u => s.regenTile u) s).mem.skew.get 0 (64 * u + q) = 0 := by
  have hget (s : State) (x : Nat) : (s.regenTile x).mem.skew.get 0 (64 * u + q) =
      if u = x then 0 else s.mem.skew.get 0 (64 * u + q) := by
    rw [Tab.get_eq, Tab.get_eq]
    show (Tab.find (s.mem.skew.filter fun p => decide (p.1 / 64 ≠ x)) (64 * u + q)).getD 0 = _
    rw [Tab.find_filter s.mem.skew (fun k => decide (k / 64 ≠ x)), show (64 * u + q) / 64 = u by omega]
    by_cases hx : u = x <;> simp [hx]
  exact foldl_reading_of_hit (obs := fun s : State => s.mem.skew.get 0 (64 * u + q)) (inv := fun _ => True)
    (hit := fun x => u = x) (fun _ _ _ _ => trivial) (fun s x _ _ hx => (hget s x).trans (if_pos hx))
    (fun s x _ _ hx => (hget s x).trans (if_neg hx)) ⟨u, hu, rfl⟩ s trivial

/-- The elements of a row that one tile of a mix holds. -/
def mixWidth (ty : Nat) : Nat := if ty = 3 then 16 else 32

theorem mixOff_tile (ty i h j : Nat) (hj : j < mixWidth ty) :
    mixOff ty i (mixWidth ty * h + j) = mixOff ty i (mixWidth ty * h) + elBytes ty * j := by
  unfold mixOff mixWidth elBytes at *
  split at hj <;> simp only [*, if_true, if_false] <;> omega

/-- An element of a mix lies within its bytes. -/
theorem mixOff_lt {ty i j : Nat} (hi : i < 32) (hj : j < 64) : mixOff ty i j + elBytes ty ≤ mixBytes ty := by
  unfold mixOff elBytes mixBytes
  split <;> omega

/-- Two elements of a mix share no byte. -/
theorem mixOff_disjoint {ty i j i' j' : Nat} (hi : i < 32) (hi' : i' < 32) (h : ¬ (i' = i ∧ j' = j)) :
    mixOff ty i j + elBytes ty ≤ mixOff ty i' j' ∨ mixOff ty i' j' + elBytes ty ≤ mixOff ty i j := by
  unfold mixOff elBytes
  split <;> omega

/-- A slice memory with the elements of some rows of a mix written at their places. -/
def mixWritten (m : Mem) (k ty : Nat) (rows : List Nat) (el : Nat → Nat → Nat) : Mem :=
  (cells rows).foldl (fun m p => Mem.write m (k + mixOff ty p.1 p.2) (leBytes (elBytes ty) (el p.1 p.2))) m

theorem mem_cells {rows : List Nat} {i j : Nat} : (i, j) ∈ cells rows ↔ i ∈ rows ∧ j < 64 := by simp [cells]

theorem mixWritten_read {m : Mem} {k ty : Nat} {rows : List Nat} {el : Nat → Nat → Nat} {i j : Nat} (hrows : ∀ i ∈ rows, i < 32)
    (hi : i ∈ rows) (hj : j < 64) :
    Mem.read (mixWritten m k ty rows el) (k + mixOff ty i j) (elBytes ty) = leBytes (elBytes ty) (el i j) := by
  refine foldl_reading_of_hit (obs := fun m => Mem.read m (k + mixOff ty i j) (elBytes ty)) (inv := fun _ => True)
    (hit := fun p => p = (i, j)) (fun _ _ _ _ => trivial) (fun m p _ _ hp => ?_) (fun m p hmem _ hp => ?_)
    ⟨(i, j), mem_cells.2 ⟨hi, hj⟩, rfl⟩ m trivial
  · subst hp
    have := Mem.read_write m (k + mixOff ty i j) (leBytes (elBytes ty) (el i j))
    rwa [leBytes_length] at this
  · obtain ⟨i', j'⟩ := p
    have hdis := mixOff_disjoint (ty := ty) (j := j) (j' := j') (hrows i hi) (hrows i' (mem_cells.1 hmem).1) fun h => hp (Prod.ext h.1 h.2)
    refine Mem.read_write_other _ _ _ _ _ ?_
    rw [leBytes_length]
    dsimp only
    omega

theorem mixWritten_other {m : Mem} {k ty : Nat} {rows : List Nat} {el : Nat → Nat → Nat} {x : Nat}
    (hx : ¬ ∃ i j, i ∈ rows ∧ j < 64 ∧ k + mixOff ty i j ≤ x ∧ x < k + mixOff ty i j + elBytes ty) :
    Tab.get 0#8 (mixWritten m k ty rows el) x = Tab.get 0#8 m x := by
  refine foldl_reading_stays (obs := fun m : Mem => Tab.get 0#8 m x) (fun m p hp => ?_) m
  obtain ⟨i, j⟩ := p
  obtain ⟨hi, hj⟩ := mem_cells.1 hp
  rw [Mem.get_write, if_neg]
  rw [leBytes_length]
  exact fun h => hx ⟨i, j, hi, hj, h.1, h.2⟩

/-- The rows of 128 bytes, one in each tile, of rows of a mix. -/
def mixRows (a ty : Nat) (rows : List Nat) (el : Nat → Nat → Nat) : List (Nat × List Byte) :=
  rows.flatMap fun i => (List.range (64 / mixWidth ty)).map fun h => (a + mixOff ty i (mixWidth ty * h),
    (List.range (mixWidth ty)).flatMap fun j => leBytes (elBytes ty) (el i (mixWidth ty * h + j)))

theorem mixWidth_mul (ty : Nat) : 64 / mixWidth ty * mixWidth ty = 64 := by
  unfold mixWidth; split <;> rfl

theorem mixWidth_mul_lt {ty h : Nat} (hh : h < 64 / mixWidth ty) : mixWidth ty * h + mixWidth ty ≤ 64 := by
  have hw := mixWidth_mul ty
  have := Nat.mul_le_mul_right (mixWidth ty) (Nat.succ_le_of_lt hh)
  rw [hw, Nat.succ_mul] at this
  rwa [Nat.mul_comm]

theorem foldl_mixRows {m : Mem} {a ty : Nat} {rows : List Nat} {el : Nat → Nat → Nat} (hrows : ∀ i ∈ rows, i < 32)
    (hfit : sliceKey a + mixBytes ty ≤ 2 ^ 33) :
    (mixRows a ty rows el).foldl (fun m p => Mem.write m (sliceKey p.1) p.2) m = mixWritten m (sliceKey a) ty rows el := by
  unfold mixRows mixWritten cells
  simp only [List.foldl_flatMap, List.foldl_map]
  refine List.foldl_ext _ _ _ fun m i hi => ?_
  conv_rhs => rw [← mixWidth_mul ty, range_mul_eq_flatMap]
  simp only [List.foldl_flatMap, List.foldl_map]
  refine List.foldl_ext _ _ _ fun m h hh => ?_
  have hlt := mixWidth_mul_lt (List.mem_range.1 hh)
  have hw : 0 < mixWidth ty := by unfold mixWidth; split <;> omega
  have hoff := mixOff_lt (ty := ty) (i := i) (j := mixWidth ty * h) (hrows i hi) (by omega)
  have hz : 0 < elBytes ty := by unfold elBytes; split <;> omega
  rw [sliceKey_add (by omega), Mem.write_flatMap_leBytes]
  refine List.foldl_ext _ _ _ fun m j hj => ?_
  rw [Nat.mul_comm h, mixOff_tile _ _ _ _ (List.mem_range.1 hj), Nat.add_assoc]

/-- A row of 64 values, cut where the tiles of a mix begin. -/
theorem drop_take_map_range (v : Nat → Nat) {o w : Nat} (h : o + w ≤ 64) :
    (((List.range 64).map v).drop o).take w = (List.range w).map fun j => v (o + j) := by
  refine List.ext_getElem (by simp; omega) fun j h1 h2 => ?_
  simp

theorem State.putMix_eq (s : State) (b ty : Nat) (d : CapReg) {rows : List Nat} (hne : rows ≠ []) (el : Nat → Nat → Nat) :
    s.putMix b ty d (rows.map fun i => (i, (List.range 64).map (el i))) =
      let t := (mixRows (s.capSlice d 0) ty rows el).foldl (fun s p => s.putRow b p.1 p.2) s
      (t.tilesOf (s.capSlice d 0) (mixBytes ty)).foldl (fun s u => s.regenTile u) t := by
  have hempty : (rows.map fun i => (i, (List.range 64).map (el i))).isEmpty = false := by
    rw [List.isEmpty_eq_false_iff]
    simpa using hne
  have hfold (a : Nat) : (rows.map fun i => (i, (List.range 64).map (el i))).foldl (fun s x =>
      (List.range (64 / mixWidth ty)).foldl (fun s h => s.putRow b (a + mixOff ty x.1 (mixWidth ty * h))
        (((x.2.drop (mixWidth ty * h)).take (mixWidth ty)).flatMap (leBytes (elBytes ty)))) s) s =
      (mixRows a ty rows el).foldl (fun s p => s.putRow b p.1 p.2) s := by
    unfold mixRows
    simp only [List.foldl_flatMap, List.foldl_map]
    refine List.foldl_ext _ _ _ fun t i _ => List.foldl_ext _ _ _ fun t h hh => ?_
    rw [drop_take_map_range _ (mixWidth_mul_lt (List.mem_range.1 hh)), List.flatMap_map]
  unfold State.putMix
  dsimp only
  rw [hempty, if_neg Bool.false_ne_true]
  exact congrArg (fun t : State => (t.tilesOf (s.capSlice d 0) (mixBytes ty)).foldl (fun s u => s.regenTile u) t) (hfold _)

/-- What rows of a mix leave of the state they are written in (14 R372). -/
theorem State.putMix_spec {s : State} (b ty : Nat) {d : CapReg} {rows : List Nat} (hne : rows ≠ []) (hrows : ∀ i ∈ rows, i < 32)
    (el : Nat → Nat → Nat) (hhere : s.here (s.capSlice d 0) = true) (hfit : sliceKey (s.capSlice d 0) + mixBytes ty ≤ 2 ^ 33) :
    let t := s.putMix b ty d (rows.map fun i => (i, (List.range 64).map (el i)))
    OnlySliceData s t ∧ t.mem.slice = mixWritten s.mem.slice (sliceKey (s.capSlice d 0)) ty rows el ∧
      ∀ x ∈ s.tilesOf (s.capSlice d 0) (mixBytes ty), ∀ q, q < 64 → t.mem.skew.get 0 (64 * x + q) = 0 := by
  have hplace (p : Nat × List Byte) (hp : p ∈ mixRows (s.capSlice d 0) ty rows el) : s.here p.1 = true := by
    obtain ⟨i, hi, hp⟩ := List.mem_flatMap.1 hp
    obtain ⟨h, hh, rfl⟩ := List.mem_map.1 hp
    have hlt := mixWidth_mul_lt (List.mem_range.1 hh)
    have hw : 0 < mixWidth ty := by unfold mixWidth; split <;> omega
    have hz : 0 < elBytes ty := by unfold elBytes; split <;> omega
    have hoff := mixOff_lt (ty := ty) (i := i) (j := mixWidth ty * h) (hrows i hi) (by omega)
    exact State.here_add hhere (by omega)
  intro t
  have ht : t = _ := s.putMix_eq b ty d hne el
  rw [foldl_putRow hplace] at ht
  have hwrite := OnlySliceData.foldl (mixRows (s.capSlice d 0) ty rows el) (fun s p => .sliceWrite s p.1 p.2) s
  rw [ht]
  refine ⟨hwrite.trans (.foldl _ .regenTile _), ?_, fun x hx q hq => foldl_regenTile_skew ?_ hq⟩
  · refine (foldl_reading_stays (f := State.regenTile) (obs := fun s => s.mem.slice) (fun _ _ _ => rfl) _).trans ?_
    rw [foldl_sliceWrite_slice, foldl_mixRows hrows hfit]
  · rwa [hwrite.tilesOf]

/-! ## BIND and SLFL (14 R372, R373; 02 R64, 03 R102) -/

section Mixes
variable {s : State} {core : Nat} {m : MatOp} {r : List MatOp} {B : Block} {K : Task}

/-- A slot's elements, row by row. -/
theorem Tile.slotVals_eq (T : Tile) (k : Nat) : T.slotVals k = (List.range (32 * 64)).map fun n => T.el k (n / 64) (n % 64) := by
  unfold Tile.slotVals cells
  rw [range_mul_eq_flatMap]
  simp only [List.map_flatMap, List.map_map]
  refine List.flatMap_congr fun i _ => List.map_congr_left fun j hj => ?_
  have hj := List.mem_range.1 hj
  simp only [Function.comp]
  rw [show (i * 64 + j) / 64 = i by omega, show (i * 64 + j) % 64 = j by omega]

/-- An element of a label that is not spilled: +0 where the label is unused. -/
def Tile.labelEl (T : Tile) (l i j : Nat) : Nat := if labelAt T.map l = 0 then 0 else T.el (labelAt T.map l - 1) i j

/-- The elements of a label that is not spilled, row by row. -/
def Tile.labelRows (T : Tile) (l : Nat) : List Nat := (List.range (32 * 64)).map fun n => T.labelEl l (n / 64) (n % 64)

theorem Tile.labelRows_getD (T : Tile) (l : Nat) {i j : Nat} (hi : i < 32) (hj : j < 64) :
    (T.labelRows l).getD (64 * i + j) 0 = T.labelEl l i j := by
  unfold Tile.labelRows
  rw [List.getD_eq_getElem _ _ (by simp; omega)]
  simp only [List.getElem_map, List.getElem_range]
  rw [show (64 * i + j) / 64 = i by omega, show (64 * i + j) % 64 = j by omega]

theorem Tile.labelRows_row (T : Tile) (l : Nat) {i : Nat} (hi : i < 32) :
    ((T.labelRows l).drop (64 * i)).take 64 = (List.range 64).map (T.labelEl l i) := by
  refine List.ext_getElem (by simp [Tile.labelRows]; omega) fun j h1 h2 => ?_
  have hj : j < 64 := by simpa using h2
  simp only [Tile.labelRows, List.getElem_take, List.getElem_drop, List.getElem_map, List.getElem_range]
  rw [show (64 * i + j) / 64 = i by omega, show (64 * i + j) % 64 = j by omega]

/-- The values of a label that is not spilled are read from its slot, and nothing is mended. -/
theorem State.labelVals_of_held (s : State) (core part b t l : Nat) (h : labelAt ((s.unit core).tile t).map l ≠ 15) :
    s.labelVals core part b t l = .ok (((s.unit core).tile t).labelRows l, false, s) := by
  unfold State.labelVals Tile.labelRows Tile.labelEl
  dsimp only
  split
  case h_1 h0 => simp only [h0, if_true, List.map_const', List.length_range]
  case h_2 h15 => exact absurd h15 h
  case h_3 k _ hk => simp only [hk, Tile.slotVals_eq, Nat.succ_ne_zero, if_false, Nat.succ_sub_one]

theorem State.manyLabels_of_held (s : State) (core part b t : Nat) (ls : List Nat)
    (h : ∀ l, labelAt ((s.unit core).tile t).map l ≠ 15) :
    s.manyLabels core part b t ls = .ok (ls.map fun l => (l, ((s.unit core).tile t).labelRows l), false, s) := by
  induction ls with
  | nil => rfl
  | cons l ls ih =>
    rw [State.manyLabels, s.labelVals_of_held core part b t l (h l)]
    simp only [Exe.bind, ih]
    rfl

/-- A tile whose sums agree with its data is verified as it is. -/
theorem Tile.verify_of_noSkew {T : Tile} (h : T.skew = []) (slots : List Nat) : T.verify slots = some (0, T) := by
  refine List.foldlRecOn (slots.flatMap fun k => [2 * k, 2 * k + 1]) _ (motive := (· = some (0, T))) rfl fun r hr u _ => ?_
  rw [hr, Option.bind_some, h]
  simp [deltas, verdict]

/-- Verifying a tile whose sums agree with its data leaves what the tiles of the unit are. -/
theorem State.verifyUnit_of_noSkew {t : Nat} (h : ((s.unit core).tile t).skew = []) (slots : List Nat) :
    ∃ s1, s.verifyUnit core t slots = some (false, s1) ∧ OnlyCores s s1 ∧ OnlyTiles (s.unit core) (s1.unit core) ∧
      ∀ k, (s1.unit core).tile k = (s.unit core).tile k := by
  unfold State.verifyUnit
  rw [Tile.verify_of_noSkew h]
  refine ⟨s.modUnit core fun U => if U.tiles.find t = none then U else U.modTile t fun _ => (s.unit core).tile t, rfl,
    .modUnit .., ?_, fun k => ?_⟩ <;> rw [State.modUnit_unit_same] <;> split
  · exact .rfl
  · exact .modTile ..
  · rfl
  · by_cases hk : k = t
    · rw [hk, MatUnit.tile_modTile_same]
    · rw [MatUnit.tile_modTile_other _ _ hk]

/-- What O49 says of the slices after a mix is written: the elements of its rows, no other byte, and sums that agree. -/
structure MixIn (s t : State) (d : CapReg) (ty : Nat) (rows : List Nat) (el : Nat → Nat → Nat) : Prop where
  read : ∀ i j, i ∈ rows → j < 64 →
    Mem.read t.mem.slice (sliceKey (s.capSlice d 0) + mixOff ty i j) (elBytes ty) = leBytes (elBytes ty) (el i j)
  frame : SliceBut s t fun x => ∃ i j, i ∈ rows ∧ j < 64 ∧ sliceKey (s.capSlice d 0) + mixOff ty i j ≤ x ∧
    x < sliceKey (s.capSlice d 0) + mixOff ty i j + elBytes ty
  sums : ∀ x ∈ s.tilesOf (s.capSlice d 0) (mixBytes ty), ∀ q, q < 64 → t.mem.skew.get 0 (64 * x + q) = 0

theorem State.putMix_mixIn (s : State) (b ty : Nat) {d : CapReg} {rows : List Nat} (hne : rows ≠ []) (hrows : ∀ i ∈ rows, i < 32)
    (el : Nat → Nat → Nat) (hhere : s.here (s.capSlice d 0) = true) (hfit : sliceKey (s.capSlice d 0) + mixBytes ty ≤ 2 ^ 33) :
    let t := s.putMix b ty d (rows.map fun i => (i, (List.range 64).map (el i)))
    OnlySliceData s t ∧ MixIn s t d ty rows el := by
  obtain ⟨honly, hslice, hsums⟩ := State.putMix_spec b ty hne hrows el hhere hfit
  refine ⟨honly, fun i j hi hj => ?_, fun x hx => ?_, hsums⟩
  · rw [hslice]
    exact mixWritten_read hrows hi hj
  · rw [hslice]
    exact mixWritten_other hx

/-- What is said of slices is so whatever the cores hold, and of every state with the same memory. -/
theorem MixIn.of_mem {s' t u : State} {d : CapReg} {ty : Nat} {rows : List Nat} {el : Nat → Nat → Nat} (h : MixIn s' t d ty rows el)
    (hs : OnlyCores s s') (hu : u.mem = t.mem) : MixIn s u d ty rows el := by
  obtain ⟨hread, hframe, hsums⟩ := h
  rw [show s' = { s with cores := s'.cores } from hs] at hread hframe hsums
  unfold SliceBut at hframe
  rw [← hu] at hread hframe hsums
  exact ⟨hread, hframe, hsums⟩

/-- A unit with a label of a tile out of use (14 R373). -/
def MatUnit.freeLabel (t l : Nat) (T : Tile) (U : MatUnit) : MatUnit :=
  if T.map.isEmpty then U else U.modTile t fun T => { T with map := T.map.set l 0 }

theorem MatUnit.freeLabel_onlyTiles (t l : Nat) (T : Tile) (U : MatUnit) : OnlyTiles U (U.freeLabel t l T) := by
  unfold MatUnit.freeLabel
  split
  · exact .rfl
  · exact .modTile ..

theorem MatUnit.freeLabel_tile_other {t k : Nat} (l : Nat) (T : Tile) (U : MatUnit) (h : k ≠ t) :
    (U.freeLabel t l T).tile k = U.tile k := by
  unfold MatUnit.freeLabel
  split
  · rfl
  · exact MatUnit.tile_modTile_other _ _ h

/-- The tile whose label is freed keeps its elements and its other labels. -/
theorem MatUnit.freeLabel_tile (t l : Nat) (U : MatUnit) :
    let T := (U.freeLabel t l (U.tile t)).tile t
    (∀ k, labelAt T.map k = if k = l then 0 else labelAt (U.tile t).map k) ∧ ∀ k i j, T.el k i j = (U.tile t).el k i j := by
  unfold MatUnit.freeLabel
  split
  case isTrue hempty =>
    refine ⟨fun k => ?_, fun _ _ _ => rfl⟩
    simp [List.isEmpty_iff.1 hempty, labelAt]
  case isFalse =>
    rw [MatUnit.tile_modTile_same]
    refine ⟨fun k => ?_, fun _ _ _ => rfl⟩
    simp only [labelAt, List.getD_eq_getElem?_getD, List.getElem?_set]
    split
    case isTrue hk =>
      subst hk
      split <;> simp
    case isFalse hk => rw [if_neg fun h => hk h.symm]

theorem State.runSlfl_of_held {part : Nat} {f : UW} (h : labelAt ((s.unit core).tile f.tile).map f.lbl ≠ 15) :
    let T := (s.unit core).tile f.tile
    s.runSlfl core part m f = .ok ((s.putMix m.b T.ty m.src (lanes32.map fun i => (i, (List.range 64).map (T.labelEl f.lbl i)))).modUnit
      core (MatUnit.freeLabel f.tile f.lbl T), 0) := by
  intro T
  have hrows : (lanes32.map fun i => (i, ((T.labelRows f.lbl).drop (64 * i)).take 64)) =
      lanes32.map fun i => (i, (List.range 64).map (T.labelEl f.lbl i)) :=
    List.map_congr_left fun i hi => by rw [T.labelRows_row f.lbl (List.mem_range.1 hi)]
  unfold State.runSlfl
  rw [s.labelVals_of_held core part m.b _ _ h, ← hrows]
  rfl

/-- SLFL writes the values of its label, whose slot it frees. -/
theorem slfl_completes {f : UW} (h : AtHead s core m r B K) (hi : m.instr = .slfl f)
    (hheld : labelAt ((s.unit core).tile f.tile).map f.lbl ≠ 15) (hhere : s.here (s.capSlice m.src 0) = true)
    (hfit : sliceKey (s.capSlice m.src 0) + mixBytes ((s.unit core).tile f.tile).ty ≤ 2 ^ 33) :
    let T := (s.unit core).tile f.tile
    Completes s core m r fun u V => MixIn s u m.src T.ty lanes32 (T.labelEl f.lbl) ∧
      (∀ l, labelAt (V.tile f.tile).map l = if l = f.lbl then 0 else labelAt T.map l) ∧
      (∀ k i j, (V.tile f.tile).el k i j = T.el k i j) ∧ ∀ t, t ≠ f.tile → V.tile t = (s.unit core).tile t := by
  intro T
  have hsame := s.uncounted_same core
  have hT : ((s.uncounted core).unit core).tile f.tile = T := by rw [hsame.unit]
  obtain ⟨honly, hmix⟩ := (s.uncounted core).putMix_mixIn m.b T.ty (rows := lanes32) (by simp [lanes32])
    (fun i hi => List.mem_range.1 hi) (T.labelEl f.lbl) hhere hfit
  have hrun := State.runSlfl_of_held (s := s.uncounted core) (m := m) (part := K.part) (f := f) (by rwa [hT])
  dsimp only at hrun
  rw [hT] at hrun
  refine h.completes_of_run ⟨_, 0, Eq.trans (by simp only [State.runMat, hi]) hrun, ?_, fun u hmem hu =>
    ⟨hmix.of_mem hsame.only hmem, ?_⟩⟩
  · refine (honly.keepsQueue core).trans ((OnlyCores.modUnit _ core _).keepsQueue ?_ ?_) <;> rw [State.modUnit_unit_same]
    · exact (MatUnit.freeLabel_onlyTiles ..).queue
    · exact (MatUnit.freeLabel_onlyTiles ..).guard
  · have hunit := (honly.unit core).trans (hsame.unit core)
    obtain ⟨hmap, hel⟩ := MatUnit.freeLabel_tile f.tile f.lbl (s.unit core)
    refine ⟨fun l => ?_, fun k i j => ?_, fun t ht => ?_⟩ <;> rw [(hu core).tile, State.modUnit_unit_same, hunit]
    · exact hmap l
    · exact hel k i j
    · exact MatUnit.freeLabel_tile_other _ _ _ ht

/-- BIND of a row writes the mix of its labels, in ascending order (02 R64). -/
def State.bindEl (s : State) (core : Nat) (m : MatOp) (t i j : Nat) : Nat :=
  let T := (s.unit core).tile t
  (mix T.ty (((List.range 16).filter fun l => labelAt T.map l ≠ 0).map fun l =>
    (s.sparseNat m.b m.src2 (4 * (16 * i + l)) 4, T.el (labelAt T.map l - 1) i j))).1

theorem State.runBind_of_held {part : Nat} {f : UW} (hclean : s.CleanSlices) (hsrc2 : m.src2.kind = 2) (hrows : m.rows ≠ 0)
    (hskew : ((s.unit core).tile f.tile).skew = []) (hheld : ∀ l, labelAt ((s.unit core).tile f.tile).map l ≠ 15) :
    ∃ s1, OnlyCores s s1 ∧ OnlyTiles (s.unit core) (s1.unit core) ∧ (∀ k, (s1.unit core).tile k = (s.unit core).tile k) ∧
      ∃ fl, s.runBind core part m f ⟨(0, 0, 0), none⟩ = .ok (s1.putMix m.b ((s.unit core).tile f.tile).ty m.src ((lanesOf m.rows).map
        fun i => (i, (List.range 64).map (s.bindEl core m f.tile i))), fl) := by
  obtain ⟨s1, hverify, honly, htiles, htile⟩ := State.verifyUnit_of_noSkew hskew [0, 1, 2, 3]
  have hall : (lanesOf m.rows).filter (fun i => (⟨(0, 0, 0), none⟩ : Span).has (f.tile, i, 0)) = lanesOf m.rows :=
    List.filter_eq_self.2 fun _ _ => Span.whole_has _
  have hne : (lanesOf m.rows).isEmpty = false := List.isEmpty_eq_false_iff.2 (lanesOf_ne_nil hrows)
  refine ⟨s1, honly, htiles, htile, ?_⟩
  unfold State.runBind
  simp only [hall, hne, Bool.false_eq_true, if_false, State.source_of_clean hclean hsrc2, Exe.bind, hverify,
    s1.manyLabels_of_held core part m.b f.tile _ (by simpa only [htile] using hheld), htile]
  refine ⟨_, congrArg Exe.ok (Prod.ext (congrArg (s1.putMix m.b _ m.src) ?_) rfl)⟩
  rw [List.map_map]
  refine List.map_congr_left fun i hi => Prod.ext rfl ?_
  simp only [Function.comp, List.map_map]
  refine List.map_congr_left fun j hj => congrArg (fun xs => (mix _ xs).1) (List.map_congr_left fun l hl => ?_)
  have hused : labelAt ((s.unit core).tile f.tile).map l ≠ 0 := by simpa using (List.mem_filter.1 hl).2
  simp only [Function.comp, honly.sparseNat, Tile.labelRows_getD _ _ (lanesOf_lt i hi) (List.mem_range.1 hj), Tile.labelEl, if_neg hused]

/-- BIND writes the mix of the labels of each active row. -/
theorem bind_completes {f : UW} (h : AtHead s core m r B K) (hi : m.instr = .bind f) (hsrc2 : m.src2.kind = 2)
    (hclean : s.CleanSlices) (hrows : m.rows ≠ 0) (hskew : ((s.unit core).tile f.tile).skew = [])
    (hheld : ∀ l, labelAt ((s.unit core).tile f.tile).map l ≠ 15) (hhere : s.here (s.capSlice m.src 0) = true)
    (hfit : sliceKey (s.capSlice m.src 0) + mixBytes ((s.unit core).tile f.tile).ty ≤ 2 ^ 33) :
    Completes s core m r fun u V =>
      MixIn s u m.src ((s.unit core).tile f.tile).ty (lanesOf m.rows) (s.bindEl core m f.tile) ∧
        ∀ t, V.tile t = (s.unit core).tile t := by
  have hsame := s.uncounted_same core
  have hT := congrArg (MatUnit.tile · f.tile) (hsame.unit core)
  obtain ⟨s1, honly, htiles, htile, fl, hrun⟩ := State.runBind_of_held (s := s.uncounted core) (core := core) (part := K.part) (f := f)
    hclean hsrc2 hrows (by rwa [hsame.unit]) (by rwa [hsame.unit])
  have hel : (s.uncounted core).bindEl core m f.tile = s.bindEl core m f.tile := by
    funext i j
    simp only [State.bindEl, hsame.unit, hsame.only.sparseNat]
  have hs1 := hsame.only.trans honly
  rw [hel, hsame.unit] at hrun
  rw [hsame.unit] at htiles htile
  obtain ⟨hslices, hmix⟩ := s1.putMix_mixIn m.b ((s.unit core).tile f.tile).ty (d := m.src) (lanesOf_ne_nil hrows) lanesOf_lt
    (s.bindEl core m f.tile) (by rwa [hs1.capSlice, hs1.here]) (by rwa [hs1.capSlice])
  refine h.completes_of_run ⟨_, fl, Eq.trans (by simp only [State.runMat, hi]) hrun, ?_, fun u hmem hu =>
    ⟨hmix.of_mem hs1 hmem, fun t => ?_⟩⟩
  · refine (honly.keepsQueue ?_ ?_).trans (hslices.keepsQueue core)
    · rw [htiles.queue, hsame.unit]
    · rw [htiles.guard, hsame.unit]
  · rw [(hu core).tile, hslices.unit, htile]

end Mixes

/-! ## Integer operands (03 R79) -/

theorem intBlk_not_special (e : Int) (xs : List Int) : (intBlk e xs).special = false := by
  refine List.any_eq_false.2 fun c hc => ?_
  obtain ⟨x, -, rfl⟩ := List.mem_map.1 hc
  by_cases hx : x = 0 <;> simp [hx]

/-- The partial of two blocks of integers is their exact sum of products. -/
theorem dot_intBlk (xs ys : List Int) : dot (intBlk 0 xs) (intBlk 0 ys) = ((xs.zip ys).map fun z => z.1 * z.2).sum :=
  List.sum_eq_foldl.symm

theorem sextN_eq_toInt (x : Nat) : sextN 32 x = (BitVec.ofNat 32 x).toInt := by
  rw [BitVec.toInt_eq_toNat_cond, BitVec.toNat_ofNat]
  unfold sextN
  split <;> split <;> omega

theorem wrapN_eq_toNat (x : Int) : wrapN 32 x = (BitVec.ofInt 32 x).toNat := by
  rw [BitVec.toNat_ofInt]
  rfl

theorem clampInt_eq_max_min (x : Int) : (clampInt 32 true x).1 = max (-2 ^ 31) (min (2 ^ 31 - 1) x) := by
  unfold clampInt intMin intMax
  simp only [if_true]
  split
  · dsimp only; omega
  · split <;> dsimp only <;> omega

/-- An i32 accumulator takes the exact sum of products, and saturates. -/
theorem fold_intBlk (acc : Nat) (xs ys : List Int) :
    (fold 1 acc (contrib (some (intBlk 0 xs)) (intBlk 0 ys) 0)).1 = (BitVec.ofInt 32 (max (-2 ^ 31) (min (2 ^ 31 - 1)
      ((BitVec.ofNat 32 acc).toInt + ((xs.zip ys).map fun z => z.1 * z.2).sum)))).toNat := by
  have hcon : contrib (some (intBlk 0 xs)) (intBlk 0 ys) 0 = .num (dot (intBlk 0 xs) (intBlk 0 ys) + 0) (0 + 0) := by
    unfold contrib
    simp only [intBlk_not_special, Bool.or_self, Bool.false_eq_true, if_false]
    rfl
  rw [hcon, dot_intBlk, ← sextN_eq_toInt, ← wrapN_eq_toNat, ← clampInt_eq_max_min, Int.add_zero]
  rfl

/-- Settles O49, clause by clause: each instruction's run is computed where it meets no error, and leaves the queue as
`AtHead.completes` says. -/
theorem queuedMatrixInstructionsComplete : Obligations.QueuedMatrixInstructionsComplete := by
  unfold Obligations.QueuedMatrixInstructionsComplete
  refine ⟨fun s core => matrixCompletion_of_empty, fun s core m r B K hqueue hblock htask hready hstep hguard hnotRun haccepted =>
    ?_, fun acc xs ys _ => fold_intBlk acc xs ys⟩
  have h : AtHead s core m r B K := ⟨hqueue, hblock, htask, hready, hstep, hguard, hnotRun, haccepted⟩
  intro U completes word clean num elems zero products rowBlk writes
  have hcompletes : completes = Completes s core m r := rfl
  have hnum : num = s.sparseNat m.b := by
    funext c off n
    exact (h.sparseNat c off n).symm
  have hprod (f : UW) (joint : Bool) (sparse : Option (Tab MBlk))
      (hrun : ∀ (s : State) part on w, s.runMat core part m on w = s.runProduct core part m f joint sparse on w) :
      products f joint fun units p b i => s.opA units sparse p b i :=
    fun hup => ⟨fun hmx hacts map hplans => product_tiles_completes h hrun hmx hup hacts hplans,
      fun hmx hrows => product_partials_completes h hrun hmx hrows hup⟩
  refine ⟨?_, ?_, ?_, ?_, ?_, ?_, ?_, ?_, ?_, ?_, ?_⟩
  · intro f hi hsrc htab hclean
    rw [hcompletes]
    refine (mldb_completes h hi hsrc htab hclean).mono fun u hu => ?_
    obtain ⟨hmem, hload⟩ := hu
    refine ⟨hmem, fun p k hk => ?_⟩
    obtain ⟨hX, hactive, hrec⟩ := hload p k hk
    dsimp only
    rw [hX]
    refine ⟨rfl, rfl, rfl, rfl, rfl, hactive, hrec, fun b j hb hj => ?_⟩
    rw [State.bankOf_col s m.b _ _ (geo_le_eight f.yc_lt) hb hj]
    simp only [elems, hnum]
    rfl
  · intro f hi hsrc hclean
    rw [hcompletes]
    refine (mlda_completes h hi hsrc hclean).mono fun u hu => ?_
    obtain ⟨hmem, hload⟩ := hu
    refine ⟨hmem, fun p k hk => ?_⟩
    dsimp only
    rw [hload p k hk]
    refine ⟨rfl, rfl, rfl, rfl, fun b i hb hi => ?_⟩
    rw [State.loadRows_find (List.getElem?_eq_some_iff.1 hk).1 hb hi]
    simp only [elems, hnum]
    rfl
  · exact fun f hi => hprod f false none fun s part on w => by simp only [State.runMat, hi]
  · exact fun f hi => hprod f true none fun s part on w => by simp only [State.runMat, hi]
  · exact fun f hi => hprod f false (some m.sparse) fun s part on w => by simp only [State.runMat, hi]
  · intro f hi hsrc hsrc2 hclean hacts map hplans
    simp only [hnum]
    exact scacc_completes h hi hsrc hsrc2 hclean hacts hplans
  · exact fun f hi => mbsw_completes h hi
  · exact fun f hi => mclr_completes h hi
  · exact fun f map hi hacts hplans => mwr_completes h hi hacts hplans
  · intro f hi hsrc2 hclean hrows T hskew hheld hhere hfit
    rw [hcompletes]
    refine (bind_completes h hi hsrc2 hclean hrows hskew hheld hhere hfit).mono fun u hu => ?_
    obtain ⟨⟨hread, hframe, hsums⟩, htiles⟩ := hu
    rw [hnum]
    exact ⟨htiles, hread, hframe, hsums⟩
  · intro f hi T x hheld hhere hfit
    rw [hcompletes]
    refine (slfl_completes h hi hheld hhere hfit).mono fun u hu => ?_
    obtain ⟨⟨hread, hframe, hsums⟩, hfreed⟩ := hu
    exact ⟨hfreed, hread, hframe, hsums⟩

end Sys2Proof.Machine

/-! PROOFS. The rules of slices and guards that the statements of 04 rest on: what is read after a write, and what an
arrival, a landing and EXPECT leave of a guard and of the bytes around it (O32). -/

namespace Sys2Proof.Machine

/-! ## Numbers in bytes (00 R6) -/

theorem leNat_leBytes (n x : Nat) : leNat (leBytes n x) = x % 256 ^ n := by
  induction n generalizing x with
  | zero => simp [leNat, leBytes, Nat.mod_one]
  | succ n ih =>
    rw [leBytes, leNat, ih, BitVec.toNat_ofNat, show (2 : Nat) ^ 8 = 256 from Eq.refl _, Nat.pow_succ', Nat.mod_mul]

theorem State.sliceNat_lt (s : State) (a n : Nat) : s.sliceNat a n < 256 ^ n := by
  simpa [State.sliceNat] using leNat_lt (s.sliceRead a n)

/-- The integers a 32-bit word holds in two's complement. -/
def FitsWord (z : Int) : Prop := -2 ^ 31 ≤ z ∧ z < 2 ^ 31

theorem fitsWord_sextN (x : Nat) : FitsWord (sextN 32 x) := by
  unfold FitsWord sextN
  split <;> omega

theorem sextN_wrapN_of_fits {z : Int} (h : FitsWord z) : sextN 32 (wrapN 32 z) = z := by
  unfold FitsWord at h
  unfold sextN wrapN
  split <;> omega

/-! ## The bytes of slices after a change -/

theorem SliceBut.rfl {s : State} {p : Nat → Prop} : SliceBut s s p := fun _ _ => Eq.refl _

theorem SliceBut.mono {s t : State} {p q : Nat → Prop} (h : SliceBut s t p) (hpq : ∀ x, p x → q x) : SliceBut s t q :=
  fun x hx => h x fun hp => hx (hpq x hp)

theorem SliceBut.trans {s t u : State} {p : Nat → Prop} (h : SliceBut s t p) (k : SliceBut t u p) : SliceBut s u p :=
  fun x hx => (k x hx).trans (h x hx)

theorem SliceBut.of_slice {s t u : State} {p : Nat → Prop} (h : SliceBut s t p) (hu : u.mem.slice = t.mem.slice) :
    SliceBut s u p := fun x hx => by rw [hu, h x hx]

theorem SliceBut.sliceWrite (s : State) (a : Nat) (bs : List Byte) :
    SliceBut s (s.sliceWrite a bs) fun x => sliceKey a ≤ x ∧ x < sliceKey a + bs.length := fun x hx => by
  rw [State.sliceWrite_mem_slice, Mem.get_write, if_neg hx]

theorem SliceBut.sliceSet (s : State) (a n x : Nat) :
    SliceBut s (s.sliceSet a n x) fun k => sliceKey a ≤ k ∧ k < sliceKey a + n := by
  have h := SliceBut.sliceWrite s a (leBytes n x)
  rwa [leBytes_length] at h

/-- Bytes that no change names read as before. -/
theorem SliceBut.memRead {s t : State} {p : Nat → Prop} (h : SliceBut s t p) {k n : Nat}
    (hp : ∀ x, k ≤ x → x < k + n → ¬ p x) : Mem.read t.mem.slice k n = Mem.read s.mem.slice k n :=
  List.map_congr_left fun i hi => by
    rw [List.mem_range] at hi
    exact h _ (hp _ (by omega) (by omega))

theorem State.sliceRead_of_here {s : State} {a : Nat} (h : s.here a = true) (n : Nat) :
    s.sliceRead a n = Mem.read s.mem.slice (sliceKey a) n := if_pos h

theorem State.here_congr {s t : State} (h : t.ctl.pkg = s.ctl.pkg) (a : Nat) : t.here a = s.here a := by
  unfold State.here
  rw [h]

/-- What slice bytes, the number of the package and the counter of free values say is all a read of a slice depends on. -/
theorem State.sliceRead_congr {s t : State} (hs : t.mem.slice = s.mem.slice) (hp : t.ctl.pkg = s.ctl.pkg)
    (ht : t.tick = s.tick) (a n : Nat) : t.sliceRead a n = s.sliceRead a n := by
  unfold State.sliceRead
  rw [State.here_congr hp, hs, ht]

theorem SliceBut.sliceNat {s t : State} {p : Nat → Prop} (h : SliceBut s t p) (hpkg : t.ctl.pkg = s.ctl.pkg) {a n : Nat}
    (ha : s.here a = true) (hp : ∀ x, sliceKey a ≤ x → x < sliceKey a + n → ¬ p x) : t.sliceNat a n = s.sliceNat a n := by
  unfold State.sliceNat
  rw [State.sliceRead_of_here ha, State.sliceRead_of_here ((State.here_congr hpkg a).trans ha), h.memRead hp]

/-- A number in this package reads the same wherever the bytes of slices are the same. -/
theorem State.sliceNat_congr {s t : State} (hs : t.mem.slice = s.mem.slice) (hp : t.ctl.pkg = s.ctl.pkg) {a : Nat}
    (ha : s.here a = true) (n : Nat) : t.sliceNat a n = s.sliceNat a n :=
  (SliceBut.rfl.of_slice hs : SliceBut s t fun _ => False).sliceNat hp ha fun _ _ _ => id

@[simp] theorem State.here_sliceWrite (s : State) (b : Nat) (bs : List Byte) (a : Nat) :
    (s.sliceWrite b bs).here a = s.here a := rfl

@[simp] theorem State.here_sliceSet (s : State) (b n x a : Nat) : (s.sliceSet b n x).here a = s.here a := rfl

theorem State.memRead_sliceWrite (s : State) (a : Nat) (bs : List Byte) :
    Mem.read (s.sliceWrite a bs).mem.slice (sliceKey a) bs.length = bs := Mem.read_write ..

theorem State.memRead_sliceSet (s : State) (a n x : Nat) :
    Mem.read (s.sliceSet a n x).mem.slice (sliceKey a) n = leBytes n x := by
  simpa [State.sliceSet] using s.memRead_sliceWrite a (leBytes n x)

theorem State.sliceNat_sliceSet {s : State} {a : Nat} (h : s.here a = true) (n x : Nat) :
    (s.sliceSet a n x).sliceNat a n = x % 256 ^ n := by
  unfold State.sliceNat
  rw [State.sliceRead_of_here (by simpa using h), s.memRead_sliceSet, leNat_leBytes]

/-! ## Words of an object that does not cross a slice's end -/

/-- `n` bytes from `a` on in this package, of which no address leaves the slice that `a` lies in. -/
structure State.Holds (s : State) (a n : Nat) : Prop where
  here : s.here a = true
  fits : a % 2 ^ 22 + n ≤ 2 ^ 22

theorem State.Holds.of_aligned {s : State} {g : Nat} (h : s.here g = true) (hg : g % 32 = 0) : s.Holds g 32 :=
  ⟨h, by omega⟩

theorem State.Holds.congr {s t : State} {a n : Nat} (h : s.Holds a n) (hp : t.ctl.pkg = s.ctl.pkg) : t.Holds a n :=
  ⟨(State.here_congr hp a).trans h.here, h.fits⟩

theorem State.Holds.sliceSet {s : State} {a n : Nat} (h : s.Holds a n) (b m x : Nat) : (s.sliceSet b m x).Holds a n :=
  h.congr rfl

theorem State.Holds.key {s : State} {a n k : Nat} (h : s.Holds a n) (hk : k < n) : sliceKey (a + k) = sliceKey a + k := by
  have := h.fits
  exact sliceKey_add (by unfold sliceKey; omega)

theorem State.Holds.here_add {s : State} {a n k : Nat} (h : s.Holds a n) (hk : k < n) : s.here (a + k) = true := by
  have := h.fits
  exact State.here_add h.here (by unfold sliceKey; omega)

/-- A word of an object reads what was written there, if it fits. -/
theorem State.Holds.sliceNat_sliceSet {s : State} {a n k m x : Nat} (h : s.Holds a n) (hk : k < n) (hx : x < 256 ^ m) :
    (s.sliceSet (a + k) m x).sliceNat (a + k) m = x := by
  rw [State.sliceNat_sliceSet (h.here_add hk), Nat.mod_eq_of_lt hx]

/-- A word of an object reads as before where none of its bytes is named by a change. -/
theorem State.Holds.sliceNat_of_but {s t : State} {a n k m : Nat} {p : Nat → Prop} (h : s.Holds a n) (hk : k < n)
    (hb : SliceBut s t p) (hpkg : t.ctl.pkg = s.ctl.pkg)
    (hp : ∀ x, sliceKey a + k ≤ x → x < sliceKey a + k + m → ¬ p x) : t.sliceNat (a + k) m = s.sliceNat (a + k) m :=
  hb.sliceNat hpkg (h.here_add hk) (by rw [h.key hk]; exact hp)

theorem State.Holds.but_sliceSet {s : State} {a n j : Nat} (h : s.Holds a n) (hj : j < n) (m x : Nat) :
    SliceBut s (s.sliceSet (a + j) m x) fun k => sliceKey a + j ≤ k ∧ k < sliceKey a + j + m := by
  simpa only [h.key hj] using SliceBut.sliceSet s (a + j) m x

theorem State.Holds.sliceNat_sliceSet_other {s : State} {a n k m j l : Nat} (h : s.Holds a n) (hk : k < n) (hj : j < n)
    (hd : k + m ≤ j ∨ j + l ≤ k) (x : Nat) : (s.sliceSet (a + j) l x).sliceNat (a + k) m = s.sliceNat (a + k) m :=
  h.sliceNat_of_but hk (h.but_sliceSet hj l x) rfl fun y _ _ => by omega

/-- Words of an object written one after another: offset, bytes and value of each. -/
def State.setWords (s : State) (a : Nat) (ws : List (Nat × Nat × Nat)) : State :=
  ws.foldl (fun s w => s.sliceSet (a + w.1) w.2.1 w.2.2) s

theorem State.setWords_cons (s : State) (a : Nat) (w : Nat × Nat × Nat) (ws : List (Nat × Nat × Nat)) :
    s.setWords a (w :: ws) = (s.sliceSet (a + w.1) w.2.1 w.2.2).setWords a ws := rfl

theorem State.Holds.setWords_other {s : State} {a n k m : Nat} (h : s.Holds a n) (hk : k < n) {ws : List (Nat × Nat × Nat)}
    (hws : ∀ w ∈ ws, w.1 < n ∧ (k + m ≤ w.1 ∨ w.1 + w.2.1 ≤ k)) :
    (s.setWords a ws).sliceNat (a + k) m = s.sliceNat (a + k) m := by
  induction ws generalizing s with
  | nil => rfl
  | cons w ws ih =>
    obtain ⟨hw, hd⟩ := hws w (List.mem_cons_self ..)
    rw [State.setWords_cons, ih (h.sliceSet ..) fun v hv => hws v (List.mem_cons_of_mem _ hv)]
    exact h.sliceNat_sliceSet_other hk hw hd w.2.2

/-- Of words that do not meet, each reads what was written, if it fits. -/
theorem State.Holds.setWords_read {s : State} {a n : Nat} (h : s.Holds a n) {ws : List (Nat × Nat × Nat)}
    (hws : ∀ w ∈ ws, w.1 < n) (hd : ws.Pairwise fun v w => v.1 + v.2.1 ≤ w.1 ∨ w.1 + w.2.1 ≤ v.1) {k m x : Nat}
    (hw : (k, m, x) ∈ ws) (hx : x < 256 ^ m) : (s.setWords a ws).sliceNat (a + k) m = x := by
  induction ws generalizing s with
  | nil => cases hw
  | cons w ws ih =>
    obtain ⟨hfirst, hrest⟩ := List.pairwise_cons.1 hd
    have hs := h.sliceSet (a + w.1) w.2.1 w.2.2
    rw [State.setWords_cons]
    rcases List.mem_cons.1 hw with rfl | hw
    · have hk := hws _ (List.mem_cons_self ..)
      exact (hs.setWords_other hk fun v hv => ⟨hws v (List.mem_cons_of_mem _ hv), hfirst v hv⟩).trans
        (h.sliceNat_sliceSet hk hx)
    · exact ih hs (fun v hv => hws v (List.mem_cons_of_mem _ hv)) hrest hw

theorem State.Holds.but_setWords {s : State} {a n : Nat} (h : s.Holds a n) {ws : List (Nat × Nat × Nat)} {p : Nat → Prop}
    (hws : ∀ w ∈ ws, w.1 < n ∧ ∀ x, sliceKey a + w.1 ≤ x → x < sliceKey a + w.1 + w.2.1 → p x) :
    SliceBut s (s.setWords a ws) p := by
  induction ws generalizing s with
  | nil => exact .rfl
  | cons w ws ih =>
    obtain ⟨hw, hp⟩ := hws w (List.mem_cons_self ..)
    exact ((h.but_sliceSet hw w.2.1 w.2.2).mono fun x hx => hp x hx.1 hx.2).trans
      (ih (h.sliceSet ..) fun v hv => hws v (List.mem_cons_of_mem _ hv))

/-! ## What stands where only bytes of slices change -/

theorem OnlySliceData.sliceSet (s : State) (a n x : Nat) : OnlySliceData s (s.sliceSet a n x) := Eq.refl _
theorem OnlySliceData.blocks {s t : State} (h : OnlySliceData s t) : t.blocks = s.blocks := (congrArg State.blocks h :)
theorem OnlySliceData.eng {s t : State} (h : OnlySliceData s t) : t.eng = s.eng := (congrArg State.eng h :)
theorem OnlySliceData.ctl {s t : State} (h : OnlySliceData s t) : t.ctl = s.ctl := (congrArg State.ctl h :)
theorem OnlySliceData.graphs {s t : State} (h : OnlySliceData s t) : t.graphs = s.graphs := (congrArg State.graphs h :)
theorem OnlySliceData.dev {s t : State} (h : OnlySliceData s t) : t.mem.dev = s.mem.dev := (congrArg (·.mem.dev) h :)
theorem OnlySliceData.pkg {s t : State} (h : OnlySliceData s t) : t.ctl.pkg = s.ctl.pkg := (congrArg (·.ctl.pkg) h :)

/-! ## The counting fields of a guard (04 R112) -/

/-- The fields of a guard hold what their words can. -/
structure GState.Fits (G : GState) : Prop where
  expected : G.expected < 2 ^ 16
  pending : G.pending < 2 ^ 16
  bytes : FitsWord G.bytes

theorem State.guard_fits (s : State) (g : Nat) : (s.guard g).Fits where
  expected := s.sliceNat_lt (g + 4) 2
  pending := s.sliceNat_lt (g + 6) 2
  bytes := fitsWord_sextN _

theorem GState.complete_of_pending {g : GState} (h : 0 < g.pending) : g.complete = g := by
  unfold GState.complete
  rw [if_neg]
  simp; omega

theorem GState.complete_of_bytes {g : GState} (h : 0 < g.bytes) : g.complete = g := by
  unfold GState.complete
  rw [if_neg]
  simp; omega

theorem GState.complete_of_done {g : GState} (hp : g.pending = 0) (hb : g.bytes ≤ 0) (hf : FitsWord (g.expBytes + g.bytes)) :
    g.complete = { g with phase := g.phase + 1, pending := g.expected, bytes := g.expBytes + g.bytes } := by
  unfold GState.complete
  rw [if_pos (by simp [hp, hb]), sextN_wrapN_of_fits hf]

theorem GState.complete_expBytes (g : GState) : g.complete.expBytes = g.expBytes := by
  unfold GState.complete
  split <;> rfl

theorem GState.Fits.complete {g : GState} (h : g.Fits) : g.complete.Fits := by
  unfold GState.complete
  split
  · exact ⟨h.expected, h.expected, fitsWord_sextN _⟩
  · exact h

theorem GState.arrive1_expBytes (g : GState) : g.arrive1.expBytes = g.expBytes := by
  unfold GState.arrive1
  rw [GState.complete_expBytes]
  split <;> rfl

theorem GState.Fits.arrive1 {g : GState} (h : g.Fits) : g.arrive1.Fits := by
  refine GState.Fits.complete ?_
  obtain ⟨hexp, hpend, hbytes⟩ := h
  split
  · exact ⟨hexp, hpend, hbytes⟩
  · exact ⟨hexp, by dsimp only; omega, hbytes⟩

theorem GState.arrive_expBytes (n : Nat) (g : GState) : (GState.arrive n g).expBytes = g.expBytes := by
  induction n generalizing g with
  | zero => rfl
  | succ n ih => rw [GState.arrive, ih, GState.arrive1_expBytes]

theorem GState.Fits.arrive {g : GState} (h : g.Fits) (n : Nat) : (GState.arrive n g).Fits := by
  induction n generalizing g with
  | zero => exact h
  | succ n ih => exact ih h.arrive1

theorem GState.land_expBytes (g : GState) (n : Nat) : (g.land n).expBytes = g.expBytes := GState.complete_expBytes _

theorem GState.Fits.land {g : GState} (h : g.Fits) (n : Nat) : (g.land n).Fits :=
  GState.Fits.complete ⟨h.expected, h.pending, fitsWord_sextN _⟩

theorem GState.expect_expBytes (g : GState) (n : Nat) : (g.expect n).expBytes = g.expBytes := GState.complete_expBytes _

theorem GState.Fits.expect {g : GState} (h : g.Fits) (n : Nat) : (g.expect n).Fits :=
  GState.Fits.complete ⟨h.expected, h.pending, fitsWord_sextN _⟩

/-- Bytes that changed by a landing or EXPECT, and completion after it. -/
theorem GState.count_bytes (g : GState) {z : Int} (hz : FitsWord z) :
    (0 < g.pending ∨ 0 < z → ({ g with bytes := sextN 32 (wrapN 32 z) } : GState).complete = { g with bytes := z }) ∧
    (g.pending = 0 → z ≤ 0 → FitsWord (g.expBytes + z) → ({ g with bytes := sextN 32 (wrapN 32 z) } : GState).complete =
      { g with phase := g.phase + 1, pending := g.expected, bytes := g.expBytes + z }) := by
  rw [sextN_wrapN_of_fits hz]
  refine ⟨?_, fun hp hb hf => GState.complete_of_done (g := { g with bytes := z }) hp hb hf⟩
  rintro (h | h)
  · exact GState.complete_of_pending (g := { g with bytes := z }) h
  · exact GState.complete_of_bytes (g := { g with bytes := z }) h

theorem GState.arrive1_of_some {g : GState} (h : 0 < g.pending) :
    g.arrive1 = ({ g with pending := g.pending - 1 } : GState).complete := by
  rw [GState.arrive1, if_neg (by omega)]

theorem GState.arrive1_of_last {g : GState} (h : g.pending = 1) : g.arrive1 = ({ g with pending := 0 } : GState).complete := by
  rw [GState.arrive1_of_some (by omega), h]

theorem GState.arrive1_of_none {g : GState} (h : g.pending = 0) : g.arrive1 = ({ g with surplus := true } : GState).complete := by
  rw [GState.arrive1, if_pos h]

/-- Settles O32: an arrival by the number still pending, a landing and EXPECT by what they make of the bytes. -/
theorem guardsCountArrivals : Obligations.GuardsCountArrivals := by
  unfold Obligations.GuardsCountArrivals
  intro g fits next
  refine ⟨fun h => ?_, fun h hb => ?_, fun h hb hf => ?_, fun h hb => ?_, fun h hb hf => ?_,
    fun n hn => g.count_bytes hn, fun n hn => g.count_bytes hn⟩
  · rw [GState.arrive1_of_some (by omega)]
    exact GState.complete_of_pending (Nat.sub_pos_of_lt h)
  · rw [GState.arrive1_of_last h]
    exact GState.complete_of_bytes hb
  · rw [GState.arrive1_of_last h]
    exact GState.complete_of_done (Eq.refl 0) hb hf
  · rw [GState.arrive1_of_none h]
    exact GState.complete_of_bytes hb
  · rw [GState.arrive1_of_none h]
    exact GState.complete_of_done h hb hf

/-! ## A guard after a change of its counts -/

/-- `t` is `s` with the guard at `g` counting as `G`: but for its counting fields and its flags no byte is another. -/
structure GuardMoves (s t : State) (g : Nat) (G : GState) : Prop where
  only : OnlySliceData s t
  guard : t.guard g = G
  but : SliceBut s t fun x => (sliceKey g ≤ x ∧ x < sliceKey g + 18) ∨ (sliceKey g + 30 ≤ x ∧ x < sliceKey g + 32)

theorem GuardMoves.rfl {s : State} {g : Nat} : GuardMoves s s g (s.guard g) := ⟨.rfl, Eq.refl _, .rfl⟩

theorem GuardMoves.trans {s t u : State} {g : Nat} {G H : GState} (h : GuardMoves s t g G) (k : GuardMoves t u g H) :
    GuardMoves s u g H := ⟨h.only.trans k.only, k.guard, h.but.trans k.but⟩

/-- A guard none of whose counting fields is among the bytes that change counts as before. -/
theorem SliceBut.guard {s t : State} {p : Nat → Prop} {g : Nat} (h : SliceBut s t p) (hpkg : t.ctl.pkg = s.ctl.pkg)
    (hg : s.Holds g 32) (hlow : ∀ x, sliceKey g ≤ x → x < sliceKey g + 16 → ¬ p x)
    (hhigh : ∀ x, sliceKey g + 30 ≤ x → x < sliceKey g + 32 → ¬ p x) : t.guard g = s.guard g := by
  have low {k m : Nat} (hk : k + m ≤ 16) (hm : 0 < m) : t.sliceNat (g + k) m = s.sliceNat (g + k) m :=
    hg.sliceNat_of_but (by omega) h hpkg fun x _ _ => hlow x (by omega) (by omega)
  have high : t.sliceNat (g + 30) 2 = s.sliceNat (g + 30) 2 :=
    hg.sliceNat_of_but (by omega) h hpkg fun x _ _ => hhigh x (by omega) (by omega)
  have phase : t.sliceNat g 4 = s.sliceNat g 4 := low (k := 0) (by omega) (by omega)
  unfold State.guard
  rw [phase, low (by omega) (by omega), low (by omega) (by omega), low (by omega) (by omega), low (by omega) (by omega), high]

theorem GuardMoves.guardFlags {s : State} {g : Nat} (hg : s.Holds g 32) (f : BitVec 16) :
    GuardMoves s (s.guardFlags g f) g (s.guard g) := by
  have hb := hg.but_sliceSet (j := 16) (by omega) 2
    ((BitVec.ofNat 16 (s.sliceNat (g + 16) 2) ||| (f &&& 0x03FF#16)).toNat)
  exact ⟨.sliceSet .., hb.guard (Eq.refl _) hg (fun x _ _ => by omega) fun x _ _ => by omega, hb.mono fun x _ => by omega⟩

/-- The words of a guard that hold its counting fields but the expected bytes, which no operation changes. -/
def GState.words (G : GState) : List (Nat × Nat × Nat) :=
  [(0, 4, G.phase.toNat), (4, 2, G.expected), (6, 2, G.pending), (8, 4, wrapN 32 G.bytes), (30, 2, if G.surplus then 1 else 0)]

theorem State.setGuard_eq_setWords (s : State) (g : Nat) (G : GState) : s.setGuard g G = s.setWords g G.words := rfl

theorem OnlySliceData.setGuard (s : State) (g : Nat) (G : GState) : OnlySliceData s (s.setGuard g G) := by
  rw [State.setGuard_eq_setWords]
  exact List.foldlRecOn _ _ (motive := OnlySliceData s) .rfl fun t ht w _ => ht.trans (.sliceSet ..)

theorem GuardMoves.setGuard {s : State} {g : Nat} (hg : s.Holds g 32) {G : GState} (hG : G.Fits)
    (hexp : G.expBytes = (s.guard g).expBytes) : GuardMoves s (s.setGuard g G) g G := by
  refine ⟨.setGuard .., ?_, ?_⟩ <;> rw [State.setGuard_eq_setWords]
  · have hin : ∀ w ∈ G.words, w.1 < 32 := by simp [GState.words]
    have hd : G.words.Pairwise fun v w => v.1 + v.2.1 ≤ w.1 ∨ w.1 + w.2.1 ≤ v.1 := by simp [GState.words]
    have read {k m x : Nat} (hw : (k, m, x) ∈ G.words) (hx : x < 256 ^ m) : (s.setWords g G.words).sliceNat (g + k) m = x :=
      hg.setWords_read hin hd hw hx
    have phase : (s.setWords g G.words).sliceNat g 4 = G.phase.toNat :=
      read (k := 0) (by simp [GState.words]) G.phase.isLt
    have expBytes : (s.setWords g G.words).sliceNat (g + 12) 4 = s.sliceNat (g + 12) 4 :=
      hg.setWords_other (by omega) (by simp [GState.words])
    have bytes : wrapN 32 G.bytes < 256 ^ 4 := by unfold wrapN; omega
    have surplus : (if G.surplus then 1 else 0) % 2 = 1 ↔ G.surplus = true := by cases G.surplus <;> simp
    unfold State.guard
    rw [phase, read (x := G.expected) (by simp [GState.words]) hG.expected,
      read (x := G.pending) (by simp [GState.words]) hG.pending, read (x := wrapN 32 G.bytes) (by simp [GState.words]) bytes,
      expBytes, read (x := if G.surplus then 1 else 0) (by simp [GState.words]) (by split <;> omega),
      sextN_wrapN_of_fits hG.bytes]
    cases G
    simp_all [State.guard]
  · refine hg.but_setWords ?_
    simp only [GState.words, List.forall_mem_cons]
    refine ⟨?_, ?_, ?_, ?_, ?_, by simp⟩ <;> refine ⟨by omega, fun x _ _ => by omega⟩

theorem GuardMoves.withFlags {s : State} {g : Nat} (hg : s.Holds g 32) (f : BitVec 16) :
    GuardMoves s (if f &&& 0x03FF#16 = 0 then s else s.guardFlags g f) g (s.guard g) := by
  split
  · exact .rfl
  · exact .guardFlags hg f

/-- A guard of this package whose counts change behind its flags. -/
theorem GuardMoves.counted {s t : State} {g : Nat} {G : GState} (h : GuardMoves s t g G) (hg : s.Holds g 32) {H : GState}
    (hH : H.Fits) (hexp : H.expBytes = G.expBytes) : GuardMoves s (t.setGuard g H) g H :=
  h.trans (.setGuard (hg.congr h.only.pkg) hH (by rw [h.guard, hexp]))

theorem GuardMoves.arriveAt {s : State} {g : Nat} (hg : s.Holds g 32) (b n : Nat) (f : BitVec 16) :
    GuardMoves s (s.arriveAt b g n f) g ((s.guard g).arrive n) := by
  unfold State.arriveAt
  rw [if_pos hg.here]
  have hf := GuardMoves.withFlags hg f
  dsimp only
  generalize (if f &&& 0x03FF#16 = 0 then s else s.guardFlags g f) = t at hf ⊢
  split
  case isTrue hn => rw [hn]; exact hf
  case isFalse => rw [hf.guard]; exact hf.counted hg ((s.guard_fits g).arrive n) (GState.arrive_expBytes ..)

theorem GuardMoves.landAt {s : State} {g : Nat} (hg : s.Holds g 32) (b n : Nat) (f : BitVec 16) :
    GuardMoves s (s.landAt b g n f) g ((s.guard g).land n) := by
  unfold State.landAt
  rw [if_pos hg.here]
  have hf := GuardMoves.withFlags hg f
  dsimp only
  generalize (if f &&& 0x03FF#16 = 0 then s else s.guardFlags g f) = t at hf ⊢
  rw [hf.guard]
  exact hf.counted hg ((s.guard_fits g).land n) (GState.land_expBytes ..)

theorem GuardMoves.expectAt {s : State} {g : Nat} (hg : s.Holds g 32) (b n : Nat) :
    GuardMoves s (s.expectAt b g n) g ((s.guard g).expect n) := by
  unfold State.expectAt
  rw [if_pos hg.here]
  exact .setGuard hg ((s.guard_fits g).expect n) (GState.expect_expBytes ..)

/-- Where a guard's window lies is no matter of its counts. -/
theorem GuardMoves.windowWord {s t : State} {g : Nat} {G : GState} (h : GuardMoves s t g G) (hg : s.Holds g 32) (src : Nat) :
    t.windowWord g src = s.windowWord g src := by
  unfold State.windowWord
  rw [hg.sliceNat_of_but (by omega) h.but h.only.pkg fun x _ _ => by omega]

end Sys2Proof.Machine

/-! PROOFS. The statement of 04 about operations of other packages (O52). -/

namespace Sys2Proof.Machine

/-! ## Receiving an operation (04 R116, 05 R158) -/

/-- The arrival of an operation of another package, by either instruction. -/
theorem exec_arrival {i : Instr} {src seq : Nat} {o : FabOp} (s : State)
    (h : i = .remoteArrival src seq o ∨ i = .fabricOperation src seq o) : exec i s = .next (s.receive src seq o).tock := by
  rcases h with rfl | rfl <;> rfl

section Receive
variable {s : State} {src seq : Nat} {o : FabOp}

/-- An operation that has been held until now is held no more, and it is acknowledged. -/
def State.acked (s : State) (src seq : Nat) (o : FabOp) (reply : FabReply) : State :=
  { s with eng := { s.eng with
      early := s.eng.early.filter fun x => x ≠ (src, seq, o)
      acks := (src, o.guard?, seq, reply) :: s.eng.acks } }

/-- An operation is held until its turn. -/
def State.heldBack (s : State) (src seq : Nat) (o : FabOp) : State :=
  if s.eng.early.contains (src, seq, o) then s else { s with eng := { s.eng with early := s.eng.early ++ [(src, seq, o)] } }

theorem State.receive_of_closed (h : s.up = false ∨ s.ctl.locked = true) : s.receive src seq o = s := by
  unfold State.receive
  rcases h with h | h <;> simp [h]

theorem State.receive_of_applied (hup : s.up = true) (hlocked : s.ctl.locked = false) (hseq : seq = seqNext (s.lastSeq src o))
    {reply : FabReply} {t : State} (h : s.applyOp src o = some (reply, t)) :
    s.receive src seq o = (t.setSeq src seq o).acked src seq o reply := by
  unfold State.receive
  simp [hup, hlocked, ← hseq, h, State.acked]

theorem State.receive_of_delayed (hup : s.up = true) (hlocked : s.ctl.locked = false) (hseq : seq = seqNext (s.lastSeq src o))
    (h : s.applyOp src o = none) : s.receive src seq o = s.heldBack src seq o := by
  unfold State.receive
  simp [hup, hlocked, ← hseq, h, State.heldBack]

theorem State.receive_of_duplicate (hup : s.up = true) (hlocked : s.ctl.locked = false) (hseq : seq ≠ seqNext (s.lastSeq src o))
    (h : (s.lastSeq src o + 2 ^ 16 - seq % 2 ^ 16) % 2 ^ 16 < 2 ^ 15) :
    s.receive src seq o = s.acked src seq o (s.ackOf src seq o) := by
  unfold State.receive
  rw [if_neg (by simp [hup, hlocked]), if_neg hseq, if_pos h]
  rfl

theorem State.receive_of_early (hup : s.up = true) (hlocked : s.ctl.locked = false) (hseq : seq ≠ seqNext (s.lastSeq src o))
    (h : ¬ (s.lastSeq src o + 2 ^ 16 - seq % 2 ^ 16) % 2 ^ 16 < 2 ^ 15) : s.receive src seq o = s.heldBack src seq o := by
  unfold State.receive
  rw [if_neg (by simp [hup, hlocked]), if_neg hseq, if_neg h]
  rfl

theorem State.heldBack_spec (s : State) (src seq : Nat) (o : FabOp) : (s.heldBack src seq o).mem = s.mem ∧
    (s.heldBack src seq o).blocks = s.blocks ∧ (src, seq, o) ∈ (s.heldBack src seq o).eng.early := by
  unfold State.heldBack
  split
  case isTrue h => exact ⟨rfl, rfl, List.contains_iff_mem.1 h⟩
  case isFalse => exact ⟨rfl, rfl, by simp⟩

theorem State.acked_not_early (s : State) (src seq : Nat) (o : FabOp) (reply : FabReply) :
    (src, seq, o) ∉ (s.acked src seq o reply).eng.early := by
  simp [State.acked]

theorem State.setSeq_of_noGuard (s : State) (src seq : Nat) {o : FabOp} (h : o.guard? = none) :
    s.setSeq src seq o = { s with eng := { s.eng with seqIn := s.eng.seqIn.put src seq } } := by
  unfold State.setSeq
  rw [h]

theorem State.setSeq_of_guard (s : State) (src seq : Nat) {o : FabOp} {g : Nat} (h : o.guard? = some g) :
    s.setSeq src seq o = s.sliceSet (s.windowWord g src) 2 seq := by
  unfold State.setSeq
  rw [h]

theorem State.setSeq_keeps (s : State) (src seq : Nat) (o : FabOp) : (s.setSeq src seq o).blocks = s.blocks ∧
    (s.setSeq src seq o).eng.acks = s.eng.acks ∧ (s.setSeq src seq o).eng.running = s.eng.running := by
  unfold State.setSeq
  split <;> exact ⟨rfl, rfl, rfl⟩

/-- The successor of the last operation that was applied is applied and acknowledged. -/
theorem exec_arrival_applied {i : Instr} (hi : i = .remoteArrival src seq o ∨ i = .fabricOperation src seq o)
    (hup : s.up = true) (hlocked : s.ctl.locked = false) (hseq : seq = seqNext (s.lastSeq src o)) {reply : FabReply} {t : State}
    (h : s.applyOp src o = some (reply, t)) : exec i s = .next ((t.setSeq src seq o).acked src seq o reply).tock := by
  rw [exec_arrival s hi, State.receive_of_applied hup hlocked hseq h]

end Receive

/-! ## What operations do here (04 R111, R115, R129) -/

theorem State.unpoisoned_of_clean {s : State} {ps : List (Nat × Nat)} (h : ∀ p ∈ ps, s.slicePoisoned p.1 p.2 = false)
    (r : FabReply × State) : s.unpoisoned ps r = some r := by
  unfold State.unpoisoned
  rw [if_neg (by simpa using h)]

theorem State.applyOp_store (s : State) (src a : Nat) (bs : List Byte) : s.applyOp src (.store a bs) =
    some ({ denied := s.guarded a bs.length }, if s.guarded a bs.length then s else s.sliceWrite a bs) := by
  show (if s.guarded a bs.length then _ else _) = _
  cases s.guarded a bs.length <;> rfl

theorem State.applyOp_atomic {s : State} {a ty : Nat} (hg : s.guarded a (if wide ty then 8 else 4) = false)
    (hp : s.slicePoisoned a (if wide ty then 8 else 4) = false) (src : Nat) (cas : Bool) (op : Nat) (xs : List (Nat × Nat)) :
    s.applyOp src (.atomic (.slice a) cas op ty xs) = some ({}, s.sliceWrite a (leBytes (if wide ty then 8 else 4)
      (combine cas op ty (s.sliceNat a (if wide ty then 8 else 4)) (xs.map fun x => (0, x))).2)) := by
  simp only [State.applyOp, State.farApply, hg, hp, Bool.false_eq_true, if_false]
  rfl

theorem State.applyOp_ginit_busy {s : State} {g : Nat} (hp : s.slicePoisoned (g + 28) 2 = false)
    (hw : s.sliceNat (g + 28) 2 ≠ 0) (src a n k : Nat) : s.applyOp src (.ginit g a n k) = some ({ geom := true }, s) := by
  show s.unpoisoned [(g + 28, 2)] _ = _
  rw [State.unpoisoned_of_clean (by simpa using hp), if_pos hw]

theorem State.applyOp_gbind_ninth {s : State} {g x : Nat} (hp : s.slicePoisoned (g + 20) 4 = false)
    (hl : s.slicePoisoned (s.bindList g) (16 * min (s.bound g) 8) = false) (hn : 8 ≤ s.bound g)
    (hx : ∀ k, k < 8 → s.bindEntry g k ≠ x) (src : Nat) : s.applyOp src (.gbind g x) = some ({ geom := true }, s) := by
  show s.unpoisoned [(g + 20, 4), (s.bindList g, 16 * min (s.bound g) 8)] _ = _
  rw [State.unpoisoned_of_clean (by simp [hp, hl]), if_pos (by simpa [hn] using hx)]

theorem State.applyOp_advance_past {s : State} {ch n : Nat} (hp : s.slicePoisoned (ch + 8) 16 = false)
    (hn : s.chAppended ch < n) (src : Nat) : s.applyOp src (.advance ch n) = some ({ geom := true }, s) := by
  show s.unpoisoned [(ch + 8, 16)] _ = _
  rw [State.unpoisoned_of_clean (by simpa using hp), if_pos hn]

/-- The words of a guard an arrival or EXPECT of another package reads are not poisoned. -/
theorem State.unpoisoned_counts {s : State} {g : Nat} (hlow : s.slicePoisoned g 16 = false)
    (hhigh : s.slicePoisoned (g + 30) 2 = false) (r : FabReply × State) :
    s.unpoisoned [(g, 16), (g + 30, 2)] r = some r :=
  State.unpoisoned_of_clean (by simp [hlow, hhigh]) r

/-- What a remote arrival leaves: the guard counts, and its window holds the number (04 R116). -/
theorem exec_remoteArrival_guard {s t : State} {src seq g : Nat} {o : FabOp} {i : Instr} {G : GState}
    (hi : i = .remoteArrival src seq o ∨ i = .fabricOperation src seq o) (hup : s.up = true) (hlocked : s.ctl.locked = false)
    (hseq : seq = seqNext (s.lastSeq src o)) (happ : s.applyOp src o = some ({}, t)) (ho : o.guard? = some g)
    (hg : s.Holds g 32) (ht : GuardMoves s t g G)
    (hw : sliceKey (s.windowWord g src) + 2 ≤ sliceKey g ∨ sliceKey g + 32 ≤ sliceKey (s.windowWord g src)) :
    ∃ u, exec i s = .next u ∧ u.blocks = s.blocks ∧ Mem.read u.mem.slice (sliceKey (s.windowWord g src)) 2 = leBytes 2 seq ∧
      u.guard g = G ∧ SliceBut s u fun k => (sliceKey g ≤ k ∧ k < sliceKey g + 32) ∨
        (sliceKey (s.windowWord g src) ≤ k ∧ k < sliceKey (s.windowWord g src) + 2) := by
  have hset : t.setSeq src seq o = t.sliceSet (s.windowWord g src) 2 seq := by
    rw [State.setSeq_of_guard _ _ _ ho, ht.windowWord hg]
  refine ⟨_, exec_arrival_applied hi hup hlocked hseq happ, ?_⟩
  rw [hset]
  generalize hu : ((t.sliceSet (s.windowWord g src) 2 seq).acked src seq o {}).tock = u
  have hmem : u.mem = (t.sliceSet (s.windowWord g src) 2 seq).mem := by rw [← hu]; rfl
  have hpkg : u.ctl.pkg = t.ctl.pkg := by rw [← hu]; rfl
  have hblocks : u.blocks = t.blocks := by rw [← hu]; rfl
  have hbut := (SliceBut.sliceSet t (s.windowWord g src) 2 seq).of_slice (congrArg Store.slice hmem)
  refine ⟨hblocks.trans ht.only.blocks, ?_, ?_, ?_⟩
  · rw [hmem]
    exact t.memRead_sliceSet ..
  · exact (hbut.guard hpkg (hg.congr ht.only.pkg) (fun x _ _ => by omega) fun x _ _ => by omega).trans ht.guard
  · exact (ht.but.mono fun x _ => .inl (by omega)).trans (hbut.mono fun x hx => .inr hx)

/-- Settles O52: by whether the package takes operations, and by the place of the number in its sequence. -/
theorem remoteOperationsApplyInOrder : Obligations.RemoteOperationsApplyInOrder := by
  unfold Obligations.RemoteOperationsApplyInOrder
  intro s src seq o i hi last
  have hexec := exec_arrival s hi
  refine ⟨fun hclosed => ?_, fun hup hlocked hseq => ?_, fun hup hlocked hseq hlate => ?_, fun hup hlocked hseq hlate => ?_⟩
  · rw [hexec, State.receive_of_closed hclosed]
    exact ⟨_, rfl, rfl, rfl, rfl, rfl⟩
  · have applied {reply : FabReply} {t : State} (h : s.applyOp src o = some (reply, t)) :=
      exec_arrival_applied hi hup hlocked hseq h
    have get_put_same (t : Tab Nat) : (t.put src seq).get 0 src = seq := by rw [Tab.get_put, if_pos rfl]
    refine ⟨fun h => ?_, fun reply t h => ?_, fun a bs ho => ?_, fun a cas op ty xs ho hhere hguard hpoison => ?_,
      fun m ho => ?_, fun g a n k ho hp hw => ?_, fun g x ho hp hl hn hx => ?_, fun ch n ho hp hn => ?_,
      fun g n ho hhere hal hlow hhigh => ?_⟩
    · rw [hexec, State.receive_of_delayed hup hlocked hseq h]
      exact ⟨_, rfl, s.heldBack_spec src seq o⟩
    · obtain ⟨hblocks, hacks, hrunning⟩ := t.setSeq_keeps src seq o
      exact ⟨_, applied h, hblocks, congrArg _ hacks, State.acked_not_early _ _ _ _ _, hrunning⟩
    · subst ho
      refine ⟨_, applied (s.applyOp_store src a bs), ?_⟩
      rw [State.setSeq_of_noGuard _ _ _ rfl]
      cases s.guarded a bs.length with
      | true => exact ⟨get_put_same _, rfl, rfl, rfl, nofun, fun _ => rfl⟩
      | false => exact ⟨get_put_same _, rfl, rfl, rfl, fun _ => ⟨s.memRead_sliceWrite a bs, .sliceWrite s a bs⟩, nofun⟩
    · subst ho
      intro n
      refine ⟨_, applied (State.applyOp_atomic hguard hpoison ..), ?_⟩
      rw [State.setSeq_of_noGuard _ _ _ rfl]
      exact ⟨get_put_same _, rfl, s.memRead_sliceSet .., (SliceBut.sliceSet s a n _).of_slice rfl⟩
    · subst ho
      exact ⟨_, applied (reply := {}) rfl, rfl, rfl⟩
    · rw [ho]
      exact State.applyOp_ginit_busy hp hw ..
    · rw [ho]
      exact State.applyOp_gbind_ninth hp hl hn hx src
    · rw [ho]
      exact State.applyOp_advance_past hp hn src
    · intro w hw
      have hg := State.Holds.of_aligned hhere hal
      have arrived {t : State} {G : GState} (happ : s.applyOp src o = some ({}, t)) (hguard : o.guard? = some g)
          (ht : GuardMoves s t g G) := exec_remoteArrival_guard hi hup hlocked hseq happ hguard hg ht hw
      rcases ho with ho | ho | ho
      · obtain ⟨u, hu, hblocks, hread, hcount, hbut⟩ := arrived (by rw [ho]; exact State.unpoisoned_counts hlow hhigh _)
          (by rw [ho]; rfl) (.arriveAt hg 0 n _)
        exact ⟨u, hu, hblocks, hread, fun _ => hcount, fun h => absurd (ho.symm.trans h) nofun,
          fun h => absurd (ho.symm.trans h) nofun, hbut⟩
      · obtain ⟨u, hu, hblocks, hread, hcount, hbut⟩ := arrived (by rw [ho]; rfl) (by rw [ho]; rfl) (.landAt hg 0 n 0)
        exact ⟨u, hu, hblocks, hread, fun h => absurd (ho.symm.trans h) nofun, fun _ => hcount,
          fun h => absurd (ho.symm.trans h) nofun, hbut⟩
      · obtain ⟨u, hu, hblocks, hread, hcount, hbut⟩ := arrived (by rw [ho]; exact State.unpoisoned_counts hlow hhigh _)
          (by rw [ho]; rfl) (.expectAt hg 0 n)
        exact ⟨u, hu, hblocks, hread, fun h => absurd (ho.symm.trans h) nofun, fun h => absurd (ho.symm.trans h) nofun,
          fun _ => hcount, hbut⟩
  · rw [hexec, State.receive_of_duplicate hup hlocked hseq hlate]
    exact ⟨_, rfl, rfl, rfl, State.acked_not_early _ _ _ _ _, rfl⟩
  · rw [hexec, State.receive_of_early hup hlocked hseq hlate]
    exact ⟨_, rfl, s.heldBack_spec src seq o⟩

end Sys2Proof.Machine

/-! PROOFS. The statement of 04 about what an engine does with the head entry of a chain (O40), with the rules of stopping a
chain and of what reading changes. -/

namespace Sys2Proof.Machine

/-! ## What reading changes -/

/-- `t` is `s` but for what the cores and the memory hold. -/
def OnlyStore (s t : State) : Prop := t = { s with cores := t.cores, mem := t.mem }

theorem OnlyStore.rfl {s : State} : OnlyStore s s := Eq.refl _
theorem OnlyStore.trans {s t u : State} (h : OnlyStore s t) (k : OnlyStore t u) : OnlyStore s u :=
  Eq.trans k (congrArg (fun x : State => { x with cores := u.cores, mem := u.mem }) h)
theorem OnlyStore.blocks {s t : State} (h : OnlyStore s t) : t.blocks = s.blocks := (congrArg State.blocks h :)
theorem OnlyStore.eng {s t : State} (h : OnlyStore s t) : t.eng = s.eng := (congrArg State.eng h :)
theorem OnlyStore.ctl {s t : State} (h : OnlyStore s t) : t.ctl = s.ctl := (congrArg State.ctl h :)
theorem OnlyStore.fresh {s t : State} (h : OnlyStore s t) : t.fresh = s.fresh := (congrArg State.fresh h :)
theorem OnlyStore.tick {s t : State} (h : OnlyStore s t) : t.tick = s.tick := (congrArg State.tick h :)

/-- `t` is `s` but for what the cores hold and memory other than the bytes of slices. -/
structure Fetched (s t : State) : Prop where
  only : OnlyStore s t
  slice : t.mem.slice = s.mem.slice

theorem Fetched.rfl {s : State} : Fetched s s := ⟨.rfl, Eq.refl _⟩
theorem Fetched.trans {s t u : State} (h : Fetched s t) (k : Fetched t u) : Fetched s u :=
  ⟨h.only.trans k.only, k.slice.trans h.slice⟩

/-- A fold over an optional state, each step of which is related by `R`. -/
theorem foldl_option_rel {α β : Type} {R : State → State → Prop} (hR : ∀ {s t u}, R s t → R t u → R s u)
    {f : Option (β × State) → α → Option (β × State)} (hnone : ∀ x, f none x = none)
    (hstep : ∀ {b s x c t}, f (some (b, s)) x = some (c, t) → R s t) {s : State} (hs : R s s) {xs : List α} {b c : β} {t : State}
    (h : xs.foldl f (some (b, s)) = some (c, t)) : R s t := by
  refine List.foldlRecOn xs f (motive := fun r => ∀ c t, r = some (c, t) → R s t) (fun c t e => ?_) (fun r hr x _ c t e => ?_)
    c t h
  · cases e
    exact hs
  · cases r with
    | none => rw [hnone] at e; cases e
    | some p => exact hR (hr p.1 p.2 rfl) (hstep e)

theorem State.corrected_store (s : State) (core n : Nat) : OnlyStore s (s.corrected core n) := Eq.refl _

theorem State.translate_fetched (s : State) (who part obj copy off : Nat) (write : Bool) :
    Fetched s (s.translate who part obj copy off write).2 := by
  simp only [State.translate]
  repeat' split
  all_goals exact ⟨Eq.refl _, Eq.refl _⟩

theorem State.homeRead_fetched {s t : State} {who part obj copy off n : Nat} {bs : List Byte}
    (h : s.homeRead who part obj copy off n = some (bs, t)) : Fetched s t := by
  refine foldl_option_rel (R := Fetched) Fetched.trans (fun _ => rfl) (fun {b s x c t} h => ?_) .rfl h
  have hk := s.translate_fetched who part obj copy x.1 false
  dsimp only at h
  split at h
  case h_1 ht => cases h; rw [ht] at hk; exact hk
  case h_2 ht => cases h; rw [ht] at hk; exact hk
  case h_3 => cases h

theorem State.correctSlice_fetched (s : State) (core a n : Nat) : Fetched s (s.correctSlice core a n).2 := by
  unfold State.correctSlice
  split <;> exact ⟨Eq.refl _, Eq.refl _⟩

theorem State.correctHome_fetched (s : State) (core k n : Nat) : Fetched s (s.correctHome core k n).2 := by
  unfold State.correctHome
  dsimp only
  split <;> exact ⟨Eq.refl _, Eq.refl _⟩

/-- Reading at the point of coherence, as an engine does but for a copy channel. -/
theorem State.engRead_fetched {s t : State} {core n : Nat} {p : Space × Nat} {bs : List Byte}
    (h : s.engRead false core p n = some (bs, t)) : Fetched s t := by
  unfold State.engRead at h
  split at h
  case h_1 =>
    cases h
    exact s.correctSlice_fetched ..
  case h_2 =>
    rw [if_neg Bool.false_ne_true, Option.map_eq_some_iff] at h
    obtain ⟨⟨bs', u⟩, hu, ht⟩ := h
    cases ht
    exact (State.homeRead_fetched hu).trans (u.correctHome_fetched ..)

theorem State.engRead_slice {s : State} (h : s.mem.flips = []) (cached : Bool) (core a n : Nat) :
    s.engRead cached core (.slice, a) n = some (s.sliceRead a n, s) := by
  unfold State.engRead
  dsimp only
  rw [State.correctSlice_of_noFlips h]

theorem State.verifyTile_store {s t : State} {core u : Nat} {fixed : Bool} (h : s.verifyTile core u = some (fixed, t)) :
    OnlyStore s t := by
  unfold State.verifyTile at h
  split at h <;> cases h <;> exact Eq.refl _

theorem State.verifyTiles_store {s t : State} {core a n : Nat} {fixed : Bool} (h : s.verifyTiles core a n = some (fixed, t)) :
    OnlyStore s t := by
  refine foldl_option_rel (R := OnlyStore) OnlyStore.trans (fun _ => rfl) (fun {b s x c t} h => ?_) .rfl h
  rw [Option.bind_some, Option.map_eq_some_iff] at h
  obtain ⟨⟨y, u⟩, hu, ht⟩ := h
  cases ht
  exact State.verifyTile_store hu

theorem State.readMine_of_single {s : State} {r : Running} (h : r.op < 0x20 ∨ 0x23 < r.op) :
    s.readMine r = some (.ok ([], false, s)) := by
  unfold State.readMine
  rw [if_pos]
  simp; omega

theorem State.readMine_store {s t : State} {r : Running} {bs : List Byte} {fixed : Bool}
    (h : s.readMine r = some (.ok (bs, fixed, t))) : OnlyStore s t := by
  unfold State.readMine at h
  split at h
  case isTrue => cases h; exact .rfl
  case isFalse =>
    dsimp only at h
    split at h
    case isTrue => cases h
    case isFalse =>
      split at h
      case h_1 => cases h
      case h_2 v hv =>
        rw [Option.map_eq_some_iff] at h
        obtain ⟨⟨bs', u⟩, hu, ht⟩ := h
        cases ht
        refine OnlyStore.trans ?_ (State.engRead_fetched hu).only
        split at hv
        · exact State.verifyTiles_store hv
        · cases hv; exact .rfl

theorem State.readLists_fetched (s : State) (o : Owner) (op : Nat) (e : Entry) : Fetched s (s.readLists o op e) := by
  unfold State.readLists
  dsimp only
  split
  · exact .rfl
  · refine List.foldlRecOn _ _ (motive := Fetched s) .rfl fun t ht x _ => ?_
    generalize hr : t.engRead false _ _ _ = r
    cases r with
    | none => exact ht
    | some p => exact ht.trans (State.engRead_fetched hr)

theorem State.readLists_of_noLists {s : State} {op : Nat} (h : op < 0x10 ∨ 0x12 < op) (o : Owner) (e : Entry) :
    s.readLists o op e = s := by
  unfold State.readLists
  dsimp only
  rw [if_neg (by simp; omega)]

/-- Lists in a slice without single errors are read as they are. -/
theorem State.readLists_of_clean {s : State} {o : Owner} {e : Entry} (hk : (s.entCap o (e.cap 2)).1.kind ≠ 1)
    (hf : s.mem.flips = []) (op : Nat) : s.readLists o op e = s := by
  unfold State.readLists
  dsimp only
  split
  · rfl
  · refine List.foldlRecOn _ _ (motive := (· = s)) rfl fun t ht x _ => ?_
    rw [ht, State.placeOf, if_neg hk, State.engRead_slice hf]
    rfl

/-! ## Heads and checks (04 R119 to R122) -/

theorem State.headEntry_spec {s : State} {ch op : Nat} {e : Entry} {o : Owner} (h : s.headEntry ch = some (o, op, e)) :
    s.here ch = true ∧ o.chain = ch := by
  unfold State.headEntry at h
  dsimp only at h
  split at h
  case isTrue => cases h
  case isFalse hhere =>
    rw [Option.map_eq_some_iff] at h
    obtain ⟨o', hfind, ho⟩ := h
    cases ho
    have hp := List.find?_some hfind
    simp only [Bool.and_eq_true, decide_eq_true_eq] at hp
    simp only [Bool.or_eq_true, Bool.not_eq_true', not_or, Bool.not_eq_false] at hhere
    exact ⟨hhere.1, hp.1.1⟩

/-- A step of `firstFail`. -/
def earlierFail (r x : Fail) : Fail :=
  match r, x with
  | none, y => y
  | some p, some q => if q.1 < p.1 then some q else some p
  | some p, none => some p

theorem earlierFail_eq_none {r x : Fail} : earlierFail r x = none ↔ r = none ∧ x = none := by
  cases r <;> cases x <;> simp [earlierFail]
  split <;> simp

/-- Nothing fails where there is no first failure. -/
theorem firstFail_eq_none {xs : List Fail} : firstFail xs = none ↔ ∀ x ∈ xs, x = none := by
  have h (r : Fail) : xs.foldl earlierFail r = none ↔ r = none ∧ ∀ x ∈ xs, x = none := by
    induction xs generalizing r with
    | nil => simp
    | cons x xs ih => rw [List.foldl_cons, ih, earlierFail_eq_none, List.forall_mem_cons, and_assoc]
  rw [show firstFail xs = (xs.foldl earlierFail none).map Prod.snd from rfl, Option.map_eq_none_iff, h]
  simp

theorem failIf_eq_none {p : Bool} {stage code : Nat} : failIf p stage code = none ↔ p = false := by
  cases p <;> simp [failIf]

/-- An entry whose checks hold becomes the running entry of its fields; the lists it names are in bounds, and its rows are
those they give. -/
theorem State.checkEntry_ok {s : State} {o : Owner} {op : Nat} {e : Entry} {r : Running}
    (h : s.checkEntry o op e = some (.ok r)) :
    (r.chain = o.chain ∧ r.seq = o.seq ∧ r.op = op ∧ r.e = e ∧ r.owner = o ∧ r.done = 0) ∧
    ∃ ok q, (0x10 ≤ op → op ≤ 0x12 → ok = true) ∧
      s.entRows op (coreOfSlice o.chain) o.part e (s.entCap o (e.cap 2)).1 ok = some q ∧
      (movesBytes op = true → r.rows = q.rows ∧
        r.total = q.rows.length * (e.widths op (s.groupMembers o.part e.gid).length).2) := by
  unfold State.checkEntry at h
  dsimp only at h
  split at h
  case isTrue => cases h
  case isFalse =>
    split at h
    case h_1 => cases h
    case h_2 =>
      rw [Option.map_eq_some_iff] at h
      obtain ⟨q, hq, hrun⟩ := h
      split at hrun
      case h_1 => cases hrun
      case h_2 hnone =>
        simp only [firstFail_eq_none, List.forall_mem_cons, failIf_eq_none] at hnone
        obtain ⟨-, -, -, hbounds, -⟩ := hnone
        cases hrun
        refine ⟨⟨rfl, rfl, rfl, rfl, rfl, rfl⟩, _, q, fun hlo hhi => ?_, hq, fun hmoves => by
          simp only [hmoves, if_true, and_self]⟩
        simpa [hlo, hhi] using (Bool.or_eq_false_iff.1 hbounds).2

/-! ## An entry that starts (04 R119, R123) -/

/-- An entry joins the running ones; a SUBMIT's submission goes on to the Parser. -/
def State.joinRunning (s : State) (op : Nat) (r : Running) : State :=
  let t : State := { s.bump with eng := { s.eng with running := s.eng.running.put s.fresh r } }
  if op = 0x30 then t.passSubmission r else t

theorem State.passSubmission_only (s : State) (r : Running) :
    s.passSubmission r = { s with ctl := { s.ctl with parts := (s.passSubmission r).ctl.parts } } := by
  unfold State.passSubmission
  split <;> rfl

theorem State.joinRunning_only (s : State) (op : Nat) (r : Running) : s.joinRunning op r = { s with
    fresh := s.fresh + 1
    eng := { s.eng with running := s.eng.running.put s.fresh r }
    ctl := { s.ctl with parts := (s.joinRunning op r).ctl.parts } } := by
  unfold State.joinRunning
  dsimp only
  split
  · exact State.passSubmission_only _ r
  · rfl

theorem State.parserPart_congr {s t : State} (h : t.ctl = s.ctl) (ch : Nat) : t.parserPart ch = s.parserPart ch := by
  unfold State.parserPart
  rw [h]

/-- A submission that reaches the Parser is in its partition's queue. -/
theorem State.passSubmission_queue {s : State} {r : Running} {p : Nat} {P : Part} (hp : s.parserPart r.chain = some p)
    (hP : s.ctl.parts.find p = some P) : ∃ P', (s.passSubmission r).ctl.parts.find p = some P' ∧
      ⟨.chain r.owner.entry r.seq, p, r.owner.sup⟩ ∈ P'.queue := by
  unfold State.passSubmission
  simp only [hp, State.modPart_ctl, Tab.find_mod_same, hP, Option.map_some]
  refine ⟨_, rfl, ?_⟩
  split
  case isTrue h => exact List.contains_iff_mem.1 h
  case isFalse => simp

theorem State.joinRunning_queue {s : State} {r : Running} {o : Owner} {p : Nat} {P : Part} (howner : r.owner = o)
    (hchain : r.chain = o.chain) (hseq : r.seq = o.seq) (hp : s.parserPart o.chain = some p) (hP : s.ctl.parts.find p = some P) :
    ∃ P', (s.joinRunning 0x30 r).ctl.parts.find p = some P' ∧ ⟨.chain o.entry o.seq, p, o.sup⟩ ∈ P'.queue := by
  subst howner
  rw [← hseq]
  rw [← hchain] at hp
  exact State.passSubmission_queue (s := { s.bump with eng := { s.eng with running := s.eng.running.put s.fresh r } })
    ((State.parserPart_congr (Eq.refl _) _).trans hp) hP

theorem State.startEntry_runs {s sr : State} {ch op : Nat} {e : Entry} {o : Owner} {r : Running} {bs : List Byte} {fixed : Bool}
    (hhead : s.headEntry ch = some (o, op, e)) (hmay : s.mayTake ch = true) (hcheck : s.checkEntry o op e = some (.ok r))
    (hmine : s.readMine r = some (.ok (bs, fixed, sr))) :
    s.startEntry ch op e = ((sr.readLists o op e).takeHead o).tock.joinRunning op
      { r with mine := bs, flags := flagIf fixed fCOR, passed := decide (op = 0x30) } := by
  simp [State.startEntry, hhead, hmay, hcheck, hmine, State.joinRunning]

/-- An entry that fails its checks stops its chain; an op that is not listed is taken by ENTRY_NOP. -/
theorem State.startEntry_stops {s : State} {ch op k : Nat} {e : Entry} {o : Owner} (hhead : s.headEntry ch = some (o, op, e))
    (hmay : s.mayTake ch = true) (hcheck : s.checkEntry o op e = some (.error k)) :
    s.startEntry ch (if (opClass op).isSome then op else 0) e = ((s.takeHead o).stopEntry (s.unstarted o op e) k).tock := by
  have hop : (decide (op = if (opClass op).isSome then op else 0) ||
      decide ((if (opClass op).isSome then op else 0) = 0) && (opClass op).isNone) = true := by
    cases opClass op <;> simp
  simp only [State.startEntry, hhead, hmay, hcheck, hop]
  simp

theorem State.takeHead_chHead {s : State} {o : Owner} (h : s.Holds o.chain 64) :
    (s.takeHead o).chHead o.chain = s.sliceNat (o.entry + 56) 8 :=
  h.sliceNat_sliceSet (k := 40) (by omega) (s.sliceNat_lt (o.entry + 56) 8)

/-! ## A chain that stops (04 R127) -/

/-- What the stop of a chain at an entry leaves: its status word, and no entry running from that one on. -/
structure Stopped (s t : State) (o : Owner) (code : Nat) : Prop where
  mem : t.mem = (s.sliceSet (o.chain + 4) 4 (code + 256 * (o.seq % 2 ^ 24))).mem
  running : t.eng.running = s.eng.running.filter fun x => !(x.2.chain = o.chain && decide (o.seq ≤ x.2.seq))
  blocks : t.blocks = s.blocks
  pkg : t.ctl.pkg = s.ctl.pkg

theorem State.reportStop_of_gone {s : State} {b : Nat} (h : s.blocks.find b = none) (k code : Nat) :
    s.reportStop b k none code = s := by
  unfold State.reportStop State.blockErr
  simp only [h]

/-- The report of a stopped entry to the block that appended it, here or in another package. -/
def State.stopReported (s : State) (o : Owner) (code : Nat) : State :=
  match o.block with
  | none => match o.far, o.task with
    | some (p, b), some k => s.send p 0 (.stopped b k o.tag code)
    | _, _ => s
  | some (b, k) => s.reportStop b k o.tag code

theorem State.stopReported_keeps {s : State} {o : Owner} (htag : o.tag = none)
    (hblock : ∀ b t, o.block = some (b, t) → s.blocks.find b = none) (code : Nat) :
    (s.stopReported o code).mem = s.mem ∧ (s.stopReported o code).eng.running = s.eng.running ∧
      (s.stopReported o code).blocks = s.blocks ∧ (s.stopReported o code).ctl = s.ctl ∧
      (s.stopReported o code).graphs = s.graphs := by
  unfold State.stopReported
  split
  case h_1 => split <;> exact ⟨rfl, rfl, rfl, rfl, rfl⟩
  case h_2 b k hb =>
    rw [htag, State.reportStop_of_gone (hblock b k hb)]
    exact ⟨rfl, rfl, rfl, rfl, rfl⟩

/-- The running entries as the stop of a chain at an entry leaves them. -/
def State.dropRunning (s : State) (o : Owner) : State := { s with eng := { s.eng with
  running := s.eng.running.filter fun r => !(r.2.chain = o.chain && decide (o.seq ≤ r.2.seq)) } }

theorem State.engineWaits_of_noGraphs {s : State} (h : s.graphs = []) (ch : Nat) : s.engineWaits ch = [] := by
  unfold State.engineWaits
  rw [h]
  rfl

theorem State.stopChain_of_noGraphs {s t : State} {o : Owner} {code : Nat}
    (ht : ((s.sliceSet (o.chain + 4) 4 (code + 256 * (o.seq % 2 ^ 24))).dropRunning o).stopReported o code = t)
    (hgraphs : t.graphs = []) :
    s.stopChain o code = t.event 3 (coreOfSlice o.chain) o.part (codeDetail t.tick code) := by
  rw [← ht] at hgraphs ⊢
  exact congrArg (List.foldl _ _) (State.engineWaits_of_noGraphs hgraphs _)

/-- The stop of an entry whose block is gone, where no ENGINE node waits: nothing is reported here. -/
theorem State.stopChain_stopped {s : State} {o : Owner} (htag : o.tag = none)
    (hblock : ∀ b t, o.block = some (b, t) → s.blocks.find b = none) (hgraphs : s.graphs = []) (code : Nat) :
    Stopped s (s.stopChain o code) o code := by
  obtain ⟨hmem, hrunning, hblocks, hctl, hsame⟩ := State.stopReported_keeps
    (s := (s.sliceSet (o.chain + 4) 4 (code + 256 * (o.seq % 2 ^ 24))).dropRunning o) htag hblock code
  rw [State.stopChain_of_noGraphs rfl (hsame.trans hgraphs)]
  exact ⟨hmem, hrunning, hblocks, (congrArg Ctl.pkg hctl :)⟩

theorem Stopped.tock {s t : State} {o : Owner} {code : Nat} (h : Stopped s t o code) : Stopped s t.tock o code :=
  ⟨h.mem, h.running, h.blocks, h.pkg⟩

theorem Stopped.chStatus {s t : State} {o : Owner} {code : Nat} (h : Stopped s t o code) (hch : s.Holds o.chain 64)
    (hcode : code < 256) : t.chStatus o.chain = code + 256 * (o.seq % 2 ^ 24) := by
  refine (State.sliceNat_congr (congrArg Store.slice h.mem) h.pkg (hch.here_add (by omega)) 4).trans ?_
  exact hch.sliceNat_sliceSet (k := 4) (by omega) (by omega)

theorem State.stopEntry_of_single {s : State} {r : Running} (h : r.op < 0x20 ∨ 0x23 < r.op) (code : Nat) :
    s.stopEntry r code = s.stopChain r.owner code := by
  unfold State.stopEntry
  dsimp only
  rw [if_neg (by simp; omega)]

/-- What an entry that starts leaves: it runs, and the head of its chain has passed on. -/
theorem State.starts_spec {s sr : State} {o : Owner} {op : Nat} {e : Entry} (hstore : OnlyStore s sr)
    (hch : s.Holds o.chain 64) (r : Running) :
    let u := ((sr.readLists o op e).takeHead o).tock.joinRunning op r
    u.eng.running = s.eng.running.put s.fresh r ∧ u.chHead o.chain = sr.sliceNat (o.entry + 56) 8 ∧ u.blocks = sr.blocks ∧
      u.cores = (sr.readLists o op e).cores ∧ u.mem.dev = (sr.readLists o op e).mem.dev := by
  intro u
  obtain ⟨hlists, hslice⟩ := sr.readLists_fetched o op e
  have honly := ((sr.readLists o op e).takeHead o).tock.joinRunning_only op r
  change u = _ at honly
  have hmem : u.mem = ((sr.readLists o op e).takeHead o).mem := (congrArg State.mem honly :)
  have hpkg : u.ctl.pkg = (sr.readLists o op e).ctl.pkg := (congrArg (·.ctl.pkg) honly :)
  have hhold : (sr.readLists o op e).Holds o.chain 64 := hch.congr (congrArg Ctl.pkg (hlists.ctl.trans hstore.ctl))
  refine ⟨?_, ?_, (congrArg State.blocks honly :).trans hlists.blocks, (congrArg State.cores honly :),
    (congrArg Store.dev hmem :)⟩
  · have hput : u.eng.running = (sr.readLists o op e).eng.running.put (sr.readLists o op e).fresh r :=
      (congrArg (·.eng.running) honly :)
    rw [hput, hlists.eng, hlists.fresh, hstore.eng, hstore.fresh]
  · calc u.chHead o.chain
      _ = ((sr.readLists o op e).takeHead o).chHead o.chain :=
        State.sliceNat_congr (congrArg Store.slice hmem) hpkg (hhold.here_add (by omega)) 8
      _ = (sr.readLists o op e).sliceNat (o.entry + 56) 8 := State.takeHead_chHead hhold
      _ = sr.sliceNat (o.entry + 56) 8 :=
        congrArg leNat (State.sliceRead_congr hslice (congrArg Ctl.pkg hlists.ctl) hlists.tick ..)

/-- The rows of an entry whose checks hold (04 R123). -/
theorem State.checkEntry_rows {s : State} {o : Owner} {op : Nat} {e : Entry} {r : Running}
    (h : s.checkEntry o op e = some (.ok r)) :
    (op = 0x01 → r.rows = [(some e.src.toNat, e.dst.toNat)] ∧ r.total = e.len.toNat) ∧
    (op = 0x02 → r.total = e.count.toNat * e.len.toNat ∧ r.rows = (List.range e.count.toNat).map fun i =>
      (some (e.src.toNat + i * e.sstride.toNat), e.dst.toNat + i * e.dstride.toNat)) ∧
    (op = 0x03 → r.total = e.count.toNat * e.len.toNat ∧ r.rows = (List.range e.count.toNat).map fun i =>
      (none, e.dst.toNat + i * e.dstride.toNat)) ∧
    (∀ idx, s.engWords (coreOfSlice o.chain) o.part (s.entCap o (e.cap 2)).1 e.aux.toNat e.count.toNat = some idx →
      (op = 0x10 → r.rows = (List.range e.count.toNat).map fun i =>
        (some (e.src.toNat + idx.1.getD i 0 * e.sstride.toNat), e.dst.toNat + i * e.dstride.toNat)) ∧
      (op = 0x12 → r.rows = (List.range e.count.toNat).map fun i =>
        (some (e.src.toNat + i * e.sstride.toNat), e.dst.toNat + idx.1.getD i 0 * e.dstride.toNat))) := by
  obtain ⟨-, ok, q, hok, hq, hrows⟩ := State.checkEntry_ok h
  refine ⟨?_, ?_, ?_, fun idx hidx => ⟨?_, ?_⟩⟩
  · rintro rfl
    obtain ⟨hr, ht⟩ := hrows rfl
    cases hq
    exact ⟨hr, ht.trans (by simp [Entry.widths])⟩
  · rintro rfl
    obtain ⟨hr, ht⟩ := hrows rfl
    cases hq
    exact ⟨ht.trans (by simp [Entry.widths]), hr⟩
  · rintro rfl
    obtain ⟨hr, ht⟩ := hrows rfl
    cases hq
    exact ⟨ht.trans (by simp [Entry.widths]), hr⟩
  · rintro rfl
    obtain ⟨hr, -⟩ := hrows rfl
    rw [hok (by omega) (by omega)] at hq
    simp only [State.entRows, hidx, Bool.not_true, Bool.false_eq_true, if_false, Option.bind_some] at hq
    cases hq
    exact hr
  · rintro rfl
    obtain ⟨hr, -⟩ := hrows rfl
    rw [hok (by omega) (by omega)] at hq
    simp only [State.entRows, hidx, Bool.not_true, Bool.false_eq_true, if_false, Option.bind_some] at hq
    cases hq
    exact hr

/-- Settles O40: by whether the checks of the head entry hold. -/
theorem entriesStartOrStopTheirChain : Obligations.EntriesStartOrStopTheirChain := by
  unfold Obligations.EntriesStartOrStopTheirChain
  intro instrOf s ch op e o hhead hmay hfit
  obtain ⟨hhere, rfl⟩ := State.headEntry_spec hhead
  have hch : s.Holds o.chain 64 := ⟨hhere, hfit⟩
  have hexec (k : Nat) (hk : k ∈ [0x00, 0x01, 0x02, 0x03, 0x10, 0x11, 0x12, 0x20, 0x21, 0x22, 0x23, 0x30]) :
      exec (instrOf o.chain k e) s = .next (s.startEntry o.chain k e) := by
    simp only [List.mem_cons, List.not_mem_nil, or_false] at hk
    rcases hk with rfl | rfl | rfl | rfl | rfl | rfl | rfl | rfl | rfl | rfl | rfl | rfl <;> rfl
  refine ⟨fun r bs fixed sr hop hcheck hmine => ?_, fun k hcheck hop hk htag hblock hgraphs => ?_⟩
  · obtain ⟨⟨hchain, hseq, hrop, he, howner, hdone⟩, -⟩ := State.checkEntry_ok hcheck
    have hstore := State.readMine_store hmine
    have hsingle (h : op < 0x20 ∨ op = 0x30) : sr = s := by
      rw [State.readMine_of_single (by omega)] at hmine
      cases hmine
      rfl
    have hlists (h : op < 0x10 ∨ 0x12 < op ∨ (s.entCap o (e.cap 2)).1.kind ≠ 1 ∧ s.mem.flips = []) :
        sr.readLists o op e = sr := by
      by_cases hno : op < 0x10 ∨ 0x12 < op
      · exact State.readLists_of_noLists hno o e
      · obtain ⟨hkind, hflips⟩ := (or_assoc.2 h).resolve_left hno
        rw [hsingle (by omega)]
        exact State.readLists_of_clean hkind hflips op
    obtain ⟨hrun, hhead', hblocks, hcores, hdev⟩ := State.starts_spec (op := op) (e := e) hstore hch
      { r with mine := bs, flags := flagIf fixed fCOR, passed := decide (op = 0x30) }
    obtain ⟨hcopy, hcopy2d, hfill, hidx⟩ := State.checkEntry_rows hcheck
    refine ⟨_, (hexec op hop).trans (congrArg _ (State.startEntry_runs hhead hmay hcheck hmine)), ?_, fun id hid => ?_,
      hchain, hseq, hrop, he, hdone, hhead', hblocks, fun h => ?_, hsingle, hcopy, hcopy2d, hfill, hidx, ?_⟩
    · rw [hrun, Tab.find_put_same]
    · rw [hrun, Tab.find_put_other _ _ hid]
    · rw [hcores, hdev, hlists h]
      exact ⟨rfl, rfl⟩
    · rintro rfl p P hp hP
      have hctl : ((sr.readLists o 0x30 e).takeHead o).tock.ctl = s.ctl :=
        (sr.readLists_fetched o 0x30 e).only.ctl.trans hstore.ctl
      exact State.joinRunning_queue howner hchain hseq ((State.parserPart_congr hctl _).trans hp) (by rw [hctl, hP])
  · have hlisted : (if (opClass op).isSome then op else 0) ∈
        [0x00, 0x01, 0x02, 0x03, 0x10, 0x11, 0x12, 0x20, 0x21, 0x22, 0x23, 0x30] := by
      unfold opClass
      split <;> simp
    have hstopped := (State.stopChain_stopped (s := s.takeHead o) htag hblock hgraphs k).tock
    refine ⟨_, (hexec _ hlisted).trans (congrArg _ (State.startEntry_stops hhead hmay hcheck)), ?_⟩
    rw [State.stopEntry_of_single (r := s.unstarted o op e) hop]
    exact ⟨hstopped.chStatus (hch.congr rfl) hk, hstopped.running, hstopped.blocks⟩

end Sys2Proof.Machine

/-! PROOFS. The statement of 04 about landings of COPY, COPY2D and FILL from slice to slice (O41). -/

namespace Sys2Proof.Machine

/-! ## The next landing of an entry (04 R123) -/

/-- A running entry of COPY, COPY2D or FILL from slice to slice, with rows of `w` bytes, of which a landing may be made. -/
structure Lands (s : State) (ch seq id w : Nat) (r : Running) : Prop where
  found : (s.eng.running.find? fun x => x.2.chain = ch && x.2.seq = seq) = some (id, r)
  run : s.eng.running.find id = some r
  left : r.done < r.total
  idle : r.flight = 0
  paid : r.owed = []
  notHeld : s.heldCopy r.owner = false
  total : r.total = r.rows.length * w
  op : r.op ∈ [0x01, 0x02, 0x03]
  noTiles : s.mem.tiles = []
  noK : r.e.k = false
  src : r.src.kind = 2
  dst : r.dst.kind = 2
  noFlips : s.mem.flips = []
  source : r.op ≠ 0x03 → (r.rows.getD (r.done / w) (none, 0)).1 ≠ none

/-- The row that the next landing of an entry lies in. -/
def Running.row (r : Running) (w : Nat) : Option Nat × Nat := r.rows.getD (r.done / w) (none, 0)

/-- The number of bytes of the next landing: a free value of those that its row has left, up to 4 KiB. -/
def State.pieceLen (s : State) (r : Running) (w : Nat) : Nat := 1 + Config.landing s.tick % min (w - r.done % w) 4096

/-- The place the next landing goes to. -/
def State.pieceDest (s : State) (r : Running) (w : Nat) : Nat := s.sliceCopy (r.dst.at + ((r.row w).2 + r.done % w)) r.e.s

/-- The place it comes from. -/
def State.pieceSource (s : State) (r : Running) (w : Nat) : Nat := s.capSlice r.src ((r.row w).1.getD 0 + r.done % w)

/-- The bytes it brings: of the pattern of FILL, or of the source. -/
def State.pieceBytes (s : State) (r : Running) (w : Nat) : List Byte :=
  if r.op = 0x03 then
    (List.range (s.pieceLen r w)).map fun i => BitVec.ofNat 8 (r.e.param.toNat / 2 ^ (8 * ((r.done % w + i) % 4)))
  else s.sliceRead (s.pieceSource r w) (s.pieceLen r w)

theorem State.verifyTiles_of_noTiles {s : State} (h : s.mem.tiles = []) (core a n : Nat) :
    s.verifyTiles core a n = some (false, s) := by
  have htiles : s.tilesOf a n = [] := by simp [State.tilesOf, State.tileRegion?, h]
  unfold State.verifyTiles
  rw [htiles]
  rfl

/-- A store of an entry that reduces nothing is accepted at its home, or sent there. -/
theorem State.accept_store (s : State) {r : Running} (h : r.op ≠ 0x12) (a : Nat) (bs : List Byte) :
    s.accept r (.slice, a) bs = some (.ok (0, s.sliceStore ((r.owner.block.map Prod.fst).getD 0) a bs)) := by
  unfold State.accept State.sliceStore
  simp only [h, decide_false, Bool.false_and, Bool.false_eq_true, if_false]
  split <;> simp_all

section Piece
variable {s : State} {ch seq id w : Nat} {r : Running}

theorem Lands.width (h : Lands s ch seq id w r) : r.width = w ∧ 0 < w := by
  have hleft := h.left
  rw [h.total] at hleft
  have hpos : 0 < r.rows.length * w := by omega
  have hrows := Nat.pos_of_mul_pos_right hpos
  refine ⟨?_, Nat.pos_of_mul_pos_left hpos⟩
  unfold Running.width
  rw [if_neg (by omega), h.total, Nat.mul_div_cancel_left _ (by omega)]

theorem Lands.pieceLen (h : Lands s ch seq id w r) :
    0 < s.pieceLen r w ∧ s.pieceLen r w ≤ 4096 ∧ r.done % w + s.pieceLen r w ≤ w := by
  have hoff := Nat.mod_lt r.done h.width.2
  have hmod := Nat.mod_lt (Config.landing s.tick) (y := min (w - r.done % w) 4096) (by omega)
  unfold State.pieceLen
  omega

theorem Lands.op_ne (h : Lands s ch seq id w r) : r.op ≠ 0x12 ∧ ¬ (0x20 ≤ r.op ∧ r.op ≤ 0x23) := by
  have hop := h.op
  simp only [List.mem_cons, List.not_mem_nil, or_false] at hop
  omega

theorem Lands.nextPiece (h : Lands s ch seq id w r) : s.nextPiece r = (r.done / w, r.done % w, s.pieceLen r w) := by
  unfold State.nextPiece State.pieceLen
  rw [h.width.1]
  dsimp only
  rw [if_neg h.op_ne.1]

theorem Lands.dstPlace (h : Lands s ch seq id w r) (off : Nat) :
    s.dstPlace r off = (.slice, s.sliceCopy (r.dst.at + off) r.e.s) := by
  unfold State.dstPlace
  rw [if_neg (by rw [h.dst]; omega)]

theorem Lands.lostKey (h : Lands s ch seq id w r) : s.lostKey r = false := by
  simp [State.lostKey, h.dst, h.src]

/-- A landing reads its source as it is. -/
theorem Lands.pieceData (h : Lands s ch seq id w r)
    (hp : r.op ≠ 0x03 → s.slicePoisoned (s.pieceSource r w) (s.pieceLen r w) = false) :
    s.pieceData r (r.done / w) (r.done % w) (s.pieceLen r w) = some (.ok (s.pieceBytes r w, false, s)) := by
  have hcoll := h.op_ne.2
  unfold State.pieceData State.pieceBytes
  dsimp only
  split
  case h_1 hop => rw [if_pos hop]
  case h_2 | h_3 | h_4 | h_5 => omega
  case h_6 hnone hop _ _ _ _ => exact absurd hnone (h.source hop)
  case h_7 a hsome hop _ _ _ _ =>
    have hplace : s.placeOf r.owner.part r.src (a + r.done % w) = (.slice, s.pieceSource r w) := by
      rw [s.placeOf_of_slice _ h.src, State.pieceSource, Running.row, hsome]
      rfl
    have hverify (p : Bool) (core a n : Nat) : (if p then s.verifyTiles core a n else some (false, s)) = some (false, s) := by
      rw [State.verifyTiles_of_noTiles h.noTiles, ite_self]
    rw [hplace, State.engPoisoned]
    dsimp only
    rw [hp hop, hverify, if_neg Bool.false_ne_true, if_neg hop]
    dsimp only
    rw [State.engRead_slice h.noFlips]
    rfl

/-- The operations that `t` has sent and `s` had not carry a landing, which waits for their acknowledgement. -/
def State.landSent (s t : State) (ch seq id : Nat) (r : Running) (n : Nat) : State := { t with eng := { t.eng with
  sent := t.eng.sent.take s.eng.sent.length ++ (t.eng.sent.drop s.eng.sent.length).map (Sent.forLanding ch seq (s.tilesFilled r n))
  running := t.eng.running.mod id fun r => { r with flight := n, flags := r.flags ||| 0 } } }

/-- What a landing of an entry does with the bytes that it brings. -/
def State.landPiece (s : State) (ch seq id w : Nat) (r : Running) : State :=
  let t := s.sliceStore ((r.owner.block.map Prod.fst).getD 0) (s.pieceDest r w) (s.pieceBytes r w)
  if t.eng.sent.length = s.eng.sent.length then t.landed id (s.pieceLen r w) 0
  else s.landSent t ch seq id r (s.pieceLen r w)

theorem Lands.exec_eq (h : Lands s ch seq id w r)
    (hp : r.op ≠ 0x03 → s.slicePoisoned (s.pieceSource r w) (s.pieceLen r w) = false) :
    exec (.engineLanding ch seq) s = .next (if s.guarded (s.pieceDest r w) (s.pieceLen r w)
      then s.stopEntry r 0x05 else s.landPiece ch seq id w r).tock := by
  have hstart : (decide (r.done ≥ r.total) || decide (r.flight ≠ 0) || s.heldCopy r.owner) = false := by
    simp [h.left, h.idle, h.notHeld]
  have hcoll : (decide (0x20 ≤ r.op) && decide (r.op ≤ 0x23)) = false := by
    simpa using h.op_ne.2
  have hdest : s.dstPlace r ((r.rows.getD (r.done / w) (none, 0)).2 + r.done % w) = (.slice, s.pieceDest r w) := h.dstPlace _
  show execEngineLanding ch seq s = _
  unfold execEngineLanding
  simp only [h.found, hstart, h.lostKey, hcoll, Bool.false_and, Bool.false_eq_true, if_false, h.run, h.nextPiece,
    h.pieceData hp, hdest, s.accept_store h.op_ne.1, decide_true, Bool.true_and]
  split
  · rfl
  · unfold State.landPiece
    dsimp only
    split <;> rfl

/-! ## What follows a landing (04 R124) -/

/-- A state with a running entry as a landing leaves it, in which its bytes have still to be counted on its guard. -/
structure Counts (t v : State) (id : Nat) (r : Running) : Prop where
  mem : v.mem = t.mem
  blocks : v.blocks = t.blocks
  ctl : v.ctl = t.ctl
  run : v.eng.running.find id = some r

/-- A change of a running entry. -/
def State.modRunning (s : State) (id : Nat) (f : Running → Running) : State :=
  { s with eng := { s.eng with running := s.eng.running.mod id f } }

theorem Counts.of_modRunning {t u : State} {id : Nat} {r : Running} (hrun : t.eng.running.find id = some r)
    (f : Running → Running) (hmem : u.mem = t.mem) (hblocks : u.blocks = t.blocks) (hctl : u.ctl = t.ctl)
    (heng : u.eng = (t.modRunning id f).eng) : Counts t u id (f r) := by
  refine ⟨hmem, hblocks, hctl, ?_⟩
  rw [heng]
  show Tab.find (t.eng.running.mod id f) id = _
  rw [Tab.find_mod_same, hrun, Option.map_some]

/-- A landing owed to the guard that waits for no tile is counted there, with G. -/
theorem State.payGuard_single {t : State} {r : Running} {n : Nat} (hrun : t.eng.running.find id = some r)
    (howed : r.owed = [(n, [])]) : ∃ v, Counts t v id { r with owed := [] } ∧
      t.payGuard id [] = match r.guard with
        | some g => if r.e.g then v.landAt ((r.owner.block.map Prod.fst).getD 0) g n r.flags else v
        | none => v := by
  have hcounts := Counts.of_modRunning hrun (u := t.modRunning id fun x => { x with
    owed := x.owed.filter fun o => !!o.2.any ([] : List Nat).contains }) _ rfl rfl rfl rfl
  rw [howed] at hcounts
  refine ⟨_, hcounts, ?_⟩
  unfold State.payGuard
  simp only [hrun, howed]
  rfl

/-- A landing that fills no tile is counted on the guard at once, with G. -/
theorem State.landed_of_noK {t : State} {r : Running} (hrun : t.eng.running.find id = some r) (hk : r.e.k = false)
    (hpaid : r.owed = []) (hidle : r.flight = 0) (n : Nat) : ∃ v, Counts t v id { r with done := r.done + n } ∧
      t.landed id n 0 = match r.guard with
        | some g => if r.e.g then v.landAt ((r.owner.block.map Prod.fst).getD 0) g n r.flags else v
        | none => v := by
  have htiles (u : State) : (if u.here (u.dstPlace r 0).2 then u.tilesFilled r n else []) = [] := by
    simp [State.tilesFilled, hk]
  have hu : ∃ u, Counts t u id { r with done := r.done + n, owed := [(n, [])] } ∧ t.landed id n 0 = u.payGuard id [] := by
    have hr : { r with done := r.done + n, owed := [(n, [])] } =
        { r with done := r.done + n, flight := 0, flags := r.flags ||| 0, owed := r.owed ++ [(n, [])] } := by
      rw [hpaid, show r.flags ||| (0 : Flags) = r.flags from BitVec.or_zero, ← hidle]
      rfl
    unfold State.landed
    simp only [hrun, htiles, hk, List.foldl_nil, Bool.false_eq_true, if_false]
    refine ⟨_, ?_, rfl⟩
    rw [hr]
    split <;> exact Counts.of_modRunning hrun (fun r => { r with
      done := r.done + n, flight := 0, flags := r.flags ||| 0, owed := r.owed ++ [(n, [])] }) rfl rfl rfl rfl
  obtain ⟨u, ⟨humem, hublocks, huctl, hurun⟩, hlanded⟩ := hu
  obtain ⟨v, ⟨hvmem, hvblocks, hvctl, hvrun⟩, hpay⟩ := State.payGuard_single hurun rfl
  refine ⟨v, ⟨hvmem.trans humem, hvblocks.trans hublocks, hvctl.trans huctl, hvrun.trans ?_⟩, hlanded.trans hpay⟩
  rw [← hpaid]

theorem State.landAt_keeps (s : State) (b g n : Nat) (f : BitVec 16) : (s.landAt b g n f).mem.dev = s.mem.dev ∧
    (s.landAt b g n f).blocks = s.blocks ∧ (s.landAt b g n f).eng.running = s.eng.running := by
  unfold State.landAt
  split
  case isTrue =>
    have honly (t : State) (ht : OnlySliceData s t) (G : GState) := ht.trans (OnlySliceData.setGuard t g G)
    have hflags : OnlySliceData s (if f &&& 0x03FF#16 = 0 then s else s.guardFlags g f) := by
      split
      · exact .rfl
      · exact .sliceSet ..
    have h := honly _ hflags (((if f &&& 0x03FF#16 = 0 then s else s.guardFlags g f).guard g).land n)
    exact ⟨h.dev, h.blocks, congrArg Eng.running h.eng⟩
  case isFalse => exact ⟨rfl, rfl, rfl⟩

end Piece

/-! ## The statement -/

section Landing
variable {s : State} {ch seq id w : Nat} {r : Running}

theorem State.send_sent (s : State) (dst b : Nat) (op : FabOp) :
    ∃ x, (s.send dst b op).eng.sent = s.eng.sent ++ [x] ∧ x.dst = dst ∧ x.op = op := ⟨_, rfl, rfl, rfl⟩

theorem State.pieceBytes_length (s : State) (r : Running) (w : Nat) : (s.pieceBytes r w).length = s.pieceLen r w := by
  unfold State.pieceBytes
  split <;> simp

/-- The one operation sent carries the landing. -/
theorem State.landSent_one {t : State} {x : Sent} (hsent : t.eng.sent = s.eng.sent ++ [x]) (hk : r.e.k = false)
    (hrun : t.eng.running.find id = some r) (n : Nat) :
    (s.landSent t ch seq id r n).eng.running.find id = some { r with flight := n } ∧
    (s.landSent t ch seq id r n).eng.sent = s.eng.sent ++ [x.forLanding ch seq []] := by
  have hnone : s.tilesFilled r n = [] := by simp [State.tilesFilled, hk]
  unfold State.landSent
  constructor
  · have hmod := (Counts.of_modRunning hrun (u := t.modRunning id _) (fun x => { x with flight := n, flags := x.flags ||| 0 })
      rfl rfl rfl rfl).run
    rwa [show r.flags ||| (0 : Flags) = r.flags from BitVec.or_zero] at hmod
  · dsimp only
    rw [hsent, hnone, List.take_left, List.drop_left]
    rfl

/-- A landing for a slice of another package is sent there, and waits for its acknowledgement. -/
theorem Lands.landPiece_far (h : Lands s ch seq id w r) (hfar : s.here (s.pieceDest r w) = false) :
    ∃ x, (s.landPiece ch seq id w r).mem = s.mem ∧
      (s.landPiece ch seq id w r).eng.running.find id = some { r with flight := s.pieceLen r w } ∧
      (s.landPiece ch seq id w r).eng.sent = s.eng.sent ++ [x] ∧ x.dst = pkgOfSlice (s.pieceDest r w) ∧
      x.op = .store (s.pieceDest r w) (s.pieceBytes r w) ∧ x.land = some (ch, seq) := by
  have hstore : s.sliceStore ((r.owner.block.map Prod.fst).getD 0) (s.pieceDest r w) (s.pieceBytes r w) = s.send _ _ _ :=
    if_neg (by simp [hfar])
  unfold State.landPiece
  rw [hstore]
  obtain ⟨x, hsent, hdst, hop⟩ := s.send_sent (pkgOfSlice (s.pieceDest r w)) ((r.owner.block.map Prod.fst).getD 0)
    (.store (s.pieceDest r w) (s.pieceBytes r w))
  dsimp only
  rw [if_neg (by simp [hsent])]
  obtain ⟨hrunning, hsent'⟩ := State.landSent_one (ch := ch) (seq := seq) hsent h.noK h.run (s.pieceLen r w)
  exact ⟨x.forLanding ch seq [], rfl, hrunning, hsent', hdst, hop, rfl⟩

/-- A landing in this package is written at its place, and counted. -/
theorem Lands.landPiece_here (hhere : s.here (s.pieceDest r w) = true) : s.landPiece ch seq id w r =
    (s.sliceWrite (s.pieceDest r w) (s.pieceBytes r w)).landed id (s.pieceLen r w) 0 := by
  unfold State.landPiece State.sliceStore
  rw [if_pos hhere]
  exact if_pos rfl

/-- A landing in this package outside granules of guards: its bytes stand in their place, and are counted on the guard. -/
theorem Lands.counted (h : Lands s ch seq id w r) (hhere : s.here (s.pieceDest r w) = true) :
    ∃ v, Counts (s.sliceWrite (s.pieceDest r w) (s.pieceBytes r w)) v id { r with done := r.done + s.pieceLen r w } ∧
      ((r.e.g = false ∨ r.guard = none) ∧ s.landPiece ch seq id w r = v ∨ ∃ g, r.e.g = true ∧ r.guard = some g ∧
        s.landPiece ch seq id w r = v.landAt ((r.owner.block.map Prod.fst).getD 0) g (s.pieceLen r w) r.flags) := by
  have hrun : (s.sliceWrite (s.pieceDest r w) (s.pieceBytes r w)).eng.running.find id = some r := h.run
  obtain ⟨v, hcounts, hlanded⟩ := State.landed_of_noK hrun h.noK h.paid h.idle (s.pieceLen r w)
  refine ⟨v, hcounts, ?_⟩
  rw [Lands.landPiece_here hhere, hlanded]
  cases hguard : r.guard with
  | none => exact .inl ⟨.inr rfl, rfl⟩
  | some g =>
    cases hcount : r.e.g with
    | false => exact .inl ⟨.inl rfl, rfl⟩
    | true => exact .inr ⟨g, rfl, rfl, rfl⟩

/-- Where the bytes of a landing are written, whatever else is counted. -/
theorem Counts.piece {v : State} {q : Running} (h : Counts (s.sliceWrite (s.pieceDest r w) (s.pieceBytes r w)) v id q) :
    Mem.read v.mem.slice (sliceKey (s.pieceDest r w)) (s.pieceLen r w) = s.pieceBytes r w ∧
      SliceBut s v fun a => sliceKey (s.pieceDest r w) ≤ a ∧ a < sliceKey (s.pieceDest r w) + s.pieceLen r w := by
  have hread := s.memRead_sliceWrite (s.pieceDest r w) (s.pieceBytes r w)
  have hbut := SliceBut.sliceWrite s (s.pieceDest r w) (s.pieceBytes r w)
  rw [State.pieceBytes_length] at hread hbut
  rw [h.mem]
  exact ⟨hread, hbut.of_slice (congrArg (·.slice) h.mem)⟩

theorem State.Holds.guard_tock {g : Nat} (h : s.Holds g 32) : s.tock.guard g = s.guard g :=
  (show SliceBut s s.tock fun _ => False from fun _ _ => rfl).guard rfl h (fun _ _ _ => id) fun _ _ _ => id

/-- A landing whose bytes are counted on a guard apart from them. -/
theorem Counts.landAt {v : State} {q : Running} {g : Nat} (hhere : s.here g = true) (halign : g % 32 = 0)
    (h : Counts (s.sliceWrite (s.pieceDest r w) (s.pieceBytes r w)) v id q)
    (hapart : sliceKey (s.pieceDest r w) + s.pieceLen r w ≤ sliceKey g ∨ sliceKey g + 32 ≤ sliceKey (s.pieceDest r w))
    (b : Nat) (f : BitVec 16) : let u := (v.landAt b g (s.pieceLen r w) f).tock
    u.guard g = (s.guard g).land (s.pieceLen r w) ∧
      Mem.read u.mem.slice (sliceKey (s.pieceDest r w)) (s.pieceLen r w) = s.pieceBytes r w ∧
      SliceBut s u fun a => (sliceKey (s.pieceDest r w) ≤ a ∧ a < sliceKey (s.pieceDest r w) + s.pieceLen r w) ∨
        (sliceKey g ≤ a ∧ a < sliceKey g + 32) := by
  have hpkg : v.ctl.pkg = s.ctl.pkg := congrArg Ctl.pkg h.ctl
  obtain ⟨hread, hbut⟩ := h.piece
  have hguard : v.guard g = s.guard g :=
    hbut.guard hpkg (.of_aligned hhere halign) (fun x _ _ => by omega) fun x _ _ => by omega
  have hmoves := GuardMoves.landAt (s := v) ((State.Holds.of_aligned hhere halign).congr hpkg) b (s.pieceLen r w) f
  have hhome : (v.landAt b g (s.pieceLen r w) f).Holds g 32 := (State.Holds.of_aligned hhere halign).congr (hmoves.only.pkg.trans hpkg)
  refine ⟨hhome.guard_tock.trans (hmoves.guard.trans (by rw [hguard])), ?_, ?_⟩
  · rw [State.tock_mem, hmoves.but.memRead fun x _ _ => by omega, hread]
  · exact (hbut.mono fun x hx => .inl hx).trans (hmoves.but.mono fun x hx => by omega)

end Landing

/-- Settles O41, by where the landing goes: to another package, to its place here, or into a granule of a guard. -/
theorem landingsMoveBytesAndCount : Obligations.LandingsMoveBytesAndCount := by
  unfold Obligations.LandingsMoveBytesAndCount
  intro s ch seq id w r hfound hrun hleft hidle hpaid hheld htotal hop htiles hk hsrc hdst hflips hsource row off dest
  have h : Lands s ch seq id w r :=
    ⟨hfound, hrun, hleft, hidle, hpaid, hheld, htotal, hop, htiles, hk, hsrc, hdst, hflips, hsource⟩
  obtain ⟨hpos, hmax, hfit⟩ := h.pieceLen
  refine ⟨s.pieceLen r w, hpos, hmax, hfit, ?_⟩
  intro bs hclean
  have hexec := h.exec_eq hclean
  refine ⟨fun hfar => ?_, fun hhere hfree => ?_, fun _ hguarded => hexec.trans (if_pos hguarded ▸ rfl)⟩
  · have hfree : s.guarded (s.pieceDest r w) (s.pieceLen r w) = false := by
      simp [State.guarded, show s.here (s.pieceDest r w) = false from hfar]
    rw [hfree] at hexec
    obtain ⟨x, hpiece⟩ := h.landPiece_far hfar
    exact ⟨_, x, hexec, hpiece⟩
  · rw [show s.guarded (s.pieceDest r w) (s.pieceLen r w) = false from hfree] at hexec
    obtain ⟨v, hcounts, hpiece⟩ := h.counted hhere
    rw [if_neg Bool.false_ne_true] at hexec
    refine ⟨_, hexec, ?_⟩
    rcases hpiece with ⟨hquiet, hpiece⟩ | ⟨g, hcount, hguard, hpiece⟩ <;> rw [hpiece]
    · refine ⟨hcounts.run, congrArg (·.dev) hcounts.mem, hcounts.blocks, fun _ => hcounts.piece, fun g hg hsome => ?_⟩
      simp [hg, hsome] at hquiet
    · obtain ⟨hdev, hblocks, hrunning⟩ := v.landAt_keeps ((r.owner.block.map Prod.fst).getD 0) g (s.pieceLen r w) r.flags
      refine ⟨?_, ?_, hblocks.trans hcounts.blocks, ?_, fun g' _ hsome hhome halign _ hapart => ?_⟩
      · exact (congrArg (Tab.find · id) hrunning).trans hcounts.run
      · exact hdev.trans (congrArg (·.dev) hcounts.mem)
      · simp [hcount, hguard]
      · obtain rfl : g = g' := Option.some.inj (hguard.symm.trans hsome)
        exact hcounts.landAt hhome halign hapart _ _

end Sys2Proof.Machine

/-! PROOFS. The statement of 04 about completion, abort tokens and the results of collectives (O42). -/

namespace Sys2Proof.Machine

/-! ## Completion of an entry (04 R123) -/

/-- What an entry counts on its guard as it completes: no bytes for a SUBMIT with G, and one arrival with A. -/
def State.lastCounts (s : State) (r : Running) : State :=
  match r.guard with
  | some g =>
    let b := (r.owner.block.map Prod.fst).getD 0
    let s' := if r.e.g && r.op = 0x30 then s.landAt b g 0 r.flags else s
    if r.e.a then s'.arriveAt b g 1 r.flags else s'
  | none => s

/-- The counts of a guard after them. -/
def GState.lastCounts (G : GState) (r : Running) : GState :=
  let H := if r.e.g = true ∧ r.op = 0x30 then G.land 0 else G
  if r.e.a = true then H.arrive 1 else H

theorem GuardMoves.lastCounts {s : State} {r : Running} {g : Nat} (hguard : r.guard = some g) (hg : s.Holds g 32) :
    GuardMoves s (s.lastCounts r) g ((s.guard g).lastCounts r) := by
  have land : GuardMoves s (if r.e.g && r.op = 0x30 then s.landAt ((r.owner.block.map Prod.fst).getD 0) g 0 r.flags else s) g
      (if r.e.g = true ∧ r.op = 0x30 then (s.guard g).land 0 else s.guard g) := by
    simp only [Bool.and_eq_true, decide_eq_true_eq]
    split
    · exact .landAt hg ..
    · exact .rfl
  unfold State.lastCounts GState.lastCounts
  rw [hguard]
  dsimp only
  split
  · have arrive := GuardMoves.arriveAt (hg.congr land.only.pkg) ((r.owner.block.map Prod.fst).getD 0) 1 r.flags
    rw [land.guard] at arrive
    exact land.trans arrive
  · exact land

/-- An entry without a guard, or that neither arrives nor ends a submission, counts nothing. -/
theorem State.lastCounts_of_quiet {s : State} {r : Running}
    (h : r.guard = none ∨ r.e.a = false ∧ (r.e.g = false ∨ r.op ≠ 0x30)) : s.lastCounts r = s := by
  unfold State.lastCounts
  split
  case h_1 g hg =>
    obtain ⟨ha, hland⟩ := h.resolve_left (by simp [hg])
    have hland : (r.e.g && decide (r.op = 0x30)) = false := by rcases hland with h | h <;> simp [h]
    simp only [ha, hland, Bool.false_eq_true, if_false]
  case h_2 => rfl

/-- The ended entry that is the next of its chain is recorded. -/
theorem State.recordSeq_next {s : State} {ch id : Nat} {r : Running} (hrun : s.eng.running = [(id, r)]) (hch : r.chain = ch)
    (hended : r.ended = true) (hseq : s.chSeq ch + 1 = r.seq) :
    (s.recordSeq 1 ch).mem = (s.sliceSet (ch + 24) 8 r.seq).mem ∧ (s.recordSeq 1 ch).eng.running = [] ∧
      (s.recordSeq 1 ch).ctl = s.ctl ∧ (s.recordSeq 1 ch).graphs = s.graphs := by
  have hnext : s.recordSeq 1 ch = _ := if_pos (by simp [hrun, hch, hseq, hended])
  rw [hnext, ← hseq]
  exact ⟨rfl, by simp [State.recordSeq, hrun, hch, hseq], rfl, rfl⟩

/-- The completion of the one entry that runs, the next of its chain, where no ENGINE node waits. -/
theorem State.completeEntry_next {s : State} {ch id : Nat} {r : Running} (hrun : s.eng.running = [(id, r)]) (hch : r.chain = ch)
    (hseq : s.chSeq ch + 1 = r.seq) (hgraphs : s.graphs = []) :
    (s.completeEntry ch id).mem = (s.sliceSet (ch + 24) 8 r.seq).mem ∧ (s.completeEntry ch id).eng.running = [] ∧
      (s.completeEntry ch id).ctl = s.ctl := by
  have hmod : (s.modRunning id fun r => { r with ended := true }).eng.running = [(id, { r with ended := true })] := by
    simp [State.modRunning, Tab.mod, hrun]
  obtain ⟨hmem, hrunning, hctl, hgraphs'⟩ := State.recordSeq_next hmod hch rfl hseq
  have hwaits := State.engineWaits_of_noGraphs (hgraphs'.trans hgraphs) ch
  have hlen : (s.modRunning id fun r => { r with ended := true }).eng.running.length = 1 := by rw [hmod, List.length_singleton]
  rw [← hlen] at hmem hrunning hctl hwaits
  have hcomplete : s.completeEntry ch id = _ := congrArg (List.foldl _ _) hwaits
  rw [hcomplete]
  exact ⟨hmem, hrunning, hctl⟩

theorem exec_entryCompletion {s : State} {ch seq id : Nat} {r : Running} (hrun : s.eng.running = [(id, r)])
    (hch : r.chain = ch) (hseq : r.seq = seq) (hended : r.ended = false) (hpassed : r.passed = false ∨ r.result ≠ none) :
    exec (.entryCompletion ch seq) s = .next (if r.done < r.total then s else (s.lastCounts r).completeEntry ch id) := by
  have hwait : (r.passed && r.result.isNone) = false := by
    cases hr : r.result <;> simp_all
  show execEntryCompletion ch seq s = _
  unfold execEntryCompletion
  simp only [hrun, List.find?_cons, hch, hseq, decide_true, Bool.and_self, hended, Bool.false_or, hwait, Bool.or_false,
    decide_eq_true_eq]
  split <;> rfl

/-- What the completion of an entry leaves where its last counts change no byte of its chain's sequence word. -/
theorem State.completes {s t : State} {ch id : Nat} {r : Running} (hrun : s.eng.running = [(id, r)]) (hch : r.chain = ch)
    (hseq : s.chSeq ch + 1 = r.seq) (hlt : r.seq < 2 ^ 64) (hgraphs : s.graphs = []) (hhold : s.Holds ch 64)
    (honly : OnlySliceData s t) {p : Nat → Prop} (hbut : SliceBut s t p)
    (hp : ∀ x, sliceKey (ch + 24) ≤ x → x < sliceKey (ch + 24) + 8 → ¬ p x) :
    let u := t.completeEntry ch id
    u.chSeq ch = r.seq ∧ u.eng.running = [] ∧ u.ctl.pkg = t.ctl.pkg ∧
      SliceBut t u fun a => sliceKey (ch + 24) ≤ a ∧ a < sliceKey (ch + 24) + 8 := by
  have hsame : t.chSeq ch = s.chSeq ch := hbut.sliceNat honly.pkg (hhold.here_add (by omega)) hp
  obtain ⟨hmem, hrunning, hctl⟩ := State.completeEntry_next (s := t) ((congrArg Eng.running honly.eng).trans hrun) hch
    (by rw [hsame, hseq]) (honly.graphs.trans hgraphs)
  have hslice := congrArg Store.slice hmem
  have hpkg := congrArg Ctl.pkg hctl
  have hhold' := hhold.congr honly.pkg
  refine ⟨?_, hrunning, hpkg, (SliceBut.sliceSet t (ch + 24) 8 r.seq).of_slice hslice⟩
  exact (State.sliceNat_congr hslice hpkg (hhold'.here_add (by omega)) 8).trans
    (hhold'.sliceNat_sliceSet (k := 24) (by omega) (by omega))

/-! ## Abort tokens (08 R223) -/

theorem State.holdsAttempt_iff {s : State} {die group attempt : Nat} {r : Running} :
    s.holdsAttempt die group attempt r = true ↔ ∃ g, 0x20 ≤ r.op ∧ r.op ≤ 0x23 ∧ r.e.gid = group ∧ r.e.attempt = attempt ∧
      dieOf (coreOfSlice r.chain) = die ∧ r.guard = some g ∧ s.sliceNat (g + 18) 2 = attempt := by
  unfold State.holdsAttempt
  cases r.guard <;> simp [and_assoc]

/-- The guard of a collective that fails passes to the next attempt; no other byte of a slice is another. -/
theorem State.failGroup_holds {s : State} {r : Running} {g : Nat} (hguard : r.guard = some g)
    (hattempt : s.sliceNat (g + 18) 2 = r.e.attempt) :
    (s.failGroup r).mem = (s.sliceSet (g + 18) 2 ((r.e.attempt + 1) % 2 ^ 16)).mem ∧ (s.failGroup r).eng = s.eng ∧
      (s.failGroup r).blocks = s.blocks ∧ (s.failGroup r).ctl.pkg = s.ctl.pkg := by
  unfold State.failGroup
  simp only [hguard, hattempt, ne_eq, not_true, if_false]
  split <;> exact ⟨rfl, rfl, rfl, rfl⟩

/-- What a guard that passes to the next attempt leaves. -/
theorem State.failGroup_passes {s : State} {r : Running} {g : Nat} (hguard : r.guard = some g)
    (hattempt : s.sliceNat (g + 18) 2 = r.e.attempt) (hg : s.Holds g 32) :
    (s.failGroup r).sliceNat (g + 18) 2 = (r.e.attempt + 1) % 2 ^ 16 ∧
      SliceBut s (s.failGroup r) fun a => sliceKey g + 18 ≤ a ∧ a < sliceKey g + 20 := by
  obtain ⟨hmem, -, -, hpkg⟩ := State.failGroup_holds hguard hattempt
  have hslice := congrArg Store.slice hmem
  refine ⟨?_, (hg.but_sliceSet (by omega) 2 _).of_slice hslice⟩
  exact (State.sliceNat_congr hslice hpkg (hg.here_add (by omega)) 2).trans
    (hg.sliceNat_sliceSet (k := 18) (by omega) (by omega))

theorem State.abortHere_running {s : State} {die group attempt id : Nat} {r : Running} (hrun : s.eng.running = [(id, r)])
    (hholds : s.holdsAttempt die group attempt r = true) :
    s.abortHere die group attempt = (s.stopChain r.owner 0x17).failGroup r := by
  simp [State.abortHere, hrun, hholds]

theorem State.abortHere_waiting {s : State} {die group attempt : Nat}
    (hrun : ∀ x ∈ s.eng.running, s.holdsAttempt die group attempt x.2 = false) :
    s.abortHere die group attempt = (s.waiting.find? (s.holdsAttempt die group attempt)).elim s s.failGroup := by
  have hnone : s.eng.running.find? (fun x => s.holdsAttempt die group attempt x.2) = none := by
    simpa using hrun
  simp only [State.abortHere, hnone]

theorem State.mem_waiting {s : State} {r : Running} : r ∈ s.waiting ↔ ∃ o ∈ s.eng.owners, o.taken = false ∧
    s.here o.chain = true ∧ s.unstarted o (s.sliceNat o.entry 1) (Entry.ofBytes (s.sliceRead o.entry 64)) = r := by
  simp [State.waiting, and_assoc]

/-! ## The results of collectives (04 R121) -/

/-- What is made of each element of a list with its place. -/
theorem map_zip_ranks {α β : Type} (xs : List α) (d : α) (f : Nat → α → β) :
    ((xs.zip (List.range xs.length)).map fun m => f m.2 m.1) = (List.range xs.length).map fun k => f k (xs.getD k d) := by
  refine List.ext_getElem (by simp) fun i hi _ => ?_
  have hlt : i < xs.length := by simpa using hi
  simp [hlt]

theorem flatMap_zip_ranks {α β : Type} (xs : List α) (d : α) (f : Nat → α → List β) :
    ((xs.zip (List.range xs.length)).flatMap fun m => f m.2 m.1) = (List.range xs.length).flatMap fun k => f k (xs.getD k d) := by
  rw [List.flatMap_def, map_zip_ranks xs d f, List.flatMap_def]

/-- The rank of a member is the first place it stands at. -/
theorem find_zip_ranks {α : Type} [DecidableEq α] {xs : List α} {d x : α} {k : Nat} (hk : k < xs.length)
    (hx : xs.getD k d = x) (hfirst : ∀ j, j < k → xs.getD j d ≠ x) :
    ((xs.zip (List.range xs.length)).find? fun m => m.1 = x) = some (x, k) := by
  rw [List.find?_eq_some_iff_getElem]
  refine ⟨by simp, k, by simpa using hk, ?_, fun j hj => ?_⟩
  · simpa [hk] using hx
  · have hjlen : j < xs.length := by omega
    simpa [hjlen] using hfirst j hj

theorem take_drop_range {β : Type} (f : Nat → β) {n a b : Nat} (h : a + b ≤ n) :
    (((List.range n).map f).drop a).take b = (List.range b).map fun i => f (a + i) := by
  refine List.ext_getElem ?_ fun i _ _ => ?_ <;> simp
  omega

section Collective
variable (s : State) (r : Running)

/-- Element `i` of rank `k`. -/
def State.rankElem (k i : Nat) : Nat := s.memberElem r k (r.members.getD k (0, 0)) i

/-- The members' elements `i`, reduced in the fixed tree of 64 ranks. -/
def State.rankRed (i : Nat) : Nat :=
  (rankTree r.e.redOp r.e.redTy ((List.range r.members.length).map fun k => s.rankElem r k i)).1

/-- The bytes of `m` elements of a running entry. -/
def Running.bytesOf (r : Running) (f : Nat → Nat) (m : Nat) : List Byte := (List.range m).flatMap fun i => leBytes r.e.esize (f i)

/-- The reductions of a collective are those of its ranks' elements. -/
theorem State.rankTree_zip (i : Nat) : (rankTree r.e.redOp r.e.redTy
    ((r.members.zip (List.range r.members.length)).map fun m => s.memberElem r m.2 m.1 i)).1 = s.rankRed r i := by
  rw [map_zip_ranks r.members (0, 0) fun k m => s.memberElem r k m i]
  rfl

variable {s r}

theorem State.collective_allred (hop : r.op = 0x20) :
    (s.collective r).1 = r.bytesOf (s.rankRed r) r.e.count.toNat := by
  simp [State.collective, hop, State.rankTree_zip, Running.bytesOf, List.flatMap_map]

theorem State.collective_rscat (hop : r.op = 0x21) {k : Nat} (hk : k < r.members.length)
    (hme : r.members.getD k (0, 0) = (s.ctl.pkg, dieOf (coreOfSlice r.chain)))
    (hfirst : ∀ j, j < k → r.members.getD j (0, 0) ≠ (s.ctl.pkg, dieOf (coreOfSlice r.chain))) :
    (s.collective r).1 = r.bytesOf (fun i => s.rankRed r (k * (r.e.count.toNat / r.members.length) + i))
      (r.e.count.toNat / r.members.length) := by
  have hshare : k * (r.e.count.toNat / r.members.length) + r.e.count.toNat / r.members.length ≤ r.e.count.toNat := by
    calc k * (r.e.count.toNat / r.members.length) + r.e.count.toNat / r.members.length
      _ = (k + 1) * (r.e.count.toNat / r.members.length) := (Nat.succ_mul ..).symm
      _ ≤ r.members.length * (r.e.count.toNat / r.members.length) := Nat.mul_le_mul_right _ hk
      _ ≤ r.e.count.toNat := Nat.mul_div_le ..
  simp [State.collective, hop, find_zip_ranks hk hme hfirst, take_drop_range _ hshare, State.rankTree_zip, Running.bytesOf,
    List.flatMap_map]

theorem State.collective_allgath (hop : r.op = 0x22) : (s.collective r).1 =
    (List.range r.members.length).flatMap fun k => r.bytesOf (s.rankElem r k) r.e.count.toNat := by
  have hranks := flatMap_zip_ranks r.members (0, 0) fun k m => (List.range r.e.count.toNat).map fun i => s.memberElem r k m i
  simp [State.collective, hop, hranks, List.flatMap_assoc, List.flatMap_map, Running.bytesOf, State.rankElem]

theorem State.collective_bcast (hop : r.op = 0x23) :
    (s.collective r).1 = r.bytesOf (s.rankElem r 0) r.e.count.toNat := by
  have hfirst : r.members.head? = r.members[0]? := List.head?_eq_getElem?
  simp [State.collective, hop, hfirst, Running.bytesOf, State.rankElem, List.flatMap_map]

end Collective

/-! ## The statement -/

/-- The stop of a collective's entry by a token leaves its status and the next attempt. -/
theorem Stopped.failGroup {s t : State} {r : Running} {code g : Nat} (h : Stopped s t r.owner code) (hcode : code < 256)
    (hch : s.Holds r.owner.chain 64) (hg : s.Holds g 32) (hguard : r.guard = some g)
    (hattempt : s.sliceNat (g + 18) 2 = r.e.attempt)
    (hapart : sliceKey g + 32 ≤ sliceKey (r.owner.chain + 4) ∨ sliceKey (r.owner.chain + 4) + 4 ≤ sliceKey g) :
    (t.failGroup r).chStatus r.owner.chain = code + 256 * (r.owner.seq % 2 ^ 24) ∧
      (t.failGroup r).eng = t.eng ∧ (t.failGroup r).sliceNat (g + 18) 2 = (r.e.attempt + 1) % 2 ^ 16 := by
  have hbut := (SliceBut.sliceSet s (r.owner.chain + 4) 4 (code + 256 * (r.owner.seq % 2 ^ 24))).of_slice
    (congrArg Store.slice h.mem)
  have hattempt' : t.sliceNat (g + 18) 2 = r.e.attempt :=
    (hg.sliceNat_of_but (by omega) hbut h.pkg fun x _ _ => by omega).trans hattempt
  obtain ⟨-, heng, -, hpkg⟩ := State.failGroup_holds hguard hattempt'
  obtain ⟨hnext, hsame⟩ := State.failGroup_passes hguard hattempt' (hg.congr h.pkg)
  have hstatus : (t.failGroup r).chStatus r.owner.chain = t.chStatus r.owner.chain :=
    hsame.sliceNat hpkg ((hch.congr h.pkg).here_add (by omega)) fun x _ _ => by omega
  exact ⟨hstatus.trans (h.chStatus hch hcode), heng, hnext⟩

/-- Settles O42: completion by whether the last landing was made, a token by what holds its attempt, and the results by the
operation. -/
theorem entriesCompleteAbortOrCombine : Obligations.EntriesCompleteAbortOrCombine := by
  unfold Obligations.EntriesCompleteAbortOrCombine
  refine ⟨⟨fun s ch seq id r hrun hch hseq hended hpassed => ?_, fun s die group attempt => ?_⟩, fun s r => ?_⟩
  · have hexec := exec_entryCompletion hrun hch hseq hended hpassed
    refine ⟨fun hleft => hexec.trans (by rw [if_pos hleft]), fun hdone hnext hlt hhere hfit hgraphs => ?_⟩
    rw [if_neg (by omega)] at hexec
    have hhold : s.Holds ch 64 := ⟨hhere, hfit⟩
    subst hseq
    refine ⟨_, hexec, fun hquiet => ?_, fun g hguard hhome halign hapart => ?_⟩
    · rw [State.lastCounts_of_quiet hquiet]
      obtain ⟨hseq, hrunning, -, hbut⟩ := State.completes hrun hch hnext hlt hgraphs hhold .rfl
        (SliceBut.rfl (p := fun _ => False)) fun _ _ _ => not_false
      exact ⟨hseq, hrunning, hbut⟩
    · have hg := State.Holds.of_aligned hhome halign
      have hmoves := GuardMoves.lastCounts hguard hg
      obtain ⟨hseq, hrunning, hpkg, hbut⟩ := State.completes hrun hch hnext hlt hgraphs hhold hmoves.only hmoves.but
        fun x _ _ => by omega
      refine ⟨hseq, hrunning, ?_⟩
      exact (hbut.guard hpkg (hg.congr hmoves.only.pkg) (fun x _ _ => by omega) fun x _ _ => by omega).trans hmoves.guard
  · intro meets waiting
    have hholds (r : Running) : s.holdsAttempt die group attempt r = true ↔ ∃ g, meets r g := State.holdsAttempt_iff
    have hnot (r : Running) (h : ∀ g, ¬ meets r g) : s.holdsAttempt die group attempt r = false := by
      rw [Bool.eq_false_iff, ne_eq, hholds]
      exact not_exists.2 h
    refine ⟨fun hrun hwait => ?_, fun o g hrun howners htaken hchain hmeets hhome halign => ?_,
      fun id r g hrun hmeets hchain hseq htag hblock hgraphs hhere hfit hhome halign hapart => ?_⟩
    · have hnone : s.waiting.find? (s.holdsAttempt die group attempt) = none := by
        rw [List.find?_eq_none]
        intro r hr
        obtain ⟨o, ho, htaken, hchain, rfl⟩ := State.mem_waiting.1 hr
        simpa using hnot _ (hwait o ho htaken hchain)
      show Host.Outcome.next (s.abortHere die group attempt) = _
      rw [State.abortHere_waiting fun x hx => hnot _ (hrun x hx), hnone]
      rfl
    · have hlist : s.waiting = [waiting o] := by simp [State.waiting, howners, htaken, hchain, waiting]
      have hhold : s.holdsAttempt die group attempt (waiting o) = true := (hholds _).2 ⟨g, hmeets⟩
      obtain ⟨-, -, -, hentry, -, hguard, hattempt⟩ := hmeets
      have habort : s.abortHere die group attempt = s.failGroup (waiting o) := by
        rw [State.abortHere_waiting fun x hx => hnot _ (hrun x hx), hlist, List.find?_cons_of_pos hhold]
        rfl
      obtain ⟨-, heng, hblocks, -⟩ := State.failGroup_holds hguard (hattempt.trans hentry.symm)
      obtain ⟨hnext, hbut⟩ := State.failGroup_passes hguard (hattempt.trans hentry.symm) (.of_aligned hhome halign)
      rw [hentry] at hnext
      exact ⟨_, congrArg Host.Outcome.next habort, hnext, heng, hblocks, hbut⟩
    · have habort := State.abortHere_running hrun ((hholds r).2 ⟨g, hmeets⟩)
      obtain ⟨-, -, -, hentry, -, hguard, hattempt⟩ := hmeets
      have hstopped := State.stopChain_stopped htag hblock hgraphs 0x17
      rw [← hchain] at hhere hfit hapart ⊢
      rw [← hseq]
      obtain ⟨hstatus, heng, hnext⟩ := hstopped.failGroup (by omega) ⟨hhere, hfit⟩ (.of_aligned hhome halign) hguard
        (hattempt.trans hentry.symm) hapart
      rw [hentry] at hnext
      refine ⟨_, congrArg Host.Outcome.next habort, hstatus, ?_, hnext⟩
      rw [heng, hstopped.running, hrun]
      simp [hchain, hseq]
  · exact ⟨State.collective_allred, fun hop k hk hme hfirst _ => State.collective_rscat hop hk hme hfirst,
      State.collective_allgath, State.collective_bcast⟩

end Sys2Proof.Machine

/-! PROOFS. The statement of 05 about FENCE, COMMIT, ARRIVE with release and the release that follows (O35), with the rules of
waking what waits for stores to be accepted. -/

namespace Sys2Proof

/-- A table finds something at every key it lists. -/
theorem Tab.exists_find_of_mem {α : Type} {t : Tab α} {k : Nat} {v : α} (h : (k, v) ∈ t) : ∃ w, t.find k = some w := by
  induction t with
  | nil => cases h
  | cons p r ih =>
    obtain ⟨j, w⟩ := p
    rw [Tab.find_cons]
    split
    case isTrue => exact ⟨w, rfl⟩
    case isFalse hk =>
      rcases List.mem_cons.1 h with h | h
      · cases h; exact absurd rfl hk
      · exact ih h

end Sys2Proof

namespace Sys2Proof.Machine

/-! ## The block of a word that issues -/

/-- The block of the issuing split once the run its word may begin is open. -/
def Ctx.openedBlk (c : Ctx) (i : Instr) : Block :=
  { c.blk with troupes := c.blk.troupes.mod c.t fun T => T.openRun i c.e c.sp.pc }

/-- A troupe whose split waits, its run at an end. -/
def Troupe.waiting (e : Nat) (w : Wait) (T : Troupe) : Troupe :=
  { T with splits := T.splits.mod e fun S => { S with wait := w, only := none }, run := none }

section Issue
variable {s : State} {c : Ctx} {i : Instr}

theorem Ready.openedBlk_find (h : Ready s c i) :
    (s.onTrp c fun T => T.openRun i c.e c.sp.pc).blocks.find c.b = some (c.openedBlk i) := by
  obtain ⟨hB, -, -, -⟩ := State.focus?_holds h.1
  simp [State.onTrp, hB, Ctx.openedBlk]

theorem Ready.openedBlk_troupe (h : Ready s c i) : (c.openedBlk i).troupes.find c.t = some (c.opened i).trp := by
  obtain ⟨-, hT, -, -⟩ := State.focus?_holds h.1
  simp [Ctx.openedBlk, Ctx.opened, hT]

theorem Ready.opened_split (h : Ready s c i) : (c.opened i).trp.splits.find c.e = some c.sp := by
  rw [Ctx.opened_splits]
  exact State.focus?_splits s c h.1

/-- A word whose effect is done: its split goes on in the state the effect leaves. -/
theorem exec_of_done {u : State} (eff : Ctx → State → Res) (hx : ∀ s, exec i s = s.issueWord i eff) (h : Ready s c i)
    (he : eff (c.opened i) (s.onTrp c fun T => T.openRun i c.e c.sp.pc) = .done u) :
    exec i s = .next (u.onTrp c (c.after i)) := by
  rw [hx, State.issueWord_ready s c i eff h, he]
  simp only [State.finish, State.advance, State.onSplit, State.modSplit, State.onTrp, Ctx.opened_b, Ctx.opened_t,
    Ctx.opened_e, Ctx.opened_sp, State.modTrp_modTrp]
  rfl

/-- A word whose effect leaves its split waiting: the troupe's run ends, and the troupe is evaluated again. -/
theorem exec_of_waits {u : State} {w : Wait} (eff : Ctx → State → Res) (hx : ∀ s, exec i s = s.issueWord i eff)
    (h : Ready s c i) (he : eff (c.opened i) (s.onTrp c fun T => T.openRun i c.e c.sp.pc) =
      .went (u.onSplit c fun S => { S with wait := w, only := none })) :
    exec i s = .next (((u.onTrp c (Troupe.waiting c.e w)).settleTrp c.b c.t).stepEnds c.b c.t c.e c.sp.own) := by
  rw [hx, State.issueWord_ready s c i eff h, he]
  simp only [State.finish, State.onSplit, State.modSplit, State.onTrp, Ctx.opened_b, Ctx.opened_t, Ctx.opened_e,
    Ctx.opened_sp, State.modTrp_modTrp]
  rfl

/-- A block after a change of one of its troupes. -/
theorem State.onTrp_find {u : State} {B : Block} (hB : u.blocks.find c.b = some B) (f : Troupe → Troupe) :
    (u.onTrp c f).blocks.find c.b = some { B with troupes := B.troupes.mod c.t f } := by
  simp [State.onTrp, hB]

@[simp] theorem Troupe.endStep_regs (T : Troupe) : T.endStep.regs = T.regs := by
  unfold Troupe.endStep
  split
  · split <;> rfl
  · rfl

@[simp] theorem Ctx.after_regs (c : Ctx) (i : Instr) (T : Troupe) : (c.after i T).regs = T.regs := by simp [Ctx.after]

theorem Ctx.after_split {T : Troupe} (h : T.splits.find c.e = some c.sp) : (c.after i T).splits.find c.e =
    some { c.sp with pc := c.sp.pc + BitVec.ofNat 32 i.size, only := none } := by
  simp [Ctx.after, h]

end Issue

/-! ## FENCE (05 R147) -/

/-- A separator enters a block's store buffer; one wider than the core owes a write-back. -/
def Block.fence (far : Bool) (B : Block) : Block :=
  { B with epoch := B.epoch + 1, fences := if far then B.fences ++ [B.epoch] else B.fences }

/-- What a cache holds once clean bytes have been dropped it held before. -/
theorem State.exists_find_of_invalidate {s : State} {core k : Nat} {p : Nat → Bool} {x : CByte}
    (h : ((s.invalidate core p).core core).cache.find k = some x) : ∃ y, (s.core core).cache.find k = some y := by
  rw [State.invalidate, State.modCore_core_same] at h
  exact Tab.exists_find_of_mem (List.mem_of_mem_filter (Tab.mem_of_find h))

section Fence
variable {s : State} {c : Ctx} {f : UW}

/-- The state in which FENCE's separator is in the buffer. -/
def State.fenced (s : State) (c : Ctx) (f : UW) : State :=
  (s.onTrp c fun T => T.openRun (.fence f) c.e c.sp.pc).modBlk c.b (Block.fence (f.f 11 9 ≠ 1))

theorem exec_fence_near (h : Ready s c (.fence f)) (hf : f.f 11 9 = 1) :
    exec (.fence f) s = .next ((s.fenced c f).onTrp c (c.after (.fence f))) := by
  refine exec_of_done _ (fun s => (rfl : execFence f s = _)) h ?_
  simp only [hf, State.fenced]
  rfl

theorem exec_fence_far (h : Ready s c (.fence f)) (hf : f.f 11 9 ≠ 1) : exec (.fence f) s =
    .next (((s.fenced c f).invalidate c.blk.core fun _ => true).onTrp c (c.after (.fence f))) := by
  refine exec_of_done _ (fun s => (rfl : execFence f s = _)) h ?_
  simp only [hf, State.fenced, ne_eq, not_false_eq_true, if_true, decide_true]
  rfl

theorem State.fenced_find (h : Ready s c (.fence f)) :
    (s.fenced c f).blocks.find c.b = some (Block.fence (f.f 11 9 ≠ 1) (c.openedBlk (.fence f))) := by
  rw [State.fenced, State.modBlk_find, if_pos rfl, h.openedBlk_find, Option.map_some]

theorem fence_closes_epoch (h : Ready s c (.fence f)) : ∃ t B, exec (.fence f) s = .next t ∧ t.blocks.find c.b = some B ∧
    B.epoch = c.blk.epoch + 1 ∧ B.buf = c.blk.buf ∧
    (f.f 11 9 = 1 → B.fences = c.blk.fences ∧ t.cores = s.cores) ∧
    (f.f 11 9 ≠ 1 → B.fences = c.blk.fences ++ [c.blk.epoch] ∧ ∀ k x, (t.core c.blk.core).cache.find k = some x →
      ∃ y, (s.core c.blk.core).cache.find k = some y) ∧ t.mem = s.mem ∧
    ∃ T, B.troupes.find c.t = some T ∧ T.regs = c.trp.regs := by
  have hregs : ∃ T, ((c.openedBlk (.fence f)).troupes.mod c.t (c.after (.fence f))).find c.t = some T ∧
      T.regs = c.trp.regs := ⟨_, by rw [Tab.find_mod_same, h.openedBlk_troupe, Option.map_some], by simp⟩
  by_cases hf : f.f 11 9 = 1
  · refine ⟨_, _, exec_fence_near h hf, State.onTrp_find (State.fenced_find h) _, rfl, rfl,
      fun _ => ⟨?_, rfl⟩, fun hne => absurd hf hne, rfl, hregs⟩
    simp [Block.fence, hf, Ctx.openedBlk]
  · refine ⟨_, _, exec_fence_far h hf, State.onTrp_find (State.fenced_find h) _, rfl, rfl,
      fun he => absurd he hf, fun _ => ⟨?_, fun k x hx => ?_⟩, rfl, hregs⟩
    · simp [Block.fence, hf, Ctx.openedBlk]
    · exact State.exists_find_of_invalidate (s := s.fenced c f) (p := fun _ => true) hx

end Fence

/-! ## COMMIT (05 R139) -/

/-- A block at a commit point: every entry of its buffer is to drain, and its relaunch window ends. -/
def Block.commit (B : Block) : Block := { B with
  window := false, backDue := B.epoch, buf := B.buf.map fun e => (e.1, { e.2 with committed := true }) }

theorem State.commit_eq (s : State) (b : Nat) : s.commit b = s.modBlk b Block.commit := rfl

section Commit
variable {s : State} {c : Ctx} {f : UW}

/-- The block of a COMMIT whose entries have all been accepted has nothing left on its way. -/
def State.allAccepted (s : State) (c : Ctx) : Bool :=
  c.blk.buf.isEmpty && c.blk.fences.isEmpty && !s.unacked c.b fun x => x.op.stores

/-- The state in which COMMIT's entries are to drain. -/
def State.committed (s : State) (c : Ctx) (i : Instr) : State :=
  (s.onTrp c fun T => T.openRun i c.e c.sp.pc).commit c.b

theorem exec_commit_accepted (h : Ready s c (.commit f)) (hu : c.blk.unreach = none) (ha : s.allAccepted c = true) :
    exec (.commit f) s = .next ((s.committed c (.commit f)).onTrp c (c.after (.commit f))) := by
  refine exec_of_done _ (fun s => (rfl : execCommit f s = _)) h ?_
  simp only [Ctx.unreachable, Ctx.opened_blk, hu, Option.map_none]
  exact if_pos ha

theorem exec_commit_waits (h : Ready s c (.commit f)) (hu : c.blk.unreach = none) (ha : s.allAccepted c = false) :
    exec (.commit f) s = .next ((((s.committed c (.commit f)).onTrp c (Troupe.waiting c.e (.commit s.fresh))).settleTrp
      c.b c.t).stepEnds c.b c.t c.e c.sp.own) := by
  refine exec_of_waits _ (fun s => (rfl : execCommit f s = _)) h ?_
  simp only [Ctx.unreachable, Ctx.opened_blk, hu, Option.map_none]
  exact if_neg (Bool.eq_false_iff.1 ha)

/-- What a commit point leaves of the issuing block where a change of the troupe follows. -/
theorem State.committed_reads {i : Instr} (h : Ready s c i) (g : Troupe → Troupe) :
    ∃ B, ((s.committed c i).onTrp c g).blocks.find c.b = some B ∧ B.window = false ∧
      B.troupes.find c.t = some (g (c.opened i).trp) ∧ (∀ p ∈ B.buf, p.2.committed = true) ∧
      B.buf.map Prod.fst = c.blk.buf.map Prod.fst := by
  have hfind : (s.committed c i).blocks.find c.b = some (c.openedBlk i).commit := by
    rw [State.committed, State.commit_eq, State.modBlk_find, if_pos rfl, h.openedBlk_find, Option.map_some]
  refine ⟨_, State.onTrp_find hfind g, rfl, ?_, ?_, ?_⟩
  · exact (Tab.find_mod_same ..).trans (congrArg _ h.openedBlk_troupe)
  · intro p hp
    obtain ⟨e, -, rfl⟩ := List.mem_map.1 hp
    rfl
  · simp [Block.commit, Ctx.openedBlk]

theorem State.allAccepted_iff : s.allAccepted c = true ↔
    c.blk.buf = [] ∧ c.blk.fences = [] ∧ s.unacked c.b (fun x => x.op.stores) = false := by
  simp [State.allAccepted, and_assoc]

theorem commit_holds_or_goes_on (h : Ready s c (.commit f)) (hu : c.blk.unreach = none) :
    ∃ (t : State) (B : Block) (T : Troupe), t.blocks.find c.b = some B ∧ B.window = false ∧
      B.troupes.find c.t = some T ∧ (∀ p ∈ B.buf, p.2.committed = true) ∧
      B.buf.map Prod.fst = c.blk.buf.map Prod.fst ∧ t.mem = s.mem ∧
      (c.blk.buf = [] → c.blk.fences = [] → s.unacked c.b (fun x => x.op.stores) = false →
        exec (.commit f) s = .next t ∧ T.splits.find c.e = some { c.sp with pc := c.sp.pc + 2, only := none }) ∧
      (c.blk.buf ≠ [] ∨ c.blk.fences ≠ [] ∨ s.unacked c.b (fun x => x.op.stores) = true →
        exec (.commit f) s = .next ((t.settleTrp c.b c.t).stepEnds c.b c.t c.e c.sp.own) ∧
        T.splits.find c.e = some { c.sp with wait := .commit s.fresh, only := none }) := by
  have hdue : s.allAccepted c = false ↔
      c.blk.buf ≠ [] ∨ c.blk.fences ≠ [] ∨ s.unacked c.b (fun x => x.op.stores) = true := by
    rw [Bool.eq_false_iff, ne_eq, State.allAccepted_iff, not_and_or, not_and_or, Bool.not_eq_false]
  cases ha : s.allAccepted c with
  | true =>
    obtain ⟨B, hB, hwindow, hT, hbuf, hids⟩ := State.committed_reads h (c.after (.commit f))
    refine ⟨_, B, _, hB, hwindow, hT, hbuf, hids, rfl, fun _ _ _ => ⟨exec_commit_accepted h hu ha, ?_⟩, fun hd => ?_⟩
    · exact Ctx.after_split h.opened_split
    · rw [hdue.2 hd] at ha
      cases ha
  | false =>
    obtain ⟨B, hB, hwindow, hT, hbuf, hids⟩ := State.committed_reads h (Troupe.waiting c.e (.commit s.fresh))
    refine ⟨_, B, _, hB, hwindow, hT, hbuf, hids, rfl, fun hb hf ha' => ?_, fun _ => ⟨exec_commit_waits h hu ha, ?_⟩⟩
    · rw [State.allAccepted_iff.2 ⟨hb, hf, ha'⟩] at ha
      cases ha
    · simp [Troupe.waiting, State.focus?_splits s c h.1]

end Commit

/-! ## What is read of a capability is no part of a block -/

/-- A state with other blocks. -/
def State.withBlocks (s : State) (bs : Tab Block) : State := { s with blocks := bs }

section Blocks
variable (s : State) (bs : Tab Block)

theorem State.withBlocks_mem : (s.withBlocks bs).mem = s.mem := rfl
theorem State.obj_withBlocks (part obj : Nat) : (s.withBlocks bs).obj part obj = s.obj part obj := rfl

/-- What a translation finds and what it leaves do not turn on the blocks: each of its answers is pushed through the tests. -/
theorem State.translate_withBlocks (who part obj copy off : Nat) (write : Bool) :
    (s.withBlocks bs).translate who part obj copy off write =
      ((s.translate who part obj copy off write).1, (s.translate who part obj copy off write).2.withBlocks bs) := by
  have push {p : Prop} [Decidable p] (x y : Xlate × State) : ((if p then x else y).1, (if p then x else y).2.withBlocks bs) =
      if p then (x.1, x.2.withBlocks bs) else (y.1, y.2.withBlocks bs) := by split <;> rfl
  unfold State.translate
  dsimp only
  rw [State.obj_withBlocks, State.withBlocks_mem]
  cases s.mem.tlb.find (tlbKey who part obj copy (off / 2 ^ pageBits (s.obj part obj).psz)) <;> dsimp only <;>
    (repeat rw [push]) <;> rfl

theorem State.homeRead_withBlocks (who part obj copy off n : Nat) : (s.withBlocks bs).homeRead who part obj copy off n =
    (s.homeRead who part obj copy off n).map fun r => (r.1, r.2.withBlocks bs) := by
  refine List.foldl_hom (Option.map fun r : List Byte × State => (r.1, r.2.withBlocks bs)) (init := some ([], s))
    fun r p => ?_
  cases r with
  | none => rfl
  | some r =>
    dsimp only [Option.map_some]
    rw [State.translate_withBlocks]
    obtain ⟨x, t⟩ := r.2.translate who part obj copy p.1 false
    cases x <;> rfl

theorem State.tabEntry_withBlocks (K : Task) (i : Nat) : (s.withBlocks bs).tabEntry K i = s.tabEntry K i := by
  have hread : (s.withBlocks bs).waRead K.part (K.entryAt i) 32 = s.waRead K.part (K.entryAt i) 32 := by
    unfold State.waRead
    rw [State.homeRead_withBlocks, Option.map_map]
    rfl
  unfold State.tabEntry State.waNat
  rw [hread]

theorem State.guardFault_withBlocks (c : Ctx) (r : CapReg) (right : BitVec 12) :
    (s.withBlocks bs).guardFault c r right = s.guardFault c r right := by
  unfold State.guardFault State.objFault State.capFault State.capCheck State.capValid
  simp only [State.tabEntry_withBlocks]
  rfl

/-- The checks of a guard operand are those before the word's run is open. -/
theorem State.guardFault_opened (c : Ctx) (i : Instr) (f : Troupe → Troupe) (r : CapReg) (right : BitVec 12) :
    (s.onTrp c f).guardFault (c.opened i) r right = s.guardFault c r right := by
  have h := s.guardFault_withBlocks (s.onTrp c f).blocks (c.opened i) r right
  refine Eq.trans h ?_
  simp only [State.guardFault, State.objFault, State.capFault, Ctx.opened_blk, Ctx.opened_task]

end Blocks

/-! ## ARRIVE with release (05 R138, R141) -/

theorem State.meetFlips_of_noFlips {s : State} (h : s.mem.flips = []) (c : Ctx) (a n : Nat) : s.meetFlips c a n = s := by
  rw [State.meetFlips, State.correctSlice_of_noFlips h]
  rfl

/-- What an acquire or a release reads of a guard, where nothing of it is in error. -/
theorem State.readBound_of_clean {s : State} {g : Nat} (hf : s.mem.flips = []) (hw : s.slicePoisoned (g + 20) 4 = false)
    (hl : s.listPoisoned g = false) (c : Ctx) : s.readBound c g [] = some s := by
  simp [State.readBound, State.readSlice, hl, hw, State.meetFlips_of_noFlips hf]

/-- A block whose release has begun: every entry of its buffer is sealed and is to drain. -/
def Block.releasing (fresh : Nat) (rs : List Region) (act : Then) (B : Block) : Block := { B with
  window := false
  backDue := B.epoch
  buf := (B.buf.map fun e => (e.1, { e.2 with sealed := true })).map fun e => (e.1, { e.2 with committed := true })
  releases := B.releases.put fresh ⟨fresh + 1, rs, act⟩ }

theorem State.startRelease_find {s : State} {b : Nat} {B : Block} (hB : s.blocks.find b = some B) (rs : List Region)
    (act : Then) : (s.startRelease b rs act).blocks.find b = some (B.releasing s.fresh rs act) := by
  simp [State.startRelease, State.seal, State.commit, State.bump, hB, Block.releasing]

theorem Block.releasing_entries (fresh : Nat) (rs : List Region) (act : Then) (B : Block) :
    ∀ p ∈ (B.releasing fresh rs act).buf, p.2.committed = true ∧ p.2.sealed = true := by
  intro p hp
  obtain ⟨q, hq, rfl⟩ := List.mem_map.1 hp
  obtain ⟨e, -, rfl⟩ := List.mem_map.1 hq
  exact ⟨rfl, rfl⟩

theorem State.sliceNat_onTrp (s : State) (c : Ctx) (f : Troupe → Troupe) (a n : Nat) :
    (s.onTrp c f).sliceNat a n = s.sliceNat a n := rfl

theorem State.slicePoisoned_onTrp (s : State) (c : Ctx) (f : Troupe → Troupe) (a n : Nat) :
    (s.onTrp c f).slicePoisoned a n = s.slicePoisoned a n := rfl

theorem State.bindings_onTrp (s : State) (c : Ctx) (f : Troupe → Troupe) (g : Nat) :
    (s.onTrp c f).bindings g = s.bindings g := by
  simp only [State.bindings, State.bound, State.bindEntry, State.bindList, State.sliceNat_onTrp]

theorem State.listPoisoned_onTrp (s : State) (c : Ctx) (f : Troupe → Troupe) (g : Nat) :
    (s.onTrp c f).listPoisoned g = s.listPoisoned g := by
  simp only [State.listPoisoned, State.bound, State.bindList, State.sliceNat_onTrp, State.slicePoisoned_onTrp]

@[simp] theorem Ctx.cap_opened (c : Ctx) (i : Instr) (n : Nat) : (c.opened i).cap n = c.cap n := by simp [Ctx.cap]

section Arrive
variable {s : State} {c : Ctx} {f : UW}

/-- The arrivals an ARRIVE makes. -/
def Ctx.arrivals (c : Ctx) (f : UW) : Nat := if f.f 7 0 = 0 then (c.sr f.a).toNat else f.f 7 0

/-- The state in which ARRIVE's release has begun. -/
def State.releasing (s : State) (c : Ctx) (f : UW) : State :=
  (s.onTrp c fun T => T.openRun (.arrive f) c.e c.sp.pc).startRelease c.b (s.bindings (c.cap f.cN).at)
    (.arrive (c.cap f.cN).at (c.arrivals f))

theorem exec_arrive_releases (h : Ready s c (.arrive f)) (hguard : s.guardFault c (c.cap f.cN) 0x008#12 = none)
    (hreach : c.blk.unreach = none) (hrel : f.bit 8 = true) (hn : c.arrivals f ≤ 65535) (hflips : s.mem.flips = [])
    (hword : s.slicePoisoned ((c.cap f.cN).at + 20) 4 = false) (hlist : s.listPoisoned (c.cap f.cN).at = false) :
    exec (.arrive f) s = .next ((s.releasing c f).onTrp c (c.after (.arrive f))) := by
  refine exec_of_done _ (fun s => (rfl : execArrive f s = _)) h ?_
  simp only [Ctx.cap_opened, Ctx.sr_opened, Ctx.opened_b, Ctx.unreachable, Ctx.opened_blk, hrel, hreach, Option.map_none,
    Option.orElse_none, State.guardFault_opened, hguard, if_true]
  refine (if_neg (Nat.not_lt.2 hn)).trans ?_
  rw [State.readBound_of_clean]
  · simp only [State.bindings_onTrp]
    rfl
  · exact hflips
  · rw [State.slicePoisoned_onTrp]; exact hword
  · rw [State.listPoisoned_onTrp]; exact hlist

theorem arrive_begins_release (h : Ready s c (.arrive f)) :
    let g := (c.cap f.cN).at
    let n := if f.f 7 0 = 0 then (c.sr f.a).toNat else f.f 7 0
    s.guardFault c (c.cap f.cN) 0x008#12 = none → c.blk.unreach = none → f.bit 8 = true → n ≤ 65535 →
    s.mem.flips = [] → s.slicePoisoned (g + 20) 4 = false → s.listPoisoned g = false →
    ∃ t B, exec (.arrive f) s = .next t ∧ t.mem = s.mem ∧ t.blocks.find c.b = some B ∧ B.window = false ∧
      (∀ p ∈ B.buf, p.2.committed = true ∧ p.2.sealed = true) ∧
      B.releases.find s.fresh = some ⟨s.fresh + 1, s.bindings g, .arrive g n⟩ := by
  intro g n hguard hreach hrel hn hflips hword hlist
  have hfind : (s.releasing c f).blocks.find c.b = some ((c.openedBlk (.arrive f)).releasing s.fresh (s.bindings g)
      (.arrive g n)) := State.startRelease_find h.openedBlk_find ..
  exact ⟨_, _, exec_arrive_releases h hguard hreach hrel hn hflips hword hlist, rfl, State.onTrp_find hfind _, rfl,
    Block.releasing_entries s.fresh (s.bindings g) (.arrive g n) (c.openedBlk (.arrive f)), Tab.find_put_same ..⟩

end Arrive

/-! ## What waits for stores to be accepted (05 R139, 14 R357) -/

/-- A split goes on past the word it waits at. -/
def Split.resumed (S : Split) : Split := { S with wait := .ready, pc := S.pc + 2 }

/-- A split of a block once what it waits for may have been accepted. -/
def State.wokenSplit (s : State) (b : Nat) (B : Block) (S : Split) : Split :=
  match S.wait with
  | .payload n => if s.unacked b (fun x => x.op.stores && x.ent = n) then S else S.resumed
  | .commit n =>
    if (B.buf.all fun e => e.1 ≥ n) && !B.owesBack && !s.unacked b (fun x => x.op.stores && decide (x.ent < n)) then S.resumed
    else S
  | _ => S

/-- A troupe of a block whose waiting splits have been woken. -/
def State.wokenTrp (s : State) (b : Nat) (B : Block) (T : Troupe) : Troupe :=
  { T with splits := T.splits.map fun q => (q.1, s.wokenSplit b B q.2) }

/-- A block whose waiting splits have been woken. -/
def State.wokenBlk (s : State) (b : Nat) (B : Block) : Block :=
  { B with troupes := B.troupes.map fun p => (p.1, s.wokenTrp b B p.2) }

theorem State.wakeCommits_eq (s : State) (b : Nat) : s.wakeCommits b = s.modBlk b (s.wokenBlk b) := by
  refine congrArg (s.modBlk b) (funext fun B => ?_)
  refine congrArg (fun ts => { B with troupes := ts }) (List.map_congr_left fun p _ => ?_)
  refine congrArg (fun ss => (p.1, { p.2 with splits := ss })) (List.map_congr_left fun q _ => ?_)
  unfold State.wokenSplit
  obtain ⟨e, own, em, pc, age, wait, only⟩ := q
  cases wait
  case payload n => dsimp only; split <;> rfl
  case commit n => dsimp only; split <;> rfl
  all_goals rfl

theorem State.wakeCommits_find {s : State} {b : Nat} {B : Block} (hB : s.blocks.find b = some B) :
    (s.wakeCommits b).blocks.find b = some (s.wokenBlk b B) := by
  simp [State.wakeCommits_eq, hB]

theorem State.wakeCommits_find_other (s : State) {b j : Nat} (h : j ≠ b) :
    (s.wakeCommits b).blocks.find j = s.blocks.find j := by
  rw [State.wakeCommits, State.modBlk_find, if_neg h]

theorem State.wokenBlk_troupe (s : State) (b : Nat) {B : Block} {t : Nat} {T : Troupe} (hT : B.troupes.find t = some T) :
    (s.wokenBlk b B).troupes.find t = some (s.wokenTrp b B T) := by
  show Tab.find (B.troupes.map fun p => (p.1, s.wokenTrp b B p.2)) t = _
  rw [Tab.find_map, hT, Option.map_some]

theorem State.wokenTrp_split (s : State) (b : Nat) (B : Block) {T : Troupe} {e : Nat} {S : Split}
    (hS : T.splits.find e = some S) : (s.wokenTrp b B T).splits.find e = some (s.wokenSplit b B S) := by
  show Tab.find (T.splits.map fun q => (q.1, s.wokenSplit b B q.2)) e = _
  rw [Tab.find_map, hS, Option.map_some]

/-! ## The write-back of a separator (05 R147) -/

theorem State.writeBack_of_empty {s : State} {core : Nat} (h : (s.core core).cache = []) (p : Nat → CByte → Bool) :
    s.writeBack core p = (true, s) := by
  simp [State.writeBack, h, dirtyRuns]

/-- Whether a separator of epoch `f` is owed its write-back now: a commit point lies past it, and no entry before it is left. -/
def Block.backDueAt (B : Block) (f : Nat) : Bool := decide (f < B.backDue) && B.buf.all fun e => f < e.2.epoch

theorem Block.backReady_eq (B : Block) : B.backReady = B.fences.any B.backDueAt := rfl

section Back
variable {s : State} {b id : Nat} {B : Block}

theorem exec_storeEntryDrain_of_gone (hB : s.blocks.find b = some B) (hid : B.buf.find id = none) :
    exec (.storeEntryDrain b id) s = .next (s.fenceBack b) := by
  show execStoreEntryDrain b id s = _
  simp only [execStoreEntryDrain, hB, hid]

theorem State.fenceBack_of_notDue (hB : s.blocks.find b = some B) (h : B.fences.any B.backDueAt = false) :
    s.fenceBack b = s := by
  simp only [State.fenceBack, hB, B.backReady_eq, h]
  rfl

theorem State.fenceBack_of_due (hB : s.blocks.find b = some B) (h : B.fences.any B.backDueAt = true)
    (hcache : (s.core B.core).cache = []) : s.fenceBack b =
      (s.modBlk b fun B' => { B' with fences := B'.fences.filter fun f => !B.backDueAt f }).wakeCommits b := by
  simp only [State.fenceBack, hB, B.backReady_eq, h, State.writeBack_of_empty hcache]
  rfl

theorem fence_writes_back (hB : s.blocks.find b = some B) (hid : B.buf.find id = none) :
    ∃ u, exec (.storeEntryDrain b id) s = .next u ∧ (B.fences.any B.backDueAt = false → u = s) ∧
      (B.fences.any B.backDueAt = true → (s.core B.core).cache = [] →
        u.mem = s.mem ∧ ∃ B', u.blocks.find b = some B' ∧
        B'.fences = B.fences.filter (fun f => !B.backDueAt f) ∧ B'.buf = B.buf) := by
  refine ⟨_, exec_storeEntryDrain_of_gone hB hid, State.fenceBack_of_notDue hB, fun hdue hcache => ?_⟩
  rw [State.fenceBack_of_due hB hdue hcache]
  have hfind := State.modBlk_find s b (fun B' : Block => { B' with fences := B'.fences.filter fun f => !B.backDueAt f }) b
  rw [if_pos rfl, hB, Option.map_some] at hfind
  exact ⟨rfl, _, State.wakeCommits_find hfind, rfl, rfl⟩

end Back

/-! ## The arrival of a release (05 R141) -/

section Release
variable {s : State} {b id : Nat} {B : Block} {r : Release} {K : Task}

/-- What a release does once nothing before it is left: it arrives on its guard, or its message leaves. -/
def State.released (s : State) (b : Nat) : Then → State
  | .arrive g n => s.arriveAt b g n 0
  | .send m => { s with eng := { s.eng with msgs := s.eng.msgs ++ [m] } }

theorem exec_releaseArrival_waits (hB : s.blocks.find b = some B) (hK : s.tasks.find B.task = some K)
    (hr : B.releases.find id = some r) (h : s.mayArrive b B id r = false) : exec (.releaseArrival b id) s = .next s := by
  show execReleaseArrival b id s = _
  simp only [execReleaseArrival, hB, hr, hK, h]
  rfl

theorem State.accepted_of_mayArrive (h : s.mayArrive b B id r = true) :
    s.unacked b (fun x => decide (x.ent < r.limit)) = false := by
  simp only [State.mayArrive, Bool.and_eq_true, Bool.not_eq_true'] at h
  exact h.1.2

theorem exec_releaseArrival_of_empty (hB : s.blocks.find b = some B) (hK : s.tasks.find B.task = some K)
    (hr : B.releases.find id = some r) (h : s.mayArrive b B id r = true) (hcache : (s.core B.core).cache = []) :
    exec (.releaseArrival b id) s =
      .next ((s.modBlk b fun B => { B with releases := B.releases.del id }).released b r.act) := by
  show execReleaseArrival b id s = _
  simp only [execReleaseArrival, hB, hr, hK, h, State.releaseBack, State.writeBack_of_empty hcache,
    State.accepted_of_mayArrive h]
  cases r.act <;> rfl

theorem exec_releaseArrival_next (b id : Nat) (s : State) : ∃ u, exec (.releaseArrival b id) s = .next u := by
  show ∃ u, execReleaseArrival b id s = .next u
  unfold execReleaseArrival
  repeat' split
  all_goals exact ⟨_, rfl⟩

theorem release_arrives (hB : s.blocks.find b = some B) (hK : s.tasks.find B.task = some K)
    (hr : B.releases.find id = some r) : ∃ u, exec (.releaseArrival b id) s = .next u ∧
      (s.mayArrive b B id r = false → u = s) ∧
      (s.mayArrive b B id r = true → (s.core B.core).cache = [] →
        (∀ g n, r.act = .arrive g n → s.here g = true → g % 32 = 0 → u.guard g = (s.guard g).arrive n ∧
          ∃ B', u.blocks.find b = some B' ∧ B'.releases = B.releases.del id) ∧
        (∀ m, r.act = .send m → u.eng.msgs = s.eng.msgs ++ [m] ∧ u.mem = s.mem)) := by
  cases hm : s.mayArrive b B id r with
  | false => exact ⟨s, exec_releaseArrival_waits hB hK hr hm, fun _ => rfl, nofun⟩
  | true =>
    by_cases hcache : (s.core B.core).cache = []
    · have hfind : (s.modBlk b fun B => { B with releases := B.releases.del id }).blocks.find b =
          some { B with releases := B.releases.del id } := by simp [hB]
      refine ⟨_, exec_releaseArrival_of_empty hB hK hr hm hcache, nofun, fun _ _ =>
        ⟨fun g n hact hhere halign => ?_, fun m hact => ?_⟩⟩
      · rw [hact]
        have hmoves := GuardMoves.arriveAt (s := s.modBlk b fun B => { B with releases := B.releases.del id })
          (.of_aligned hhere halign) b n 0
        refine ⟨hmoves.guard, _, (congrArg (fun bs => Tab.find bs b) hmoves.only.blocks).trans hfind, rfl⟩
      · rw [hact]
        exact ⟨rfl, rfl⟩
    · obtain ⟨u, hu⟩ : ∃ u, exec (.releaseArrival b id) s = .next u := exec_releaseArrival_next ..
      exact ⟨u, hu, nofun, fun _ h => absurd h hcache⟩

end Release

/-- Settles O35: FENCE and COMMIT by what their blocks have left, ARRIVE by the release it begins, and the two events by
whether what they wait for has been accepted. -/
theorem fencesCommitsAndReleases : Obligations.FencesCommitsAndReleases := by
  unfold Obligations.FencesCommitsAndReleases
  exact ⟨fun _ _ _ => fence_closes_epoch, fun _ _ _ => commit_holds_or_goes_on, fun _ _ _ => arrive_begins_release,
    fun _ _ _ _ => fence_writes_back, fun _ _ _ _ _ _ => release_arrives⟩

end Sys2Proof.Machine

/-! PROOFS. The statement of 05 about acknowledgements, abandoned operations, links, mesh beats and the patrol scrub (O53). -/

namespace Sys2Proof.Machine

/-! ## A block's error word (08 R220) -/

/-- `t` is `s` but for block `b`, which is `B` with error word `w`. -/
structure ErrSet (s t : State) (b : Nat) (B : Block) (w : Word) : Prop where
  rest : { t with blocks := s.blocks } = s
  find : t.blocks.find b = some { B with err := w }
  other : ∀ j, j ≠ b → t.blocks.find j = s.blocks.find j

theorem ErrSet.mem {s t : State} {b : Nat} {B : Block} {w : Word} (h : ErrSet s t b B w) : t.mem = s.mem :=
  (congrArg State.mem h.rest :)
theorem ErrSet.eng {s t : State} {b : Nat} {B : Block} {w : Word} (h : ErrSet s t b B w) : t.eng = s.eng :=
  (congrArg State.eng h.rest :)

/-- The task of a block keeps no array of error words. -/
def State.noErrors (s : State) (B : Block) : Prop := ∀ K, s.tasks.find B.task = some K → K.launch.errors = 0

/-- The error word of a block with a code and detail set. -/
def Block.coded (B : Block) (code detail : Nat) : Word :=
  (B.err &&& 0x0000FF00#32) ||| BitVec.ofNat 32 (code % 256 + detail % 65536 * 65536)

section Err
variable {s : State} {b : Nat} {B : Block}

theorem ErrSet.rfl (hB : s.blocks.find b = some B) : ErrSet s s b B B.err := ⟨Eq.refl _, hB, fun _ _ => Eq.refl _⟩

theorem ErrSet.blockErr (hB : s.blocks.find b = some B) (hq : s.noErrors B) (code detail : Nat) (flags : Word) :
    ErrSet s (s.blockErr b (some (code, detail)) flags) b B (B.coded code detail ||| flags) := by
  have heq : s.blockErr b (some (code, detail)) flags =
      s.modBlk b fun B' => { B' with err := B.coded code detail ||| flags } := by
    simp only [State.blockErr, hB]
    split
    case h_1 K hK => exact if_pos (hq K hK)
    case h_2 => exact Eq.refl _
  rw [heq]
  refine ⟨Eq.refl _, ?_, fun j hj => ?_⟩
  · rw [State.modBlk_find, if_pos (Eq.refl _), hB, Option.map_some]
  · rw [State.modBlk_find, if_neg hj]

end Err

/-! ## What an acknowledgement lets go (05 R158) -/

section Ack
variable {s : State} {dst : Nat} {k : FabId} {x : Sent} {reply : FabReply}

/-- An acknowledged operation is held no more, and the counts of failed retries in a row start again. -/
def State.letGo (s : State) (x : Sent) : State := { s with
  eng := { s.eng with sent := s.eng.sent.erase x }
  ctl := { s.ctl with links := s.ctl.links.map fun (l : Nat × Lnk) => (l.1, { l.2 with retries := 0 }) } }

theorem exec_acknowledgement_of_unsent (h : s.sentAs dst k = none) (reply : FabReply) :
    exec (.fabricAcknowledgement dst ⟨k, reply⟩) s = .next s := by
  show execFabricAcknowledgement dst ⟨k, reply⟩ s = _
  simp only [execFabricAcknowledgement, h]

theorem exec_acknowledgement (h : s.sentAs dst k = some x) (reply : FabReply) :
    exec (.fabricAcknowledgement dst ⟨k, reply⟩) s = .next (((s.letGo x).replied x reply).wakeCommits x.b).tock := by
  show execFabricAcknowledgement dst ⟨k, reply⟩ s = _
  simp only [execFabricAcknowledgement, h]
  rfl

/-- The error word a block takes from the acknowledgement of its operation: RIGHTS where a guarded granule refused it (04
R111), GEOM where its home could not do it (log 76). -/
def Block.replyErr (B : Block) (reply : FabReply) : Word :=
  if reply.denied then (B.err &&& 0xFF00#32) ||| 5#32
  else if reply.geom then (B.err &&& 0xFF00#32) ||| 0x11#32 else B.err

theorem State.replied_of_sound (hland : x.land = none) (hpoison : reply.poison = false) (htell : reply.tell = []) :
    s.replied x reply = if reply.denied then s.blockErr x.b (some (0x05, 0)) 0
      else if reply.geom then s.blockErr x.b (some (0x11, 0)) 0 else s := by
  unfold State.replied
  rw [hland, hpoison, htell]
  split
  case h_1 h => cases h
  case h_2 => split <;> rfl

theorem ErrSet.replied {B : Block} (hland : x.land = none) (hpoison : reply.poison = false) (htell : reply.tell = [])
    (hB : s.blocks.find x.b = some B) (hq : s.noErrors B) : ErrSet s (s.replied x reply) x.b B (B.replyErr reply) := by
  have coded (code : Nat) (hcode : code < 256) :
      B.coded code 0 ||| 0 = (B.err &&& 0xFF00#32) ||| BitVec.ofNat 32 code := by
    simp [Block.coded, Nat.mod_eq_of_lt hcode]
  rw [State.replied_of_sound hland hpoison htell]
  unfold Block.replyErr
  split
  case isTrue => exact coded 0x05 (by omega) ▸ .blockErr hB hq 0x05 0 0
  case isFalse =>
    split
    case isTrue => exact coded 0x11 (by omega) ▸ .blockErr hB hq 0x11 0 0
    case isFalse => exact .rfl hB

end Ack

/-! ## What waits for an acknowledgement (05 R139, 14 R357) -/

section Woken
variable {s : State} {b n : Nat} {B : Block} {S : Split}

theorem State.unacked_iff {p : Sent → Bool} : s.unacked b p = true ↔
    ∃ y, y ∈ s.eng.sent ∧ y.b = b ∧ y.land = none ∧ y.op.writes = true ∧ p y = true := by
  simp [State.unacked, and_assoc]

/-- A RECV's payload is on its way: a store sent at its number is not acknowledged. -/
def State.payloadOut (s : State) (b n : Nat) : Prop := ∃ y, y ∈ s.eng.sent ∧ y.b = b ∧ y.land = none ∧
  y.op.writes = true ∧ y.op.stores = true ∧ y.ent = n

theorem State.unacked_payload : s.unacked b (fun x => x.op.stores && x.ent = n) = true ↔ s.payloadOut b n := by
  simp [State.unacked_iff, State.payloadOut]

theorem State.wokenSplit_payload (hw : S.wait = .payload n) {_ : Decidable (s.payloadOut b n)} :
    s.wokenSplit b B S = if s.payloadOut b n then S else S.resumed := by
  simp only [State.wokenSplit, hw]
  exact if_congr State.unacked_payload rfl rfl

/-- A COMMIT's stores are all accepted: none numbered below its limit is buffered or unacknowledged, and no separator is owed
its write-back. -/
def State.commitDone (s : State) (b n : Nat) (B : Block) : Prop :=
  B.buf.all (fun e => decide (n ≤ e.1)) = true ∧ B.owesBack = false ∧
    ∀ y, y ∈ s.eng.sent → y.b = b → y.land = none → y.op.writes = true → y.op.stores = true → n ≤ y.ent

theorem State.wokenSplit_commit (hw : S.wait = .commit n) {_ : Decidable (s.commitDone b n B)} :
    s.wokenSplit b B S = if s.commitDone b n B then S.resumed else S := by
  simp only [State.wokenSplit, hw]
  refine if_congr ?_ rfl rfl
  simp [State.commitDone, State.unacked, and_assoc]

theorem State.wokenSplit_other (hp : ∀ n, S.wait ≠ .payload n) (hc : ∀ n, S.wait ≠ .commit n) :
    s.wokenSplit b B S = S := by
  unfold State.wokenSplit
  split
  case h_1 n hw => exact absurd hw (hp n)
  case h_2 n hw => exact absurd hw (hc n)
  case h_3 => rfl

end Woken

/-! ## A landing in another package (04 R123) -/

/-- Every entry that runs in `s` runs in `t`, with as many bytes landed and on their way. -/
def KeepsCounts (s t : State) : Prop := ∀ id r, s.eng.running.find id = some r →
  ∃ q, t.eng.running.find id = some q ∧ q.done = r.done ∧ q.flight = r.flight

theorem KeepsCounts.of_running {s t : State} (h : t.eng.running = s.eng.running) : KeepsCounts s t :=
  fun _ r hr => ⟨r, h ▸ hr, rfl, rfl⟩

theorem KeepsCounts.trans {s t u : State} (h : KeepsCounts s t) (k : KeepsCounts t u) : KeepsCounts s u := by
  intro id r hr
  obtain ⟨q, hq, hdone, hflight⟩ := h id r hr
  obtain ⟨q', hq', hdone', hflight'⟩ := k id q hq
  exact ⟨q', hq', hdone'.trans hdone, hflight'.trans hflight⟩

theorem KeepsCounts.foldl {α : Type} {f : State → α → State} (xs : List α) (h : ∀ s x, KeepsCounts s (f s x))
    (s : State) : KeepsCounts s (xs.foldl f s) :=
  List.foldlRecOn xs f (motive := KeepsCounts s) (.of_running rfl) fun t ht x _ => ht.trans (h t x)

theorem State.modRunning_running (s : State) (id : Nat) (f : Running → Running) :
    (s.modRunning id f).eng.running = s.eng.running.mod id f := rfl

theorem KeepsCounts.modOwed (s : State) (id : Nat) (p : Nat × Marks → Bool) :
    KeepsCounts s (s.modRunning id fun r => { r with owed := r.owed.filter p }) := by
  intro j r hr
  refine ⟨if j = id then { r with owed := r.owed.filter p } else r, ?_, ?_, ?_⟩
  · rw [State.modRunning_running, Tab.find_mod, hr]
    split <;> rfl
  · split <;> rfl
  · split <;> rfl

theorem KeepsCounts.payGuard (s : State) (id : Nat) (left : List Nat) : KeepsCounts s (s.payGuard id left) := by
  unfold State.payGuard
  split
  case h_1 => exact .of_running rfl
  case h_2 r _ =>
    have howed := KeepsCounts.modOwed s id fun o => !!o.2.any left.contains
    split
    case h_2 => exact howed
    case h_1 =>
      split
      case isFalse => exact howed
      case isTrue => exact howed.trans (.foldl _ (fun s o => .of_running (s.landAt_keeps ..).2.2) _)

/-- An entry with `n` more bytes landed and none on their way, which it owes its guard. -/
def Running.counted (n : Nat) (fl : Flags) (tiles : Marks) (r : Running) : Running :=
  { r with done := r.done + n, flight := 0, flags := r.flags ||| fl, owed := r.owed ++ [(n, tiles)] }

theorem State.landed_counts {s : State} {id : Nat} {r : Running} (hr : s.eng.running.find id = some r) (n : Nat) (fl : Flags) :
    ∃ q, (s.landed id n fl).eng.running.find id = some q ∧ q.done = r.done + n ∧ q.flight = 0 := by
  have hpay (tiles : Marks) (t : State) (ht : t.eng = (s.modRunning id (Running.counted n fl tiles)).eng) (us left : List Nat) :
      ∃ q, ((us.foldl (fun s u => s.regenTile u) t).payGuard id left).eng.running.find id = some q ∧
        q.done = r.done + n ∧ q.flight = 0 := by
    have hkeeps := (KeepsCounts.foldl us (fun s u => .of_running (t := s.regenTile u) rfl) t).trans (.payGuard _ id left)
    refine hkeeps id (Running.counted n fl tiles r) ?_
    rw [ht, State.modRunning_running, Tab.find_mod_same, hr, Option.map_some]
  unfold State.landed
  simp only [hr]
  exact hpay _ _ (by split <;> rfl) _ _

theorem State.landingBack_counts {s : State} {ch seq id : Nat} {r : Running} {reply : FabReply}
    (hfind : (s.eng.running.find? fun y => y.2.chain = ch && y.2.seq = seq) = some (id, r))
    (hr : s.eng.running.find id = some r) (hd : reply.denied = false) :
    ∃ q, (s.landingBack ch seq reply).eng.running.find id = some q ∧ q.done = r.done + r.flight ∧ q.flight = 0 := by
  unfold State.landingBack
  simp only [hfind, hd, Bool.false_eq_true, if_false]
  refine State.landed_counts ?_ _ _
  split
  · exact hr
  · exact hr

/-! ## Giving an operation up (08 R224) -/

section Abandon
variable {s : State} {dst : Nat} {k : FabId} {x : Sent}

theorem exec_abandoned_of_unsent (h : s.sentAs dst k = none) : exec (.operationAbandoned dst k) s = .next s := by
  show execOperationAbandoned dst k s = _
  simp only [execOperationAbandoned, h]

theorem exec_abandoned_of_reached (h : s.sentAs dst k = some x) (hr : s.ctl.reach.contains dst = true) :
    exec (.operationAbandoned dst k) s = .next s := by
  show execOperationAbandoned dst k s = _
  simp only [execOperationAbandoned, h, hr, if_true]

/-- An operation that is given up is held no more. -/
def State.dropSent (s : State) (x : Sent) : State := { s with eng := { s.eng with sent := s.eng.sent.erase x } }

theorem exec_abandoned (h : s.sentAs dst k = some x) (hr : s.ctl.reach.contains dst = false) (hland : x.land = none) :
    exec (.operationAbandoned dst k) s = .next ((((s.dropSent x).blockErr x.b (some (0x17, dst)) 0x2000#32).modBlk x.b
      fun B => { B with unreach := some dst }).wakeCommits x.b).tock := by
  show execOperationAbandoned dst k s = _
  simp only [execOperationAbandoned, h, hr, hland]
  rfl

theorem abandoned_marks_block (h : s.sentAs dst k = some x) (hr : s.ctl.reach.contains dst = false) (hland : x.land = none)
    {B : Block} (hB : s.blocks.find x.b = some B) (hq : s.noErrors B) :
    ∃ u B', exec (.operationAbandoned dst k) s = .next u ∧
        u.eng.sent = s.eng.sent.erase x ∧ u.blocks.find x.b = some B' ∧ B'.unreach = some dst ∧
        B'.err = ((B.err &&& 0xFF00#32) ||| BitVec.ofNat 32 (0x17 + dst % 65536 * 65536) ||| 0x2000#32) ∧ u.mem = s.mem ∧
        ∀ b, b ≠ x.b → u.blocks.find b = s.blocks.find b := by
  have herr := ErrSet.blockErr (s := s.dropSent x) hB hq 0x17 dst 0x2000#32
  rw [exec_abandoned h hr hland]
  generalize (s.dropSent x).blockErr x.b (some (0x17, dst)) 0x2000#32 = t at herr ⊢
  have hfind : (t.modBlk x.b fun B => { B with unreach := some dst }).blocks.find x.b =
      some { B with err := B.coded 0x17 dst ||| 0x2000#32, unreach := some dst } := by
    rw [State.modBlk_find, if_pos rfl, herr.find, Option.map_some]
  refine ⟨_, _, rfl, (congrArg Eng.sent herr.eng :), State.wakeCommits_find hfind, rfl, rfl, herr.mem, fun b hb => ?_⟩
  refine (State.wakeCommits_find_other _ hb).trans ?_
  rw [State.modBlk_find, if_neg hb, herr.other b hb]
  rfl

end Abandon

/-! ## Links (08 R224, 09 R235, R237) -/

theorem linksUp_of_down {links : Tab Lnk} (h : ∀ j, j ∈ links → j.2.up = false) : linksUp links = 0 := by
  refine List.foldlRecOn links _ (motive := fun n => n = 0) rfl fun n hn l hl => ?_
  rw [hn, h l hl]
  rfl

theorem Fetched.of_mem (s : State) (m : Store) (h : m.slice = s.mem.slice) : Fetched s { s with mem := m } := ⟨Eq.refl _, h⟩

theorem State.publish_fetched (s : State) : Fetched s s.publish := by
  unfold State.publish
  refine List.foldlRecOn _ _ (motive := Fetched s) .rfl fun t ht p _ => ht.trans ?_
  dsimp only
  split
  · exact .rfl
  · exact .of_mem t _ (Eq.refl _)

theorem State.publish_of_noPages {s : State} (h : ∀ p, p ∈ s.ctl.parts → p.2.cfg.status = 0) : s.publish = s := by
  unfold State.publish
  refine List.foldlRecOn _ _ (motive := fun t => t = s) rfl fun t ht p hp => ?_
  dsimp only
  rw [if_pos (h p hp), ht]

theorem Ctl.remaster_eq (C : Ctl) :
    C.remaster = { C with master := if C.reach.length + 1 = C.pods then 0 else C.master } := by
  unfold Ctl.remaster
  split <;> rfl

theorem Ctl.cutOff_eq (C : Ctl) : ∃ sync lost, C.cutOff = { C with sync := sync, lost := lost } := by
  unfold Ctl.cutOff
  split
  · exact ⟨C.sync, C.lost, rfl⟩
  · exact ⟨false, true, rfl⟩

section Link
variable {s : State} {k : Nat} {l : Lnk}

/-- The package's control with a link down, the packages no route leads to any more, and the clock's master as they follow. -/
def Ctl.linkDown (C : Ctl) (tick k : Nat) : Ctl :=
  Ctl.remaster (Ctl.cutOff { C with
    links := C.links.put k { up := false }, reach := C.reach.filter (routed tick (C.links.put k { up := false })) })

theorem Ctl.linkDown_eq (C : Ctl) (tick k : Nat) : ∃ sync lost, C.linkDown tick k = { C with
    links := C.links.put k { up := false }
    reach := C.reach.filter (routed tick (C.links.put k { up := false }))
    sync := sync, lost := lost
    master := if (C.reach.filter (routed tick (C.links.put k { up := false }))).length + 1 = C.pods then 0 else C.master } := by
  obtain ⟨sync, lost, h⟩ := Ctl.cutOff_eq { C with
    links := C.links.put k { up := false }, reach := C.reach.filter (routed tick (C.links.put k { up := false })) }
  exact ⟨sync, lost, by rw [Ctl.linkDown, h, Ctl.remaster_eq]⟩

/-- The state in which the event of a link's failure has been posted. -/
def State.linkLost (s : State) (k : Nat) : State :=
  { s with ctl := s.ctl.linkDown s.tick k }.event 7 2047 0 (Config.eventDetail s.tick)

theorem exec_linkFailure (hl : s.ctl.links.find k = some l) (hup : l.up = true) :
    exec (.linkFailure k) s = .next (s.linkLost k).publish.tock := by
  show execLinkFailure k s = _
  simp only [execLinkFailure, hl, hup]
  rfl

theorem exec_linkFailure_of_down (hl : s.ctl.links.find k = some l) (hup : l.up = false) :
    exec (.linkFailure k) s = .next s := by
  show execLinkFailure k s = _
  simp only [execLinkFailure, hl, hup]
  rfl

theorem link_failure_is_told (hl : s.ctl.links.find k = some l) (hup : l.up = true) :
    ∃ u, exec (.linkFailure k) s = .next u ∧ u.ctl.links.find k = some { up := false } ∧
      (∀ j, j ≠ k → u.ctl.links.find j = s.ctl.links.find j) ∧ (∃ e, e ∈ u.ctl.events ∧ e.code = 7) ∧
      (∀ p, p ∈ u.ctl.reach → p ∈ s.ctl.reach) ∧
      ((∀ j, j ∈ u.ctl.links → j.2.up = false) → u.ctl.reach = []) ∧
      u.ctl.master = (if u.ctl.reach.length + 1 = u.ctl.pods then 0 else s.ctl.master) ∧
      u.eng = s.eng ∧ u.mem.slice = s.mem.slice ∧ u.blocks = s.blocks ∧
      ((∀ p, p ∈ s.ctl.parts → p.2.cfg.status = 0) → u.mem = s.mem) := by
  obtain ⟨sync, lost, hdown⟩ := s.ctl.linkDown_eq s.tick k
  have hpub := (s.linkLost k).publish_fetched
  have hctl : (s.linkLost k).publish.tock.ctl = (s.linkLost k).ctl := hpub.only.ctl
  refine ⟨_, exec_linkFailure hl hup, ?_⟩
  rw [hctl]
  have hlost : (s.linkLost k).ctl = { s.ctl.linkDown s.tick k with events := (s.linkLost k).ctl.events } := rfl
  rw [hlost, hdown]
  refine ⟨Tab.find_put_same .., fun j hj => Tab.find_put_other _ _ hj,
    ⟨_, List.mem_append_right _ (List.mem_singleton.2 rfl), rfl⟩, fun p hp => List.mem_of_mem_filter hp, fun hall => ?_,
    rfl, hpub.only.eng, hpub.slice, hpub.only.blocks, fun hparts => ?_⟩
  · refine List.filter_eq_nil_iff.2 fun p _ => ?_
    simp [routed, linksUp_of_down hall]
  · have hnone : (s.linkLost k).publish = s.linkLost k := State.publish_of_noPages fun p hp => hparts p ?_
    · exact (congrArg State.mem hnone :)
    · rw [hlost, hdown] at hp
      exact hp

theorem flit_error_is_counted (hl : s.ctl.links.find k = some l) :
    ∃ u, exec (.linkFlitError k) s = .next u ∧ u.ctl.links.find k = some { l with retries := l.retries + 1 } ∧
      u.mem = s.mem ∧ u.blocks = s.blocks ∧ u.eng = s.eng :=
  ⟨_, rfl, by rw [Tab.find_mod_same, hl, Option.map_some], rfl, rfl, rfl⟩

end Link

/-! ## Mesh beats and the patrol scrub (08 R214) -/

theorem mesh_beat_is_retried (s : State) (core dir : Nat) :
    ∃ u, exec (.meshBeatError core dir) s = .next u ∧ u.mem = s.mem ∧ u.blocks = s.blocks ∧
    (s.ctl.beats.get 0 (8 * core + dir) < 16 → u.ctl.hops = s.ctl.hops ∧
      u.ctl.beats.get 0 (8 * core + dir) = s.ctl.beats.get 0 (8 * core + dir) + 1) ∧
    (16 ≤ s.ctl.beats.get 0 (8 * core + dir) → 8 * core + dir ∈ u.ctl.hops) := by
  refine ⟨_, rfl, rfl, rfl, fun h => ?_, fun h => ?_⟩
  · rw [if_neg (by omega)]
    exact ⟨rfl, by rw [Tab.get_put, if_pos rfl]⟩
  · rw [if_pos (by omega)]
    simp [Marks.add]

theorem scrub_mends_and_counts (s : State) (core : Nat) : ∃ u, exec (.patrolScrub core) s = .next u ∧
    (∀ k, k ∈ u.mem.flips ↔ k ∈ s.mem.flips ∧ 8 * k / 2 ^ 22 ≠ core) ∧
    (u.core core).cor = BitVec.ofNat 32 (min ((s.core core).cor.toNat +
      s.mem.flips.countP fun k => 8 * k / 2 ^ 22 = core) 0xFFFFFFFF) ∧
    u.mem.slice = s.mem.slice ∧ u.mem.slicePoison = s.mem.slicePoison ∧ u.blocks = s.blocks := by
  refine ⟨_, rfl, fun k => ?_, ?_, rfl, rfl, rfl⟩
  · simp [State.corrected]
  · rw [State.corrected, State.modCore_core_same]
    rfl

/-! ## The statement -/

/-- Settles O53: an acknowledgement and an abandonment by whether the operation is held and whether it carries a landing; the
links, the mesh and the scrub by one lemma each. -/
theorem linksRetryFailAndAbandon : Obligations.LinksRetryFailAndAbandon := by
  unfold Obligations.LinksRetryFailAndAbandon
  refine ⟨fun s dst k h => ⟨exec_acknowledgement_of_unsent h, exec_abandoned_of_unsent h⟩, fun s dst k x h => ?_,
    fun s k l hl => ⟨flit_error_is_counted hl, exec_linkFailure_of_down hl, link_failure_is_told hl⟩,
    mesh_beat_is_retried, scrub_mends_and_counts⟩
  intro left quiet woken
  refine ⟨fun reply B hland hpoison htell hB hq => ?_, fun reply ch q id r hland hpoison hdenied hfind hr => ?_,
    fun hr hland B hB hq => abandoned_marks_block h hr hland hB hq, exec_abandoned_of_reached h⟩
  · have herr := ErrSet.replied (s := s.letGo x) hland hpoison htell hB hq
    have hleft : ((s.letGo x).replied x reply).eng.sent = left := (congrArg Eng.sent herr.eng :)
    rw [exec_acknowledgement h]
    generalize (s.letGo x).replied x reply = v at herr hleft ⊢
    refine ⟨_, _, rfl, hleft, herr.mem, fun b hb => (State.wakeCommits_find_other _ hb).trans (herr.other b hb),
      State.wakeCommits_find herr.find, rfl, rfl, fun t e T S hT hS => ⟨_, State.wokenBlk_troupe _ _ hT, rfl, ?_⟩⟩
    rw [State.wokenTrp_split _ _ _ hS]
    clear_value left
    subst hleft
    obtain ⟨own, em, pc, age, wait, only⟩ := S
    cases wait
    case payload n => exact congrArg some (State.wokenSplit_payload rfl)
    case commit n => exact congrArg some (State.wokenSplit_commit rfl)
    all_goals exact congrArg some (State.wokenSplit_other nofun nofun)
  · have hreplied : (s.letGo x).replied x reply = (s.letGo x).landingBack ch q reply := by
      simp only [State.replied, hland, hpoison, Bool.false_eq_true, if_false]
    rw [exec_acknowledgement h, hreplied]
    obtain ⟨q', hq', hdone, hflight⟩ := State.landingBack_counts (s := s.letGo x) hfind hr hdenied
    exact ⟨_, q', rfl, hq', hdone, hflight⟩

end Sys2Proof.Machine

/-! PROOFS. Blocks, bins, graphs, nodes and gangs (06): O45, O54 to O57. First what these steps share: what reading memory
turns on, what the hardware's writes and sends leave alone. -/

namespace Sys2Proof.Machine

/-! ## What is read of memory -/

/-- The part of a state that reading slices, objects and pages turns on; the rest is as at reset. -/
def State.readState (s : State) : State where
  tick := s.tick
  mem := { slice := s.mem.slice, dev := s.mem.dev, keys := s.mem.keys, tlb := s.mem.tlb, tiles := s.mem.tiles }
  eng := { late := s.eng.late }
  ctl := { parts := s.ctl.parts, keySlots := s.ctl.keySlots, pkg := s.ctl.pkg }

/-- A translation finds, and leaves of what is read, what it does in the part that is read. -/
theorem State.translate_readState (s : State) (who part obj copy off : Nat) (write : Bool) :
    s.readState.translate who part obj copy off write =
      ((s.translate who part obj copy off write).1, (s.translate who part obj copy off write).2.readState) := by
  have push {p : Prop} [Decidable p] (x y : Xlate × State) : ((if p then x else y).1, (if p then x else y).2.readState) =
      if p then (x.1, x.2.readState) else (y.1, y.2.readState) := by split <;> rfl
  unfold State.translate
  dsimp only
  rw [show s.readState.obj part obj = s.obj part obj from rfl, show s.readState.mem.tlb = s.mem.tlb from rfl]
  cases s.mem.tlb.find (tlbKey who part obj copy (off / 2 ^ pageBits (s.obj part obj).psz)) <;> dsimp only <;>
    (repeat rw [push]) <;> rfl

theorem State.homeRead_readState (s : State) (who part obj copy off n : Nat) : s.readState.homeRead who part obj copy off n =
    (s.homeRead who part obj copy off n).map fun r => (r.1, r.2.readState) := by
  refine List.foldl_hom (Option.map fun r : List Byte × State => (r.1, r.2.readState)) (init := some ([], s)) fun r p => ?_
  cases r with
  | none => rfl
  | some r =>
    dsimp only [Option.map_some]
    rw [State.translate_readState]
    obtain ⟨x, t⟩ := r.2.translate who part obj copy p.1 false
    cases x <;> rfl

theorem State.waRead_readState (s : State) (part wa n : Nat) : s.readState.waRead part wa n = s.waRead part wa n := by
  unfold State.waRead
  rw [State.homeRead_readState, Option.map_map]
  rfl

section Reads
variable {s t : State} (h : t.readState = s.readState)
include h

theorem State.waRead_congr (part wa n : Nat) : t.waRead part wa n = s.waRead part wa n := by
  rw [← t.waRead_readState, h, s.waRead_readState]

theorem State.waNat_congr (part wa n : Nat) : t.waNat part wa n = s.waNat part wa n := by
  unfold State.waNat
  rw [State.waRead_congr h]

theorem State.nodeNat_congr (G : Graph) (n off len : Nat) : t.nodeNat G n off len = s.nodeNat G n off len :=
  State.waNat_congr h ..

theorem State.tabEntry_congr (K : Task) (i : Nat) : t.tabEntry K i = s.tabEntry K i := State.waNat_congr h ..

theorem State.waAbsent_congr (part wa n : Nat) : t.waAbsent part wa n = s.waAbsent part wa n := by
  unfold State.waAbsent
  rw [State.waRead_congr h]
  have names : t.waNames part wa n = s.waNames part wa n := (congrArg (State.waNames · part wa n) h :)
  have given : t.keyGiven part (t.obj part (bits wa 63 40)) = s.keyGiven part (s.obj part (bits wa 63 40)) :=
    (congrArg (fun s : State => s.keyGiven part (s.obj part (bits wa 63 40))) h :)
  rw [names, given]

theorem State.capOwned_congr (part : Nat) (c : CapReg) : t.capOwned part c = s.capOwned part c :=
  (congrArg (State.capOwned · part c) h :)

theorem State.tilesBad_congr (part table : Nat) : t.tilesBad part table = s.tilesBad part table := by
  unfold State.tilesBad
  have region : t.tileRegion? = s.tileRegion? := (congrArg State.tileRegion? h :)
  simp only [State.waNat_congr h, region]

theorem State.launchOf_congr (part : Nat) (super bin : Bool) (x : Nat) :
    t.launchOf part super bin x = s.launchOf part super bin x := by
  unfold State.launchOf
  have parts : t.ctl.parts = s.ctl.parts := (congrArg (·.ctl.parts) h :)
  have tick : t.tick = s.tick := (congrArg State.tick h :)
  simp only [State.waAbsent_congr h, State.waRead_congr h, State.tilesBad_congr h, parts, tick]

theorem State.readLaunch_congr (g n : Nat) (G : Graph) (bin : Bool) : t.readLaunch g n G bin = s.readLaunch g n G bin := by
  unfold State.readLaunch
  have tick : t.tick = s.tick := (congrArg State.tick h :)
  simp only [State.nodeNat_congr h, State.waAbsent_congr h, State.waRead_congr h, State.launchOf_congr h, tick]

theorem State.condWord_congr (G : Graph) (n : Nat) : t.condWord G n = s.condWord G n := by
  unfold State.condWord
  simp only [State.nodeNat_congr h, State.waAbsent_congr h, State.waRead_congr h]

theorem State.nodeEdges_congr (G : Graph) (n : Nat) : t.nodeEdges G n = s.nodeEdges G n := by
  simp only [State.nodeEdges, State.nodeNext, State.nodeAlt, State.nodeErr, State.nodeBody, State.nodeNat_congr h]

theorem State.reachable_congr (G : Graph) (w : Nat) (fuel : Nat) (front : List Nat) (seen : Marks) :
    t.reachable G w fuel front seen = s.reachable G w fuel front seen := by
  induction fuel generalizing front seen with
  | zero => rfl
  | succ k ih =>
    cases front with
    | nil => rfl
    | cons x r => simp only [State.reachable, ih, State.nodeEdges_congr h]

theorem State.bodyOf_congr (G : Graph) (w : Nat) : t.bodyOf G w = s.bodyOf G w := by
  simp only [State.bodyOf, State.nodeBody, State.nodeNat_congr h, State.reachable_congr h]

end Reads

end Sys2Proof.Machine

namespace Sys2Proof.Machine

/-! ## What is sent to other packages -/

/-- `t` is `s` but for operations more on their way to other packages. -/
structure OnlySent (s t : State) : Prop where
  only : t = { s with eng := { s.eng with seqOut := t.eng.seqOut, sent := t.eng.sent } }
  sent : s.eng.sent ⊆ t.eng.sent

theorem OnlySent.rfl {s : State} : OnlySent s s := ⟨Eq.refl _, fun _ h => h⟩

theorem OnlySent.trans {s t u : State} (h : OnlySent s t) (k : OnlySent t u) : OnlySent s u :=
  ⟨Eq.trans k.only (congrArg (fun x : State => { x with eng := { x.eng with seqOut := u.eng.seqOut, sent := u.eng.sent } })
    h.only), fun _ hx => k.sent (h.sent hx)⟩

theorem OnlySent.send (s : State) (dst b : Nat) (op : FabOp) : OnlySent s (s.send dst b op) :=
  ⟨Eq.refl _, fun _ h => List.mem_append_left _ h⟩

theorem OnlySent.foldl {α : Type} {f : State → α → State} (xs : List α) (h : ∀ s x, OnlySent s (f s x)) (s : State) :
    OnlySent s (xs.foldl f s) :=
  List.foldlRecOn xs f (motive := OnlySent s) .rfl fun _ ht x _ => ht.trans (h _ x)

theorem OnlySent.blocks {s t : State} (h : OnlySent s t) : t.blocks = s.blocks := (congrArg State.blocks h.only :)
theorem OnlySent.tasks {s t : State} (h : OnlySent s t) : t.tasks = s.tasks := (congrArg State.tasks h.only :)
theorem OnlySent.graphs {s t : State} (h : OnlySent s t) : t.graphs = s.graphs := (congrArg State.graphs h.only :)
theorem OnlySent.mem {s t : State} (h : OnlySent s t) : t.mem = s.mem := (congrArg State.mem h.only :)
theorem OnlySent.ctl {s t : State} (h : OnlySent s t) : t.ctl = s.ctl := (congrArg State.ctl h.only :)
theorem OnlySent.fresh {s t : State} (h : OnlySent s t) : t.fresh = s.fresh := (congrArg State.fresh h.only :)
theorem OnlySent.gangs {s t : State} (h : OnlySent s t) : t.eng.gangs = s.eng.gangs := (congrArg (·.eng.gangs) h.only :)
theorem OnlySent.rest {s t : State} (h : OnlySent s t) : { t with eng := s.eng } = s :=
  (congrArg (fun x : State => { x with eng := s.eng }) h.only :)
theorem OnlySent.readState {s t : State} (h : OnlySent s t) : t.readState = s.readState :=
  (congrArg State.readState h.only :)

/-- An operation for a package is among those on their way in `t`. -/
def State.Tells (t : State) (dst : Nat) (op : FabOp) : Prop := ∃ x ∈ t.eng.sent, x.dst = dst ∧ x.op = op

theorem State.Tells.mono {s t : State} {dst : Nat} {op : FabOp} (h : s.Tells dst op) (hs : s.eng.sent ⊆ t.eng.sent) :
    t.Tells dst op := by
  obtain ⟨x, hx, hop⟩ := h
  exact ⟨x, hs hx, hop⟩

theorem State.send_tells (s : State) (dst b : Nat) (op : FabOp) : (s.send dst b op).Tells dst op := by
  obtain ⟨x, hx, hop⟩ := s.send_sent dst b op
  exact ⟨x, hx ▸ List.mem_append_right _ (List.mem_singleton_self x), hop⟩

/-- What one step of a fold sends is on its way after the fold. -/
theorem foldl_tells {α : Type} {f : State → α → State} {xs : List α} {dst : Nat} {op : FabOp} {a : α} (ha : a ∈ xs)
    (hsent : ∀ s x, OnlySent s (f s x)) (s : State) (htell : ∀ t, OnlySent s t → (f t a).Tells dst op) : (xs.foldl f s).Tells dst op := by
  obtain ⟨before, after, rfl⟩ := List.append_of_mem ha
  rw [List.foldl_append, List.foldl_cons]
  exact (htell _ (OnlySent.foldl before hsent s)).mono (OnlySent.foldl after hsent _).sent

theorem State.tellGang_sent (s : State) (A : Gang) (m : GangMsg) : OnlySent s (s.tellGang A m) :=
  OnlySent.foldl _ (fun s _ => .send s _ _ _) s

theorem State.tellGang_tells (s : State) {A : Gang} {p : Nat} (m : GangMsg) (hp : p ∈ A.mask) (hself : p ≠ s.ctl.pkg) :
    (s.tellGang A m).Tells p (.gang m) :=
  foldl_tells (f := fun s p => s.send p 0 (.gang m)) (List.mem_filter.2 ⟨hp, decide_eq_true hself⟩)
    (fun s _ => .send s _ _ _) s (fun t _ => t.send_tells p 0 (.gang m))

theorem State.clearFar_sent (s : State) (k : Nat) : OnlySent s (s.clearFar k) :=
  OnlySent.foldl _ (fun s _ => .send s _ _ _) s

theorem State.clearFar_tells {s : State} {k p : Nat} {K : Task} (hK : s.tasks.find k = some K) (hp : p ∈ K.farGuards) :
    (s.clearFar k).Tells p (.cleared k) := by
  unfold State.clearFar
  rw [hK]
  exact foldl_tells (f := fun s p => s.send p 0 (.cleared k)) hp (fun s _ => .send s _ _ _)
    s (fun t _ => t.send_tells p 0 (.cleared k))

/-! ## What the hardware writes at a word address -/

/-- `t` is `s` but for memory, operations more on their way, writes that wait, and events. -/
structure Written (s t : State) : Prop where
  only : t = { s with
    mem := t.mem
    eng := { s.eng with seqOut := t.eng.seqOut, sent := t.eng.sent, late := t.eng.late }
    ctl := { s.ctl with events := t.ctl.events } }
  sent : s.eng.sent ⊆ t.eng.sent

theorem Written.rfl {s : State} : Written s s := ⟨Eq.refl _, fun _ h => h⟩

theorem Written.trans {s t u : State} (h : Written s t) (k : Written t u) : Written s u :=
  ⟨Eq.trans k.only (congrArg (fun x : State => { x with
      mem := u.mem
      eng := { x.eng with seqOut := u.eng.seqOut, sent := u.eng.sent, late := u.eng.late }
      ctl := { x.ctl with events := u.ctl.events } }) h.only), fun _ hx => k.sent (h.sent hx)⟩

theorem Written.ofMem {s : State} (m : Store) : Written s { s with mem := m } := ⟨Eq.refl _, fun _ h => h⟩

theorem Written.sendAs (s : State) (dst b : Nat) (op : FabOp) (ent epoch : Nat) : Written s (s.sendAs dst b op ent epoch) :=
  ⟨Eq.refl _, fun _ h => List.mem_append_left _ h⟩

theorem Written.blocks {s t : State} (h : Written s t) : t.blocks = s.blocks := (congrArg State.blocks h.only :)
theorem Written.tasks {s t : State} (h : Written s t) : t.tasks = s.tasks := (congrArg State.tasks h.only :)
theorem Written.cores {s t : State} (h : Written s t) : t.cores = s.cores := (congrArg State.cores h.only :)
theorem Written.graphs {s t : State} (h : Written s t) : t.graphs = s.graphs := (congrArg State.graphs h.only :)
theorem Written.fresh {s t : State} (h : Written s t) : t.fresh = s.fresh := (congrArg State.fresh h.only :)
theorem Written.parts {s t : State} (h : Written s t) : t.ctl.parts = s.ctl.parts := (congrArg (·.ctl.parts) h.only :)

theorem State.devWrite_written (s : State) (key a : Nat) (bs : List Byte) : Written s (s.devWrite key a bs) := by
  refine (List.foldlRecOn (unitsOf 128 a bs.length) _ (motive := Written s) .rfl fun t ht u _ => ht.trans ?_).trans (.ofMem _)
  unfold State.rekey
  split
  · exact .rfl
  · exact .ofMem _

theorem State.setD_written (s : State) (part obj copy off : Nat) : Written s (s.setD part obj copy off) := by
  unfold State.setD
  dsimp only
  split
  · exact .rfl
  · exact .ofMem _

theorem State.translate_written (s : State) (who part obj copy off : Nat) (write : Bool) :
    Written s (s.translate who part obj copy off write).2 := by
  simp only [State.translate]
  repeat' split
  all_goals exact .ofMem _

theorem State.homeWrite_written {s t : State} {who part obj copy off b : Nat} {bs : List Byte}
    (h : s.homeWrite who part obj copy off b bs = some t) : Written s t := by
  unfold State.homeWrite at h
  rw [Option.map_eq_some_iff] at h
  obtain ⟨⟨k, t'⟩, h, rfl⟩ := h
  refine foldl_option_rel (R := Written) Written.trans (fun _ => rfl) (fun {k s x k' t} h => ?_) .rfl h
  have hw := s.translate_written who part obj copy x.1 true
  dsimp only at h
  split at h
  case h_1 a s1 ht =>
    cases h
    rw [ht] at hw
    exact hw.trans ((s1.devWrite_written _ _ _).trans (State.setD_written _ _ _ _ _))
  case h_2 ht =>
    cases h
    rw [ht] at hw
    exact hw.trans (.sendAs _ _ _ _ _ _)
  case h_3 => cases h

theorem State.writeLate_written (s : State) (x : Late) : Written s (s.writeLate x) := ⟨rfl, fun _ h => h⟩

theorem State.waWrite_written (s : State) (part wa : Nat) (bs : List Byte) : Written s (s.waWrite part wa bs) := by
  simp only [State.waWrite]
  split
  · exact .rfl
  split
  · unfold State.sliceStore
    split
    · exact .ofMem _
    · exact .sendAs _ _ _ _ _ _
  split
  · exact .rfl
  split
  · exact s.writeLate_written _
  · cases h : s.homeWrite ioAsks part (bits wa 63 40) ((s.obj part (bits wa 63 40)).copy false) (bits wa 39 0) 0 bs with
    | none => exact s.writeLate_written _
    | some t => exact State.homeWrite_written h

/-! ## What a write leaves does not turn on the graphs -/

/-- A change of graphs before a translation is one after it. -/
theorem State.translate_modGraph (s : State) (g : Nat) (f : Graph → Graph) (who part obj copy off : Nat) (write : Bool) :
    (s.modGraph g f).translate who part obj copy off write =
      ((s.translate who part obj copy off write).1, (s.translate who part obj copy off write).2.modGraph g f) := by
  have push {p : Prop} [Decidable p] (x y : Xlate × State) : ((if p then x else y).1, (if p then x else y).2.modGraph g f) =
      if p then (x.1, x.2.modGraph g f) else (y.1, y.2.modGraph g f) := by split <;> rfl
  unfold State.translate
  dsimp only
  rw [show (s.modGraph g f).obj part obj = s.obj part obj from rfl, State.modGraph_mem]
  cases s.mem.tlb.find (tlbKey who part obj copy (off / 2 ^ pageBits (s.obj part obj).psz)) <;> dsimp only <;>
    (repeat rw [push]) <;> rfl

theorem State.devWrite_modGraph (s : State) (g : Nat) (f : Graph → Graph) (key a : Nat) (bs : List Byte) :
    (s.modGraph g f).devWrite key a bs = (s.devWrite key a bs).modGraph g f := by
  have rekey (s : State) (u : Nat) : (s.modGraph g f).rekey key u = (s.rekey key u).modGraph g f := by
    unfold State.rekey
    rw [State.modGraph_mem]
    split <;> rfl
  unfold State.devWrite
  rw [List.foldl_hom (fun s : State => s.modGraph g f) fun s u => rekey s u]
  rfl

theorem State.setD_modGraph (s : State) (g : Nat) (f : Graph → Graph) (part obj copy off : Nat) :
    (s.modGraph g f).setD part obj copy off = (s.setD part obj copy off).modGraph g f := by
  unfold State.setD
  rw [show (s.modGraph g f).obj part obj = s.obj part obj from rfl]
  dsimp only
  split <;> rfl

theorem State.homeWrite_modGraph (s : State) (g : Nat) (f : Graph → Graph) (who part obj copy off b : Nat) (bs : List Byte) :
    (s.modGraph g f).homeWrite who part obj copy off b bs =
      (s.homeWrite who part obj copy off b bs).map fun t => t.modGraph g f := by
  unfold State.homeWrite
  rw [Option.map_map]
  refine Eq.trans (congrArg (Option.map Prod.snd) (List.foldl_hom
    (Option.map fun r : Nat × State => (r.1, r.2.modGraph g f)) (init := some (0, s)) fun r p => ?_)) (Option.map_map ..)
  cases r with
  | none => rfl
  | some r =>
    dsimp only [Option.map_some]
    rw [State.translate_modGraph]
    obtain ⟨x, t⟩ := r.2.translate who part obj copy p.1 true
    cases x
    case dev a =>
      refine congrArg (fun u => some (r.1 + p.2, u)) ?_
      exact (congrArg (State.setD · part obj copy p.1) (t.devWrite_modGraph g f _ a _)).trans (State.setD_modGraph ..)
    all_goals rfl

theorem State.waWrite_modGraph (s : State) (g : Nat) (f : Graph → Graph) (part wa : Nat) (bs : List Byte) :
    (s.modGraph g f).waWrite part wa bs = (s.waWrite part wa bs).modGraph g f := by
  unfold State.waWrite
  dsimp only
  rw [State.homeWrite_modGraph, show (s.modGraph g f).waNames part wa bs.length = s.waNames part wa bs.length from rfl,
    show (s.modGraph g f).obj = s.obj from rfl, show (s.modGraph g f).keyGiven = s.keyGiven from rfl, State.modGraph_eng]
  split
  · rfl
  split
  · unfold State.sliceStore
    rw [show (s.modGraph g f).here = s.here from rfl]
    split <;> rfl
  split
  · rfl
  split
  · rfl
  · cases s.homeWrite ioAsks part (bits wa 63 40) ((s.obj part (bits wa 63 40)).copy false) (bits wa 39 0) 0 bs <;> rfl

end Sys2Proof.Machine

namespace Sys2Proof.Machine

/-! ## The ends of nodes (06 R166, R167) -/

/-- `t` is `s` but for graphs, memory, operations more on their way, writes that wait, and events. -/
structure Worked (s t : State) : Prop where
  only : t = { s with
    graphs := t.graphs
    mem := t.mem
    eng := { s.eng with seqOut := t.eng.seqOut, sent := t.eng.sent, late := t.eng.late }
    ctl := { s.ctl with events := t.ctl.events } }
  sent : s.eng.sent ⊆ t.eng.sent

theorem Worked.rfl {s : State} : Worked s s := ⟨Eq.refl _, fun _ h => h⟩

theorem Worked.trans {s t u : State} (h : Worked s t) (k : Worked t u) : Worked s u :=
  ⟨Eq.trans k.only (congrArg (fun x : State => { x with
      graphs := u.graphs
      mem := u.mem
      eng := { x.eng with seqOut := u.eng.seqOut, sent := u.eng.sent, late := u.eng.late }
      ctl := { x.ctl with events := u.ctl.events } }) h.only), fun _ hx => k.sent (h.sent hx)⟩

theorem Worked.blocks {s t : State} (h : Worked s t) : t.blocks = s.blocks := (congrArg State.blocks h.only :)
theorem Worked.tasks {s t : State} (h : Worked s t) : t.tasks = s.tasks := (congrArg State.tasks h.only :)
theorem Worked.cores {s t : State} (h : Worked s t) : t.cores = s.cores := (congrArg State.cores h.only :)

theorem Written.worked {s t : State} (h : Written s t) : Worked s t :=
  ⟨Eq.trans h.only (congrArg (fun gs => { s with
    graphs := gs
    mem := t.mem
    eng := { s.eng with seqOut := t.eng.seqOut, sent := t.eng.sent, late := t.eng.late }
    ctl := { s.ctl with events := t.ctl.events } }) h.graphs.symm), h.sent⟩

theorem Worked.modGraph (s : State) (g : Nat) (f : Graph → Graph) : Worked s (s.modGraph g f) := ⟨Eq.refl _, fun _ h => h⟩

theorem State.nodeCode_written (s : State) (G : Graph) (n code detail : Nat) : Written s (s.nodeCode G n code detail) :=
  s.waWrite_written _ _ _

/-- A node's code is written whatever the graphs are. -/
theorem State.nodeCode_modGraph (s : State) (g : Nat) (f : Graph → Graph) (G : Graph) (n code detail : Nat) :
    (s.modGraph g f).nodeCode G n code detail = (s.nodeCode G n code detail).modGraph g f := s.waWrite_modGraph g f _ _ _

theorem State.endGraph_worked (s : State) (g code n : Nat) : Worked s (s.endGraph g code n) := .modGraph ..

theorem State.takeEdge_worked (s : State) (g src dst : Nat) : Worked s (s.takeEdge g src dst) := by
  unfold State.takeEdge
  split
  · exact .rfl
  dsimp only
  split
  · exact .rfl
  split
  · exact .rfl
  split
  · exact (s.nodeCode_written _ _ _ _).worked.trans (State.endGraph_worked _ _ _ _)
  · exact .modGraph ..

/-- A graph one of whose nodes runs no more. -/
def Graph.closed (n : Nat) (G : Graph) : Graph := { G with
  running := Marks.del G.running n, loops := Marks.del G.loops n, engines := G.engines.del n, gangs := G.gangs.del n }

theorem State.nodeErr_modGraph (s : State) (g : Nat) (f : Graph → Graph) (G : Graph) (n : Nat) :
    (s.modGraph g f).nodeErr G n = s.nodeErr G n := State.nodeNat_congr (s := s) (t := s.modGraph g f) rfl ..

section Ends
variable {s : State} {g : Nat} {G : Graph} (hG : s.graphs.find g = some G)
include hG

theorem State.modGraph_find (f : Graph → Graph) : (s.modGraph g f).graphs.find g = some (f G) := by
  rw [State.modGraph_graphs, Tab.find_mod_same, hG, Option.map_some]

/-- Taking an edge concerns the in-degree of its end, what is ready and the end of the graph. -/
theorem State.takeEdge_keeps (src dst : Nat) : ∃ H, (s.takeEdge g src dst).graphs.find g = some H ∧
    { H with indeg := G.indeg, ready := G.ready, since := G.since, ended := G.ended } = G ∧
    ∀ m, m ≠ dst → H.indeg.get 0 m = G.indeg.get 0 m := by
  unfold State.takeEdge
  simp only [hG]
  split
  · exact ⟨G, hG, rfl, fun _ _ => rfl⟩
  split
  · exact ⟨G, hG, rfl, fun _ _ => rfl⟩
  split
  · exact ⟨_, State.modGraph_find (((s.nodeCode_written ..).graphs ▸ hG :)) _, rfl, fun _ _ => rfl⟩
  · exact ⟨_, State.modGraph_find hG _, rfl, fun m hm => (Tab.get_put ..).trans (if_neg hm)⟩

theorem State.takeEdge_noEdge (src : Nat) : s.takeEdge g src noEdge = s := by
  simp [State.takeEdge, hG]

/-- An edge to a node that runs no loop counts at the node, which is ready with the last; one too many ends the graph. -/
theorem State.takeEdge_counts {src dst : Nat} (he : dst ≠ noEdge) (hended : G.ended = none) (hl : dst ∉ G.loops) :
    ∃ H, (s.takeEdge g src dst).graphs.find g = some H ∧
      (G.indeg.get 0 dst ≠ 0 → (s.takeEdge g src dst).mem = s.mem ∧ H.indeg.get 0 dst = G.indeg.get 0 dst - 1 ∧
        H.ready = (if G.indeg.get 0 dst = 1 then Marks.add G.ready dst else G.ready) ∧ H.ended = none) ∧
      (G.indeg.get 0 dst = 0 → H.ended = some (0x01, src)) := by
  by_cases hd : G.indeg.get 0 dst = 0
  · have heq : s.takeEdge g src dst = (s.nodeCode G src 0x01 dst).endGraph g 0x01 src := by
      simp [State.takeEdge, hG, he, hended, hl, hd]
    have hw : (s.nodeCode G src 0x01 dst).graphs.find g = some G := (s.nodeCode_written ..).graphs ▸ hG
    rw [heq]
    exact ⟨_, State.modGraph_find hw _, fun h => absurd hd h, fun _ => by rw [hended]; rfl⟩
  · have heq : s.takeEdge g src dst = s.modGraph g fun H => { H with
        indeg := H.indeg.put dst (G.indeg.get 0 dst - 1)
        ready := if G.indeg.get 0 dst = 1 then Marks.add H.ready dst else H.ready
        since := if G.indeg.get 0 dst = 1 then H.since.put dst s.ctl.clk.toNat else H.since } := by
      simp [State.takeEdge, hG, he, hended, hl, hd]
    rw [heq]
    exact ⟨_, State.modGraph_find hG _, fun _ => ⟨rfl, (Tab.get_put ..).trans (if_pos rfl), rfl, hended⟩, fun h => absurd h hd⟩

/-- The end of a node: its code is written, it runs no more, and the edge of its code is taken. -/
theorem State.endNode_eq (n code detail dst : Nat) : s.endNode g n code detail dst =
    let w := s.nodeCode G n code detail
    let t := w.modGraph g (Graph.closed n)
    if code = 0 then t.takeEdge g n dst
    else if w.nodeErr G n = noEdge then t.endGraph g code n else t.takeEdge g n (w.nodeErr G n) := by
  dsimp only
  generalize hw : s.nodeCode G n code detail = w
  rw [← State.nodeErr_modGraph w g (Graph.closed n)]
  simp only [State.endNode, hG, hw]
  rfl

theorem State.endNode_worked (n code detail dst : Nat) : Worked s (s.endNode g n code detail dst) := by
  rw [State.endNode_eq hG]
  have ht : Worked s ((s.nodeCode G n code detail).modGraph g (Graph.closed n)) :=
    (s.nodeCode_written ..).worked.trans (.modGraph ..)
  dsimp only
  split
  · exact ht.trans (State.takeEdge_worked ..)
  split
  · exact ht.trans (State.endGraph_worked ..)
  · exact ht.trans (State.takeEdge_worked ..)

theorem State.endNode_ends (n code detail dst : Nat) :
    EndsNode s (s.endNode g n code detail dst) g n G code detail dst := by
  have work := State.endNode_worked hG n code detail dst
  have ht : ((s.nodeCode G n code detail).modGraph g (Graph.closed n)).graphs.find g = some (G.closed n) :=
    State.modGraph_find ((s.nodeCode_written ..).graphs ▸ hG) _
  have gone : n ∉ (G.closed n).running := fun h => by simpa using (List.mem_filter.1 h).2
  have free {e : Nat} (h : e ∉ G.loops) : e ∉ (G.closed n).loops := fun h' => h (List.mem_filter.1 h').1
  unfold EndsNode
  rw [State.endNode_eq hG] at work ⊢
  dsimp only at work ⊢
  generalize he : (if code = 0 then dst else (s.nodeCode G n code detail).nodeErr G n) = e
  generalize hw : s.nodeCode G n code detail = w at *
  by_cases hn : e = noEdge
  · subst hn
    by_cases hc : code = 0
    · subst hc
      obtain rfl : dst = noEdge := he
      rw [if_pos rfl, State.takeEdge_noEdge ht] at work ⊢
      exact ⟨_, ht, gone, work.blocks, work.tasks, fun _ => ⟨rfl, rfl, fun _ => ⟨rfl, rfl⟩, fun h => absurd rfl h⟩,
        fun h => absurd rfl h⟩
    · rw [if_neg hc] at he
      rw [if_neg hc, if_pos he] at work ⊢
      exact ⟨_, State.modGraph_find ht _, gone, work.blocks, work.tasks,
        fun _ => ⟨rfl, rfl, fun h => absurd h hc, fun _ => ⟨rfl, rfl⟩⟩, fun h => absurd rfl h⟩
  · have heq : (if code = 0 then (w.modGraph g (Graph.closed n)).takeEdge g n dst
        else if w.nodeErr G n = noEdge then (w.modGraph g (Graph.closed n)).endGraph g code n
        else (w.modGraph g (Graph.closed n)).takeEdge g n (w.nodeErr G n)) =
        (w.modGraph g (Graph.closed n)).takeEdge g n e := by
      subst he
      by_cases hc : code = 0
      · simp only [if_pos hc]
      · simp only [if_neg hc] at hn ⊢
        rw [if_neg hn]
    rw [heq] at work ⊢
    obtain ⟨H, hH, rest, other⟩ := State.takeEdge_keeps ht n e
    refine ⟨H, hH, (congrArg Graph.running rest :) ▸ gone, work.blocks, work.tasks, fun h => absurd h hn,
      fun _ hended hl => ?_⟩
    obtain ⟨H', hH', counts, none'⟩ := State.takeEdge_counts ht (src := n) hn hended (free hl)
    obtain rfl : H' = H := Option.some.inj (hH'.symm.trans hH)
    refine ⟨fun hd => ?_, fun hd => ?_, none', other⟩
    · obtain ⟨hm, hi, hr, hn⟩ := counts (Nat.ne_of_gt (Nat.zero_lt_of_lt hd))
      exact ⟨hm, hi, hr.trans (if_neg (Nat.ne_of_gt hd)), hn⟩
    · obtain ⟨hm, hi, hr, hn⟩ := counts (hd.symm ▸ Nat.one_ne_zero)
      exact ⟨hm, hi.trans (congrArg (· - 1) hd), hr.trans (if_pos hd), hn⟩

end Ends

/-- What the end of a node leaves does not turn on how often its graph's loops have run. -/
theorem EndsNode.of_iters {s u : State} {g n : Nat} {G : Graph} {iters : Tab Nat} {f : Graph → Graph} {code detail dst : Nat}
    (h : EndsNode (s.modGraph g f) u g n { G with iters := iters } code detail dst) : EndsNode s u g n G code detail dst := by
  have code_eq : (s.modGraph g f).nodeCode { G with iters := iters } n code detail =
      (s.nodeCode G n code detail).modGraph g f := s.nodeCode_modGraph g f G n code detail
  unfold EndsNode at h ⊢
  simp only [code_eq, State.nodeErr_modGraph] at h
  exact h

end Sys2Proof.Machine

namespace Sys2Proof.Machine

/-! ## Tasks and the placement of their blocks (06 R170, 04 R111) -/

/-- `t` is `s` but for guard bits newly set for task `k`, the packages it has told of some, and what is sent there. -/
structure SetsGuards (k : Nat) (s t : State) : Prop where
  only : t = { s with
    mem := { s.mem with guards := t.mem.guards }
    tasks := t.tasks
    eng := { s.eng with seqOut := t.eng.seqOut, sent := t.eng.sent } }
  sent : s.eng.sent ⊆ t.eng.sent
  kept : ∀ x j, s.mem.guards.find x = some j → t.mem.guards.find x = some j
  fresh : ∀ x, s.mem.guards.find x = none → t.mem.guards.find x = none ∨ t.mem.guards.find x = some k
  task : ∀ K, s.tasks.find k = some K → ∃ L, t.tasks.find k = some L ∧ { L with farGuards := K.farGuards } = K ∧
    K.farGuards ⊆ L.farGuards

theorem SetsGuards.refl {k : Nat} {s : State} : SetsGuards k s s :=
  ⟨rfl, fun _ h => h, fun _ _ h => h, fun _ h => .inl h, fun K h => ⟨K, h, rfl, fun _ h => h⟩⟩

theorem SetsGuards.trans {k : Nat} {s t u : State} (h : SetsGuards k s t) (i : SetsGuards k t u) : SetsGuards k s u where
  only := i.only.trans (congrArg (fun x : State => { x with
    mem := { x.mem with guards := u.mem.guards }
    tasks := u.tasks
    eng := { x.eng with seqOut := u.eng.seqOut, sent := u.eng.sent } }) h.only)
  sent _ hx := i.sent (h.sent hx)
  kept x j hx := i.kept x j (h.kept x j hx)
  fresh x hx := (h.fresh x hx).elim (i.fresh x) fun hk => .inr (i.kept x k hk)
  task K hK := by
    obtain ⟨L, hL, hrest, hfar⟩ := h.task K hK
    obtain ⟨M, hM, hrest', hfar'⟩ := i.task L hL
    exact ⟨M, hM, by rw [← hrest, ← hrest'], fun _ hx => hfar' (hfar hx)⟩

theorem SetsGuards.readState {k : Nat} {s t : State} (h : SetsGuards k s t) : t.readState = s.readState :=
  (congrArg State.readState h.only :)
theorem SetsGuards.here {k : Nat} {s t : State} (h : SetsGuards k s t) : t.here = s.here := (congrArg State.here h.only :)
theorem SetsGuards.blocks {k : Nat} {s t : State} (h : SetsGuards k s t) : t.blocks = s.blocks :=
  (congrArg State.blocks h.only :)
theorem SetsGuards.graphs {k : Nat} {s t : State} (h : SetsGuards k s t) : t.graphs = s.graphs :=
  (congrArg State.graphs h.only :)
theorem SetsGuards.stateFresh {k : Nat} {s t : State} (h : SetsGuards k s t) : t.fresh = s.fresh :=
  (congrArg State.fresh h.only :)
theorem SetsGuards.mem {k : Nat} {s t : State} (h : SetsGuards k s t) : { t.mem with guards := s.mem.guards } = s.mem :=
  (congrArg (fun x : State => { x.mem with guards := s.mem.guards }) h.only :)
theorem SetsGuards.ctl {k : Nat} {s t : State} (h : SetsGuards k s t) : t.ctl = s.ctl := (congrArg State.ctl h.only :)

/-- A member of a set stays one as a number is put into it. -/
theorem Marks.subset_add (m : Marks) (k : Nat) : m ⊆ Marks.add m k := by
  intro x hx
  rcases Nat.lt_trichotomy x k with h | rfl | h
  · exact List.mem_append_left _ (List.mem_filter.2 ⟨hx, decide_eq_true h⟩)
  · exact List.mem_append_right _ (List.mem_cons_self ..)
  · exact List.mem_append_right _ (List.mem_cons_of_mem _ (List.mem_filter.2 ⟨hx, decide_eq_true h⟩))

theorem Marks.mem_add_self (m : Marks) (k : Nat) : k ∈ Marks.add m k := List.mem_append_right _ (List.mem_cons_self ..)

/-- A task is told of a guard in another package. -/
theorem SetsGuards.farGuard (s : State) (k a : Nat) : SetsGuards k s (s.farGuard k a) := by
  unfold State.farGuard
  split
  · exact .refl
  · refine ⟨rfl, fun _ h => h, fun _ _ h => h, fun _ h => .inl h, fun K hK =>
      ⟨{ K with farGuards := Marks.add K.farGuards (pkgOfSlice a) }, ?_, rfl, Marks.subset_add _ _⟩⟩
    rw [State.modTask_tasks, Tab.find_mod_same, hK]
    rfl

theorem SetsGuards.send (s : State) (k dst b : Nat) (op : FabOp) : SetsGuards k s (s.send dst b op) :=
  ⟨rfl, (OnlySent.send s dst b op).sent, fun _ _ h => h, fun _ h => .inl h, fun K h => ⟨K, h, rfl, fun _ h => h⟩⟩

/-- A set of guard bits taken where none is set. -/
def setGuardUnits (k : Nat) (us : List Nat) (m : Tab Nat) : Tab Nat :=
  us.foldl (fun m u => if (m.find u).isSome then m else m.put u k) m

theorem setGuardUnits_find (k : Nat) (us : List Nat) (m : Tab Nat) (x : Nat) :
    (setGuardUnits k us m).find x = match m.find x with
      | some j => some j
      | none => if x ∈ us then some k else none := by
  unfold setGuardUnits
  induction us generalizing m with
  | nil => cases h : m.find x <;> simp [h]
  | cons u us ih =>
    rw [List.foldl_cons, ih]
    by_cases hu : (m.find u).isSome = true
    · rw [if_pos hu]
      by_cases hx : x = u
      · obtain ⟨j, hj⟩ := Option.isSome_iff_exists.1 hu
        simp [hx, hj]
      · simp [hx]
    · rw [if_neg hu, Tab.find_put]
      by_cases hx : x = u
      · simp [hx, Option.not_isSome_iff_eq_none.1 hu]
      · simp [hx]

theorem SetsGuards.units (s : State) (k : Nat) (us : List Nat) :
    SetsGuards k s { s with mem := { s.mem with guards := setGuardUnits k us s.mem.guards } } := by
  refine ⟨rfl, fun _ h => h, fun x j hj => ?_, fun x hx => ?_, fun K h => ⟨K, h, rfl, fun _ h => h⟩⟩
  · exact (setGuardUnits_find ..).trans (by rw [hj])
  · rw [show _ = _ from setGuardUnits_find .., hx]
    dsimp only
    split
    · exact .inr rfl
    · exact .inl rfl

/-- Whether an entry of a task's table is a guard that was given to its kernel, with the rights of a launch's guards. -/
def State.launchGuard (s : State) (K : Task) (i : Nat) : Bool :=
  let c : CapReg := { bits := BitVec.ofNat 128 (s.tabEntry K i) }
  bit (s.tabEntry K i) 128 && c.kind = 3 && c.rights &&& 0x218#12 = 0x218#12 && s.capOwned K.part c

/-- The guard an entry of a task's table names. -/
def State.entryAt (s : State) (K : Task) (i : Nat) : Nat := ({ bits := BitVec.ofNat 128 (s.tabEntry K i) } : CapReg).at

/-- What a launch does for one entry of its table. -/
def State.setEntry (K : Task) (k : Nat) (s : State) (i : Nat) : State :=
  if !s.launchGuard K i then s
  else if !s.here (s.entryAt K i) then
    (s.send (pkgOfSlice (s.entryAt K i)) 0 (.guardBits (s.entryAt K i) k)).farGuard k (s.entryAt K i)
  else { s with mem := { s.mem with guards := setGuardUnits k (unitsOf 32 (sliceKey (s.entryAt K i)) 416) s.mem.guards } }

theorem State.launchGuards_eq (s : State) (k : Nat) (K : Task) :
    s.launchGuards k K = (List.range 256).foldl (State.setEntry K k) s := rfl

theorem State.setEntry_sets (K : Task) (k : Nat) (s : State) (i : Nat) : SetsGuards k s (State.setEntry K k s i) := by
  unfold State.setEntry
  split
  · exact .refl
  split
  · exact (SetsGuards.send ..).trans (.farGuard ..)
  · exact .units ..

theorem State.setEntry_foldl (K : Task) (k : Nat) (is : List Nat) (s : State) :
    SetsGuards k s (is.foldl (State.setEntry K k) s) :=
  List.foldlRecOn is _ (motive := SetsGuards k s) .refl fun _ ht i _ => ht.trans (State.setEntry_sets K k _ i)

theorem State.launchGuard_congr {s t : State} (h : t.readState = s.readState) (K : Task) (i : Nat) :
    t.launchGuard K i = s.launchGuard K i := by
  simp only [State.launchGuard, State.tabEntry_congr h, State.capOwned_congr h]

theorem State.entryAt_congr {s t : State} (h : t.readState = s.readState) (K : Task) (i : Nat) :
    t.entryAt K i = s.entryAt K i := by
  simp only [State.entryAt, State.tabEntry_congr h]

/-- What a launch leaves of one guard its table names: its bits are set here, or its package is told, and noted. -/
structure GuardSet (k : Nat) (t : State) (a : Nat) : Prop where
  here : t.here a = true → ∀ x ∈ unitsOf 32 (sliceKey a) 416, t.mem.guards.find x ≠ none
  far : t.here a = false → t.Tells (pkgOfSlice a) (.guardBits a k) ∧
    ∀ T, t.tasks.find k = some T → pkgOfSlice a ∈ T.farGuards

theorem GuardSet.mono {k a : Nat} {s t : State} (h : GuardSet k s a) (hs : SetsGuards k s t) (hk : s.tasks.find k ≠ none) :
    GuardSet k t a where
  here ha x hx hnone := by
    obtain ⟨j, hj⟩ := Option.ne_none_iff_exists'.1 (h.here (hs.here ▸ ha) x hx)
    exact Option.some_ne_none j ((hs.kept x j hj).symm.trans hnone)
  far ha := by
    obtain ⟨htell, hfar⟩ := h.far (hs.here ▸ ha)
    obtain ⟨T, hT⟩ := Option.ne_none_iff_exists'.1 hk
    obtain ⟨L, hL, -, hsub⟩ := hs.task T hT
    refine ⟨htell.mono hs.sent, fun T' hT' => ?_⟩
    obtain rfl : L = T' := Option.some.inj (hL.symm.trans hT')
    exact hsub (hfar T hT)

theorem State.setEntry_guardSet {K : Task} {k i : Nat} {s : State} (h : s.launchGuard K i = true) :
    GuardSet k (State.setEntry K k s i) (s.entryAt K i) := by
  have hhere := (State.setEntry_sets K k s i).here
  constructor
  · intro ha x hx
    rw [hhere] at ha
    rw [show State.setEntry K k s i = { s with mem := { s.mem with
      guards := setGuardUnits k (unitsOf 32 (sliceKey (s.entryAt K i)) 416) s.mem.guards } } by
        simp [State.setEntry, h, ha]]
    rw [show _ = _ from setGuardUnits_find .., if_pos hx]
    cases s.mem.guards.find x <;> simp
  · intro ha
    rw [hhere] at ha
    rw [show State.setEntry K k s i = ((s.send (pkgOfSlice (s.entryAt K i)) 0 (.guardBits (s.entryAt K i) k)).farGuard k
      (s.entryAt K i)) by simp [State.setEntry, h, ha]]
    refine ⟨(s.send_tells ..).mono (SetsGuards.farGuard ..).sent, fun T hT => ?_⟩
    have hfar : (s.send (pkgOfSlice (s.entryAt K i)) 0 (.guardBits (s.entryAt K i) k)).here (s.entryAt K i) = false := ha
    rw [State.farGuard, if_neg (by simp [hfar])] at hT
    rw [State.modTask_tasks, Tab.find_mod_same] at hT
    obtain ⟨K0, -, rfl⟩ := Option.map_eq_some_iff.1 hT
    exact Marks.mem_add_self ..

theorem State.launchGuards_sets (s : State) (k : Nat) (K : Task) : SetsGuards k s (s.launchGuards k K) :=
  State.setEntry_foldl K k _ s

theorem State.launchGuards_guardSet {s : State} {k i : Nat} {K : Task} (hk : s.tasks.find k ≠ none) (hi : i < 256)
    (h : s.launchGuard K i = true) : GuardSet k (s.launchGuards k K) (s.entryAt K i) := by
  obtain ⟨before, after, hsplit⟩ := List.append_of_mem (List.mem_range.2 hi)
  rw [State.launchGuards_eq, hsplit, List.foldl_append, List.foldl_cons]
  have hb := State.setEntry_foldl K k before s
  have present {t u : State} (hs : SetsGuards k t u) (ht : t.tasks.find k ≠ none) : u.tasks.find k ≠ none := by
    obtain ⟨T, hT⟩ := Option.ne_none_iff_exists'.1 ht
    obtain ⟨L, hL, -⟩ := hs.task T hT
    exact hL ▸ Option.some_ne_none L
  have hset := State.setEntry_guardSet (k := k) (i := i) ((State.launchGuard_congr hb.readState K i).trans h)
  rw [State.entryAt_congr hb.readState] at hset
  exact hset.mono (State.setEntry_foldl K k after _) (present (State.setEntry_sets ..) (present hb hk))

/-- What starting a task as number `k` leaves: the task is there, with the guards its table names set for it. -/
theorem State.addTask_sets (s : State) (K : Task) :
    SetsGuards s.fresh { s with tasks := s.tasks.put s.fresh K, fresh := s.fresh + 1 } (s.addTask K).2 := by
  unfold State.addTask State.bump
  dsimp only
  exact State.launchGuards_sets ..

theorem State.addTask_find (s : State) (K : Task) : ∃ L, (s.addTask K).2.tasks.find s.fresh = some L ∧
    { L with farGuards := K.farGuards } = K := by
  obtain ⟨L, hL, hrest, -⟩ := (s.addTask_sets K).task K (Tab.find_put_same ..)
  exact ⟨L, hL, hrest⟩

theorem State.addTask_guardSet {s : State} {K : Task} {i : Nat} (hi : i < 256) (h : s.launchGuard K i = true) :
    GuardSet s.fresh (s.addTask K).2 (s.entryAt K i) := by
  unfold State.addTask State.bump
  dsimp only
  have hread : State.readState { s with tasks := s.tasks.put s.fresh K, fresh := s.fresh + 1 } = s.readState := rfl
  rw [← State.entryAt_congr hread]
  rw [← State.launchGuard_congr hread] at h
  refine State.launchGuards_guardSet ?_ hi h
  simp

/-! ### Blocks of a task placed where there is room -/

/-- `t` is `s` with `m` blocks more of task `k`, which stood as `K`, in ascending id. -/
structure PlacesBlocks (k : Nat) (gang : Bool) (K : Task) (m : Nat) (s t : State) : Prop where
  only : t = { s with
    blocks := t.blocks
    fresh := s.fresh + m
    tasks := t.tasks
    ctl := { s.ctl with lastDie := t.ctl.lastDie, parts := t.ctl.parts } }
  task : t.tasks.find k = some { K with next := K.next + m }
  placed : ∀ j, j < m → ∃ B, t.blocks.find (s.fresh + j) = some B ∧ B.task = k ∧ B.id = K.next + j ∧ B.gang = gang
  others : ∀ b, b < s.fresh → t.blocks.find b = s.blocks.find b

theorem PlacesBlocks.refl {k : Nat} {gang : Bool} {K : Task} {s : State} (h : s.tasks.find k = some K) :
    PlacesBlocks k gang K 0 s s :=
  ⟨rfl, h, nofun, fun _ _ => rfl⟩

/-- One block placed, then more. -/
theorem PlacesBlocks.cons {k m : Nat} {gang : Bool} {K : Task} {s t u : State} (h : PlacesBlocks k gang K 1 s t)
    (i : PlacesBlocks k gang { K with next := K.next + 1 } m t u) : PlacesBlocks k gang K (m + 1) s u := by
  have hf : t.fresh = s.fresh + 1 := (congrArg State.fresh h.only :)
  refine ⟨?_, ?_, fun j hj => ?_, fun b hb => ?_⟩
  · refine i.only.trans (Eq.trans (congrArg (fun x : State => { x with
      blocks := u.blocks, fresh := x.fresh + m, tasks := u.tasks,
      ctl := { x.ctl with lastDie := u.ctl.lastDie, parts := u.ctl.parts } }) h.only) ?_)
    simp only [Nat.add_assoc, Nat.add_comm 1 m]
  · rw [i.task]
    simp only [Nat.add_assoc, Nat.add_comm 1 m]
  · cases j with
    | zero =>
      obtain ⟨B, hB, rest⟩ := h.placed 0 Nat.zero_lt_one
      exact ⟨B, (i.others _ (by omega)).trans hB, rest⟩
    | succ j =>
      obtain ⟨B, hB, hk, hid, hg⟩ := i.placed j (by omega)
      refine ⟨B, ?_, hk, hid.trans (by dsimp only; omega), hg⟩
      rwa [hf, Nat.add_assoc, Nat.add_comm 1 j] at hB
  · exact (i.others b (by omega)).trans (h.others b hb)

theorem State.placeOn_places {s : State} {k : Nat} {K : Task} (h : s.tasks.find k = some K) (core : Nat)
    (recs : Option (List (List Word))) (gang : Bool) : PlacesBlocks k gang K 1 s (s.placeOn k core recs gang) := by
  unfold State.placeOn
  rw [h]
  refine ⟨rfl, ?_, fun j hj => ?_, fun b hb => Tab.find_put_other _ _ (Nat.ne_of_lt hb)⟩
  · dsimp only
    rw [State.modPart_tasks, State.modTask_tasks, Tab.find_mod_same]
    exact congrArg _ h
  · obtain rfl : j = 0 := by omega
    exact ⟨_, Tab.find_put_same .., rfl, rfl, rfl⟩

/-- A task's next block is placed only where one is left. -/
theorem State.place_places {s t : State} {k : Nat} {K : Task} {gang : Bool} (h : s.tasks.find k = some K)
    (hp : s.place k gang = some t) : PlacesBlocks k gang K 1 s t ∧ K.next < K.launch.blocks := by
  unfold State.place at hp
  rw [h] at hp
  dsimp only at hp
  split at hp
  · cases hp
  next hleft =>
    split at hp
    · cases hp
    · obtain ⟨c, -, rfl⟩ := Option.map_eq_some_iff.1 hp
      refine ⟨State.placeOn_places h c none gang, ?_⟩
      simp only [Bool.or_eq_true, decide_eq_true_eq, not_or] at hleft
      omega

/-- Placing goes on while a block is left and a core has room. -/
theorem State.placeAll_places {k : Nat} (gang : Bool) (n : Nat) {s : State} {K : Task} (h : s.tasks.find k = some K) :
    ∃ m, PlacesBlocks k gang K m s (State.placeAll k gang n s) ∧ m ≤ n ∧
      (m < n → (State.placeAll k gang n s).place k gang = none) ∧ (m ≠ 0 → K.next + m ≤ K.launch.blocks) := by
  induction n generalizing s K with
  | zero => exact ⟨0, .refl h, Nat.le_refl _, nofun, fun h => absurd rfl h⟩
  | succ n ih =>
    unfold State.placeAll
    cases hp : s.place k gang with
    | none => exact ⟨0, .refl h, Nat.zero_le _, fun _ => hp, fun h => absurd rfl h⟩
    | some t =>
      obtain ⟨hone, hleft⟩ := State.place_places h hp
      obtain ⟨m, hm, hle, hstop, hfit⟩ := ih hone.task
      refine ⟨m + 1, hone.cons hm, by omega, fun h => hstop (by omega), fun _ => ?_⟩
      by_cases h0 : m = 0
      · omega
      · have := hfit h0
        dsimp only at this
        omega

end Sys2Proof.Machine

namespace Sys2Proof.Machine

/-! ## Nodes that start (06 R165 to R169) -/

section Start
variable {s : State} {g n kind : Nat} {G : Graph} (h : Starts s g n kind G)
include h

theorem State.nodeFx_of_starts (f : Graph → State → State) : s.nodeFx g n kind f = .next (f G (s.begin g n)) := by
  obtain ⟨hG, hstart, hkind, hbad⟩ := h
  simp [State.nodeFx, hG, hstart, hkind, hbad]

theorem Starts.begin_find : (s.begin g n).graphs.find g = some (G.started n) := State.modGraph_find h.1 _

/-- A node that launches does what its launch descriptor says. -/
theorem State.launchFx_of_starts (f : Graph → Task → State → State) : s.launchFx g n kind f =
    .next (match s.readLaunch g n G (decide (kind = 6)) with
      | none => s
      | some (.error (code, d)) => ((s.begin g n).endNode g n code d noEdge).tock
      | some (.ok K) => f G K (s.begin g n)) := by
  unfold State.launchFx
  rw [State.nodeFx_of_starts h, State.readLaunch_congr (s := s) (t := s.begin g n) rfl] <;> rfl

end Start

theorem State.begin_readState (s : State) (g n : Nat) : (s.begin g n).readState = s.readState := rfl

/-- A node ends with a code and a detail of its own, or one the model leaves open. -/
theorem State.failNode_ends {s : State} {g : Nat} {G : Graph} (hG : s.graphs.find g = some G) (n code : Nat) :
    EndsNode s (s.failNode g n code) g n G code (Config.nodeDetail s.tick) noEdge := State.endNode_ends hG ..

theorem EndsNode.tock {s u : State} {g n code detail dst : Nat} {G : Graph} (h : EndsNode s u g n G code detail dst) :
    EndsNode s u.tock g n G code detail dst := h

/-- A task a launch descriptor gives has placed no block yet. -/
theorem State.launchOf_next {s : State} {part x : Nat} {super bin : Bool} {K : Task}
    (h : s.launchOf part super bin x = some (.ok K)) : K.next = 0 := by
  unfold State.launchOf at h
  extract_lets at h
  split at h
  · cases h
  split at h
  · cases h
  repeat (split at h; · cases h)
  split at h
  · split at h
    · cases h
    · cases h; rfl
  · cases h

theorem State.readLaunch_next {s : State} {g n : Nat} {G : Graph} {bin : Bool} {K : Task}
    (h : s.readLaunch g n G bin = some (.ok K)) : K.next = 0 := by
  unfold State.readLaunch at h
  dsimp only at h
  split at h
  · cases h
  split at h
  · cases h
  split at h
  · cases h
  · obtain ⟨r, hr, hmap⟩ := Option.map_eq_some_iff.1 h
    cases r with
    | error e => cases hmap
    | ok K0 =>
      cases hmap
      exact State.launchOf_next (K := K0) hr

/-- The body of a loop does not hold the node that runs it. -/
theorem State.reachable_ne {s : State} {G : Graph} {w x : Nat} {fuel : Nat} {front : List Nat} {seen : Marks}
    (hseen : w ∉ seen) (h : x ∈ s.reachable G w fuel front seen) : x ≠ w := by
  induction fuel generalizing front seen with
  | zero => exact fun hx => hseen (hx ▸ h)
  | succ k ih =>
    cases front with
    | nil => exact fun hx => hseen (hx ▸ h)
    | cons y r =>
      unfold State.reachable at h
      split at h
      · exact ih hseen h
      next hy =>
        refine ih (fun hw => ?_) h
        have hne : y ≠ w := fun e => hy (by simp [e])
        unfold Marks.add at hw
        simp only [List.mem_append, List.mem_filter, List.mem_cons] at hw
        rcases hw with hw | hw | hw
        · exact hseen hw.1
        · exact hne hw.symm
        · exact hseen hw.1

theorem State.bodyOf_ne {s : State} {G : Graph} {w x : Nat} (h : x ∈ s.bodyOf G w) : x ≠ w :=
  State.reachable_ne (List.not_mem_nil) h

/-! ### Loops -/

/-- A graph whose loop `n` runs its body once more, the in-degrees of which are `deg` again. -/
def Graph.iterate (n it : Nat) (body : List Nat) (deg : Graph → Nat → Nat) (G : Graph) : Graph := { G with
  iters := G.iters.put n (it + 1), loops := Marks.add G.loops n
  indeg := body.foldl (fun d m => d.put m (deg G m)) G.indeg }

theorem Graph.iterate_indeg {n it : Nat} {body : List Nat} {deg : Graph → Nat → Nat} {G : Graph} {m : Nat} (h : m ∈ body) :
    (G.iterate n it body deg).indeg.get 0 m = deg G m := by
  rw [Tab.get_eq]
  exact congrArg (Option.getD · 0) (Tab.find_foldl_put (key := fun m : Nat => m) (val := deg G) ⟨m, h, rfl⟩ (fun _ _ e => e ▸ rfl) G.indeg)

section Loop
variable {c : State} {g n : Nat} {G : Graph} (hG : c.graphs.find g = some G)
include hG

theorem State.whileRead_error {k : Nat} (hw : c.condWord G n = some (.error k)) :
    ∃ u d, c.whileRead g n G = some u ∧ EndsNode c u g n G k d noEdge := by
  refine ⟨_, _, ?_, State.failNode_ends hG n k⟩
  rw [State.whileRead, hw]
  rfl

/-- A loop whose word is 0 is left. -/
theorem State.whileRead_leaves (hw : c.condWord G n = some (.ok 0)) :
    ∃ u, c.whileRead g n G = some u ∧ EndsNode c u g n G 0 0 (c.nodeAlt G n) := by
  refine ⟨_, ?_, EndsNode.tock (EndsNode.of_iters (State.endNode_ends (State.modGraph_find hG fun G => { G with iters := G.iters.del n }) ..))⟩
  rw [State.whileRead, hw]
  rfl

theorem State.whileRead_limit {w : Nat} (hw : c.condWord G n = some (.ok w)) (h0 : w ≠ 0)
    (hl : c.nodeNat G n 32 8 ≠ 0) (hi : c.nodeNat G n 32 8 ≤ G.iters.get 0 n) :
    ∃ u, c.whileRead g n G = some u ∧ EndsNode c u g n G 0x17 (c.nodeNat G n 32 8) noEdge := by
  refine ⟨_, ?_, EndsNode.tock (EndsNode.of_iters (State.endNode_ends (State.modGraph_find hG fun G => { G with iters := G.iters.del n }) ..))⟩
  rw [State.whileRead, hw]
  simp [h0, hl, hi]

end Loop

/-- A loop that goes on runs its body again. -/
theorem State.whileRead_iterates {c : State} {g n : Nat} {G : Graph} {w : Nat} (hw : c.condWord G n = some (.ok w)) (h0 : w ≠ 0)
    (hl : c.nodeNat G n 32 8 = 0 ∨ G.iters.get 0 n < c.nodeNat G n 32 8) : c.whileRead g n G =
      some ((c.modGraph g (Graph.iterate n (G.iters.get 0 n) (c.bodyOf G n) fun G m => c.nodeNat G m 2 2)).takeEdge g n
        (c.nodeBody G n)).tock := by
  rw [State.whileRead, hw]
  have hlim : (decide (c.nodeNat G n 32 8 ≠ 0) && decide (G.iters.get 0 n ≥ c.nodeNat G n 32 8)) = false := by
    simp only [Bool.and_eq_false_iff, decide_eq_false_iff_not]
    omega
  simp only [Option.map_some, if_neg h0, hlim, Bool.false_eq_true, if_false]
  rfl

end Sys2Proof.Machine

namespace Sys2Proof.Machine

/-! ## A task that starts (06 R170) -/

/-- The guards that the table of task `K` names carry its bits in `u`, as a launch in `s` leaves them (04 R111). -/
def Guarded (s u : State) (K : Task) : Prop :=
  { u.mem with guards := s.mem.guards } = s.mem ∧
  (∀ x k, s.mem.guards.find x = some k → u.mem.guards.find x = some k) ∧
  (∀ x, s.mem.guards.find x = none → u.mem.guards.find x = none ∨ u.mem.guards.find x = some s.fresh) ∧
  ∀ i, i < 256 →
    let c : CapReg := { bits := BitVec.ofNat 128 (s.tabEntry K i) }
    bit (s.tabEntry K i) 128 = true → c.kind = 3 → c.rights &&& 0x218#12 = 0x218#12 → s.capOwned K.part c = true →
    (s.here c.at = true → ∀ x, x ∈ unitsOf 32 (sliceKey c.at) 416 → u.mem.guards.find x ≠ none) ∧
    (s.here c.at = false → (∃ x ∈ u.eng.sent, x.dst = pkgOfSlice c.at ∧ x.op = .guardBits c.at s.fresh) ∧
      ∀ T, u.tasks.find s.fresh = some T → pkgOfSlice c.at ∈ T.farGuards)

/-- What a start of task `K` in `s`, with its blocks placed while there is room, leaves. -/
structure Launched (s u : State) (K : Task) (gang : Bool) (K' : Task) : Prop where
  task : u.tasks.find s.fresh = some K'
  same : { K' with next := 0, farGuards := K.farGuards } = K
  fits : K'.next ≤ K.launch.blocks
  stops : K'.next < K.launch.blocks → u.place s.fresh gang = none
  graphs : u.graphs = s.graphs
  guarded : Guarded s u K
  sent : s.eng.sent ⊆ u.eng.sent
  others : ∀ k, k ≤ s.fresh → u.blocks.find k = s.blocks.find k
  placed : ∀ j, j < K'.next → ∃ B, u.blocks.find (s.fresh + 1 + j) = some B ∧ B.task = s.fresh ∧ B.id = j ∧ B.gang = gang

/-- The guards a task's table names are set as it starts, and stand in each state that keeps bits, sends and its task. -/
theorem Guarded.of_addTask {s u : State} {K : Task} (hmem : u.mem = (s.addTask K).2.mem)
    (heng : u.eng = (s.addTask K).2.eng) (htask : ∀ T, u.tasks.find s.fresh = some T →
      ∃ L, (s.addTask K).2.tasks.find s.fresh = some L ∧ L.farGuards = T.farGuards) : Guarded s u K := by
  have hs := s.addTask_sets K
  unfold Guarded
  rw [hmem, heng]
  refine ⟨hs.mem, hs.kept, hs.fresh, ?_⟩
  intro i hi c hv hk hr ho
  have h : s.launchGuard K i = true := by
    rw [State.launchGuard, hv]
    simp only [Bool.true_and, Bool.and_eq_true, decide_eq_true_eq]
    exact ⟨⟨hk, hr⟩, ho⟩
  obtain ⟨hhere, hfar⟩ := State.addTask_guardSet hi h
  rw [hs.here] at hhere hfar
  refine ⟨hhere, fun ha => ?_⟩
  obtain ⟨⟨x, hx, hdst, hop⟩, hnoted⟩ := hfar ha
  refine ⟨⟨x, hx, hdst, hop⟩, fun T hT => ?_⟩
  obtain ⟨L, hL, hLT⟩ := htask T hT
  exact hLT ▸ hnoted L hL

theorem State.launch_launched (s : State) {K : Task} (hK : K.next = 0) (gang : Bool) :
    ∃ K', Launched s (State.placeAll s.fresh gang K.launch.blocks (s.addTask K).2) K gang K' := by
  have hs := s.addTask_sets K
  obtain ⟨L, hL, hsame⟩ := s.addTask_find K
  obtain ⟨m, hp, hle, hstop, -⟩ := State.placeAll_places gang K.launch.blocks hL
  generalize State.placeAll s.fresh gang K.launch.blocks (s.addTask K).2 = u at *
  have hnext : L.next = 0 := (congrArg Task.next hsame :).trans hK
  have hfresh : (s.addTask K).2.fresh = s.fresh + 1 := hs.stateFresh
  have htask := hp.task
  refine ⟨{ L with next := L.next + m }, ⟨htask, ?_, ?_, fun h => hstop ?_, ?_, ?_, ?_, fun k hk => ?_, fun j hj => ?_⟩⟩
  · rw [← hsame, ← hnext]
  · simpa only [hnext, Nat.zero_add] using hle
  · simpa only [hnext, Nat.zero_add] using h
  · exact (congrArg State.graphs hp.only :).trans hs.graphs
  · refine .of_addTask (congrArg State.mem hp.only :) (congrArg State.eng hp.only :) fun T hT => ⟨L, hL, ?_⟩
    exact (congrArg Task.farGuards (Option.some.inj (htask.symm.trans hT)) :)
  · exact fun x hx => (congrArg (·.eng.sent) hp.only : u.eng.sent = (s.addTask K).2.eng.sent) ▸ hs.sent hx
  · exact (hp.others k (by omega)).trans (congrArg (Tab.find · k) hs.blocks)
  · obtain ⟨B, hB, hk, hid, hg⟩ := hp.placed j (by simpa only [hnext, Nat.zero_add] using hj)
    exact ⟨B, hfresh ▸ hB, hk, hid.trans (by omega), hg⟩

/-- A node that has started still runs in a state that keeps its graph. -/
theorem Graph.started_running (G : Graph) (n : Nat) : n ∈ (G.started n).running := Marks.mem_add_self ..

/-! ## Nodes (O56) -/

theorem State.exec_kernelNode {s : State} {g n : Nat} {G : Graph} (h : Starts s g n 1 G) :
    exec (.kernelNode g n) s = .next (match s.readLaunch g n G false with
      | none => s
      | some (.error (code, d)) => ((s.begin g n).endNode g n code d noEdge).tock
      | some (.ok K) => State.placeAll s.fresh false K.launch.blocks ((s.begin g n).addTask K).2) := by
  refine Eq.trans ?_ (State.launchFx_of_starts h fun _ K s => State.placeAll s.fresh false K.launch.blocks (s.addTask K).2)
  show execKernelNode g n s = _
  simp [execKernelNode, h.1, h.2.2.1] <;> rfl

theorem State.exec_kernelNode_reserved {s : State} {g n : Nat} {G : Graph} (hG : s.graphs.find g = some G)
    (hs : s.startable g n = true) (hk : s.kindOf G n = 0 ∨ 6 < s.kindOf G n) :
    exec (.kernelNode g n) s = .next ((s.begin g n).failNode g n 0x01) := by
  show execKernelNode g n s = _
  simp [execKernelNode, hG, hs, hk]

theorem State.exec_condNode {s : State} {g n : Nat} {G : Graph} (h : Starts s g n 2 G) :
    exec (.condNode g n) s = .next (match s.condWord G n with
      | none => s
      | some (.error k) => (s.begin g n).failNode g n k
      | some (.ok w) => ((s.begin g n).endNode g n 0 0 (if w = 0 then s.nodeAlt G n else s.nodeNext G n)).tock) := by
  show execCondNode g n s = _
  unfold execCondNode
  rw [State.nodeFx_of_starts h]
  rw [State.condWord_congr (s.begin_readState g n)]
  simp only [State.nodeAlt, State.nodeNext, State.nodeNat_congr (s.begin_readState g n)] <;> rfl

theorem State.reachable_started (s : State) (G : Graph) (n w fuel : Nat) (front : List Nat) (seen : Marks) :
    s.reachable (G.started n) w fuel front seen = s.reachable G w fuel front seen := by
  induction fuel generalizing front seen with
  | zero => rfl
  | succ k ih =>
    cases front with
    | nil => rfl
    | cons x r =>
      have hedges : s.nodeEdges (G.started n) x = s.nodeEdges G x := rfl
      simp only [State.reachable, ih, hedges]

theorem State.bodyOf_started (s : State) (G : Graph) (n w : Nat) : s.bodyOf (G.started n) w = s.bodyOf G w :=
  s.reachable_started ..

theorem State.whileRead_started (s : State) (g n : Nat) (G : Graph) : s.whileRead g n (G.started n) = s.whileRead g n G := by
  unfold State.whileRead
  rw [State.bodyOf_started]
  rfl

/-- A WHILE node, as it starts and as an iteration of it ends, reads its word. -/
theorem State.exec_while {s : State} {g n : Nat} {G G2 : Graph} {i : Instr}
    (h : (i = .whileNode g n ∧ Starts s g n 3 G ∧ G2 = G.started n) ∨
      (i = .whileIteration g n ∧ s.graphs.find g = some G ∧ s.iterated g n = true ∧ G.ended = none ∧ G2 = G)) :
    let c := if i = .whileNode g n then s.begin g n else s
    exec i s = .next ((c.whileRead g n G2).getD s) ∧ c.graphs.find g = some G2 ∧ c.readState = s.readState ∧
      c.blocks = s.blocks ∧ c.mem = s.mem ∧ n ∈ G2.running ∧
      { G2 with ready := G.ready, running := G.running } = G ∧ c.bodyOf G2 n = s.bodyOf G n := by
  rcases h with ⟨rfl, h, rfl⟩ | ⟨rfl, hG, hit, hended, rfl⟩
  · rw [if_pos rfl]
    refine ⟨?_, h.begin_find, rfl, rfl, rfl, G.started_running n, rfl,
      (State.bodyOf_started ..).trans (State.bodyOf_congr (s.begin_readState g n) G n)⟩
    rw [State.whileRead_started]
    exact State.nodeFx_of_starts h fun G s1 => (s1.whileRead g n G).getD s
  · rw [if_neg (by nofun)]
    refine ⟨?_, hG, rfl, rfl, rfl, ?_, rfl, rfl⟩
    · show execWhileIteration g n s = _
      simp [execWhileIteration, hG, hit, hended]
    · unfold State.iterated at hit
      rw [hG] at hit
      simp only [Bool.and_eq_true, List.contains_iff_mem] at hit
      exact hit.1.2

/-- What a WHILE that goes on leaves (06 R169): it runs still, its iteration counted, and its body's in-degrees are loaded. -/
theorem State.iterate_leaves {c : State} {g n : Nat} {G : Graph} (hG : c.graphs.find g = some G) (it : Nat) :
    let x := c.nodeBody G n
    let u := ((c.modGraph g (Graph.iterate n it (c.bodyOf G n) fun G m => c.nodeNat G m 2 2)).takeEdge g n x).tock
    ∃ H, u.graphs.find g = some H ∧ n ∈ H.loops ∧ H.running = G.running ∧ H.iters.get 0 n = it + 1 ∧ u.blocks = c.blocks ∧
      (∀ m, m ∈ c.bodyOf G n → m ≠ x → H.indeg.get 0 m = c.nodeNat G m 2 2) ∧
      (x ∈ c.bodyOf G n → x ≠ noEdge → x ∉ G.loops → G.ended = none → c.nodeNat G x 2 2 = 1 → x ∈ H.ready ∧ u.mem = c.mem) := by
  intro x u
  have hG' := State.modGraph_find hG (Graph.iterate n it (c.bodyOf G n) fun G m => c.nodeNat G m 2 2)
  obtain ⟨H, hH, hrest, hother⟩ := State.takeEdge_keeps hG' n x
  refine ⟨H, hH, ?_, (congrArg Graph.running hrest :), ?_, ?_, fun m hm hne => ?_, fun hx hne hl hended hdeg => ?_⟩
  · exact (congrArg Graph.loops hrest :) ▸ Marks.mem_add_self ..
  · have hiters : H.iters = G.iters.put n (it + 1) := (congrArg Graph.iters hrest :)
    exact hiters ▸ (Tab.get_put ..).trans (if_pos rfl)
  · exact (State.takeEdge_worked ..).blocks
  · exact (hother m hne).trans (Graph.iterate_indeg hm)
  · have hdeg' := (Graph.iterate_indeg (n := n) (it := it) (deg := fun G m => c.nodeNat G m 2 2) (G := G) hx).trans hdeg
    have hfree : x ∉ Marks.add G.loops n := by
      unfold Marks.add
      simp only [List.mem_append, List.mem_filter, List.mem_cons, not_or]
      exact ⟨fun h => hl h.1, State.bodyOf_ne hx, fun h => hl h.1⟩
    obtain ⟨H', hH', hcount, -⟩ := State.takeEdge_counts hG' (src := n) hne hended hfree
    obtain rfl : H' = H := Option.some.inj (hH'.symm.trans hH)
    obtain ⟨hmem, -, hready, -⟩ := hcount (hdeg' ▸ Nat.one_ne_zero)
    rw [hdeg', if_pos rfl] at hready
    exact ⟨hready ▸ Marks.mem_add_self .., hmem⟩

end Sys2Proof.Machine

namespace Sys2Proof.Machine

/-! ### ENGINE nodes -/

/-- What a fold each of whose steps appends one value leaves appended. -/
theorem foldl_appends {σ α β : Type} {f : σ → α → σ} {obs : σ → List β} {R : α → β → Prop}
    (h : ∀ s a, ∃ b, obs (f s a) = obs s ++ [b] ∧ R a b) (xs : List α) (s : σ) :
    ∃ ys, obs (xs.foldl f s) = obs s ++ ys ∧ List.Forall₂ R xs ys := by
  induction xs generalizing s with
  | nil => exact ⟨[], (List.append_nil _).symm, .nil⟩
  | cons x xs ih =>
    obtain ⟨y, hy, hxy⟩ := h s x
    obtain ⟨ys, hys, hall⟩ := ih (f s x)
    exact ⟨y :: ys, hys.trans (by rw [hy, List.append_assoc, List.singleton_append]), .cons hxy hall⟩

theorem State.sliceSet_eng (s : State) (a n x : Nat) : (s.sliceSet a n x).eng = s.eng := s.sliceWrite_eng a _
theorem State.sliceSet_blocks (s : State) (a n x : Nat) : (s.sliceSet a n x).blocks = s.blocks := s.sliceWrite_blocks a _
theorem State.sliceSet_graphs (s : State) (a n x : Nat) : (s.sliceSet a n x).graphs = s.graphs := s.sliceWrite_graphs a _

/-- An entry appended has its owner, and touches no block and no graph. -/
theorem State.append_owner (s : State) (ch a : Nat) (block : Option (Nat × Nat)) (part : Nat) (tag : Option Nat) (sup : Bool)
    (far : Option (Nat × Nat)) (task : Option Nat) :
    (∃ m, (s.append ch a block part tag sup far task).eng.owners =
      s.eng.owners ++ [⟨ch, m, block, part, tag, a, sup, false, far, task⟩]) ∧
      (s.append ch a block part tag sup far task).blocks = s.blocks ∧
      (s.append ch a block part tag sup far task).graphs = s.graphs := by
  unfold State.append
  extract_lets s1 s2 m s3
  have hs2 : s2.eng = s.eng ∧ s2.blocks = s.blocks ∧ s2.graphs = s.graphs := by
    unfold s2
    split <;> simp only [State.sliceSet_eng, State.sliceSet_blocks, State.sliceSet_graphs, s1, and_self]
  obtain ⟨he, hb, hg⟩ := hs2
  have hs3 : s3.eng = s.eng ∧ s3.blocks = s.blocks ∧ s3.graphs = s.graphs := by
    simp only [State.sliceSet_eng, State.sliceSet_blocks, State.sliceSet_graphs, s3, he, hb, hg, and_self]
  obtain ⟨he3, hb3, hg3⟩ := hs3
  exact ⟨⟨m, by rw [he3]⟩, hb3, hg3⟩

theorem State.copyEntry_owner (s : State) (ch part : Nat) (sup : Bool) (far : Option (Nat × Nat)) (task : Option Nat)
    (bs : List Byte) :
    (∃ o : Owner, (s.copyEntry ch part sup far task bs).eng.owners = s.eng.owners ++ [o] ∧
      o.chain = ch ∧ o.block = none ∧ o.part = part) ∧
      (s.copyEntry ch part sup far task bs).blocks = s.blocks ∧ (s.copyEntry ch part sup far task bs).graphs = s.graphs := by
  unfold State.copyEntry
  extract_lets a s1 s2
  obtain ⟨⟨m, ho⟩, hb, hg⟩ := (s.tock.sliceWrite a bs).append_owner ch a none part none sup far task
  have h2 : s2.eng.owners = s1.eng.owners ∧ s2.blocks = s1.blocks ∧ s2.graphs = s1.graphs := by
    simp only [State.sliceSet_eng, State.sliceSet_blocks, State.sliceSet_graphs, s2, and_self]
  obtain ⟨ho2, hb2, hg2⟩ := h2
  rw [State.sliceWrite_eng] at ho
  rw [State.sliceWrite_blocks] at hb
  rw [State.sliceWrite_graphs] at hg
  clear_value s2
  split
  · exact ⟨⟨_, ho2.trans ho, rfl, rfl, rfl⟩, hb2.trans hb, hg2.trans hg⟩
  · rw [State.modPart_eng, State.modPart_blocks, State.modPart_graphs]
    exact ⟨⟨_, ho2.trans ho, rfl, rfl, rfl⟩, hb2.trans hb, hg2.trans hg⟩

section Engine
variable {s : State} {g n : Nat} {G : Graph} (h : Starts s g n 4 G) (hnew : G.engines.find n = none)
include h hnew

/-- What an ENGINE node that starts does, by its words (06 R164). -/
theorem State.exec_engineNode {wa ch k : Nat} (hwa : s.nodeNat G n 16 8 = wa) (hch : bits (s.nodeNat G n 24 8) 39 0 = ch)
    (hk : s.nodeNat G n 32 8 = k) :
    (k = 0 → exec (.engineNode g n) s = .next ((s.begin g n).endNode g n 0 0 (s.nodeNext G n))) ∧
    (0 < k → k ≤ 2 ^ 16 → s.waAbsent G.part wa (64 * k) = false → ∀ bs, s.waRead G.part wa (64 * k) = some bs →
      let es := (List.range k).map fun i => (bs.drop (64 * i)).take 64
      (s.here ch = true → s.chStatus ch % 256 ≠ 0 →
        exec (.engineNode g n) s = .next ((s.begin g n).failNode g n (s.chStatus ch % 256))) ∧
      (s.here ch = true → s.chStatus ch % 256 = 0 → ∃ sup task,
        let t := es.foldl (fun s e => s.copyEntry ch G.part sup none task e) (s.begin g n)
        exec (.engineNode g n) s =
          .next (t.modGraph g fun G => { G with engines := G.engines.put n (ch, t.chAppended ch) })) ∧
      (s.here ch = false → exec (.engineNode g n) s =
        .next ((es.foldl (fun s e => s.send (pkgOfSlice ch) 0 (.copied ch e)) (s.begin g n)).modGraph g fun G =>
          { G with engines := G.engines.put n (ch, k) }))) := by
  have hrun (f : Graph → State → State) := State.nodeFx_of_starts h f
  show (_ → execEngineNode g n s = _) ∧ (_ → _ → _ → ∀ bs, _ → (_ → _ → execEngineNode g n s = _) ∧
    (_ → _ → ∃ sup task, execEngineNode g n s = _) ∧ (_ → execEngineNode g n s = _))
  unfold execEngineNode
  simp only [h.1, hnew, hrun, hwa, hch, hk]
  refine ⟨fun h0 => by rw [if_pos h0], fun h0 hle habs bs hbs => ?_⟩
  have hle' : ¬ 65536 < k := Nat.not_lt.2 hle
  refine ⟨fun hhere hst => ?_, fun hhere hst => ?_, fun hhere => ?_⟩
  · simp [Nat.ne_of_gt h0, hle', habs, hbs, hhere, hst]
  · refine ⟨G.super && decide (s.parserPart ch = some G.part), (s.begin g n).lastTask g, ?_⟩
    simp [Nat.ne_of_gt h0, hle', habs, hbs, hhere, hst]
  · simp [Nat.ne_of_gt h0, hle', habs, hbs, hhere]

end Engine

/-- What entries copied into a chain here leave. -/
theorem State.copyEntries_leave (s : State) (ch part : Nat) (sup : Bool) (task : Option Nat) (es : List (List Byte)) :
    let t := es.foldl (fun s e => s.copyEntry ch part sup none task e) s
    (∃ xs, t.eng.owners = s.eng.owners ++ xs ∧ xs.length = es.length ∧
      ∀ o ∈ xs, o.chain = ch ∧ o.block = none ∧ o.part = part) ∧ t.blocks = s.blocks ∧ t.graphs = s.graphs := by
  have hstep (s : State) (e : List Byte) := s.copyEntry_owner ch part sup none task e
  obtain ⟨xs, hxs, hall⟩ := foldl_appends (obs := fun s : State => s.eng.owners)
    (R := fun _ o => o.chain = ch ∧ o.block = none ∧ o.part = part) (fun s e => (hstep s e).1) es s
  refine ⟨⟨xs, hxs, hall.length_eq.symm, fun o ho => ?_⟩, ?_, ?_⟩
  · obtain ⟨i, hi, rfl⟩ := List.getElem_of_mem ho
    exact (List.forall₂_iff_get.1 hall).2 i (hall.length_eq ▸ hi) hi
  · exact foldl_reading_stays (obs := State.blocks) (fun s e _ => (hstep s e).2.1) s
  · exact foldl_reading_stays (obs := State.graphs) (fun s e _ => (hstep s e).2.2) s

/-- Entries sent to a chain in another package are on their way, in order. -/
theorem State.sendEntries_leave (s : State) (dst ch : Nat) (es : List (List Byte)) :
    OnlySent s (es.foldl (fun s e => s.send dst 0 (.copied ch e)) s) ∧ ∃ xs : List Sent,
      (es.foldl (fun s e => s.send dst 0 (.copied ch e)) s).eng.sent = s.eng.sent ++ xs ∧ xs.length = es.length ∧
      ∀ (j : Nat) e, es[j]? = some e → ∃ x, xs[j]? = some x ∧ x.dst = dst ∧ x.op = .copied ch e := by
  obtain ⟨xs, hxs, hall⟩ := foldl_appends (f := fun s e => State.send s dst 0 (.copied ch e)) (obs := fun s : State => s.eng.sent)
    (R := fun (e : List Byte) (x : Sent) => x.dst = dst ∧ x.op = .copied ch e) (fun s e => by
      obtain ⟨x, hx, hop⟩ := s.send_sent dst 0 (.copied ch e)
      exact ⟨x, hx, hop⟩) es s
  refine ⟨OnlySent.foldl es (fun s e => .send ..) s, xs, hxs, hall.length_eq.symm, fun j e he => ?_⟩
  obtain ⟨hj, rfl⟩ := List.getElem?_eq_some_iff.1 he
  have hj' : j < xs.length := hall.length_eq ▸ hj
  exact ⟨xs[j], List.getElem?_eq_getElem hj', (List.forall₂_iff_get.1 hall).2 j hj hj'⟩

end Sys2Proof.Machine

namespace Sys2Proof.Machine

/-- Clauses of O56 about a loop that reads its word. -/
theorem State.while_clauses {s : State} {g n : Nat} {G G2 : Graph} {i : Instr}
    (h : (i = .whileNode g n ∧ Starts s g n 3 G ∧ G2 = G.started n) ∨
      (i = .whileIteration g n ∧ s.graphs.find g = some G ∧ s.iterated g n = true ∧ G.ended = none ∧ G2 = G)) :
    let c := if i = .whileNode g n then s.begin g n else s
    let limit := s.nodeNat G n 32 8
    let it := G.iters.get 0 n
    (∀ k, s.condWord G n = some (.error k) → ∃ u d, exec i s = .next u ∧ EndsNode c u g n G2 k d noEdge) ∧
    ∀ w, s.condWord G n = some (.ok w) →
      (w = 0 → ∃ u, exec i s = .next u ∧ EndsNode c u g n G2 0 0 (s.nodeAlt G n)) ∧
      (w ≠ 0 → limit ≠ 0 → limit ≤ it → ∃ u, exec i s = .next u ∧ EndsNode c u g n G2 0x17 limit noEdge) ∧
      (w ≠ 0 → limit = 0 ∨ it < limit → ∃ u H, exec i s = .next u ∧ u.graphs.find g = some H ∧ n ∈ H.loops ∧
        n ∈ H.running ∧ H.iters.get 0 n = it + 1 ∧ u.blocks = s.blocks ∧
        let x := s.nodeBody G n
        (∀ m, m ∈ s.bodyOf G n → m ≠ x → H.indeg.get 0 m = s.nodeNat G m 2 2) ∧
        (x ∈ s.bodyOf G n → x ≠ noEdge → x ∉ G.loops → G.ended = none → s.nodeNat G x 2 2 = 1 → x ∈ H.ready ∧ u.mem = s.mem)) := by
  obtain ⟨hexec, hG2, hread, hblocks, hmem, hrun, hsame, hbody⟩ := State.exec_while h
  generalize (if i = .whileNode g n then s.begin g n else s) = c at *
  intro c' limit it
  have cond : c.condWord G2 n = s.condWord G n := by
    rw [State.condWord_congr hread, ← hsame]
    rfl
  have nat (m off len : Nat) : c.nodeNat G2 m off len = s.nodeNat G m off len := by
    rw [State.nodeNat_congr hread, ← hsame]
    rfl
  have alt : c.nodeAlt G2 n = s.nodeAlt G n := nat n 6 2
  have body : c.nodeBody G2 n = s.nodeBody G n := nat n 10 2
  have hit : G2.iters.get 0 n = it := (congrArg (fun G : Graph => G.iters.get 0 n) hsame :)
  have hloops : G2.loops = G.loops := (congrArg Graph.loops hsame :)
  have hended : G2.ended = G.ended := (congrArg Graph.ended hsame :)
  rw [← cond]
  refine ⟨fun k hk => ?_, fun w hw => ⟨fun h0 => ?_, fun h0 hl hi => ?_, fun h0 hl => ?_⟩⟩
  · obtain ⟨u, d, hu, hends⟩ := State.whileRead_error hG2 hk
    exact ⟨u, d, by rw [hexec, hu]; rfl, hends⟩
  · obtain ⟨u, hu, hends⟩ := State.whileRead_leaves hG2 (h0 ▸ hw)
    exact ⟨u, by rw [hexec, hu]; rfl, alt ▸ hends⟩
  · obtain ⟨u, hu, hends⟩ := State.whileRead_limit hG2 hw h0 (by rwa [nat]) (by rwa [nat, hit])
    rw [nat] at hends
    exact ⟨u, by rw [hexec, hu]; rfl, hends⟩
  · have hu := State.whileRead_iterates (g := g) hw h0 (by rwa [nat, hit])
    obtain ⟨H, hH, hloop, hrunning, hiters, hbl, hdeg, hready⟩ := State.iterate_leaves (n := n) hG2 (G2.iters.get 0 n)
    simp only [body, hbody, nat, hloops, hended, hmem] at hH hdeg hready hbl hu
    rw [hu, Option.getD_some] at hexec
    exact ⟨_, H, hexec, hH, hloop, hrunning ▸ hrun, hit ▸ hiters, hbl.trans hblocks, hdeg, hready⟩

/-- Clauses of O56 about an ENGINE node that starts. -/
theorem State.engine_clauses {s : State} {g n : Nat} {G : Graph} (h : Starts s g n 4 G) (hnew : G.engines.find n = none) :
    let b := s.begin g n
    let G1 := G.started n
    let wa := s.nodeNat G n 16 8
    let ch := bits (s.nodeNat G n 24 8) 39 0
    let k := s.nodeNat G n 32 8
    (k = 0 → ∃ u, exec (.engineNode g n) s = .next u ∧ EndsNode b u g n G1 0 0 (s.nodeNext G n)) ∧
    (0 < k → k ≤ 2 ^ 16 → s.waAbsent G.part wa (64 * k) = false → ∀ bs, s.waRead G.part wa (64 * k) = some bs →
      (s.here ch = true → s.chStatus ch % 256 ≠ 0 → ∃ u d, exec (.engineNode g n) s = .next u ∧
        EndsNode b u g n G1 (s.chStatus ch % 256) d noEdge) ∧
      (s.here ch = true → s.chStatus ch % 256 = 0 → ∃ u H xs, exec (.engineNode g n) s = .next u ∧
        u.graphs.find g = some H ∧ n ∈ H.running ∧ H.engines.find n = some (ch, u.chAppended ch) ∧
        u.blocks = s.blocks ∧ u.eng.owners = s.eng.owners ++ xs ∧ xs.length = k ∧
        ∀ o ∈ xs, o.chain = ch ∧ o.block = none ∧ o.part = G.part) ∧
      (s.here ch = false → ∃ u H xs, exec (.engineNode g n) s = .next u ∧ u.graphs.find g = some H ∧
        H.engines.find n = some (ch, k) ∧ u.eng.sent = s.eng.sent ++ xs ∧ xs.length = k ∧ u.mem = s.mem ∧
        ∀ j, j < k → ∃ x, xs[j]? = some x ∧ x.dst = pkgOfSlice ch ∧ x.op = .copied ch ((bs.drop (64 * j)).take 64))) := by
  intro b G1 wa ch k
  obtain ⟨hzero, hsome⟩ := State.exec_engineNode h hnew (wa := wa) (ch := ch) (k := k) rfl rfl rfl
  refine ⟨fun h0 => ⟨_, hzero h0, State.endNode_ends h.begin_find ..⟩, fun h0 hle habs bs hbs => ?_⟩
  obtain ⟨hbad, hhere, hfar⟩ := hsome h0 hle habs bs hbs
  clear_value wa ch k
  have hlen : ((List.range k).map fun i => (bs.drop (64 * i)).take 64).length = k := by simp
  refine ⟨fun hh hst => ⟨_, _, hbad hh hst, State.failNode_ends h.begin_find ..⟩, fun hh hst => ?_, fun hh => ?_⟩
  · obtain ⟨sup, task, hexec⟩ := hhere hh hst
    obtain ⟨⟨xs, hxs, hxlen, hall⟩, hblocks, hgraphs⟩ := (s.begin g n).copyEntries_leave ch G.part sup task
      ((List.range k).map fun i => (bs.drop (64 * i)).take 64)
    refine ⟨_, _, xs, hexec, State.modGraph_find (hgraphs ▸ h.begin_find) _, G.started_running n, ?_, hblocks, hxs,
      hxlen.trans hlen, hall⟩
    exact Tab.find_put_same ..
  · obtain ⟨honly, xs, hxs, hxlen, hall⟩ := (s.begin g n).sendEntries_leave (pkgOfSlice ch) ch
      ((List.range k).map fun i => (bs.drop (64 * i)).take 64)
    refine ⟨_, _, xs, hfar hh, State.modGraph_find (honly.graphs ▸ h.begin_find) _, ?_, hxs, hxlen.trans hlen, honly.mem,
      fun j hj => hall j _ ?_⟩
    · exact Tab.find_put_same ..
    · rw [List.getElem?_map, List.getElem?_range hj]
      rfl

/-- Settles O56, node kind by node kind: a node that may start ends by the lemma on the end of a node, or does what the
lemma on its kind says. -/
theorem nodesRunAndEnd : Obligations.NodesRunAndEnd := by
  unfold Obligations.NodesRunAndEnd
  intro s g n G b G1 guarded
  refine ⟨fun h hr => ?_, fun h code d hr => ?_, fun h K hr => ?_, fun hG hs hk => ?_, fun h => ⟨fun hw => ?_, fun k hw => ?_,
    fun w hw => ?_⟩, fun i G2 h => State.while_clauses h, fun hG hit => ?_, fun h hnew => State.engine_clauses h hnew⟩
  · rw [State.exec_kernelNode h, hr]
  · refine ⟨_, ?_, (State.endNode_ends h.begin_find ..).tock⟩
    rw [State.exec_kernelNode h, hr]
  · obtain ⟨K', hl⟩ := (s.begin g n).launch_launched (State.readLaunch_next hr) false
    refine ⟨_, K', G.started n, (State.exec_kernelNode h).trans ?_, hl.task, hl.same, hl.fits, hl.stops, ?_,
      G.started_running n, ?_, hl.others, fun j hj => ?_⟩
    · rw [hr]
      rfl
    · exact hl.graphs ▸ h.begin_find
    · have hg := hl.guarded
      unfold Guarded at hg
      simp only [State.tabEntry_congr (s.begin_readState g n), State.capOwned_congr (s.begin_readState g n)] at hg
      exact hg
    · obtain ⟨B, hB, hk, hid, -⟩ := hl.placed j hj
      exact ⟨B, hB, hk, hid⟩
  · exact ⟨_, _, State.exec_kernelNode_reserved hG hs hk, State.failNode_ends (State.modGraph_find hG _) n 0x01⟩
  · rw [State.exec_condNode h, hw]
  · refine ⟨_, _, ?_, State.failNode_ends h.begin_find n k⟩
    rw [State.exec_condNode h, hw]
  · refine ⟨_, ?_, (State.endNode_ends h.begin_find ..).tock⟩
    rw [State.exec_condNode h, hw]
  · show execWhileIteration g n s = _
    simp [execWhileIteration, hG, hit]

end Sys2Proof.Machine

namespace Sys2Proof.Machine

/-! ## Gangs (06 R178) -/

/-- A GANG node's record of its launch, as it starts. -/
def State.newGang (s : State) (G : Graph) (n : Nat) : Gang :=
  let ms := maskPkgs (s.nodeNat G n 32 8)
  { task := if ms.contains s.ctl.pkg then some s.fresh else none, mask := ms, want := s.nodeNat G n 40 8,
    began := s.ctl.clk.toNat }

/-- What a GANG node asks of the other members. -/
def State.gangAsk (s : State) (g n : Nat) (G : Graph) (K : Task) : GangMsg :=
  .ask g n G.part K.guard G.super ((s.waRead G.part (s.nodeNat G n 16 8) 64).getD [])

/-- A GANG node that launches, with its record noted. -/
def State.gangNoted (s : State) (g n : Nat) (G : Graph) : State := (s.begin g n).modGraph g fun H => { H with
  gangs := H.gangs.put n (s.newGang G n)
  told := ((s.newGang G n).mask.filter (· ≠ s.ctl.pkg)).foldl Marks.add H.told }

/-- The same with the other members asked. -/
def State.gangAsked (s : State) (g n : Nat) (G : Graph) (K : Task) : State :=
  ((s.gangNoted g n G).tellGang (s.newGang G n) (s.gangAsk g n G K)).tock

section GangNode
variable {s : State} {g n : Nat} {G : Graph} (h : Starts s g n 5 G) {K : Task} (hr : s.readLaunch g n G false = some (.ok K))
include h hr

theorem State.exec_gangNode : exec (.gangNode g n) s = .next (
    match (maskPkgs (s.nodeNat G n 32 8)).find? s.unsynced with
    | some p => ((s.begin g n).endNode g n 0x17 p noEdge).tock
    | none =>
      let here := (maskPkgs (s.nodeNat G n 32 8)).contains s.ctl.pkg
      if here && s.neverHeld K then (s.begin g n).failNode g n 0x11
      else if !here then s.gangAsked g n G K
      else State.placeAll (s.gangAsked g n G K).fresh true K.launch.blocks ((s.gangAsked g n G K).addTask K).2) := by
  show execGangNode g n s = _
  unfold execGangNode
  rw [State.launchFx_of_starts h, show decide ((5 : Nat) = 6) = false from rfl, hr]
  simp only [State.nodeNat_congr (s.begin_readState g n), State.waRead_congr (s.begin_readState g n)]
  rfl

end GangNode

/-- What asking the other members leaves. -/
theorem State.gangAsked_sent (s : State) (g n : Nat) (G : Graph) (K : Task) :
    OnlySent (s.gangNoted g n G).tock (s.gangAsked g n G K) := by
  obtain ⟨honly, hsub⟩ := (s.gangNoted g n G).tellGang_sent (s.newGang G n) (s.gangAsk g n G K)
  exact ⟨congrArg State.tock honly, hsub⟩

theorem State.gangAsked_tells {s : State} {g n p : Nat} {G : Graph} (K : Task) (hp : p ∈ maskPkgs (s.nodeNat G n 32 8))
    (hself : p ≠ s.ctl.pkg) : (s.gangAsked g n G K).Tells p (.gang (s.gangAsk g n G K)) :=
  State.tellGang_tells (s.gangNoted g n G) (A := s.newGang G n) (s.gangAsk g n G K) hp hself

theorem State.gangNoted_find {s : State} {g n : Nat} {G : Graph} (hG : s.graphs.find g = some G) :
    ∃ H, (s.gangNoted g n G).graphs.find g = some H ∧ n ∈ H.running ∧ H.gangs.find n = some (s.newGang G n) :=
  ⟨_, State.modGraph_find (State.modGraph_find hG _) _, G.started_running n, Tab.find_put_same ..⟩

/-- Clauses of O57 about a GANG node that starts. -/
theorem State.gangNode_clauses {s : State} {g n : Nat} {G : Graph} (h : Starts s g n 5 G) {K : Task}
    (hr : s.readLaunch g n G false = some (.ok K)) :
    let ms := maskPkgs (s.nodeNat G n 32 8)
    let cores := ((s.ctl.parts.find K.part).map fun P => P.cores.length).getD 0
    let small : Prop := s.ctl.pkg ∈ ms ∧ K.launch.perCore * cores < K.launch.blocks
    let image := (s.waRead G.part (s.nodeNat G n 16 8) 64).getD []
    (∀ p, ms.find? s.unsynced = some p → ∃ u, exec (.gangNode g n) s = .next u ∧
      EndsNode (s.begin g n) u g n (G.started n) 0x17 p noEdge) ∧
    (ms.find? s.unsynced = none → small → ∃ u d, exec (.gangNode g n) s = .next u ∧
      EndsNode (s.begin g n) u g n (G.started n) 0x11 d noEdge) ∧
    (ms.find? s.unsynced = none → ¬ small → ∃ u H A, exec (.gangNode g n) s = .next u ∧ u.graphs.find g = some H ∧
      n ∈ H.running ∧ H.gangs.find n = some A ∧ A.mask = ms ∧ A.started = false ∧ A.ready = [] ∧
      A.want = s.nodeNat G n 40 8 ∧ A.began = s.ctl.clk.toNat ∧ { u.mem with guards := s.mem.guards } = s.mem ∧
      (∀ p, p ∈ ms → p ≠ s.ctl.pkg → ∃ x, x ∈ u.eng.sent ∧ x.dst = p ∧
        x.op = .gang (.ask g n G.part K.guard G.super image)) ∧
      (s.ctl.pkg ∉ ms → A.task = none ∧ u.blocks = s.blocks ∧ u.mem = s.mem) ∧
      (s.ctl.pkg ∈ ms → A.task = some s.fresh ∧ ∃ K', u.tasks.find s.fresh = some K' ∧ { K' with next := 0, farGuards := K.farGuards } = K ∧
        ∀ j, j < K'.next → ∃ B, u.blocks.find (s.fresh + 1 + j) = some B ∧ B.task = s.fresh ∧ B.id = j ∧ B.gang = true)) := by
  intro ms cores small image
  have hexec := State.exec_gangNode h hr
  have hsent := s.gangAsked_sent g n G K
  have hfresh : (s.gangAsked g n G K).fresh = s.fresh := hsent.fresh
  have hmem : (s.gangAsked g n G K).mem = s.mem := hsent.mem
  obtain ⟨H, hH, hrun, hgang⟩ := State.gangNoted_find (n := n) h.1
  have hH' : (s.gangAsked g n G K).graphs.find g = some H := hsent.graphs ▸ hH
  refine ⟨fun p hp => ⟨_, ?_, (State.endNode_ends h.begin_find ..).tock⟩, fun hnone hsmall => ⟨_, _, ?_,
    State.failNode_ends h.begin_find n 0x11⟩, fun hnone hsmall => ?_⟩
  · rw [hexec, hp]
  · obtain ⟨hhere, hfit⟩ := hsmall
    have hnever : s.neverHeld K = true := decide_eq_true hfit
    rw [hexec, hnone]
    simp [ms, hnever] at hhere ⊢
    simp [hhere]
  · by_cases hhere : s.ctl.pkg ∈ ms
    · have hnever : s.neverHeld K = false := decide_eq_false fun hfit => hsmall ⟨hhere, hfit⟩
      obtain ⟨K', hl⟩ := (s.gangAsked g n G K).launch_launched (State.readLaunch_next hr) true
      rw [hnone] at hexec
      rw [hexec]
      refine ⟨_, H, s.newGang G n, by simp [hhere, hnever, ms], hl.graphs ▸ hH', hrun, hgang, rfl, rfl, rfl, rfl, rfl, ?_,
        fun p hp hself => (State.gangAsked_tells K hp hself).mono hl.sent, fun hnot => absurd hhere hnot, fun _ => ⟨?_, K',
          hfresh ▸ hl.task, hl.same, fun j hj => ?_⟩⟩
      · have hg := hl.guarded.1
        rwa [hmem] at hg
      · exact (if_pos (List.contains_iff_mem.2 hhere) : (if ms.contains s.ctl.pkg then some s.fresh else none) = _)
      · obtain ⟨B, hB, hk, hid, hgang⟩ := hl.placed j hj
        exact ⟨B, hfresh ▸ hB, hk.trans hfresh, hid, hgang⟩
    · rw [hnone] at hexec
      rw [hexec]
      refine ⟨s.gangAsked g n G K, H, s.newGang G n, by simp [hhere, ms], hH', hrun, hgang, rfl, rfl, rfl, rfl, rfl,
        (congrArg (fun m : Store => { m with guards := s.mem.guards }) hmem :),
        fun p hp hself => State.gangAsked_tells K hp hself, fun _ => ⟨?_, hsent.blocks, hmem⟩, fun hmem => absurd hmem hhere⟩
      exact (if_neg (fun hc => hhere (List.contains_iff_mem.1 hc)) : (if ms.contains s.ctl.pkg then some s.fresh else none) = _)

end Sys2Proof.Machine

namespace Sys2Proof.Machine

/-! ### Replies, start and timeout of a gang -/

/-- A gang's record with the reply of a member noted. -/
def Gang.replied (A : Gang) (p tick : Nat) : Gang :=
  { A with ready := Marks.add A.ready p, latest := max A.latest tick }

/-- A graph with a record of a gang's launch noted. -/
def Graph.gangNoted (n : Nat) (A : Gang) (G : Graph) : Graph := { G with gangs := G.gangs.put n A }

/-- A gang's record once the start tick has come. -/
def Gang.begun (A : Gang) : Gang := { A with started := true }

/-- A graph one of whose gangs has begun. -/
def Graph.gangBegun (n : Nat) (G : Graph) : Graph := { G with gangs := G.gangs.mod n Gang.begun }

/-- A block whose troupes a gang's task `k` releases, if it is one of that task. -/
def Block.freed (k : Nat) (B : Block) : Block := { B with gang := B.gang && decide (B.task ≠ k) }

theorem State.freeGang_find (s : State) (k b : Nat) : (s.freeGang k).blocks.find b = (s.blocks.find b).map (Block.freed k) :=
  Tab.find_map s.blocks (Block.freed k) b

/-- What a gang launch that has failed leaves of its blocks, task and guard bits here. -/
def State.givenUp (s : State) (A : Gang) : State :=
  let t := A.task.elim s s.clearFar
  { t with
    blocks := t.blocks.filter fun b => some b.2.task ≠ A.task
    tasks := t.tasks.filter fun k => some k.1 ≠ A.task
    mem := { t.mem with guards := t.mem.guards.filter fun x => some x.2 ≠ A.task } }

section Node
variable {s : State} {g n : Nat} {G : Graph} {A : Gang} (hG : s.graphs.find g = some G) (hA : G.gangs.find n = some A)
include hG hA

theorem State.gang_find : ((s.graphs.find g).bind fun G => G.gangs.find n) = some A := by rw [hG]; exact hA

theorem State.gangReply_notes {p tick : Nat} (hp : p ∈ A.mask) (hs : A.started = false) (hr : p ∉ A.ready) :
    ∃ H, (s.gangReply g n p tick).graphs.find g = some H ∧ H.gangs.find n = some (A.replied p tick) ∧
      { s.gangReply g n p tick with graphs := s.graphs, eng := s.eng } = s ∧
      ((A.replied p tick).mask.all (A.replied p tick).ready.contains = false → (s.gangReply g n p tick).eng = s.eng) ∧
      ((A.replied p tick).mask.all (A.replied p tick).ready.contains = true → ∀ q, q ∈ A.mask → q ≠ s.ctl.pkg →
        (s.gangReply g n p tick).Tells q (.gang (.start g n (A.replied p tick).tick))) := by
  have hfind := State.modGraph_find hG (Graph.gangNoted n (A.replied p tick))
  have hgang : (G.gangNoted n (A.replied p tick)).gangs.find n = some (A.replied p tick) := Tab.find_put_same ..
  have heq : s.gangReply g n p tick = if (A.replied p tick).mask.all (A.replied p tick).ready.contains then
      (s.modGraph g (Graph.gangNoted n (A.replied p tick))).tellGang (A.replied p tick) (.start g n (A.replied p tick).tick)
      else s.modGraph g (Graph.gangNoted n (A.replied p tick)) := by
    have hc : (!A.mask.contains p || A.started || A.ready.contains p) = false := by simp [hp, hs, hr]
    rw [State.gangReply, State.gang_find hG hA]
    simp only [hc, Bool.false_eq_true, if_false]
    rfl
  rw [heq]
  have hmask : (A.replied p tick).mask = A.mask := rfl
  generalize A.replied p tick = B at *
  cases hall : B.mask.all B.ready.contains with
  | false => exact ⟨_, hfind, hgang, rfl, fun _ => rfl, nofun⟩
  | true =>
    have hsent := (s.modGraph g (Graph.gangNoted n B)).tellGang_sent B (.start g n B.tick)
    refine ⟨_, hsent.graphs ▸ hfind, hgang, ?_, nofun, fun _ q hq hself => State.tellGang_tells _ _ ?_ hself⟩
    · exact (congrArg (fun t : State => { t with graphs := s.graphs, eng := s.eng }) hsent.only :)
    · exact hmask ▸ hq

/-- A member's own reply is that its share is resident, with its pod time; another's is the tick it sends. -/
theorem State.exec_gangReady (p tick : Nat) : exec (.gangReady g n p tick) s = .next
    (if p = s.ctl.pkg ∧ s.gangResident A = false then s
      else s.gangReply g n p (if p = s.ctl.pkg then s.ctl.clk.toNat else tick)) := by
  show execGangReady g n p tick s = _
  rw [execGangReady, State.gang_find hG hA]
  by_cases hp : p = s.ctl.pkg
  · cases hres : s.gangResident A <;> simp [hp, hres]
  · simp [hp]

theorem State.gangReply_of_done {p tick : Nat} (h : p ∉ A.mask ∨ A.started = true ∨ p ∈ A.ready) :
    s.gangReply g n p tick = s := by
  rw [State.gangReply, State.gang_find hG hA]
  have : (!A.mask.contains p || A.started || A.ready.contains p) = true := by
    rcases h with h | h | h <;> simp [h]
  simp only [this, if_true]

/-- A gang whose start tick has come runs, and its node goes on, as no member's blocks have ended. -/
theorem State.gangStart_leaves (hd : s.gangDue A = true) (he : A.ended = []) (hm : A.mask ≠ []) :
    ∃ u H, exec (.gangStartTick g n) s = .next u ∧ u.graphs.find g = some H ∧
      H.gangs.find n = some { A with started := true } ∧ u.mem = s.mem ∧
      ∀ k B, s.blocks.find k = some B → ∃ C, u.blocks.find k = some C ∧ { C with gang := B.gang } = B ∧
        C.gang = (B.gang && decide (A.task ≠ some B.task)) := by
  let t := (A.task.elim s s.freeGang).modGraph g (Graph.gangBegun n)
  have hexec : exec (.gangStartTick g n) s = .next (t.gangEnd g n) := by
    show execGangStartTick g n s = _
    simp [execGangStartTick, State.gang_find hG hA, hd]
    rfl
  have hgraphs : (A.task.elim s s.freeGang).graphs = s.graphs := by cases A.task <;> rfl
  have ht : t.graphs.find g = some (G.gangBegun n) := State.modGraph_find (hgraphs ▸ hG) _
  have hgang : (G.gangBegun n).gangs.find n = some A.begun := by
    rw [Graph.gangBegun, Tab.find_mod_same, hA, Option.map_some]
  have hend : t.gangEnd g n = t := by
    obtain ⟨p, ps, hps⟩ := List.exists_cons_of_ne_nil hm
    simp [State.gangEnd, ht, hgang, Gang.begun, he, hps]
  refine ⟨t, G.gangBegun n, hend ▸ hexec, ht, hgang, ?_, fun k B hB => ?_⟩
  · show (A.task.elim s s.freeGang).mem = s.mem
    cases A.task <;> rfl
  · show ∃ C, (A.task.elim s s.freeGang).blocks.find k = some C ∧ _
    cases A.task with
    | none => exact ⟨B, hB, rfl, by simp⟩
    | some j =>
      refine ⟨B.freed j, (s.freeGang_find j k).trans (congrArg _ hB), rfl, ?_⟩
      simp [Block.freed, eq_comm]

/-- A gang launch given up: its task, blocks and guard bits here are gone, and the other members are told. -/
theorem State.gangTimeout_leaves {p : Nat} (hl : s.gangLate A p = true) :
    ∃ u w : State, exec (.gangTimeout g n p) s = .next u ∧ EndsNode w u g n G 0x17 p noEdge ∧
      { w with blocks := s.blocks, tasks := s.tasks, eng := s.eng, mem := { w.mem with guards := s.mem.guards } } = s ∧
      (∀ x, x ∈ w.mem.guards ↔ x ∈ s.mem.guards ∧ A.task ≠ some x.2) ∧
      (∀ q, q ∈ A.mask → q ≠ s.ctl.pkg → u.Tells q (.gang (.release g n))) ∧
      (∀ x, x ∈ w.blocks ↔ x ∈ s.blocks ∧ A.task ≠ some x.2.task) ∧
      ∀ x, x ∈ w.tasks ↔ x ∈ s.tasks ∧ A.task ≠ some x.1 := by
  have hcleared : OnlySent s (A.task.elim s s.clearFar) := by
    cases A.task with
    | none => exact .rfl
    | some k => exact s.clearFar_sent k
  have hv : { s.givenUp A with
      blocks := s.blocks
      tasks := s.tasks
      eng := s.eng
      mem := { (s.givenUp A).mem with guards := s.mem.guards } } = s :=
    (congrArg (fun x : State => { x with
      blocks := s.blocks, tasks := s.tasks, eng := s.eng, mem := { x.mem with guards := s.mem.guards } }) hcleared.only :)
  have hw : OnlySent (s.givenUp A) ((s.givenUp A).tellGang A (.release g n)) := State.tellGang_sent ..
  have hgraph : ((s.givenUp A).tellGang A (.release g n)).graphs.find g = some G := by
    rw [hw.graphs]
    exact hcleared.graphs ▸ hG
  have mem_filter {α : Type} (xs ys : List α) (key : α → Nat) (hxs : xs = ys.filter fun x => some (key x) ≠ A.task) (x : α) :
      x ∈ xs ↔ x ∈ ys ∧ A.task ≠ some (key x) := by
    rw [hxs, List.mem_filter, decide_eq_true_eq, ne_comm]
  refine ⟨((s.givenUp A).tellGang A (.release g n)).endNode g n 0x17 p noEdge, (s.givenUp A).tellGang A (.release g n), ?_, State.endNode_ends hgraph .., ?_,
    mem_filter _ _ Prod.snd ?_, fun q hq hself => (State.tellGang_tells (s.givenUp A) _ hq ?_).mono (State.endNode_worked hgraph ..).sent,
    mem_filter _ _ (fun x : Nat × Block => x.2.task) ?_, mem_filter _ _ Prod.fst ?_⟩
  · show execGangTimeout g n p s = _
    rw [execGangTimeout, State.gang_find hG hA]
    simp only [hl, Bool.not_true, Bool.false_eq_true, if_false]
    rfl
  · exact Eq.trans (congrArg (fun x : State => { x with
      blocks := s.blocks, tasks := s.tasks, eng := s.eng, mem := { x.mem with guards := s.mem.guards } }) hw.only :) hv
  · rw [hw.mem]
    exact congrArg (fun m : Store => m.guards.filter fun x => some x.2 ≠ A.task) hcleared.mem
  · exact hcleared.ctl ▸ hself
  · rw [hw.blocks]
    exact congrArg (List.filter fun b => some b.2.task ≠ A.task) hcleared.blocks
  · rw [hw.tasks]
    exact congrArg (List.filter fun k => some k.1 ≠ A.task) hcleared.tasks

end Node

/-! ### Shares held for other packages -/

section Share
variable {s : State} {id n : Nat} {A : FarGang} (hnone : ((s.graphs.find id).bind fun G => G.gangs.find n) = none)
  (hA : s.eng.gangs.find id = some A)
include hnone hA

theorem State.share_replies (p tick : Nat) :
    (s.shareReady A = false → exec (.gangReady id n p tick) s = .next s) ∧
    (s.shareReady A = true → ∃ u x, exec (.gangReady id n p tick) s = .next u ∧
      u.eng.gangs.find id = some { A with replied := true } ∧ x ∈ u.eng.sent ∧ x.dst = A.src ∧
      x.op = .gang (.ready A.g A.n s.ctl.clk.toNat) ∧ u.blocks = s.blocks ∧ u.mem = s.mem) := by
  show (_ → execGangReady id n p tick s = _) ∧ (_ → ∃ u x, execGangReady id n p tick s = _ ∧ _)
  rw [execGangReady, hnone]
  simp only [hA]
  refine ⟨fun h => by simp only [h, Bool.not_false, if_true], fun h => ?_⟩
  simp only [h, Bool.not_true, Bool.false_eq_true, if_false]
  obtain ⟨x, hx, hdst, hop⟩ := State.send_tells
    { s with eng := { s.eng with gangs := s.eng.gangs.put id { A with replied := true } } } A.src 0
    (.gang (.ready A.g A.n s.ctl.clk.toNat))
  exact ⟨_, x, rfl, Tab.find_put_same .., hx, hdst, hop, rfl, rfl⟩

theorem State.share_starts :
    (s.shareDue A = false → exec (.gangStartTick id n) s = .next s) ∧
    (s.shareDue A = true → ∃ u, exec (.gangStartTick id n) s = .next u ∧ u.mem = s.mem ∧
      u.eng.gangs.find id = some { A with start := none } ∧ ∀ k B, s.blocks.find k = some B → ∃ C,
        u.blocks.find k = some C ∧ { C with gang := B.gang } = B ∧ C.gang = (B.gang && decide (B.task ≠ A.task))) := by
  show (_ → execGangStartTick id n s = _) ∧ (_ → ∃ u, execGangStartTick id n s = _ ∧ _)
  rw [execGangStartTick, hnone]
  simp only [hA]
  refine ⟨fun h => by simp only [h, Bool.not_false, if_true], fun h => ?_⟩
  simp only [h, Bool.not_true, Bool.false_eq_true, if_false]
  refine ⟨_, rfl, rfl, Tab.find_put_same .., fun k B hB => ⟨B.freed A.task, ?_, rfl, rfl⟩⟩
  exact (State.freeGang_find { s with eng := { s.eng with gangs := s.eng.gangs.put id { A with start := none } } } A.task k).trans
    (congrArg _ hB)

end Share

end Sys2Proof.Machine

namespace Sys2Proof.Machine

/-! ## BIN nodes (06 R172) -/

/-- The `i`-th bin a BIN node arms for a task. -/
def State.newBin (s : State) (G : Graph) (n task i : Nat) : Bin :=
  let ring := s.nodeNat G n 48 8
  let cap := if ring = 0 then 0 else s.nodeNat G n 56 4
  { task := task, home := bits (s.nodeNat G n 32 4) 26 16, count := s.nodeNat G n 36 4, timer := s.nodeNat G n 40 4
    ring := ring + 32 * cap * i, ringCap := cap }

/-- The cores at which a BIN node of graph `G` arms its bin. -/
def State.binCores (s : State) (G : Graph) (n : Nat) : List Nat :=
  if bit (s.nodeNat G n 32 4) 4 then ((s.ctl.parts.find G.part).map Part.cores).getD []
  else [bits (s.nodeNat G n 32 4) 26 16]

theorem State.binCores_nodup (s : State) (G : Graph) (n : Nat) : (s.binCores G n).Nodup := by
  unfold State.binCores
  split
  · cases s.ctl.parts.find G.part with
    | none => exact List.nodup_nil
    | some P =>
      rw [Option.map_some, Option.getD_some, Part.cores]
      exact List.nodup_range.filter _
  · exact List.nodup_singleton _

/-- A bin armed at some cores, each with its own place of the ring. -/
def State.armBins (cores : List Nat) (b : Nat) (bin : Nat → Bin) (s : State) : State :=
  (cores.zip (List.range cores.length)).foldl (fun s c => s.modCore c.1 fun C => { C with bins := C.bins.put b (bin c.2) }) s

theorem State.armBins_cores (cores : List Nat) (b : Nat) (bin : Nat → Bin) (s : State) : OnlyCores s (s.armBins cores b bin) := by
  unfold State.armBins
  refine OnlyCores.foldl _ (fun s c => ?_) s
  exact Eq.refl _

theorem State.armBins_bin {cores : List Nat} (hn : cores.Nodup) (b : Nat) (bin : Nat → Bin) (s : State) {j c : Nat}
    (h : cores[j]? = some c) : (s.armBins cores b bin).bin c b = some (bin j) := by
  refine foldl_reading_at_key (f := fun (s : State) (c : Nat × Nat) => s.modCore c.1 fun C => { C with bins := C.bins.put b (bin c.2) })
    (key := Prod.fst) (read := fun s c => s.bin c b) (g := fun c _ => some (bin c.2)) (fun s x => ?_) (fun s x k hk => ?_) ?_
    (mem_zip_range h) s
  · rw [State.bin, State.modCore_core_same]
    exact Tab.find_put_same ..
  · rw [State.bin, State.modCore_core, if_neg hk]
    rfl
  · rw [List.map_fst_zip (by simp)]
    exact hn

section BinNode
variable {s : State} {g n : Nat} {G : Graph} (h : Starts s g n 6 G) {K : Task} (hr : s.readLaunch g n G true = some (.ok K))
include h hr

theorem State.exec_binNode : exec (.binNode g n) s = .next (
    let b := bits (s.nodeNat G n 32 4) 3 0
    let count := s.nodeNat G n 36 4
    if !(((s.ctl.parts.find G.part).map Part.cores).getD []).contains (bits (s.nodeNat G n 32 4) 26 16) then
      (s.begin g n).endNode g n 0x11 7 noEdge
    else if (s.binCores G n).any (fun c => (s.bin c b).isSome) then (s.begin g n).endNode g n 0x11 4 noEdge
    else if count = 0 || decide (count > 32 * K.launch.troupes) then (s.begin g n).endNode g n 0x11 5 noEdge
    else (((s.begin g n).addTask { K with bin := some b }).2).armBins (s.binCores G n) b (s.newBin G n s.fresh)) := by
  have hread := ((s.begin g n).addTask_sets { K with bin := some (bits (s.nodeNat G n 32 4) 3 0) }).readState
  show execBinNode g n s = _
  unfold execBinNode
  rw [State.launchFx_of_starts h, show decide ((6 : Nat) = 6) = true from rfl, hr]
  simp only [State.nodeNat_congr (s.begin_readState g n), State.nodeNat_congr (hread.trans (s.begin_readState g n))]
  rfl

/-- Clauses of O57 about a BIN node that starts. -/
theorem State.binNode_clauses :
    let w := s.nodeNat G n 32 4
    let bin := bits w 3 0
    let home := bits w 26 16
    let count := s.nodeNat G n 36 4
    let all := ((s.ctl.parts.find G.part).map Part.cores).getD []
    let cores := if bit w 4 then all else [home]
    let ring := s.nodeNat G n 48 8
    let cap := if ring = 0 then 0 else s.nodeNat G n 56 4
    let taken := cores.any fun c => (s.bin c bin).isSome
    let bad : Prop := count = 0 ∨ 32 * K.launch.troupes < count
    (home ∉ all → ∃ u, exec (.binNode g n) s = .next u ∧ EndsNode (s.begin g n) u g n (G.started n) 0x11 7 noEdge) ∧
    (home ∈ all → taken = true → ∃ u, exec (.binNode g n) s = .next u ∧
      EndsNode (s.begin g n) u g n (G.started n) 0x11 4 noEdge) ∧
    (home ∈ all → taken = false → bad → ∃ u, exec (.binNode g n) s = .next u ∧
      EndsNode (s.begin g n) u g n (G.started n) 0x11 5 noEdge) ∧
    (home ∈ all → taken = false → ¬ bad → ∃ u H, exec (.binNode g n) s = .next u ∧ u.graphs.find g = some H ∧
      n ∈ H.running ∧ u.blocks = s.blocks ∧
      (∃ K', u.tasks.find s.fresh = some K' ∧ { K' with farGuards := K.farGuards } = { K with bin := some bin }) ∧
      { u.mem with guards := s.mem.guards } = s.mem ∧
      ∀ j c, cores[j]? = some c → ∃ x, u.bin c bin = some x ∧ x.task = s.fresh ∧ x.home = home ∧ x.count = count ∧
        x.timer = s.nodeNat G n 40 4 ∧ x.held = [] ∧ x.ringCap = cap ∧ x.ring = ring + 32 * cap * j) := by
  intro w bin home count all cores ring cap taken bad
  have hexec := State.exec_binNode h hr
  have hends (code d : Nat) := State.endNode_ends h.begin_find n code d noEdge
  have hcores : s.binCores G n = cores := rfl
  have htaken : ((s.binCores G n).any fun c => (s.bin c (bits (s.nodeNat G n 32 4) 3 0)).isSome) = taken := rfl
  have hhome (hh : home ∈ all) : (!(((s.ctl.parts.find G.part).map Part.cores).getD []).contains
      (bits (s.nodeNat G n 32 4) 26 16)) = false := by
    rw [Bool.not_eq_false']
    exact List.contains_iff_mem.2 hh
  have hbad : (decide (s.nodeNat G n 36 4 = 0) || decide (s.nodeNat G n 36 4 > 32 * K.launch.troupes)) = decide bad :=
    (Bool.decide_or ..).symm
  simp only [htaken, hbad] at hexec
  refine ⟨fun hh => ⟨_, ?_, hends 0x11 7⟩, fun hh ht => ⟨_, ?_, hends 0x11 4⟩, fun hh ht hb => ⟨_, ?_, hends 0x11 5⟩,
    fun hh ht hb => ?_⟩
  · have hhome' : (!(((s.ctl.parts.find G.part).map Part.cores).getD []).contains (bits (s.nodeNat G n 32 4) 26 16)) = true := by
      rw [Bool.not_eq_true', Bool.eq_false_iff]
      exact fun hc => hh (List.contains_iff_mem.1 hc)
    rw [hexec, if_pos hhome']
  · simp only [hexec, hhome hh, ht, Bool.false_eq_true, if_false, if_true]
  · simp only [hexec, hhome hh, ht, decide_eq_true hb, Bool.false_eq_true, if_false, if_true]
  · simp only [hhome hh, ht, decide_eq_false hb, Bool.false_eq_true, if_false] at hexec
    have hs := (s.begin g n).addTask_sets { K with bin := some bin }
    have harm := State.armBins_cores (s.binCores G n) bin (s.newBin G n s.fresh) ((s.begin g n).addTask { K with bin := some bin }).2
    obtain ⟨L, hL, hsame⟩ := (s.begin g n).addTask_find { K with bin := some bin }
    refine ⟨_, G.started n, hexec, ?_, G.started_running n, harm.blocks.trans hs.blocks, ⟨L, harm.tasks ▸ hL, hsame⟩, ?_,
      fun j c hj => ⟨s.newBin G n s.fresh j, State.armBins_bin (s.binCores_nodup G n) bin _ _ hj, rfl, rfl, rfl, rfl, rfl, rfl,
        rfl⟩⟩
    · exact (congrArg (fun t : State => t.graphs.find g) harm :).trans (hs.graphs ▸ h.begin_find)
    · rw [harm.mem]
      exact hs.mem

end BinNode

/-- Settles O57: GANG nodes, replies, start and timeout, shares held for others and BIN nodes, by one lemma each. -/
theorem gangsAndBinsAreArmed : Obligations.GangsAndBinsAreArmed := by
  unfold Obligations.GangsAndBinsAreArmed
  intro s g n G b G1
  refine ⟨fun h K hr => State.gangNode_clauses h hr, fun A hG hA => ⟨fun p tick hp hs hready hres => ?_,
    fun p tick hdone => ?_, fun hd => ?_, fun hd he hm => State.gangStart_leaves hG hA hd he hm, fun p hl => ?_,
    fun p hl => State.gangTimeout_leaves hG hA hl⟩, fun id A hnone hA => ⟨fun p tick => State.share_replies hnone hA p tick,
    State.share_starts hnone hA⟩, fun h K hr => State.binNode_clauses h hr⟩
  · obtain ⟨H, hH, hgang, hrest, hwait, htell⟩ := State.gangReply_notes hG hA
      (tick := if p = s.ctl.pkg then s.ctl.clk.toNat else tick) hp hs hready
    refine ⟨_, H, (State.exec_gangReady hG hA p tick).trans (congrArg _ (if_neg ?_)), hH, hgang, hrest, hwait, htell⟩
    exact fun hself => Bool.false_ne_true (hself.2.symm.trans (hres hself.1))
  · rw [State.exec_gangReady hG hA, State.gangReply_of_done hG hA hdone, ite_self]
  · show execGangStartTick g n s = _
    rw [execGangStartTick, State.gang_find hG hA]
    simp only [hd, Bool.not_false, if_true]
  · show execGangTimeout g n p s = _
    rw [execGangTimeout, State.gang_find hG hA]
    simp only [hl, Bool.not_false, if_true]

end Sys2Proof.Machine

namespace Sys2Proof.Machine

/-! ## Task graphs: start and completion (06 R163 to R167) -/

/-- A table that lists a value for each number below a bound gives it there. -/
theorem Tab.get_range_map (f : Nat → Nat) {c n : Nat} (h : n < c) :
    Tab.get 0 ((List.range c).map fun n => (n, f n)) n = f n := by
  have hmem : (n, f n) ∈ (List.range c).map fun n => (n, f n) := List.mem_map.2 ⟨n, List.mem_range.2 h, rfl⟩
  have hkeys : (((List.range c).map fun n => (n, f n)).map Prod.fst).Nodup := by
    rw [List.map_map]
    exact (List.map_id (List.range c)).symm ▸ List.nodup_range
  rw [Tab.get_eq, Tab.find_of_mem hkeys hmem]
  rfl

/-- A graph starts with its nodes' in-degrees, and with those ready that wait for none. -/
theorem State.loadGraph_indeg (s : State) (part : Nat) (x : Pending) (wa sub : Nat) {n : Nat}
    (h : n < (s.loadGraph part x wa sub).count) :
    (s.loadGraph part x wa sub).indeg.get 0 n = s.nodeNat (s.loadGraph part x wa sub) n 2 2 :=
  Tab.get_range_map (fun n => s.nodeNat (s.loadGraph part x wa sub) n 2 2) h

theorem State.loadGraph_ready (s : State) (part : Nat) (x : Pending) (wa sub n : Nat) :
    n ∈ (s.loadGraph part x wa sub).ready ↔
      n < (s.loadGraph part x wa sub).count ∧ s.nodeNat (s.loadGraph part x wa sub) n 2 2 = 0 := by
  show n ∈ (((List.range (s.loadGraph part x wa sub).count).map fun n =>
    (n, s.nodeNat (s.loadGraph part x wa sub) n 2 2)).filter fun p => p.2 = 0).map Prod.fst ↔ _
  simp only [List.mem_map, List.mem_filter, List.mem_range, decide_eq_true_eq]
  constructor
  · rintro ⟨p, ⟨⟨m, hm, rfl⟩, hz⟩, rfl⟩
    exact ⟨hm, hz⟩
  · rintro ⟨hn, hz⟩
    exact ⟨_, ⟨⟨n, hn, rfl⟩, hz⟩, rfl⟩

/-- Taking a partition's first submission leaves its configuration and the rest of its queue. -/
theorem State.popQueue_part {s : State} {part : Nat} {P : Part} (hP : s.ctl.parts.find part = some P) (x : Pending) :
    ∃ P', (s.popQueue part x).ctl.parts.find part = some P' ∧ P'.queue = P.queue.drop 1 ∧ P'.cfg = P.cfg := by
  unfold State.popQueue
  simp only [State.modPart_ctl, Tab.find_mod_same, hP, Option.map_some]
  refine ⟨_, rfl, ?_, ?_⟩ <;> split <;> rfl

/-- A submission's status is written, and its graph and blocks stand. -/
theorem State.endSubmission_leaves {s : State} {part : Nat} {P : Part} (hP : s.ctl.parts.find part = some P) (src : Source)
    (status : Nat) :
    (s.endSubmission part src status).mem = (s.waWrite part (P.subAt src + 16) (leBytes 4 status)).mem ∧
    (s.endSubmission part src status).blocks = s.blocks ∧ (s.endSubmission part src status).graphs = s.graphs ∧
    (s.endSubmission part src status).ctl.parts = s.ctl.parts ∧
    (s.endSubmission part src status).eng.sent = (s.waWrite part (P.subAt src + 16) (leBytes 4 status)).eng.sent := by
  have hw := s.waWrite_written part (P.subAt src + 16) (leBytes 4 status)
  unfold State.endSubmission
  rw [hP]
  dsimp only
  generalize s.waWrite part (P.subAt src + 16) (leBytes 4 status) = w at *
  split <;> exact ⟨rfl, hw.blocks, hw.graphs, hw.parts, rfl⟩

/-- What a submission that breaks Table 6.1 is. -/
def State.subBad (s : State) (part wa : Nat) : Prop :=
  let sub := s.waNat part wa 32
  bits sub 79 64 = 0 ∨ s.ctl.parts.find (bits sub 83 80) = none ∨ bits sub 127 85 ≠ 0 ∨ bits sub 255 160 ≠ 0 ∨
    s.waRead part wa 32 = none

section Start
variable {s : State} {part : Nat} {P : Part} {x : Pending} (hP : s.ctl.parts.find part = some P)
  (hx : P.queue.head? = some x) (hready : s.subReady P x.src = some true) (hlock : s.ctl.locked = false)
include hP hx hready hlock

theorem State.exec_graphStart [Decidable (s.subBad part (P.subAt x.src))] : exec (.graphStart part) s = .next (
    let wa := P.subAt x.src
    let sub := s.waNat part wa 32
    if s.waAbsent part wa 32 then s
    else if s.subBad part wa then (s.popQueue part x).endSubmission part x.src 0x01
    else if bit sub 84 && s.graphs.any fun g => g.2.sub = part then s
    else ({ s.popQueue part x with
      graphs := s.graphs.put s.fresh (s.loadGraph part x wa sub) }).bump) := by
  show execGraphStart part s = _
  have hbad : (decide (bits (s.waNat part (P.subAt x.src) 32) 79 64 = 0) ||
      (s.ctl.parts.find (bits (s.waNat part (P.subAt x.src) 32) 83 80)).isNone ||
      decide (bits (s.waNat part (P.subAt x.src) 32) 127 85 ≠ 0) || decide (bits (s.waNat part (P.subAt x.src) 32) 255 160 ≠ 0) ||
      (s.waRead part (P.subAt x.src) 32).isNone) = decide (s.subBad part (P.subAt x.src)) := by
    rw [Bool.eq_iff_iff, decide_eq_true_eq (p := s.subBad part (P.subAt x.src))]
    simp only [State.subBad, Bool.or_eq_true, decide_eq_true_eq, Option.isNone_iff_eq_none, or_assoc]
  simp only [execGraphStart, hP, hx, hready, hlock, hbad, Bool.false_or, decide_eq_true_eq]
  split
  · rfl
  split
  · rfl
  split <;> rfl

/-- Clauses of O55 about the start of a graph. -/
theorem State.graphStart_clauses :
    let wa := P.subAt x.src
    let sub := s.waNat part wa 32
    (s.waAbsent part wa 32 = true → exec (.graphStart part) s = .next s) ∧
    (s.waAbsent part wa 32 = false → s.subBad part wa → ∃ u P', exec (.graphStart part) s = .next u ∧
      u.ctl.parts.find part = some P' ∧ P'.queue = P.queue.drop 1 ∧ u.graphs = s.graphs ∧ u.blocks = s.blocks ∧
      u.mem = ((s.popQueue part x).waWrite part (wa + 16) (leBytes 4 0x01)).mem) ∧
    (s.waAbsent part wa 32 = false → ¬ s.subBad part wa → bit sub 84 = true → (∃ g G, (g, G) ∈ s.graphs ∧ G.sub = part) →
      exec (.graphStart part) s = .next s) ∧
    (s.waAbsent part wa 32 = false → ¬ s.subBad part wa → (bit sub 84 = false ∨ ∀ g G, (g, G) ∈ s.graphs → G.sub ≠ part) →
      ∃ u P' G, exec (.graphStart part) s = .next u ∧ u.ctl.parts.find part = some P' ∧ P'.queue = P.queue.drop 1 ∧
        u.graphs.find s.fresh = some G ∧ G.nodes = bits sub 63 0 ∧ G.count = bits sub 79 64 ∧ G.part = bits sub 83 80 ∧
        G.sub = part ∧ G.running = [] ∧ G.ended = none ∧ u.mem = s.mem ∧ u.blocks = s.blocks ∧
        (∀ n, n < G.count → G.indeg.get 0 n = s.nodeNat G n 2 2) ∧
        ∀ n, n ∈ G.ready ↔ n < G.count ∧ s.nodeNat G n 2 2 = 0) := by
  classical
  intro wa sub
  have hexec := State.exec_graphStart hP hx hready hlock
  obtain ⟨P', hP', hqueue, hcfg⟩ := State.popQueue_part hP x
  dsimp only at hexec
  refine ⟨fun ha => hexec.trans (congrArg _ (if_pos ha)), fun ha hb => ?_, fun ha hb hs hg => ?_, fun ha hb hs => ?_⟩
  · rw [if_neg (Bool.eq_false_iff.1 ha), if_pos hb] at hexec
    obtain ⟨hmem, hblocks, hgraphs, hparts, -⟩ := State.endSubmission_leaves hP' x.src 0x01
    have hat : P'.subAt x.src = P.subAt x.src := by
      cases x.src with
      | ring u i => cases u <;> simp only [Part.subAt, hcfg]
      | chain a q => rfl
    rw [hat] at hmem
    exact ⟨_, P', hexec, hparts ▸ hP', hqueue, hgraphs, hblocks, hmem⟩
  · have hany : (bit sub 84 && s.graphs.any fun g => g.2.sub = part) = true := by
      obtain ⟨g, G, hmem, hsub⟩ := hg
      rw [hs, Bool.true_and, List.any_eq_true]
      exact ⟨_, hmem, decide_eq_true hsub⟩
    rw [if_neg (Bool.eq_false_iff.1 ha), if_neg hb, if_pos hany] at hexec
    exact hexec
  · have hany : ¬ (bit sub 84 && s.graphs.any fun g => g.2.sub = part) = true := by
      rw [Bool.and_eq_true, List.any_eq_true]
      rintro ⟨hs', ⟨g, G⟩, hmem, hsub⟩
      exact hs.elim (fun hs => Bool.false_ne_true (hs.symm.trans hs')) fun hs => hs g G hmem (of_decide_eq_true hsub)
    rw [if_neg (Bool.eq_false_iff.1 ha), if_neg hb, if_neg hany] at hexec
    exact ⟨_, P', s.loadGraph part x wa sub, hexec, hP', hqueue, Tab.find_put_same .., rfl, rfl, rfl, rfl, rfl, rfl, rfl, rfl,
      fun n hn => s.loadGraph_indeg part x wa sub hn, s.loadGraph_ready part x wa sub⟩

end Start

/-! ### Completion -/

/-- Whether a task is one of a graph. -/
def State.taskOf (s : State) (g k : Nat) : Bool := ((s.tasks.find k).bind Task.graph).map Prod.fst = some g

theorem State.taskOf_iff (s : State) (g k : Nat) :
    s.taskOf g k = true ↔ ∃ K n, s.tasks.find k = some K ∧ K.graph = some (g, n) := by
  rw [State.taskOf, decide_eq_true_eq]
  constructor
  · intro h
    obtain ⟨⟨g', n⟩, hb, rfl⟩ := Option.map_eq_some_iff.1 h
    obtain ⟨K, hK, hg⟩ := Option.bind_eq_some_iff.1 hb
    exact ⟨K, n, hK, hg⟩
  · rintro ⟨K, n, hK, hg⟩
    rw [hK, Option.bind_some, hg, Option.map_some]

/-- A state in which the packages a graph concerns have been told that it is over. -/
def State.graphTold (s : State) (g : Nat) (G : Graph) : State :=
  G.told.foldl (fun s p => s.send p 0 (.gang (.clear g))) ((s.tasks.keys.filter (s.taskOf g)).foldl State.clearFar s)

/-- The state a graph that is over leaves but for its status. -/
def State.graphGone (s : State) (g : Nat) (G : Graph) : State :=
  { s.graphTold g G with
    mem := { (s.graphTold g G).mem with guards := (s.graphTold g G).mem.guards.filter fun x => !s.taskOf g x.2 }
    graphs := (s.graphTold g G).graphs.del g }

theorem State.exec_graphCompletion {s : State} {g : Nat} {G : Graph} (hG : s.graphs.find g = some G) :
    exec (.graphCompletion g) s = .next (if G.finished then
      (s.graphGone g G).endSubmission G.sub G.src ((G.ended.map fun x => x.1 + 256 * x.2).getD 0) else s) := by
  have hstatus : (match G.ended with
      | some (code, n) => code + 256 * n
      | none => 0) = (G.ended.map fun x => x.1 + 256 * x.2).getD 0 := by
    cases G.ended <;> rfl
  show execGraphCompletion g s = _
  rw [← hstatus]
  simp only [execGraphCompletion, hG]
  cases G.finished <;> rfl

section Told
variable (s : State) (g : Nat) (G : Graph)

theorem State.tasksTold_sent : OnlySent s ((s.tasks.keys.filter (s.taskOf g)).foldl State.clearFar s) :=
  OnlySent.foldl _ (fun s k => s.clearFar_sent k) s

theorem State.sharesTold_sent (t : State) : OnlySent t (G.told.foldl (fun s p => s.send p 0 (.gang (.clear g))) t) :=
  OnlySent.foldl _ (fun s p => .send s p 0 _) t

theorem State.graphTold_sent : OnlySent s (s.graphTold g G) :=
  (s.tasksTold_sent g).trans (State.sharesTold_sent g G _)

/-- The packages in which a task of the graph set guard bits are told. -/
theorem State.graphTold_clears {k n p : Nat} {K : Task} (hK : s.tasks.find k = some K) (hg : K.graph = some (g, n))
    (hp : p ∈ K.farGuards) : (s.graphTold g G).Tells p (.cleared k) := by
  have hk : k ∈ s.tasks.keys.filter (s.taskOf g) :=
    List.mem_filter.2 ⟨List.mem_map.2 ⟨(k, K), Tab.mem_of_find hK, rfl⟩, (s.taskOf_iff g k).2 ⟨K, n, hK, hg⟩⟩
  exact (foldl_tells hk State.clearFar_sent s (fun t ht => State.clearFar_tells (ht.tasks ▸ hK) hp)).mono
    (State.sharesTold_sent g G _).sent

/-- The packages that hold a share of one of the graph's gangs are told. -/
theorem State.graphTold_tells {p : Nat} (hp : p ∈ G.told) : (s.graphTold g G).Tells p (.gang (.clear g)) :=
  foldl_tells (f := fun s p => State.send s p 0 (.gang (.clear g))) hp (fun s p => .send s p 0 _) _
    (fun t _ => t.send_tells p 0 _)

end Told

/-- Clauses of O55 about the completion of a graph. -/
theorem State.graphCompletion_leaves {s : State} {g : Nat} {G : Graph} {P : Part} (hG : s.graphs.find g = some G)
    (hfin : G.finished = true) (hP : s.ctl.parts.find G.sub = some P) :
    ∃ u w : State, exec (.graphCompletion g) s = .next u ∧ u.graphs.find g = none ∧ u.blocks = s.blocks ∧
      (∀ k x, (k, x) ∈ w.mem.guards ↔ (k, x) ∈ s.mem.guards ∧ ∀ K n, s.tasks.find x = some K → K.graph ≠ some (g, n)) ∧
      { w with graphs := s.graphs, eng := s.eng, mem := { w.mem with guards := s.mem.guards } } = s ∧
      (∀ k K n p, s.tasks.find k = some K → K.graph = some (g, n) → p ∈ K.farGuards → u.Tells p (.cleared k)) ∧
      (∀ p ∈ G.told, u.Tells p (.gang (.clear g))) ∧
      u.mem = (w.waWrite G.sub (P.subAt G.src + 16) (leBytes 4 ((G.ended.map fun x => x.1 + 256 * x.2).getD 0))).mem := by
  have hs := s.graphTold_sent g G
  have hP' : (s.graphGone g G).ctl.parts.find G.sub = some P := (congrArg (·.parts.find G.sub) hs.ctl :).trans hP
  obtain ⟨hmem, hblocks, hgraphs, -, hsent⟩ := State.endSubmission_leaves hP' G.src
    ((G.ended.map fun x => x.1 + 256 * x.2).getD 0)
  have hsub : (s.graphTold g G).eng.sent ⊆ _ := fun x hx => hsent ▸ ((s.graphGone g G).waWrite_written ..).sent hx
  refine ⟨_, s.graphGone g G, (State.exec_graphCompletion hG).trans (congrArg _ (if_pos hfin)), ?_,
    hblocks.trans hs.blocks, fun k x => ?_, ?_, fun k K n p hK hg hp => (s.graphTold_clears g G hK hg hp).mono hsub,
    fun p hp => (s.graphTold_tells g G hp).mono hsub, hmem⟩
  · rw [hgraphs]
    exact (Tab.find_del ..).trans (if_pos rfl)
  · show (k, x) ∈ (s.graphTold g G).mem.guards.filter _ ↔ _
    rw [hs.mem, List.mem_filter, Bool.not_eq_true', Bool.eq_false_iff, ne_eq, State.taskOf_iff]
    simp only [not_exists, not_and]
  · exact (congrArg (fun x : State => { x with
      graphs := s.graphs, eng := s.eng, mem := { x.mem with guards := s.mem.guards } }) hs.only :)

/-- Settles O55: the start and the completion of a graph by one lemma each. -/
theorem graphsStartAndComplete : Obligations.GraphsStartAndComplete := by
  unfold Obligations.GraphsStartAndComplete
  refine ⟨fun s part P x hP hx hready hlock => State.graphStart_clauses hP hx hready hlock, fun s g G hG => ⟨fun hfin => ?_,
    fun P hfin hP => State.graphCompletion_leaves hG hfin hP⟩⟩
  rw [State.exec_graphCompletion hG, hfin]
  rfl

end Sys2Proof.Machine

namespace Sys2Proof.Machine

/-! ## The end of a block (05 R156) -/

theorem Written.ofSliceData {s t : State} (h : OnlySliceData s t) : Written s t := by
  rw [show t = _ from h]
  exact .ofMem _

/-- An arrival, here or in another package, leaves device memory and all but memory and what is sent. -/
theorem State.arriveAt_leaves (s : State) (b g n : Nat) (f : BitVec 16) :
    Written s (s.arriveAt b g n f) ∧ (s.arriveAt b g n f).mem.dev = s.mem.dev := by
  unfold State.arriveAt
  split
  · have hflags : OnlySliceData s (if f &&& 0x03FF#16 = 0 then s else s.guardFlags g f) := by
      split
      · exact .rfl
      · exact .sliceSet ..
    have hall : OnlySliceData s (if n = 0 then (if f &&& 0x03FF#16 = 0 then s else s.guardFlags g f)
        else (if f &&& 0x03FF#16 = 0 then s else s.guardFlags g f).setGuard g
          (((if f &&& 0x03FF#16 = 0 then s else s.guardFlags g f).guard g).arrive n)) := by
      generalize (if f &&& 0x03FF#16 = 0 then s else s.guardFlags g f) = t at hflags ⊢
      split
      · exact hflags
      · exact hflags.trans (.setGuard ..)
    exact ⟨.ofSliceData hall, hall.dev⟩
  · exact ⟨⟨rfl, (OnlySent.send ..).sent⟩, rfl⟩

theorem State.completion_leaves (s : State) (b : Nat) (B : Block) (K : Task) :
    Written s (s.completion b B K) ∧ (s.completion b B K).mem.dev = s.mem.dev := by
  unfold State.completion
  split
  · exact ⟨.rfl, rfl⟩
  · exact s.arriveAt_leaves ..

/-- The flags of an arrival are joined to the guard's, which its counts do not touch. -/
theorem State.arriveAt_flags {s : State} {g : Nat} (hg : s.Holds g 32) (b n : Nat) (f : BitVec 16) :
    BitVec.ofNat 16 ((s.arriveAt b g n f).sliceNat (g + 16) 2) =
      (BitVec.ofNat 16 (s.sliceNat (g + 16) 2) ||| (f &&& 0x03FF#16)) := by
  unfold State.arriveAt
  rw [if_pos hg.here]
  have hf := GuardMoves.withFlags hg f
  have hflags : BitVec.ofNat 16 ((if f &&& 0x03FF#16 = 0 then s else s.guardFlags g f).sliceNat (g + 16) 2) =
      (BitVec.ofNat 16 (s.sliceNat (g + 16) 2) ||| (f &&& 0x03FF#16)) := by
    split
    next h0 => rw [h0]; exact BitVec.or_zero.symm
    next =>
      unfold State.guardFlags
      rw [hg.sliceNat_sliceSet (by omega) (BitVec.isLt _), BitVec.ofNat_toNat, BitVec.setWidth_eq]
  dsimp only
  generalize (if f &&& 0x03FF#16 = 0 then s else s.guardFlags g f) = t at hf hflags ⊢
  split
  · exact hflags
  · rw [State.setGuard_eq_setWords, (hg.congr hf.only.pkg).setWords_other (by omega) (by simp [GState.words])]
    exact hflags

/-- A unit of a core after a block is gone: what the block held is released, its requests dropped. -/
def MatUnit.freed (b : Nat) (m : MatUnit) : MatUnit :=
  let m1 := if m.holder = some b then m.release else m
  { m1 with requests := m1.requests.filter fun r => r.b ≠ b }

theorem MatUnit.freed_holder (b : Nat) (m : MatUnit) : (m.freed b).holder ≠ some b := by
  unfold MatUnit.freed
  dsimp only
  split
  · exact nofun
  · assumption

/-- A core after a block is gone. -/
def Core.freed (b : Nat) (C : Core) : Core := { C with mat := C.mat.freed b, matX := C.matX.freed b }

theorem State.freeUnits_core (s : State) (b c : Nat) :
    ((s.freeUnits b).core c).mat.holder ≠ some b ∧ ((s.freeUnits b).core c).matX.holder ≠ some b := by
  have hfind : (s.freeUnits b).cores.find c = (s.cores.find c).map (Core.freed b) := Tab.find_map s.cores (Core.freed b) c
  rw [State.core, Tab.get_eq, hfind]
  cases s.cores.find c with
  | none => exact ⟨nofun, nofun⟩
  | some C => exact ⟨MatUnit.freed_holder b _, MatUnit.freed_holder b _⟩

/-- The state with a block away, its matrix units released, and counted as ended in its task. -/
def State.without (s : State) (b k : Nat) : State :=
  ({ s with blocks := s.blocks.del b }.freeUnits b).modTask k fun K => { K with ended := K.ended + 1 }

theorem State.without_tasks (s : State) (b k : Nat) :
    (s.without b k).tasks = s.tasks.mod k fun K => { K with ended := K.ended + 1 } := rfl
theorem State.without_eng (s : State) (b k : Nat) : (s.without b k).eng = s.eng := rfl

/-- A block of a task that no node here waits for is gone and counted. -/
theorem State.gone_eq {s : State} {b k : Nat} {K : Task} (hK : s.tasks.find k = some K) (hgraph : K.graph = none)
    (hgangs : ∀ A, A ∈ s.eng.gangs → A.2.task ≠ k) : s.gone b k = s.without b k := by
  have hfind : (s.tasks.mod k fun K => { K with ended := K.ended + 1 }).find k = some { K with ended := K.ended + 1 } := by
    rw [Tab.find_mod_same, hK, Option.map_some]
  have hnone : (s.eng.gangs.find? fun x => x.2.task = k) = none := by
    rw [List.find?_eq_none]
    exact fun A hA hk => hgangs A hA (of_decide_eq_true hk)
  show (s.without b k).taskEnd k = _
  unfold State.taskEnd
  rw [State.without_tasks, hfind]
  dsimp only
  split
  · rfl
  · rw [hgraph]
    dsimp only
    unfold State.farGangEnd
    rw [State.without_eng, hnone]

/-- A block that is over, of a core whose cache holds no line, makes its completion arrival and is gone. -/
theorem State.endBlock_eq {s : State} {b : Nat} {B : Block} {K : Task} (hB : s.blocks.find b = some B)
    (he : s.ending B b = true) (hc : (s.core B.core).cache = []) (hK : s.tasks.find B.task = some K) :
    s.endBlock b = (s.completion b B K).gone b B.task := by
  have hw : s.writeBack B.core (fun _ c => c.by b) = (true, s) := by
    rw [State.writeBack, hc]
    rfl
  have hu : s.unacked b (fun _ => true) = false := by
    unfold State.ending at he
    simp only [Bool.and_eq_true, Bool.not_eq_true'] at he
    exact he.1.2
  unfold State.endBlock
  rw [hB]
  simp only [he, hw, hu, hK, Bool.not_true, Bool.false_eq_true, Bool.or_self, if_false]

/-- A block that is over has no troupe, and so the flags of those that have ended. -/
theorem State.ending_flags {s : State} {b : Nat} {B : Block} (he : s.ending B b = true) : B.flags = B.nf := by
  unfold State.ending at he
  simp only [Bool.and_eq_true, List.isEmpty_iff] at he
  rw [Block.flags, he.1.1.1.1]
  rfl

/-- Clause of O54 about the end of a block. -/
theorem State.blockEnd_leaves {s : State} {b : Nat} {B : Block} {K : Task} (hB : s.blocks.find b = some B)
    (he : s.ending B b = true) (hc : (s.core B.core).cache = []) (hK : s.tasks.find B.task = some K) (hgraph : K.graph = none)
    (hgangs : ∀ A, A ∈ s.eng.gangs → A.2.task ≠ B.task) : ∃ u, exec (.blockEnd b) s = .next u ∧ u.blocks.find b = none ∧
      (∀ k, k ≠ b → u.blocks.find k = s.blocks.find k) ∧ u.tasks.find B.task = some { K with ended := K.ended + 1 } ∧
      (∀ c, (u.core c).mat.holder ≠ some b ∧ (u.core c).matX.holder ≠ some b) ∧ u.mem.dev = s.mem.dev ∧
      (K.guard = 0 → u.mem = s.mem) ∧
      (K.guard ≠ 0 → s.here K.guard = true → K.guard % 32 = 0 → u.guard K.guard = (s.guard K.guard).arrive 1 ∧
        BitVec.ofNat 16 (u.sliceNat (K.guard + 16) 2) =
          (BitVec.ofNat 16 (s.sliceNat (K.guard + 16) 2) ||| (B.nf &&& 0x03FF#16)) ∧
        SliceBut s u fun a => sliceKey K.guard ≤ a ∧ a < sliceKey K.guard + 32) := by
  obtain ⟨hw, hdev⟩ := s.completion_leaves b B K
  have hnone : K.guard = 0 → s.completion b B K = s := fun h => if_pos h
  have harrive : K.guard ≠ 0 → s.completion b B K = s.arriveAt b K.guard 1 B.nf := fun h =>
    (if_neg h).trans (State.ending_flags he ▸ rfl)
  have hgone := State.gone_eq (s := s.completion b B K) (b := b) (hw.tasks ▸ hK) hgraph
    ((congrArg (·.eng.gangs) hw.only : (s.completion b B K).eng.gangs = s.eng.gangs) ▸ hgangs)
  have hexec : exec (.blockEnd b) s = .next ((s.completion b B K).without b B.task) :=
    congrArg Host.Outcome.next ((State.endBlock_eq hB he hc hK).trans hgone)
  refine ⟨_, hexec, ?_, fun k hk => ?_, ?_, State.freeUnits_core _ b, hdev,
    fun h0 => (congrArg State.mem (hnone h0) :), fun h0 hhere hal => ?_⟩
  · exact (Tab.find_del ..).trans (if_pos rfl)
  · exact (Tab.find_del ..).trans ((if_neg hk).trans (congrArg (Tab.find · k) hw.blocks))
  · rw [State.without_tasks, Tab.find_mod_same, hw.tasks, hK, Option.map_some]
  · have hg := State.Holds.of_aligned hhere hal
    have hmoves := GuardMoves.arriveAt hg b 1 B.nf
    have hflags := State.arriveAt_flags hg b 1 B.nf
    rw [← harrive h0] at hmoves hflags
    exact ⟨hmoves.guard, hflags, hmoves.but.mono fun a h => by omega⟩

end Sys2Proof.Machine

namespace Sys2Proof.Machine

/-! ## The placement of a block (06 R170, 01 R11) -/

theorem Tab.find_append {α : Type} (t u : Tab α) (i : Nat) : Tab.find (t ++ u) i = (t.find i).or (u.find i) := by
  induction t with
  | nil => rfl
  | cons p t ih =>
    rw [List.cons_append, Tab.find_cons, Tab.find_cons, ih]
    split <;> rfl

/-- A table of values at successive keys from `d` on. -/
theorem Tab.find_range_map {α : Type} (n d : Nat) (f : Nat → α) (i : Nat) :
    Tab.find ((List.range n).map fun t => (t + d, f t)) i = if d ≤ i ∧ i < n + d then some (f (i - d)) else none := by
  induction n with
  | zero => exact (if_neg (by omega)).symm
  | succ n ih =>
    rw [List.range_succ, List.map_append, Tab.find_append, ih, List.map_singleton, Tab.find_cons]
    by_cases h : i = n + d
    · subst h
      simp
    · have hiff : (d ≤ i ∧ i < n + 1 + d) ↔ (d ≤ i ∧ i < n + d) := by omega
      simp only [hiff, if_neg h, Tab.find_nil, Option.or_none]

/-- The troupes of a block of a task: compute troupes from 0 on, and shadow troupes from 32 on. -/
theorem mkBlock_troupes (L : Launch) (task id core start : Nat) :
    (mkBlock L task id core start none).troupes =
      ((List.range L.troupes).map fun t => (t + 0, mkTroupe L t start 0xFFFFFFFF#32)) ++
      if L.shd then (List.range L.troupes).map fun t => (t + 32, mkTroupe L (t + 32) start 0xFFFFFFFF#32) else [] := by
  have hrows : (((List.range L.troupes).map fun t => (t, 0xFFFFFFFF#32)).filter fun p => p.2 != 0) =
      (List.range L.troupes).map fun t => (t, 0xFFFFFFFF#32) :=
    List.filter_eq_self.2 fun p hp => by
      obtain ⟨t, -, rfl⟩ := List.mem_map.1 hp
      show (0xFFFFFFFF#32 != 0) = true
      decide
  simp only [mkBlock, hrows, List.map_map]
  rfl

theorem mkBlock_troupe (L : Launch) (task id core start : Nat) (hL : L.troupes ≤ 32) {t : Nat} (ht : t < 64) :
    (mkBlock L task id core start none).troupes.find t =
      if t % 32 < L.troupes ∧ (32 ≤ t → L.shd = true) then some (mkTroupe L t start 0xFFFFFFFF#32) else none := by
  rw [mkBlock_troupes, Tab.find_append, Tab.find_range_map]
  by_cases h32 : t < 32
  · have hshadow : Tab.find (if L.shd then (List.range L.troupes).map fun t => (t + 32, mkTroupe L (t + 32) start 0xFFFFFFFF#32)
        else []) t = none := by
      split
      · rw [Tab.find_range_map, if_neg (by omega)]
      · rfl
    have hiff : (0 ≤ t ∧ t < L.troupes + 0) ↔ (t % 32 < L.troupes ∧ (32 ≤ t → L.shd = true)) := by omega
    rw [hshadow, Option.or_none]
    simp only [hiff, Nat.sub_zero]
  · rw [if_neg (by omega), Option.none_or]
    cases hshd : L.shd with
    | false => simp [show 32 ≤ t by omega]
    | true =>
      have hiff : (32 ≤ t ∧ t < L.troupes + 32) ↔ (t % 32 < L.troupes ∧ (32 ≤ t → true = true)) := by
        simp only [implies_true, and_true]
        omega
      rw [if_pos rfl, Tab.find_range_map]
      simp only [hiff, Nat.sub_add_cancel (show 32 ≤ t by omega)]

/-- A task no block of which is left to place, or for which no core has room, stays as it is. -/
theorem State.placeAll_of_none {s : State} {k : Nat} {gang : Bool} (n : Nat) (h : s.place k gang = none ∨ n = 0) :
    State.placeAll k gang n s = s := by
  cases n with
  | zero => rfl
  | succ n =>
    rw [State.placeAll, h.resolve_right (Nat.succ_ne_zero n)]

section Placement
variable {s : State} {k : Nat} {K : Task} (hK : s.tasks.find k = some K) (hbin : K.bin = none) (hgraph : K.graph = none)
include hK hbin hgraph

theorem State.exec_blockPlacement :
    exec (.blockPlacement k) s = .next (State.placeAll k K.gang.isSome (K.launch.blocks - K.next) s) := by
  show execBlockPlacement k s = _
  simp [execBlockPlacement, hK, hbin, hgraph]

theorem State.blockPlacement_stays
    (h : K.launch.blocks ≤ K.next ∨ (∀ P, s.ctl.parts.find K.part = some P → s.chooseCore P K.launch = none)) :
    exec (.blockPlacement k) s = .next s := by
  rw [State.exec_blockPlacement hK hbin hgraph, State.placeAll_of_none]
  rcases h with h | h
  · exact .inr (Nat.sub_eq_zero_of_le h)
  · left
    simp only [State.place, hK]
    split
    · rfl
    · cases hP : s.ctl.parts.find K.part with
      | none => rfl
      | some P => simp only [h P hP, Option.map_none]

/-- Clause of O54 about the placement of a task's last block. -/
theorem State.blockPlacement_places {P : Part} {c : Nat} (hP : s.ctl.parts.find K.part = some P)
    (hc : s.chooseCore P K.launch = some c) (hlast : K.launch.blocks = K.next + 1) (hL : K.launch.troupes ≤ 32) :
    ∃ u B, exec (.blockPlacement k) s = .next u ∧
      u.blocks.find s.fresh = some B ∧ B.task = k ∧ B.id = K.next ∧ B.core = c ∧ B.buf = [] ∧ B.err = 0 ∧
      B.window = true ∧ B.gang = K.gang.isSome ∧ u.ctl.lastDie = some (dieOf c) ∧ u.tasks.find k = some { K with next := K.next + 1 } ∧ u.mem = s.mem ∧
      (∀ b, b ≠ s.fresh → u.blocks.find b = s.blocks.find b) ∧
      ∀ t, t < 64 → match B.troupes.find t with
        | none => K.launch.troupes ≤ t % 32 ∨ (32 ≤ t ∧ K.launch.shd = false)
        | some T => t % 32 < K.launch.troupes ∧ (32 ≤ t → K.launch.shd = true) ∧ T.lm = 0xFFFFFFFF#32 ∧
          T.role = (if 32 ≤ t then 1 else K.launch.role) ∧ T.regs = {} ∧ T.flt = 0 ∧ T.handler = none ∧ T.stack = [] ∧
          ∃ S, T.splits = [(0, S)] ∧ S.own = 0xFFFFFFFF#32 ∧ S.em = 0xFFFFFFFF#32 ∧ S.wait = .ready ∧
            S.pc = BitVec.ofNat 32 (if 32 ≤ t then K.launch.shadow else K.launch.entry) := by
  have hplace : s.place k K.gang.isSome = some (s.placeOn k c none K.gang.isSome) := by
    simp [State.place, hK, hbin, hP, hc, hlast]
  have hexec := State.exec_blockPlacement hK hbin hgraph
  rw [hlast, Nat.add_sub_cancel_left, State.placeAll, hplace] at hexec
  have hput : (s.placeOn k c none K.gang.isSome).blocks = s.blocks.put s.fresh { mkBlock K.launch k K.next c s.fresh none with
      gang := K.gang.isSome, cwpBase := (s.core c).cwp } := by
    unfold State.placeOn
    rw [hK]
    rfl
  have hp := State.placeOn_places hK c none K.gang.isSome
  refine ⟨_, _, hexec, (congrArg (Tab.find · s.fresh) hput).trans (Tab.find_put_same ..), rfl, rfl, rfl, rfl, rfl, rfl, rfl, ?_,
    hp.task, (congrArg State.mem hp.only :), fun b hb => (congrArg (Tab.find · b) hput).trans (Tab.find_put_other _ _ hb),
    fun t ht => ?_⟩
  · unfold State.placeAll State.placeOn
    rw [hK]
    rfl
  · rw [show Block.troupes _ = (mkBlock K.launch k K.next c s.fresh none).troupes from rfl, mkBlock_troupe _ _ _ _ _ hL ht]
    by_cases h : t % 32 < K.launch.troupes ∧ (32 ≤ t → K.launch.shd = true)
    · rw [if_pos h]
      exact ⟨h.1, h.2, rfl, rfl, rfl, rfl, rfl, rfl, _, rfl, rfl, rfl, rfl, rfl⟩
    · rw [if_neg h]
      dsimp only
      cases hshd : K.launch.shd <;> simp [hshd] at h ⊢ <;> omega

end Placement

/-! ## The return to issue (06 R180, 11 R285, 07 R205) -/

/-- Settles O54: placement, the end of a block and the returns to issue, one lemma each. -/
theorem blocksArePlacedEndAndReturnToIssue : Obligations.BlocksArePlacedEndAndReturnToIssue := by
  unfold Obligations.BlocksArePlacedEndAndReturnToIssue
  refine ⟨⟨fun s k K hK hbin hgraph => ⟨State.blockPlacement_stays hK hbin hgraph, fun P c hP hc hlast hL =>
    State.blockPlacement_places hK hbin hgraph hP hc hlast hL⟩, fun s b B hB => ⟨fun he => ?_, fun K he hc hK hgraph hgangs =>
    State.blockEnd_leaves hB he hc hK hgraph hgangs⟩⟩, fun s b t e T S hT hS => ?_⟩
  · show Host.Outcome.next (s.endBlock b) = _
    simp only [State.endBlock, hB, he, Bool.not_false, if_true]
  obtain ⟨B, hB, -⟩ := State.trp?_eq_some.1 hT
  have hwait : s.waitOf b t e = S.wait := by
    simp only [State.waitOf, hT, Option.bind_some, hS, Option.map_some, Option.getD_some]
  refine ⟨fun hp => ?_, fun hp => ⟨s.modTrp b t fun T => { T with promoted := true }, ?_, State.trp?_modTrp hT _, rfl⟩,
    ⟨s.modTrp b t fun T => { T with yielded := false }, rfl, State.trp?_modTrp hT _, rfl⟩, fun hw => ?_,
    fun part obj page back write lanes hw => ⟨fun hu => ?_, fun hu => ?_⟩⟩
  · show execTroupePromotion b t s = _
    simp only [execTroupePromotion, hT, if_neg (Nat.not_le.2 hp)]
  · show execTroupePromotion b t s = _
    simp only [execTroupePromotion, hT, if_pos hp]
  · show execPageReplay b t e s = _
    simp only [execPageReplay, hB, Option.isNone_some, Bool.false_eq_true, if_false, hwait]
  · show execPageReplay b t e s = _
    simp only [execPageReplay, hB, Option.isNone_some, hwait, hw, hu, Bool.false_eq_true, if_false]
  · have hexec : exec (.pageReplay b t e) s = .next (s.modSplit b t e fun S => { S with wait := .ready, only := some lanes }) := by
      show execPageReplay b t e s = _
      simp only [execPageReplay, hB, Option.isNone_some, hwait, hw, hu, Bool.false_eq_true, if_false, if_true]
    refine ⟨_, _, hexec, State.trp?_modTrp hT _, ?_, fun j hj =>
      Tab.find_mod_other T.splits (fun S : Split => { S with wait := .ready, only := some lanes }) hj, rfl, rfl⟩
    dsimp only
    rw [Tab.find_mod_same, hS, Option.map_some]

end Sys2Proof.Machine

namespace Sys2Proof.Machine

/-! ## Room for a block of a bin (06 R170, R176) -/

theorem Tab.map_mod {α β : Type} (t : Tab α) (i : Nat) (f : α → α) (g : α → β) (h : ∀ x, g (f x) = g x) :
    ((t.mod i f).map fun p => g p.2) = t.map fun p => g p.2 := by
  unfold Tab.mod
  rw [List.map_map]
  refine List.map_congr_left fun p _ => ?_
  dsimp only [Function.comp]
  split
  · exact h p.2
  · rfl

theorem Tab.length_mod {α : Type} (t : Tab α) (i : Nat) (f : α → α) : (t.mod i f).length = t.length := List.length_map ..

/-- What the room of a core turns on of a block: its task, its core, and whether it is killed or swapped out. -/
def Block.reserves (B : Block) : Nat × Nat × Bool × Bool := (B.task, B.core, B.killed.isNone, B.swapped)

/-- `t` has room where `s` has: the same tasks, partitions and tiles, as many bins at each core, and blocks that reserve the
same. -/
structure SameRoom (s t : State) : Prop where
  tasks : t.tasks = s.tasks
  ctl : t.ctl = s.ctl
  tiles : t.mem.tiles = s.mem.tiles
  bins : ∀ k, (t.core k).bins.length = (s.core k).bins.length
  blocks : (t.blocks.map fun b => b.2.reserves) = s.blocks.map fun b => b.2.reserves

/-- The launches of the blocks resident in a core's active context, by what each block reserves. -/
theorem State.residents_eq (s : State) (core : Nat) :
    (((s.blocksOn core).filter fun b => b.2.killed.isNone).filterMap fun b => (s.tasks.find b.2.task).map Task.launch) =
      (((s.blocks.map fun b => b.2.reserves).filter fun r => decide (r.2.1 = core) && !r.2.2.2).filter fun r =>
        r.2.2.1).filterMap fun r => (s.tasks.find r.1).map Task.launch := by
  simp only [List.filter_map, List.filterMap_map]
  rfl

theorem State.buffersOn_eq (s : State) (core : Nat) :
    s.buffersOn core = (s.blocks.map fun b => b.2.reserves).countP fun r => decide (r.2.1 = core) && r.2.2.1 := by
  rw [List.countP_map]
  rfl

section Room
variable {s t : State} (h : SameRoom s t)
include h

theorem SameRoom.room (core : Nat) (L : Launch) : t.room core L = s.room core L := by
  have taken : t.sliceTaken core = s.sliceTaken core := by
    unfold State.sliceTaken
    rw [h.bins, h.tiles]
  unfold State.room
  dsimp only
  rw [t.residents_eq, s.residents_eq, t.buffersOn_eq, s.buffersOn_eq, taken, h.blocks, h.tasks]

theorem SameRoom.chooseCore (P : Part) (L : Launch) : t.chooseCore P L = s.chooseCore P L := by
  unfold State.chooseCore
  simp only [h.room, h.ctl]

theorem SameRoom.binCore (core : Nat) (K : Task) : t.binCore core K = s.binCore core K := by
  unfold State.binCore
  simp only [h.room, h.chooseCore, h.ctl]

end Room

/-! ## Bins launch (06 R176) -/

theorem Bin.put_held (X : Bin) (xs : List (List Word)) : (X.put xs).held = xs := List.take_append_drop ..

theorem State.modBin_bin (s : State) (core b : Nat) (f : Bin → Bin) : (s.modBin core b f).bin core b = (s.bin core b).map f := by
  rw [State.bin, State.modBin, State.modCore_core_same]
  exact Tab.find_mod_same ..

/-- Dropping clean bytes of a cache leaves every bin. -/
theorem State.invalidate_bin (s : State) (c : Nat) (p : Nat → Bool) (core b : Nat) :
    (s.invalidate c p).bin core b = s.bin core b := by
  rw [State.bin, State.invalidate, State.modCore_core]
  split
  · subst c
    rfl
  · rfl

theorem State.binHeld_congr {s t : State} (h : t.readState = s.readState) (ht : t.tasks = s.tasks) (X : Bin) :
    t.binHeld X = s.binHeld X := by
  have part : t.binPart X = s.binPart X := by
    unfold State.binPart
    rw [ht]
  unfold State.binHeld
  simp only [part, State.waRead_congr h]

/-- A bin's records are as many as it counts, those in its ring among them. -/
theorem State.binHeld_length (s : State) (X : Bin) : (s.binHeld X).length = X.held.length := by
  simp [State.binHeld, Bin.held]

theorem State.binHeld_of_noOverflow {X : Bin} (h : X.overflow = []) (s : State) : s.binHeld X = X.held := by
  simp [State.binHeld, Bin.held, h]

theorem State.placeOn_blocks {s : State} {k : Nat} {K : Task} (hK : s.tasks.find k = some K) (c : Nat)
    (recs : Option (List (List Word))) (gang : Bool) : (s.placeOn k c recs gang).blocks =
      s.blocks.put s.fresh { mkBlock K.launch k K.next c s.fresh recs with gang := gang, cwpBase := (s.core c).cwp } := by
  unfold State.placeOn
  rw [hK]
  rfl

/-- A bin from which a block has been launched, with what is left of its records. -/
def Bin.launchedFrom (clk : Nat) (rest : List (List Word)) (X : Bin) : Bin := { X.put rest with
  launched := X.launched + 1
  deadline := if rest.isEmpty || X.timer = 0 then none else some (clk + X.timer) }

/-- A state in which a bin has given up the records of a launch on core `c`, and that core has acquired. -/
def State.binGave (s : State) (core b n : Nat) (X : Bin) (c : Nat) : State :=
  (s.modBin core b (Bin.launchedFrom s.ctl.clk.toNat ((s.binHeld X).drop n))).invalidate c fun _ => true

/-- What the launch of one block of a bin leaves. -/
structure BinLaunched (s u : State) (core b n : Nat) (X : Bin) (K : Task) (c : Nat) (B : Block) (y : Bin) : Prop where
  blocks : u.blocks = s.blocks.put s.fresh B
  task : B.task = X.task
  onCore : B.core = c
  id : B.id = K.next
  records : B.records = (s.binHeld X).take n
  bin : u.bin core b = some y
  held : y.held = (s.binHeld X).drop n
  launched : y.launched = X.launched + 1
  count : y.count = X.count
  mem : u.mem = s.mem

theorem State.binLaunch_launched {s : State} {core b : Nat} {X : Bin} {K : Task} {P : Part} {c : Nat}
    (hX : s.bin core b = some X) (hK : s.tasks.find X.task = some K) (hP : s.ctl.parts.find K.part = some P)
    (hc : s.binCore core K = some c) (n : Nat) :
    ∃ u B y, s.binLaunch core b n = some u ∧ BinLaunched s u core b n X K c B y := by
  have heq : s.binLaunch core b n =
      some ((s.binGave core b n X c).placeOn X.task c (some ((s.binHeld X).take n)) false) := by
    simp only [State.binLaunch, hX, hK, hP, hc, Option.map_some]
    rfl
  have hK' : (s.binGave core b n X c).tasks.find X.task = some K := hK
  have hbin : (s.binGave core b n X c).bin core b = some (X.launchedFrom s.ctl.clk.toNat ((s.binHeld X).drop n)) := by
    rw [State.binGave, State.invalidate_bin, State.modBin_bin, hX, Option.map_some]
  have hplaced := State.placeOn_places hK' c (some ((s.binHeld X).take n)) false
  exact ⟨_, _, _, heq, State.placeOn_blocks hK' .., rfl, rfl, rfl, rfl,
    (congrArg (State.bin · core b) hplaced.only :).trans hbin, X.put_held _, rfl, rfl, (congrArg State.mem hplaced.only :)⟩

/-- A block launched from a bin is new, and every other block stands. -/
theorem BinLaunched.find {s u : State} {core b n c : Nat} {X y : Bin} {K : Task} {B : Block}
    (h : BinLaunched s u core b n X K c B y) : u.blocks.find s.fresh = some B :=
  h.blocks ▸ Tab.find_put_same ..

theorem BinLaunched.find_other {s u : State} {core b n c : Nat} {X y : Bin} {K : Task} {B : Block}
    (h : BinLaunched s u core b n X K c B y) {j : Nat} (hj : j ≠ s.fresh) : u.blocks.find j = s.blocks.find j :=
  h.blocks ▸ Tab.find_put_other _ _ hj

end Sys2Proof.Machine

namespace Sys2Proof.Machine

/-! ### Timer and drain (06 R176, 18 R392) -/

section Launches
variable {s : State} {core b : Nat} {X : Bin} (hX : s.bin core b = some X)
include hX

/-- A step that launches what a bin holds, as much as a block takes. -/
theorem State.launches_of {i : Instr}
    (hexec : exec i s = .next ((s.binLaunch core b (min X.held.length (s.binMost X))).getD s)) :
    ∀ K P c, s.tasks.find X.task = some K → s.ctl.parts.find K.part = some P → s.binCore core K = some c →
      let held := s.binHeld X
      let n := min X.held.length (32 * K.launch.troupes)
      ∃ u B y, exec i s = .next u ∧ u.blocks.find s.fresh = some B ∧ B.task = X.task ∧ B.core = c ∧ B.id = K.next ∧
        B.records = held.take n ∧ u.bin core b = some y ∧ y.held = held.drop n ∧
        ∀ j, j ≠ s.fresh → u.blocks.find j = s.blocks.find j := by
  intro K P c hK hP hc held n
  have hmost : s.binMost X = 32 * K.launch.troupes := by simp only [State.binMost, hK, Option.map_some, Option.getD_some]
  obtain ⟨u, B, y, hu, hl⟩ := State.binLaunch_launched hX hK hP hc n
  rw [hmost, hu] at hexec
  exact ⟨u, B, y, hexec, hl.find, hl.task, hl.onCore, hl.id, hl.records, hl.bin, hl.held, fun j hj => hl.find_other hj⟩

theorem State.binTimer_waits {d : Nat} (hd : X.deadline = some d) (hlt : s.ctl.clk.toNat < d) :
    exec (.binTimer core b) s = .next s := by
  show execBinTimer core b s = _
  simp [execBinTimer, hX, hd, hlt]

theorem State.binTimer_launches {d : Nat} (hd : X.deadline = some d) (hle : d ≤ s.ctl.clk.toNat) (hne : X.held ≠ []) :
    exec (.binTimer core b) s = .next ((s.binLaunch core b (min X.held.length (s.binMost X))).getD s) := by
  show execBinTimer core b s = _
  simp [execBinTimer, hX, hd, Nat.not_lt.2 hle, hne]

theorem State.exec_binDrain : exec (.binDrain core b) s = .next (
    if s.binDrains X b then (s.binLaunch core b (min X.held.length (s.binMost X))).getD s
    else if s.binDone X.task then s.disarm X.task else s) := by
  show execBinDrain core b s = _
  simp only [execBinDrain, hX]
  split
  · rfl
  · split <;> rfl

end Launches

/-- A core at which no bin of a task is armed. -/
def Core.disarmed (task : Nat) (C : Core) : Core := { C with bins := C.bins.filter fun x => x.2.task ≠ task }

/-- A bin of a task that is disarmed is armed nowhere. -/
theorem State.task_ne_of_disarmed {s : State} {task core n : Nat} {y : Bin} (h : (s.disarm task).bin core n = some y) :
    y.task ≠ task := by
  have hcores : (s.disarm task).cores = s.cores.map fun c => (c.1, c.2.disarmed task) := by
    unfold State.disarm
    dsimp only
    split
    · rfl
    split
    · rfl
    split
    · next hG => exact (State.endNode_worked hG ..).cores
    · rfl
  rw [State.bin, State.core, hcores, Tab.get_eq, Tab.find_map] at h
  cases hC : s.cores.find core with
  | none => rw [hC] at h; cases h
  | some C =>
    rw [hC] at h
    exact of_decide_eq_true (List.mem_filter.1 (Tab.mem_of_find (h : (C.disarmed task).bins.find n = some y))).2

end Sys2Proof.Machine

namespace Sys2Proof.Machine

/-! ## What a bin accepts (06 R172, R175) -/

theorem State.capFault_withBlocks (s : State) (bs : Tab Block) (c : Ctx) (r : CapReg) (kinds : List Nat) (rights : BitVec 12) :
    (s.withBlocks bs).capFault c r kinds rights = s.capFault c r kinds rights := by
  unfold State.capFault State.capCheck State.capValid
  simp only [State.tabEntry_withBlocks]
  rfl

/-- The checks of a capability are those before the word's run is open. -/
theorem State.capFault_opened (s : State) (c : Ctx) (i : Instr) (f : Troupe → Troupe) (r : CapReg) (kinds : List Nat)
    (rights : BitVec 12) : (s.onTrp c f).capFault (c.opened i) r kinds rights = s.capFault c r kinds rights := by
  refine (s.capFault_withBlocks (s.onTrp c f).blocks (c.opened i) r kinds rights).trans ?_
  simp only [State.capFault, Ctx.opened_blk, Ctx.opened_task]

/-- A bin that has accepted records: behind those it holds, with the timer of an empty one started. -/
def Bin.accept (clk : Nat) (xs : List (List Word)) (X : Bin) : Bin := { X.put (X.held ++ xs) with
  deadline := if X.held.isEmpty && !xs.isEmpty && X.timer ≠ 0 then some (clk + X.timer) else X.deadline }

theorem Bin.accept_held (clk : Nat) (xs : List (List Word)) (X : Bin) : (X.accept clk xs).held = X.held ++ xs := X.put_held _

theorem Bin.accept_overflow {xs : List (List Word)} {X : Bin} (clk : Nat) (h : X.held.length + xs.length ≤ 256) :
    (X.accept clk xs).overflow = [] := List.drop_of_length_le (by rwa [List.length_append])

/-- A state in which a bin has accepted records, before what it launches of them. -/
def State.binTook (s : State) (core b : Nat) (X : Bin) (xs : List (List Word)) : State :=
  (s.modBin core b fun _ => X.accept s.ctl.clk.toNat xs).binSpill (X.accept s.ctl.clk.toNat xs) X.overflow.length

theorem State.binSpill_written (s : State) (X : Bin) (n : Nat) : Written s (s.binSpill X n) :=
  List.foldlRecOn _ _ (motive := Written s) .rfl fun t ht _ _ => ht.trans (t.waWrite_written ..)

section Accept
variable {s : State} {core b : Nat} {X : Bin} (hX : s.bin core b = some X) {xs : List (List Word)}

theorem State.binTook_of_few (hX0 : X.overflow = []) (hfew : X.held.length + xs.length ≤ 256) :
    s.binTook core b X xs = s.modBin core b fun _ => X.accept s.ctl.clk.toNat xs := by
  unfold State.binTook State.binSpill
  rw [Bin.accept_overflow _ hfew, hX0]
  rfl

include hX

theorem State.binTook_bin : (s.binTook core b X xs).bin core b = some (X.accept s.ctl.clk.toNat xs) := by
  have hcores := ((s.modBin core b fun _ => X.accept s.ctl.clk.toNat xs).binSpill_written
    (X.accept s.ctl.clk.toNat xs) X.overflow.length).cores
  rw [State.binTook, State.bin, State.core, hcores]
  exact (s.modBin_bin core b _).trans (by rw [hX, Option.map_some])

theorem State.binAccept_eq : s.binAccept core b xs = State.binFill core b (xs.length + 8) (s.binTook core b X xs) := by
  unfold State.binAccept
  rw [hX]
  rfl

/-- A bin below its count launches nothing. -/
theorem State.binFill_of_few (n : Nat) (h : X.held.length < X.count) : State.binFill core b n s = s := by
  cases n with
  | zero => rfl
  | succ n =>
    rw [State.binFill, hX]
    exact if_neg (Nat.not_le.2 h)

/-- A bin with as many records as it counts launches a block of the first, and none of what is left if it is fewer. -/
theorem State.binFill_of_count {K : Task} {P : Part} {c : Nat} (n : Nat) (hK : s.tasks.find X.task = some K)
    (hP : s.ctl.parts.find K.part = some P) (hc : s.binCore core K = some c) (h : X.count ≤ X.held.length)
    (hless : X.held.length < 2 * X.count) :
    ∃ B y, BinLaunched s (State.binFill core b (n + 1) s) core b X.count X K c B y := by
  obtain ⟨u, B, y, hu, hl⟩ := State.binLaunch_launched hX hK hP hc X.count
  have hfew : y.held.length < y.count := by
    rw [hl.held, hl.count, List.length_drop, State.binHeld_length]
    omega
  have heq : State.binFill core b (n + 1) s = u := by
    rw [State.binFill, hX]
    refine (if_pos h).trans ?_
    rw [hu]
    exact State.binFill_of_few hl.bin n hfew
  exact ⟨B, y, heq.symm ▸ hl⟩

/-- Records a bin accepts below its count stay in it. -/
theorem State.binAccept_holds (h : X.held.length + xs.length < X.count) :
    Written (s.modBin core b fun _ => X.accept s.ctl.clk.toNat xs) (s.binAccept core b xs) ∧
    (s.binAccept core b xs).bin core b = some (X.accept s.ctl.clk.toNat xs) ∧
    (X.held.length + xs.length ≤ 256 → X.overflow = [] → (s.binAccept core b xs).mem = s.mem) := by
  have heq : s.binAccept core b xs = s.binTook core b X xs :=
    (State.binAccept_eq hX).trans (State.binFill_of_few (State.binTook_bin hX) _
      (by rw [Bin.accept_held, List.length_append]; exact h))
  rw [heq]
  exact ⟨State.binSpill_written .., State.binTook_bin hX, fun hfew h0 => (State.binTook_of_few h0 hfew).symm ▸ rfl⟩

/-- Records that fill a bin up to its count launch a block. -/
theorem State.binAccept_launches {K : Task} {P : Part} {c : Nat} (h0 : X.overflow = [])
    (hfew : X.held.length + xs.length ≤ 256) (hcount : X.count ≤ X.held.length + xs.length)
    (hless : X.held.length + xs.length < 2 * X.count) (hK : s.tasks.find X.task = some K)
    (hP : s.ctl.parts.find K.part = some P) (hc : s.binCore core K = some c) :
    ∃ B y, BinLaunched (s.modBin core b fun _ => X.accept s.ctl.clk.toNat xs) (s.binAccept core b xs) core b X.count
      (X.accept s.ctl.clk.toNat xs) K c B y := by
  have hsame : SameRoom s (s.modBin core b fun _ => X.accept s.ctl.clk.toNat xs) := by
    refine ⟨rfl, rfl, rfl, fun k => ?_, rfl⟩
    rw [State.modBin, State.modCore_core]
    split
    · subst k
      exact Tab.length_mod (s.core core).bins b fun _ => X.accept s.ctl.clk.toNat xs
    · rfl
  have hbin := State.binTook_bin hX (xs := xs)
  have heq := State.binAccept_eq hX (xs := xs)
  rw [State.binTook_of_few h0 hfew] at hbin heq
  rw [heq]
  refine State.binFill_of_count hbin (xs.length + 7) hK hP ((hsame.binCore core K).trans hc) ?_ ?_ <;>
    rw [Bin.accept_held, List.length_append]
  · exact hcount
  · exact hless

end Accept

end Sys2Proof.Machine

namespace Sys2Proof.Machine

/-! ## POST (06 R175) -/

/-- The records of a POST: of each active lane, as many registers as the card's records have words. -/
def Ctx.postRecs (c : Ctx) (f : UW) : List (List Word) :=
  (lanesOf c.active).map fun l => (List.range ((c.cap f.cN).len % 16)).map fun j => c.trp.regs.lane (f.v + j) l

/-- The core whose bin a POST goes to. -/
def State.postAt (s : State) (c : Ctx) (f : UW) : Nat :=
  s.postCore c.blk.core (f.f 11 9) (c.cap f.cN) (s.binHome c.blk.core (c.cap f.cN))

theorem Ctx.postRecs_opened (c : Ctx) (i : Instr) (f : UW) :
    ((lanesOf c.active).map fun l => (List.range (c.cap f.cN).width).map fun j =>
      BitVec.ofNat 32 ((c.opened i).reg (f.v + j) l)) = c.postRecs f := by
  simp only [Ctx.reg, Ctx.opened_regs, BitVec.ofNat_toNat, BitVec.setWidth_eq]
  rfl

@[simp] theorem State.onTrp_bin (s : State) (c : Ctx) (g : Troupe → Troupe) (core b : Nat) :
    (s.onTrp c g).bin core b = s.bin core b := rfl
@[simp] theorem State.onTrp_postCore (s : State) (c : Ctx) (g : Troupe → Troupe) (core d : Nat) (r : CapReg) (home : Nat) :
    (s.onTrp c g).postCore core d r home = s.postCore core d r home := rfl
@[simp] theorem State.onTrp_binHome (s : State) (c : Ctx) (g : Troupe → Troupe) (core : Nat) (r : CapReg) :
    (s.onTrp c g).binHome core r = s.binHome core r := rfl

section Committed
variable {s : State} {c : Ctx} {i : Instr}

/-- The issuing block of a release, at the commit point. -/
theorem State.committed_find (h : Ready s c i) : (s.committed c i).blocks.find c.b = some (c.openedBlk i).commit := by
  rw [State.committed, State.commit_eq, State.modBlk_find, if_pos rfl, h.openedBlk_find, Option.map_some]

/-- An empty store buffer has nothing to drain. -/
theorem State.committed_drains (h : Ready s c i) (hbuf : c.blk.buf = []) :
    (s.committed c i).drainAll c.b = s.committed c i := by
  have hnone : (c.openedBlk i).commit.buf = [] := by
    simp only [Block.commit, Ctx.openedBlk, hbuf, List.map_nil]
  unfold State.drainAll
  rw [State.committed_find h]
  simp only [hnone, List.foldl_nil]

theorem State.committed_writesBack (hcache : (s.core c.blk.core).cache = []) (p : Nat → CByte → Bool) :
    (s.committed c i).writeBack c.blk.core p = (true, s.committed c i) :=
  State.writeBack_of_empty (s := s.committed c i) hcache p

/-- A commit point leaves the room of every core. -/
theorem State.committed_room : SameRoom s (s.committed c i) := by
  refine ⟨rfl, rfl, rfl, fun _ => rfl, ?_⟩
  refine (Tab.map_mod _ c.b Block.commit Block.reserves fun _ => rfl).trans ?_
  exact Tab.map_mod s.blocks c.b (fun B => { B with troupes := B.troupes.mod c.t fun T => T.openRun i c.e c.sp.pc })
    Block.reserves fun _ => rfl

/-- A block that waits for its POST in a state that keeps it as the commit point left it. -/
theorem State.posted_troupe {u : State} (h : Ready s c i) (hu : u.blocks.find c.b = (s.committed c i).blocks.find c.b)
    (w : Wait) : ∃ T, (u.onTrp c (Troupe.waiting c.e w)).trp? c.b c.t = some T ∧
      T.splits.find c.e = some { c.sp with wait := w, only := none } ∧ T.regs = c.trp.regs := by
  refine ⟨Troupe.waiting c.e w (c.opened i).trp, State.trp?_of_find (State.onTrp_find (hu.trans (State.committed_find h)) _) ?_,
    ?_, ?_⟩
  · exact (Tab.find_mod_same ..).trans (congrArg _ h.openedBlk_troupe)
  · simp [Troupe.waiting, State.focus?_splits s c h.1]
  · exact Ctx.opened_regs c i

end Committed

section Post
variable {s : State} {c : Ctx} {f : UW} (h : Ready s c (.post f)) (hu : c.blk.unreach = none)
  (hcap : s.capFault c (c.cap f.cN) [7] 0x020#12 = none) (hregs : f.v + (c.cap f.cN).len % 16 ≤ c.nregs)
include h hu hcap hregs

/-- What POST does in the state its issue has opened: it faults where there is no room, or, with nothing of the block on its
way, comes to its commit point and sends its records. -/
theorem post_effect : ∃ eff : Ctx → State → Res, (∀ s, exec (.post f) s = s.issueWord (.post f) eff) ∧
    (((s.bin (s.postAt c f) (c.cap f.cN).obj).map Bin.room).getD 0 < (c.postRecs f).length →
      eff (c.opened (.post f)) (s.onTrp c fun T => T.openRun (.post f) c.e c.sp.pc) =
        .trap ⟨0x12, 0, (c.cap f.cN).obj % 16 + 16⟩) ∧
    (¬ ((s.bin (s.postAt c f) (c.cap f.cN).obj).map Bin.room).getD 0 < (c.postRecs f).length → c.blk.buf = [] →
      (s.core c.blk.core).cache = [] → s.unacked c.b (fun _ => true) = false →
      eff (c.opened (.post f)) (s.onTrp c fun T => T.openRun (.post f) c.e c.sp.pc) =
        if (c.postRecs f).isEmpty then .done (s.committed c (.post f))
        else .went (((s.committed c (.post f)).binAccept (s.postAt c f) (c.cap f.cN).obj (c.postRecs f)).onSplit c
          fun S => { S with wait := .post, only := none })) := by
  have hfits : ¬ f.v + (c.cap f.cN).width > (c.opened (.post f)).nregs := Nat.not_lt.2 hregs
  have hat : s.postCore c.blk.core (f.f 11 9) (c.cap f.cN) (s.binHome c.blk.core (c.cap f.cN)) = s.postAt c f := rfl
  refine ⟨_, fun s => (rfl : execPost f s = _), fun hroom => ?_, fun hroom hbuf hcache hack => ?_⟩
  · simp only [Ctx.unreachable, Ctx.opened_blk, hu, Option.map_none, Option.orElse, State.capFault_opened, Ctx.cap_opened,
      Ctx.active_opened, Ctx.postRecs_opened, hcap, if_neg hfits, State.onTrp_bin, State.onTrp_postCore, State.onTrp_binHome,
      hat, if_pos hroom]
  · have hcommit : (s.onTrp c fun T => T.openRun (.post f) c.e c.sp.pc).commit c.b = s.committed c (.post f) := rfl
    have hleft : (c.openedBlk (.post f)).commit.buf = [] := by
      simp only [Block.commit, Ctx.openedBlk, hbuf, List.map_nil]
    have hdone : (s.committed c (.post f)).unacked c.b (fun _ => true) = false := hack
    simp only [Ctx.unreachable, Ctx.opened_blk, hu, Option.map_none, Option.orElse, State.capFault_opened, Ctx.cap_opened,
      Ctx.active_opened, Ctx.postRecs_opened, hcap, if_neg hfits, State.onTrp_bin, State.onTrp_postCore, State.onTrp_binHome,
      hat, if_neg hroom, Ctx.opened_b, hcommit, State.committed_drains h hbuf, State.committed_writesBack hcache,
      State.committed_find h, hleft, hdone, List.isEmpty_nil, Bool.not_true, Bool.or_self, Bool.false_eq_true, if_false]
    rfl

theorem post_traps {X : Bin} (hX : s.bin (s.postAt c f) (c.cap f.cN).obj = some X)
    (hroom : X.room < (c.postRecs f).length) : Traps s c (.post f) ⟨0x12, 0, (c.cap f.cN).obj % 16 + 16⟩ := by
  obtain ⟨eff, hx, htrap, -⟩ := post_effect h hu hcap hregs
  exact Traps.of eff hx h (htrap (by rwa [hX])) (by simp)

variable (hbuf : c.blk.buf = []) (hcache : (s.core c.blk.core).cache = []) (hack : s.unacked c.b (fun _ => true) = false)
include hbuf hcache hack

/-- A POST that has records, in a bin with room for them: they are accepted at the commit point, and the split waits. -/
theorem exec_post_waits {X : Bin} (hX : s.bin (s.postAt c f) (c.cap f.cN).obj = some X)
    (hroom : (c.postRecs f).length ≤ X.room) (hrecs : c.postRecs f ≠ []) :
    exec (.post f) s = .next (((((s.committed c (.post f)).binAccept (s.postAt c f) (c.cap f.cN).obj (c.postRecs f)).onTrp c
      (Troupe.waiting c.e .post)).settleTrp c.b c.t).stepEnds c.b c.t c.e c.sp.own) := by
  obtain ⟨eff, hx, -, hgo⟩ := post_effect h hu hcap hregs
  refine exec_of_waits eff hx h ((hgo ?_ hbuf hcache hack).trans (if_neg ?_))
  · rw [hX]
    exact Nat.not_lt.2 hroom
  · rwa [List.isEmpty_iff]

/-- A POST of no active lane is its release alone. -/
theorem post_of_none (hnone : c.active = 0) :
    ∃ (t : State) (B : Block) (T : Troupe), exec (.post f) s = .next t ∧ { t with blocks := s.blocks } = s ∧
      t.blocks.find c.b = some B ∧ { B with troupes := c.blk.troupes } =
        { c.blk with window := false, backDue := c.blk.epoch } ∧ B.troupes.find c.t = some T ∧ T.regs = c.trp.regs ∧
      T.splits.find c.e = some { c.sp with pc := c.sp.pc + 2, only := none } := by
  obtain ⟨eff, hx, -, hgo⟩ := post_effect h hu hcap hregs
  have hrecs : c.postRecs f = [] := by
    rw [Ctx.postRecs, hnone]
    rfl
  have hexec := exec_of_done eff hx h ((hgo (by rw [hrecs]; exact Nat.not_lt_zero _) hbuf hcache hack).trans
    (if_pos (by rw [hrecs]; rfl)))
  refine ⟨_, _, c.after (.post f) (c.opened (.post f)).trp, hexec, rfl, State.onTrp_find (State.committed_find h) _, ?_, ?_, ?_,
    Ctx.after_split h.opened_split⟩
  · simp only [Block.commit, Ctx.openedBlk, hbuf, List.map_nil]
  · exact (Tab.find_mod_same ..).trans (congrArg _ h.openedBlk_troupe)
  · rw [Ctx.after_regs, Ctx.opened_regs]

end Post

end Sys2Proof.Machine

namespace Sys2Proof.Machine

section Post
variable {s : State} {c : Ctx} {f : UW} (h : Ready s c (.post f)) (hu : c.blk.unreach = none)
  (hcap : s.capFault c (c.cap f.cN) [7] 0x020#12 = none) (hregs : f.v + (c.cap f.cN).len % 16 ≤ c.nregs)
  {X : Bin} (hX : s.bin (s.postAt c f) (c.cap f.cN).obj = some X) (hroom : (c.postRecs f).length ≤ X.room)
  (hrecs : c.postRecs f ≠ []) (hbuf : c.blk.buf = []) (hcache : (s.core c.blk.core).cache = [])
  (hack : s.unacked c.b (fun _ => true) = false)
include h hu hcap hregs hX hroom hrecs hbuf hcache hack

/-- Records that do not fill the bin stay in it. -/
theorem post_holds (hfew : X.held.length + (c.postRecs f).length < X.count) : ∃ (u : State) (T : Troupe) (y : Bin),
    exec (.post f) s = .next ((u.settleTrp c.b c.t).stepEnds c.b c.t c.e c.sp.own) ∧ u.trp? c.b c.t = some T ∧
    T.splits.find c.e = some { c.sp with wait := .post, only := none } ∧ T.regs = c.trp.regs ∧
    u.bin (s.postAt c f) (c.cap f.cN).obj = some y ∧ y.held = X.held ++ c.postRecs f ∧ y.launched = X.launched ∧
    (X.held.length + (c.postRecs f).length ≤ 256 → X.overflow = [] → u.mem = s.mem) := by
  obtain ⟨hw, hbin, hmem⟩ := State.binAccept_holds (s := s.committed c (.post f)) hX hfew
  obtain ⟨T, hT, hsplit, hTregs⟩ := State.posted_troupe h
    (congrArg (Tab.find · c.b) (hw.blocks : _ = (s.committed c (.post f)).blocks)) .post
  exact ⟨_, T, _, exec_post_waits h hu hcap hregs hbuf hcache hack hX hroom hrecs, hT, hsplit, hTregs, hbin,
    Bin.accept_held .., rfl, hmem⟩

/-- Records that fill the bin up to its count launch a block of the first. -/
theorem post_launches (hfree : s.blocks.find s.fresh = none) (h0 : X.overflow = [])
    (hcount : X.count ≤ X.held.length + (c.postRecs f).length)
    (hless : X.held.length + (c.postRecs f).length < 2 * X.count) (hfew : X.held.length + (c.postRecs f).length ≤ 256)
    {K : Task} {P : Part} {k : Nat} (hK : s.tasks.find X.task = some K) (hP : s.ctl.parts.find K.part = some P)
    (hk : s.binCore (s.postAt c f) K = some k) : ∃ (u : State) (T : Troupe) (y : Bin) (B : Block),
      exec (.post f) s = .next ((u.settleTrp c.b c.t).stepEnds c.b c.t c.e c.sp.own) ∧ u.trp? c.b c.t = some T ∧
      T.splits.find c.e = some { c.sp with wait := .post, only := none } ∧ T.regs = c.trp.regs ∧
      u.blocks.find s.fresh = some B ∧ B.task = X.task ∧ B.core = k ∧ B.id = K.next ∧
      B.records = (X.held ++ c.postRecs f).take X.count ∧ u.bin (s.postAt c f) (c.cap f.cN).obj = some y ∧
      y.held = (X.held ++ c.postRecs f).drop X.count ∧ y.launched = X.launched + 1 := by
  obtain ⟨B, y, hl⟩ := State.binAccept_launches (s := s.committed c (.post f)) hX h0 hfew hcount hless hK hP
    ((State.committed_room.binCore _ K).trans hk)
  have hne : c.b ≠ s.fresh := by
    rintro hb
    obtain ⟨hB, -⟩ := State.focus?_holds h.1
    rw [hb, hfree] at hB
    cases hB
  obtain ⟨T, hT, hsplit, hTregs⟩ := State.posted_troupe h (hl.find_other hne) .post
  have hheld (t : State) : t.binHeld (X.accept (s.committed c (.post f)).ctl.clk.toNat (c.postRecs f)) =
      X.held ++ c.postRecs f := by
    rw [State.binHeld_of_noOverflow (Bin.accept_overflow _ hfew), Bin.accept_held]
  refine ⟨_, T, y, B, exec_post_waits h hu hcap hregs hbuf hcache hack hX hroom hrecs, hT, hsplit, hTregs, ?_, hl.task,
    hl.onCore, hl.id, hheld _ ▸ hl.records, hl.bin, hheld _ ▸ hl.held, hl.launched⟩
  exact (State.modBlk_find ..).trans ((if_neg hne.symm).trans hl.find)

end Post

/-- Clause of O45 about POST_COMPLETION. -/
theorem postCompletion_goes_on {s : State} {b t e : Nat} {T : Troupe} {S : Split} (hT : s.trp? b t = some T)
    (hS : T.splits.find e = some S) (hw : S.wait = .post) :
    ∃ (u : State) (U : Troupe), exec (.postCompletion b t e) s = .next u ∧ u.trp? b t = some U ∧
      U.splits.find e = some { S with wait := .ready, pc := S.pc + 2 } ∧ U.regs = T.regs ∧ U.lm = T.lm ∧
      { u with blocks := s.blocks } = s := by
  refine ⟨_, _, rfl, State.trp?_modTrp hT _, ?_, rfl, rfl, rfl⟩
  dsimp only
  rw [Tab.find_mod_same, hS, Option.map_some, if_pos hw]

end Sys2Proof.Machine

namespace Sys2Proof.Machine

/-! ## The lanes a taken record is born into (06 R177) -/

theorem getLsbD_lane {l j : Nat} (hj : j < 32) : ((1#32 : Mask) <<< l).getLsbD j = decide (j = l) := by
  rw [BitVec.getLsbD_shiftLeft, decide_eq_true hj, Bool.true_and, BitVec.getLsbD_one]
  by_cases h : j < l
  · simp [h, h.ne]
  · simp only [h, decide_false, Bool.not_false, Bool.true_and, Nat.zero_lt_succ, decide_true, decide_eq_decide]
    omega

/-- A register that is not listed reads 0. -/
theorem Regs.lane_of_not_mem {R : Regs} {q : Nat} (h : q ∉ R.v.keys) (l : Nat) : R.lane q l = 0 := by
  have hnone : R.v.find q = none := by
    cases hx : R.v.find q with
    | none => rfl
    | some x => exact absurd (List.mem_map_of_mem (f := Prod.fst) (Tab.mem_of_find hx)) h
  rw [Regs.lane, Tab.get_eq, hnone, Option.getD_none, zeroCol, Lanes.get, List.getD_eq_getElem?_getD, List.getElem?_replicate]
  split <;> rfl

section Fold
variable {α : Type} {key : α → Nat} {l : Nat} {val : α → Word}

/-- Writes of registers in one lane leave the other lanes. -/
theorem Troupe.lane_foldl_setV_other {j : Nat} (hj : j < 32) (hne : j ≠ l) (xs : List α) (q : Nat) (T : Troupe) :
    (xs.foldl (fun T x => T.setV (key x) (1#32 <<< l) fun _ => val x) T).regs.lane q j = T.regs.lane q j :=
  foldl_reading_stays (obs := fun T : Troupe => T.regs.lane q j) (fun T x _ => by
    rw [Troupe.lane_setV _ _ _ _ _ _ hj, if_neg fun h => hne (of_decide_eq_true ((getLsbD_lane hj).symm.trans h.2))]) T

/-- Writes of registers in one lane: what a register reads there that they give one value. -/
theorem Troupe.lane_foldl_setV_hit (hl : l < 32) {xs : List α} {q : Nat} {v : Word} (hex : ∃ x ∈ xs, key x = q)
    (hv : ∀ x ∈ xs, key x = q → val x = v) (T : Troupe) :
    (xs.foldl (fun T x => T.setV (key x) (1#32 <<< l) fun _ => val x) T).regs.lane q l = v := by
  refine foldl_reading_of_hit (obs := fun T : Troupe => T.regs.lane q l) (inv := fun _ => True) (hit := fun x => key x = q)
    (fun _ _ _ _ => trivial) (fun T x hx _ hk => ?_) (fun T x _ _ hk => ?_) hex T trivial
  · rw [Troupe.lane_setV _ _ _ _ _ _ hl, if_pos ⟨hk.symm, by simp [getLsbD_lane hl]⟩, hv x hx hk]
  · rw [Troupe.lane_setV _ _ _ _ _ _ hl, if_neg fun h => hk h.1.symm]

theorem Troupe.lane_foldl_setV_miss (hl : l < 32) {xs : List α} {q : Nat} (h : ∀ x ∈ xs, key x ≠ q) (T : Troupe) :
    (xs.foldl (fun T x => T.setV (key x) (1#32 <<< l) fun _ => val x) T).regs.lane q l = T.regs.lane q l :=
  foldl_reading_stays (obs := fun T : Troupe => T.regs.lane q l) (fun T x hx => by
    rw [Troupe.lane_setV _ _ _ _ _ _ hl, if_neg fun hk => h x hx hk.1.symm]) T

end Fold

theorem Troupe.setP_lm (T : Troupe) (k : Nat) (m x : Mask) : (T.setP k m x).lm = T.lm := by
  obtain ⟨_, h⟩ := T.setP_rest k m x
  rw [h]

theorem Troupe.setP_ret (T : Troupe) (k : Nat) (m x : Mask) : (T.setP k m x).ret = T.ret := by
  obtain ⟨_, h⟩ := T.setP_rest k m x
  rw [h]

theorem Troupe.setP_splits (T : Troupe) (k : Nat) (m x : Mask) : (T.setP k m x).splits = T.splits := by
  obtain ⟨_, h⟩ := T.setP_rest k m x
  rw [h]

theorem Troupe.setP_regs_v (T : Troupe) (k : Nat) (m x : Mask) : (T.setP k m x).regs.v = T.regs.v := by
  obtain ⟨_, h⟩ := T.setP_rest k m x
  rw [h]

/-- A record's word in a register, where the record starts at register `v`; 0 in every other register. -/
def recordWord (v : Nat) (x : List Word) (q : Nat) : Word := if v ≤ q ∧ q < v + x.length then x.getD (q - v) 0 else 0

section TakeRow
variable (T : Troupe) (src v : Nat) (x : List Word)

/-- The lane registers of a troupe in which a lane's have been cleared and its record written. -/
def Troupe.recorded (l : Nat) : Troupe :=
  (List.range x.length).foldl (fun T j => T.setV (v + j) (1#32 <<< l) fun _ => x.getD j 0)
    (T.regs.v.keys.foldl (fun T r => T.setV r (1#32 <<< l) fun _ => 0) T)

/-- A troupe in which a lane's registers are those of its birth. -/
def Troupe.reborn (l : Nat) : Troupe :=
  T.regs.p.keys.foldl (fun T k => T.setP k (1#32 <<< l) 0) (T.recorded v x l)

theorem Troupe.takeRow_eq (l : Nat) : T.takeRow src l v x = { T.reborn v x l with
    ret := (T.reborn v x l).ret.set [] l (T.ret.get [] src), rid := (T.reborn v x l).rid.del l,
    lm := (T.reborn v x l).lm ||| (1#32 <<< l) } := rfl

/-- What no write of a lane register or predicate changes, a birth's writes do not. -/
theorem Troupe.reborn_reading {β : Type*} {obs : Troupe → β} (hv : ∀ T r m f, obs (Troupe.setV T r m f) = obs T)
    (hp : ∀ T k m x, obs (Troupe.setP T k m x) = obs T) (l : Nat) : obs (T.reborn v x l) = obs T :=
  ((foldl_reading_stays (fun _ _ _ => hp ..) _).trans (foldl_reading_stays (fun _ _ _ => hv ..) _)).trans
    (foldl_reading_stays (fun _ _ _ => hv ..) T)

theorem Troupe.takeRow_splits (l : Nat) : (T.takeRow src l v x).splits = T.splits := by
  rw [Troupe.takeRow_eq]
  exact T.reborn_reading v x (fun _ _ _ _ => rfl) Troupe.setP_splits l

theorem Troupe.takeRow_lm (l : Nat) : (T.takeRow src l v x).lm = T.lm ||| (1#32 <<< l) := by
  rw [Troupe.takeRow_eq, ← T.reborn_reading (obs := Troupe.lm) v x (fun _ _ _ _ => rfl) Troupe.setP_lm l]

theorem Troupe.takeRow_ret (l : Nat) : (T.takeRow src l v x).ret = T.ret.set [] l (T.ret.get [] src) := by
  rw [Troupe.takeRow_eq, ← T.reborn_reading (obs := Troupe.ret) v x (fun _ _ _ _ => rfl) Troupe.setP_ret l]

theorem Troupe.takeRow_regs_v (l : Nat) : (T.takeRow src l v x).regs.v = (T.recorded v x l).regs.v := by
  rw [Troupe.takeRow_eq]
  exact foldl_reading_stays (obs := fun U : Troupe => U.regs.v) (fun _ _ _ => Troupe.setP_regs_v ..) _

theorem Troupe.takeRow_lane_other {l j : Nat} (hj : j < 32) (hne : j ≠ l) (q : Nat) :
    (T.takeRow src l v x).regs.lane q j = T.regs.lane q j := by
  rw [Regs.lane, Troupe.takeRow_regs_v]
  exact (Troupe.lane_foldl_setV_other hj hne _ q _).trans
    (Troupe.lane_foldl_setV_other (key := id) (val := fun _ => 0) hj hne _ q T)

/-- Every register is 0 in a born lane before its record is written. -/
theorem Troupe.lane_zeroed {l : Nat} (hl : l < 32) (q : Nat) :
    (T.regs.v.keys.foldl (fun T r => T.setV r (1#32 <<< l) fun _ => 0) T).regs.lane q l = 0 := by
  by_cases hq : q ∈ T.regs.v.keys
  · exact Troupe.lane_foldl_setV_hit (key := id) (val := fun _ => 0) hl ⟨q, hq, rfl⟩ (fun _ _ _ => rfl) T
  · exact (Troupe.lane_foldl_setV_miss (key := id) (val := fun _ => 0) hl (fun r hr (hrq : r = q) => hq (hrq ▸ hr)) T).trans
      (Regs.lane_of_not_mem hq l)

theorem Troupe.takeRow_lane {l : Nat} (hl : l < 32) (q : Nat) : (T.takeRow src l v x).regs.lane q l = recordWord v x q := by
  rw [Regs.lane, Troupe.takeRow_regs_v, recordWord]
  split
  next hq =>
    refine Troupe.lane_foldl_setV_hit (key := (v + ·)) (val := fun j => x.getD j 0) hl ⟨q - v, ?_, ?_⟩ (fun j _ hj => ?_) _
    · exact List.mem_range.2 (by omega)
    · exact Nat.add_sub_cancel' hq.1
    · rw [← hj, Nat.add_sub_cancel_left]
  next hq =>
    refine (Troupe.lane_foldl_setV_miss (key := (v + ·)) (val := fun j => x.getD j 0) hl (fun j hj hjq => hq ?_) _).trans
      (T.lane_zeroed hl q)
    have := List.mem_range.1 hj
    omega

end TakeRow

/-! ## Rows taken together -/

/-- A troupe in which rows are born, each a lane with its record. -/
def Troupe.takeRows (src v : Nat) (rows : List (Nat × List Word)) (T : Troupe) : Troupe :=
  rows.foldl (fun T x => T.takeRow src x.1 v x.2) T

section TakeRows
variable {src v : Nat} {rows : List (Nat × List Word)} (T : Troupe)

theorem Troupe.takeRows_splits : (T.takeRows src v rows).splits = T.splits :=
  foldl_reading_stays (obs := Troupe.splits) (fun T _ _ => T.takeRow_splits ..) T

theorem Troupe.takeRows_lm : (T.takeRows src v rows).lm = T.lm ||| maskOf fun l => rows.any fun x => x.1 = l := by
  refine BitVec.eq_of_getLsbD_eq fun j hj => ?_
  rw [BitVec.getLsbD_or, maskOf_getLsbD _ _ hj]
  unfold Troupe.takeRows
  induction rows generalizing T with
  | nil => simp
  | cons x rows ih =>
    rw [List.foldl_cons, ih, Troupe.takeRow_lm, BitVec.getLsbD_or, getLsbD_lane hj, List.any_cons, Bool.or_assoc]
    simp only [eq_comm]

theorem Troupe.takeRows_lane_other {j : Nat} (hj : j < 32) (h : ∀ x ∈ rows, x.1 ≠ j) (q : Nat) :
    (T.takeRows src v rows).regs.lane q j = T.regs.lane q j :=
  foldl_reading_stays (obs := fun T : Troupe => T.regs.lane q j)
    (fun T x hx => T.takeRow_lane_other src v x.2 hj (h x hx).symm q) T

/-- A lane born once reads its record. -/
theorem Troupe.takeRows_lane {a : Nat × List Word} (ha : a ∈ rows) (h32 : a.1 < 32) (honce : ∀ x ∈ rows, x.1 = a.1 → x = a)
    (q : Nat) : (T.takeRows src v rows).regs.lane q a.1 = recordWord v a.2 q := by
  refine foldl_reading_of_hit (obs := fun T : Troupe => T.regs.lane q a.1) (inv := fun _ => True) (hit := fun x => x.1 = a.1)
    (fun _ _ _ _ => trivial) (fun T x hx _ hk => ?_) (fun T x _ _ hk => ?_) ⟨a, ha, rfl⟩ T trivial
  · obtain rfl := honce x hx hk
    exact T.takeRow_lane src v _ h32 q
  · exact T.takeRow_lane_other src v x.2 h32 (fun h => hk h.symm) q

/-- Each lane born returns where the issuing split's lowest does. -/
theorem Troupe.takeRows_ret {a : Nat × List Word} (ha : a ∈ rows) :
    (T.takeRows src v rows).ret.get [] a.1 = T.ret.get [] src := by
  refine foldl_reading_of_hit (obs := fun U : Troupe => U.ret.get [] a.1)
    (inv := fun U => U.ret.get [] src = T.ret.get [] src) (hit := fun x => x.1 = a.1) (fun U x _ hU => ?_)
    (fun U x _ hU hk => ?_) (fun U x _ _ hk => ?_) ⟨a, ha, rfl⟩ T rfl
  · rw [Troupe.takeRow_ret, Tab.get_set]
    split
    · exact hU
    · exact hU
  · rw [Troupe.takeRow_ret, hk, Tab.get_set_same, hU]
  · rw [Troupe.takeRow_ret, Tab.get_set_other _ _ _ fun h => hk h.symm]

end TakeRows

end Sys2Proof.Machine

namespace Sys2Proof.Machine

/-! ## BINTAKE (06 R177) -/

/-- Two changes of the issuing troupe with the block's window closed between them, as what reads of the state. -/
theorem OnlyTroupe.of_expose {u : State} {c : Ctx} (hB : u.blocks.find c.b = some c.blk)
    (hT : c.blk.troupes.find c.t = some c.trp) (f g : Troupe → Troupe) :
    OnlyTroupe u (((u.onTrp c f).expose c).onTrp c g) c.exposed (g (f c.trp)) := by
  have hexp : ((u.onTrp c f).expose c).blocks.find c.b =
      some { c.blk with troupes := c.blk.troupes.mod c.t f, window := false } := by
    rw [State.expose, State.modBlk_find, if_pos rfl, State.onTrp_find hB, Option.map_some]
  refine ⟨rfl, fun b hb => ?_, _, State.onTrp_find hexp g, rfl, ?_, fun k hk => ?_⟩
  · have hb : b ≠ c.b := hb
    simp only [State.onTrp, State.modTrp, State.expose, State.modBlk_find, if_neg hb]
  · exact (Tab.find_mod_same ..).trans (by rw [Tab.find_mod_same, hT]; rfl)
  · have hk : k ≠ c.t := hk
    simp only [Tab.find_mod, if_neg hk]
    rfl

/-- A bin from which records have been taken: the rest stay, and the timer of an empty one stops. -/
def Bin.keep (rest : List (List Word)) (X : Bin) : Bin :=
  { X.put rest with deadline := if rest.isEmpty then none else X.deadline }

theorem Bin.keep_held (rest : List (List Word)) (X : Bin) : (X.keep rest).held = rest := X.put_held rest

/-- The rows BINTAKE is given: the first free lanes, each with a record. -/
def Ctx.takenRows (c : Ctx) (held : List (List Word)) (k : Nat) : List (Nat × List Word) :=
  ((lanesOf (~~~c.trp.lm)).take k).zip (held.take k)

/-- The lanes of rows. -/
def rowMask (rows : List (Nat × List Word)) : Mask := maskOf fun l => rows.any fun x => x.1 = l

/-- The issuing troupe of a BINTAKE once it has its rows. -/
def Ctx.taken (c : Ctx) (f : UW) (rows : List (Nat × List Word)) (k : Nat) (T : Troupe) : Troupe :=
  let U := T.takeRows (lowLane c.sp.own) f.v rows
  ({ U with splits := U.splits.mod c.e fun S =>
    { S with own := S.own ||| rowMask rows, em := S.em ||| rowMask rows } }).setS f.d.toNat (BitVec.ofNat 64 k)

/-- The changes a BINTAKE makes of its troupe are one. -/
theorem State.onTrp_taken (u : State) (c : Ctx) (g : Troupe → Troupe) (f : UW) (rows : List (Nat × List Word)) (k : Nat) :
    ((((u.onTrp c g).onTrp c (Troupe.takeRows (lowLane c.sp.own) f.v rows)).onSplit c fun S =>
      { S with own := S.own ||| rowMask rows, em := S.em ||| rowMask rows }).setS c f.d (BitVec.ofNat 64 k)) =
      u.onTrp c (c.taken f rows k ∘ g) := by
  simp only [State.onSplit, State.modSplit, State.setS, State.onTrp, State.modTrp_modTrp]
  rfl

/-- The state a BINTAKE of `k` records leaves but for its troupe: the bin without them, and with any the core's clean bytes
dropped. -/
def State.binKept (s : State) (c : Ctx) (core b : Nat) (rest : List (List Word)) (k : Nat) : State :=
  if k = 0 then s.modBin core b (Bin.keep rest) else (s.modBin core b (Bin.keep rest)).invalidate c.blk.core fun _ => true

theorem State.binKept_blocks (s : State) (c : Ctx) (core b : Nat) (rest : List (List Word)) (k : Nat) :
    (s.binKept c core b rest k).blocks = s.blocks := by
  unfold State.binKept
  split <;> rfl

theorem State.binKept_bin {s : State} {core b : Nat} {X : Bin} (hX : s.bin core b = some X) (c : Ctx)
    (rest : List (List Word)) (k : Nat) : (s.binKept c core b rest k).bin core b = some (X.keep rest) := by
  have hmod : (s.modBin core b (Bin.keep rest)).bin core b = some (X.keep rest) := by
    rw [State.modBin_bin, hX, Option.map_some]
  unfold State.binKept
  split
  · exact hmod
  · exact (State.invalidate_bin ..).trans hmod

@[simp] theorem State.onTrp_cardBin (s : State) (c : Ctx) (g : Troupe → Troupe) (core : Nat) (r : CapReg) :
    (s.onTrp c g).cardBin core r = s.cardBin core r := rfl
@[simp] theorem State.onTrp_binHeld (s : State) (c : Ctx) (g : Troupe → Troupe) (X : Bin) :
    (s.onTrp c g).binHeld X = s.binHeld X := State.binHeld_congr (s := s) (t := s.onTrp c g) rfl rfl X

section Rows
variable {c : Ctx} {held : List (List Word)} {k : Nat}

theorem Ctx.mem_takenRows {x : Nat × List Word} (h : x ∈ c.takenRows held k) :
    ∃ i < k, x = ((lanesOf (~~~c.trp.lm)).getD i 0, held.getD i []) ∧ i < (lanesOf (~~~c.trp.lm)).length := by
  obtain ⟨i, hi, rfl⟩ := List.mem_iff_getElem.1 h
  rw [Ctx.takenRows, List.length_zip, List.length_take, List.length_take] at hi
  refine ⟨i, by omega, ?_, by omega⟩
  simp only [Ctx.takenRows, List.getElem_zip, List.getElem_take]
  rw [List.getD_eq_getElem _ _ (by omega), List.getD_eq_getElem _ _ (by omega)]

/-- A row's lane is free. -/
theorem Ctx.takenRows_free {x : Nat × List Word} (h : x ∈ c.takenRows held k) :
    x.1 < 32 ∧ c.trp.lm.getLsbD x.1 = false := by
  have hx : x.1 ∈ lanesOf (~~~c.trp.lm) := List.mem_of_mem_take (List.of_mem_zip h).1
  obtain ⟨h32, hfree⟩ := (lanesOf_mem ..).1 hx
  rw [BitVec.getLsbD_not, Bool.and_eq_true, Bool.not_eq_true'] at hfree
  exact ⟨h32, hfree.2⟩

variable (hlanes : k ≤ (lanesOf (~~~c.trp.lm)).length)
include hlanes

/-- Each of the lanes stands in one row. -/
theorem Ctx.takenRows_once {i : Nat} (hi : i < k) {x : Nat × List Word} (hx : x ∈ c.takenRows held k)
    (h : x.1 = (lanesOf (~~~c.trp.lm)).getD i 0) : x = ((lanesOf (~~~c.trp.lm)).getD i 0, held.getD i []) := by
  obtain ⟨j, hj, rfl, hjl⟩ := Ctx.mem_takenRows hx
  dsimp only at h
  rw [List.getD_eq_getElem _ _ hjl, List.getD_eq_getElem _ _ (by omega), (lanesOf_nodup _).getElem_inj_iff] at h
  rw [h]

variable (hheld : k ≤ held.length)
include hheld

theorem Ctx.takenRows_getD {i : Nat} (hi : i < k) :
    ((lanesOf (~~~c.trp.lm)).getD i 0, held.getD i []) ∈ c.takenRows held k := by
  have hlen : i < (c.takenRows held k).length := by
    rw [Ctx.takenRows, List.length_zip, List.length_take, List.length_take]
    omega
  have hrow := List.getElem_mem hlen
  simp only [Ctx.takenRows, List.getElem_zip, List.getElem_take] at hrow
  rwa [List.getD_eq_getElem _ _ (by omega), List.getD_eq_getElem _ _ (by omega)]

theorem Ctx.takenRows_mask : rowMask (c.takenRows held k) = maskOf fun l => ((lanesOf (~~~c.trp.lm)).take k).contains l := by
  have hlen : ((lanesOf (~~~c.trp.lm)).take k).length ≤ (held.take k).length := by
    rw [List.length_take, List.length_take]
    omega
  refine congrArg maskOf (funext fun l => ?_)
  rw [← List.map_fst_zip hlen, List.contains_eq_any_beq, List.any_map]
  refine congrArg (List.any _) (funext fun x => ?_)
  rw [Bool.eq_iff_iff]
  rw [decide_eq_true_iff, Function.comp_apply, beq_iff_eq, eq_comm]

end Rows

section Bintake
variable {s : State} {c : Ctx} {f : UW} (h : Ready s c (.bintake f)) (hcap : s.capFault c (c.cap f.cN) [7] 0x040#12 = none)
  (hregs : f.v + (c.cap f.cN).len % 16 ≤ c.nregs) (hshd : c.task.launch.shd = false) {core : Nat} {X : Bin}
  (hcard : s.cardBin c.blk.core (c.cap f.cN) = some (core, X))
include h hcap hregs hshd hcard

/-- BINTAKE takes as many records as it has lanes free and as it asks for. -/
theorem exec_bintake {k : Nat} (hk : min (min X.held.length (lanesOf (~~~c.trp.lm)).length) (c.sr f.a).toNat = k) :
    exec (.bintake f) s = .next (((((s.binKept c core (c.cap f.cN).obj ((s.binHeld X).drop k) k).onTrp c
      ((c.taken f (c.takenRows (s.binHeld X) k) k) ∘ fun T => T.openRun (.bintake f) c.e c.sp.pc)).expose c).onTrp c
        (c.after (.bintake f)))) := by
  have hfits : ¬ f.v + (c.cap f.cN).width > (c.opened (.bintake f)).nregs := Nat.not_lt.2 hregs
  refine exec_of_done _ (fun s => (rfl : execBintake f s = _)) h ?_
  simp only [Ctx.cap_opened, State.capFault_opened, hcap, if_neg hfits, Ctx.opened_task, hshd, Ctx.opened_blk,
    State.onTrp_cardBin, hcard, Ctx.opened_lm, Ctx.sr_opened, hk, State.onTrp_binHeld, Bool.false_eq_true, if_false]
  refine congrArg (fun u : State => Res.done (u.expose c)) ?_
  unfold State.binKept
  split
  · exact (s.modBin core (c.cap f.cN).obj (Bin.keep ((s.binHeld X).drop k))).onTrp_taken c _ f
      (c.takenRows (s.binHeld X) k) k
  · exact ((s.modBin core (c.cap f.cN).obj (Bin.keep ((s.binHeld X).drop k))).invalidate c.blk.core fun _ =>
      true).onTrp_taken c _ f (c.takenRows (s.binHeld X) k) k

/-- BINTAKE takes the oldest records, as many as it has lanes free and as it asks for, into the lowest free lanes. -/
theorem bintake_takes (hX : s.bin core (c.cap f.cN).obj = some X) {held : List (List Word)} (hheld : s.binHeld X = held)
    {free : List Nat} (hfree : lanesOf (~~~c.trp.lm) = free) {k : Nat}
    (hk : min (min X.held.length free.length) (c.sr f.a).toNat = k) {m : Mask}
    (hm : (maskOf fun l => (free.take k).contains l) = m) : ∃ (u t : State) (T : Troupe) (y : Bin),
      exec (.bintake f) s = .next t ∧ OnlyTroupe u t c.exposed (c.after (.bintake f) T) ∧ u.blocks = s.blocks ∧
      u.bin core (c.cap f.cN).obj = some y ∧ y.held = held.drop k ∧
      T.lm = c.trp.lm ||| m ∧ T.splits.find c.e = some { c.sp with own := c.sp.own ||| m, em := c.sp.em ||| m } ∧
      T.regs.s.get 0 f.d.toNat = BitVec.ofNat 64 k ∧
      (∀ q l, l < 32 → c.trp.lm.getLsbD l = true → T.regs.lane q l = c.trp.regs.lane q l) ∧
      (∀ i, i < k → T.ret.get [] (free.getD i 0) = c.trp.ret.get [] (lowLane c.sp.own)) ∧
      ∀ i q, i < k → T.regs.lane q (free.getD i 0) = recordWord f.v (held.getD i []) q := by
  subst hheld hfree hm
  have hlanes : k ≤ (lanesOf (~~~c.trp.lm)).length := by omega
  have hrecs : k ≤ (s.binHeld X).length := by
    rw [State.binHeld_length]
    omega
  obtain ⟨hB, hT, -, -⟩ := State.focus?_holds h.1
  refine ⟨s.binKept c core (c.cap f.cN).obj ((s.binHeld X).drop k) k, _,
    c.taken f (c.takenRows (s.binHeld X) k) k (c.opened (.bintake f)).trp, _, exec_bintake h hcap hregs hshd hcard hk,
    OnlyTroupe.of_expose ((congrArg (Tab.find · c.b) (State.binKept_blocks ..)).trans hB) hT _ _, State.binKept_blocks ..,
    State.binKept_bin hX .., Bin.keep_held .., ?_, ?_, Tab.get_set_same .., fun q l hl hlive => ?_, fun i hi => ?_,
    fun i q hi => ?_⟩
  · rw [← Ctx.takenRows_mask hlanes hrecs, ← Ctx.opened_lm c (.bintake f)]
    exact Troupe.takeRows_lm _
  · rw [← Ctx.takenRows_mask hlanes hrecs]
    unfold Ctx.taken
    dsimp only [Troupe.setS_splits]
    rw [Tab.find_mod_same, Troupe.takeRows_splits, h.opened_split, Option.map_some]
  · refine (Troupe.takeRows_lane_other _ hl (fun x hx hxl => ?_) q).trans (by rw [Ctx.opened_regs])
    obtain ⟨-, hfree⟩ := Ctx.takenRows_free hx
    rw [hxl, hlive] at hfree
    cases hfree
  · have hret : (c.opened (.bintake f)).trp.ret = c.trp.ret := by
      obtain ⟨_, hr⟩ := c.opened_trp_eq (.bintake f)
      rw [hr]
    exact (Troupe.takeRows_ret _ (Ctx.takenRows_getD hlanes hrecs hi)).trans (by rw [hret])
  · have hrow := Ctx.takenRows_getD hlanes hrecs hi
    exact Troupe.takeRows_lane _ hrow (Ctx.takenRows_free hrow).1 (fun x hx hxl => Ctx.takenRows_once hlanes hi hx hxl) q

end Bintake

/-! ## O45 -/

/-- Settles O45: each operation of a bin by the rules above. POST's records, timers and drains go through what a launch leaves
of its bin (`BinLaunched`), BINTAKE through the rows it is given. -/
theorem binsTakeRecordsAndLaunch : Obligations.BinsTakeRecordsAndLaunch := by
  unfold Obligations.BinsTakeRecordsAndLaunch
  intro launches
  refine ⟨?post, fun f s c h hu hnone hbuf hcache hack hcap hregs => post_of_none h hu hcap hregs hbuf hcache hack hnone,
    fun s b t e T S hT hS hw => postCompletion_goes_on hT hS hw, ?bintake, fun s core bin X hX =>
      ⟨fun d hd hlt => State.binTimer_waits hX hd hlt,
        fun d hd hle hne => State.launches_of hX (State.binTimer_launches hX hd hle hne), ?drains, ?holds, ?disarms⟩⟩
  case post =>
    intro f s c h hu r w core recs hcap hregs X hX
    exact ⟨fun hroom => post_traps h hu hcap hregs hX hroom,
      fun hroom hrecs hbuf hcache hack hfew => post_holds h hu hcap hregs hX hroom hrecs hbuf hcache hack hfew,
      fun hroom hrecs hbuf hcache hack hfree h0 _ hcount hless hfew K P k hK hP hk =>
        post_launches h hu hcap hregs hX hroom hrecs hbuf hcache hack hfree h0 hcount hless hfew hK hP hk⟩
  case bintake =>
    intro f s c h r hcap hregs hshd core X hcard hX
    exact bintake_takes h hcap hregs hshd hcard hX rfl rfl rfl rfl
  case drains =>
    intro hdrain
    exact State.launches_of hX ((State.exec_binDrain hX).trans (by rw [if_pos hdrain]))
  case holds =>
    intro hdrain hdone
    rw [State.exec_binDrain hX, hdrain, hdone]
    rfl
  case disarms =>
    intro hdrain hdone
    refine ⟨s.disarm X.task, ?_, fun n y hy => State.task_ne_of_disarmed hy⟩
    rw [State.exec_binDrain hX, hdrain, hdone]
    rfl

end Sys2Proof.Machine

/-! PROOFS. The statement of 07 that every step keeps the memories in canonical form (O5). There is one rule for each function
of the model that answers a state, named after it and read backwards: `h.sliceSet` says that writing a word keeps the form that `h`
says its state has. A rule's proof follows the function's text, so a composition of writes is proved by the composition of their
rules. The rules start from the four ways in which a memory changes (bytes written, by `Memory.wf_write`; bytes taken out, by
`Tab.wf_filter`; cleared; not at all), and go up through effects (`Res.MemWf`), executions of the matrix unit (`Exe.Ends`) and
instructions (`NextWf`) to `step`. -/
namespace Sys2Proof.Machine

section
variable {s t : State}

/-! ### Shapes -/

/-- A change of anything but memory. -/
theorem State.MemWf.update (h : s.MemWf) {cur tick fresh inputs blocks tasks cores graphs eng ctl} :
    State.MemWf ⟨cur, tick, fresh, inputs, blocks, tasks, cores, graphs, s.mem, eng, ctl⟩ := h

/-- A change of anything but the bytes of the memories. -/
theorem State.MemWf.updateMem (h : s.MemWf) {cur tick fresh inputs blocks tasks cores graphs eng ctl codeLen guards tiles skew}
    {shadows slicePoison devPoison flips devFlips sidePoison sideFlips keys tlb} :
    State.MemWf ⟨cur, tick, fresh, inputs, blocks, tasks, cores, graphs,
      ⟨s.mem.slice, s.mem.dev, s.mem.code, codeLen, guards, tiles, skew, shadows, slicePoison, devPoison, flips, devFlips,
        sidePoison, sideFlips, keys, tlb⟩, eng, ctl⟩ := h

/-- A choice between two states. -/
theorem State.MemWf.ite {p} [Decidable p] (h : s.MemWf) (k : t.MemWf) : (if p then s else t).MemWf := by
  split
  · exact h
  · exact k

/-- A fold of operations each of which keeps the form. -/
theorem State.MemWf.foldl {α} {f : State → α → State} {xs : List α} (h : s.MemWf) (hf : ∀ s x, s.MemWf → (f s x).MemWf) :
    (xs.foldl f s).MemWf := List.foldlRecOn xs f h fun t ht x _ => hf t x ht

/-- The same where the fold carries a value along. -/
theorem State.MemWf.foldlPair {α β} {f : β × State → α → β × State} {xs : List α} {x : β × State} (h : x.2.MemWf)
    (hf : ∀ x a, x.2.MemWf → (f x a).2.MemWf) : (xs.foldl f x).2.MemWf :=
  List.foldlRecOn xs f (motive := fun x => x.2.MemWf) h fun t ht a _ => hf t a ht

/-- A state that an operation answers beside a value. -/
theorem State.MemWf.ofPair {β} {x : β × State} {b : β} (h : x.2.MemWf) (e : x = (b, t)) : t.MemWf := by rwa [e] at h

/-- A state that may be answered, else one that stands in for it. -/
theorem State.MemWf.orElse {o : Option State} (h : s.MemWf) (ho : ∀ t, o = some t → t.MemWf) : (o.getD s).MemWf := by
  cases o with
  | none => exact h
  | some t => exact ho t rfl

/-! ### Parts of the state -/

theorem State.MemWf.modBlk (h : s.MemWf) {b f} : (s.modBlk b f).MemWf := h
theorem State.MemWf.modTrp (h : s.MemWf) {b t f} : (s.modTrp b t f).MemWf := h
theorem State.MemWf.modSplit (h : s.MemWf) {b t e f} : (s.modSplit b t e f).MemWf := h
theorem State.MemWf.modCore (h : s.MemWf) {c f} : (s.modCore c f).MemWf := h
theorem State.MemWf.modTask (h : s.MemWf) {k f} : (s.modTask k f).MemWf := h
theorem State.MemWf.modPart (h : s.MemWf) {p f} : (s.modPart p f).MemWf := h
theorem State.MemWf.modGraph (h : s.MemWf) {g f} : (s.modGraph g f).MemWf := h
theorem State.MemWf.bump (h : s.MemWf) : s.bump.MemWf := h
theorem State.MemWf.tock (h : s.MemWf) : s.tock.MemWf := h
theorem State.MemWf.event (h : s.MemWf) {code unit part detail} : (s.event code unit part detail).MemWf := h
theorem State.MemWf.onTrp (h : s.MemWf) {c f} : (s.onTrp c f).MemWf := h
theorem State.MemWf.onSplit (h : s.MemWf) {c f} : (s.onSplit c f).MemWf := h
theorem State.MemWf.onRegs (h : s.MemWf) {c f} : (s.onRegs c f).MemWf := h
theorem State.MemWf.raise (h : s.MemWf) {c f} : (s.raise c f).MemWf := h
theorem State.MemWf.sendAs (h : s.MemWf) {dst b op ent epoch} : (s.sendAs dst b op ent epoch).MemWf := h
theorem State.MemWf.send (h : s.MemWf) {dst b op} : (s.send dst b op).MemWf := h

/-! ### Memory (04 R103 to R110, 05 R137) -/

theorem State.MemWf.sliceWrite (h : s.MemWf) {a bs} : (s.sliceWrite a bs).MemWf := s.sliceWrite_keeps a bs h
theorem State.MemWf.sliceSet (h : s.MemWf) {a n x} : (s.sliceSet a n x).MemWf := s.sliceSet_keeps a n x h
theorem State.MemWf.sliceStore (h : s.MemWf) {b a bs} : (s.sliceStore b a bs).MemWf := s.sliceStore_keeps b a bs h
theorem State.MemWf.devRaw (h : s.MemWf) {a n x} : (s.devRaw a n x).MemWf := s.devRaw_keeps a n x h
theorem State.MemWf.translate (h : s.MemWf) {d p o c f w} : (s.translate d p o c f w).2.MemWf := s.translate_keeps d p o c f w h
theorem State.MemWf.homeRead (h : s.MemWf) {d p o c f n bs} (e : s.homeRead d p o c f n = some (bs, t)) : t.MemWf :=
  s.homeRead_keeps d p o c f n bs t e h
theorem State.MemWf.homeWrite (h : s.MemWf) {d p o c f b bs} (e : s.homeWrite d p o c f b bs = some t) : t.MemWf :=
  s.homeWrite_keeps d p o c f b bs t e h
theorem State.MemWf.keyRead (h : s.MemWf) {c k n bs} (e : s.keyRead c k n = some (bs, t)) : t.MemWf := h.homeRead e
theorem State.MemWf.keyWrite (h : s.MemWf) {c b k bs} (e : s.keyWrite c b k bs = some t) : t.MemWf := h.homeWrite e
theorem State.MemWf.waWrite (h : s.MemWf) {p wa bs} : (s.waWrite p wa bs).MemWf := s.waWrite_keeps p wa bs h
theorem State.MemWf.writeLate (h : s.MemWf) {x} : (s.writeLate x).MemWf := h
theorem State.MemWf.waMerge (h : s.MemWf) {p wa ks bs} : (s.waMerge p wa ks bs).MemWf := by
  dsimp only [State.waMerge]
  split
  · exact h.waWrite
  · exact h.writeLate.ite h

theorem State.MemWf.makeLate (h : s.MemWf) : s.makeLate.MemWf := by
  dsimp only [State.makeLate]
  split
  · exact h
  · refine h.update.ite (.orElse h.update fun t e => .homeWrite ?_ e)
    cases hr : State.homeRead _ _ _ _ _ _ _ with
    | none => exact h.update
    | some r => exact h.update.homeRead hr

theorem State.MemWf.blockErr (h : s.MemWf) {b c f} : (s.blockErr b c f).MemWf := s.blockErr_keeps b c f h
theorem State.MemWf.writeBack (h : s.MemWf) {c p} : (s.writeBack c p).2.MemWf := s.writeBack_keeps c p h
theorem State.MemWf.invalidate (h : s.MemWf) {c p} : (s.invalidate c p).MemWf := h
theorem State.MemWf.bulkRead (h : s.MemWf) {c k n bs} (e : s.bulkRead c k n = some (bs, t)) : t.MemWf :=
  s.bulkRead_keeps c k n bs t e h
theorem State.MemWf.commit (h : s.MemWf) {b} : (s.commit b).MemWf := h
theorem State.MemWf.seal (h : s.MemWf) {b} : (s.seal b).MemWf := h
theorem State.MemWf.wakeCommits (h : s.MemWf) {b} : (s.wakeCommits b).MemWf := h
theorem State.MemWf.drain (h : s.MemWf) {b id} : (s.drain b id).MemWf := s.drain_keeps b id h
theorem State.MemWf.drainRange (h : s.MemWf) {b sp a n} : (s.drainRange b sp a n).MemWf := s.drainRange_keeps b sp a n h
theorem State.MemWf.drainAll (h : s.MemWf) {b} : (s.drainAll b).MemWf := s.drainAll_keeps b h
theorem State.MemWf.bufPut (h : s.MemWf) {b sp a bs hs} : (s.bufPut b sp a bs hs).MemWf := s.bufPut_keeps b sp a bs hs h
theorem State.MemWf.bufStore (h : s.MemWf) {b sp a bs} : (s.bufStore b sp a bs).MemWf := h.bufPut
theorem State.MemWf.fenceBack (h : s.MemWf) {b} : (s.fenceBack b).MemWf := by
  dsimp only [State.fenceBack]
  split
  · exact h
  · split
    · exact h
    · exact (h.writeBack.ofPair rfl).ite (h.writeBack.ofPair rfl).modBlk.wakeCommits

/-! ### Guards and capabilities (04 R111 to R118, 07 R205) -/

theorem State.MemWf.setGuard (h : s.MemWf) {g G} : (s.setGuard g G).MemWf := h.sliceSet.sliceSet.sliceSet.sliceSet.sliceSet
theorem State.MemWf.guardFlags (h : s.MemWf) {g f} : (s.guardFlags g f).MemWf := h.sliceSet
theorem State.MemWf.arriveAt (h : s.MemWf) {b g n f} : (s.arriveAt b g n f).MemWf :=
  .ite (.ite (h.ite h.guardFlags) (h.ite h.guardFlags).setGuard) h.send
theorem State.MemWf.landAt (h : s.MemWf) {b g n f} : (s.landAt b g n f).MemWf := .ite (h.ite h.guardFlags).setGuard h.send
theorem State.MemWf.expectAt (h : s.MemWf) {b g n} : (s.expectAt b g n).MemWf := h.setGuard.ite h.send
theorem State.MemWf.waiters (h : s.MemWf) {b g up} : (s.waiters b g up).MemWf := h.send.ite h.sliceSet
theorem State.MemWf.acquire (h : s.MemWf) {core part g} : (s.acquire core part g).MemWf := h.invalidate
theorem State.MemWf.releaseBack (h : s.MemWf) {core part b rs} : (s.releaseBack core part b rs).2.MemWf := h.writeBack
theorem State.MemWf.initGuard (h : s.MemWf) {g k n m} : (s.initGuard g k n m).MemWf := h.sliceWrite.updateMem
theorem State.MemWf.farGuard (h : s.MemWf) {k g} : (s.farGuard k g).MemWf := h.ite h.modTask
theorem State.MemWf.markEntry (h : s.MemWf) {K i code} : (s.markEntry K i code).MemWf := h.waMerge
theorem State.MemWf.lackEvents (h : s.MemWf) {core ks} : (s.lackEvents core ks).MemWf := by
  dsimp only [State.lackEvents]
  split
  · exact h
  · exact h.foldl fun _ _ h => h.event
theorem State.MemWf.parkPages (h : s.MemWf) {c ks w m} : (s.parkPages c ks w m).MemWf := h.lackEvents.onSplit

/-! ### Graphs and chains (06 R163 to R169, 04 R119 to R127) -/

theorem State.MemWf.nodeCode (h : s.MemWf) {G n c d} : (s.nodeCode G n c d).MemWf := h.waWrite
theorem State.MemWf.endGraph (h : s.MemWf) {g c n} : (s.endGraph g c n).MemWf := h.modGraph
theorem State.MemWf.takeEdge (h : s.MemWf) {g a b} : (s.takeEdge g a b).MemWf := by
  dsimp only [State.takeEdge]
  split
  · exact h
  · exact h.ite (h.ite (h.nodeCode.endGraph.ite h.modGraph))

theorem State.MemWf.endNode (h : s.MemWf) {g n c d e} : (s.endNode g n c d e).MemWf := by
  dsimp only [State.endNode]
  split
  · exact h
  · exact h.nodeCode.modGraph.takeEdge.ite (h.nodeCode.modGraph.endGraph.ite h.nodeCode.modGraph.takeEdge)

theorem State.MemWf.gangEnd (h : s.MemWf) {g n} : (s.gangEnd g n).MemWf := by
  dsimp only [State.gangEnd]
  split
  · exact h
  · split
    · exact h
    · exact h.ite h.endNode

theorem State.MemWf.clearFar (h : s.MemWf) {k} : (s.clearFar k).MemWf := h.foldl fun _ _ h => h.send
theorem State.MemWf.dropGang (h : s.MemWf) {id} : (s.dropGang id).MemWf := by
  dsimp only [State.dropGang]
  split
  · exact h
  · exact h.clearFar.updateMem

theorem State.MemWf.farGangEnd (h : s.MemWf) {k err} : (s.farGangEnd k err).MemWf := by
  dsimp only [State.farGangEnd]
  split
  · exact h
  · exact h.send

theorem State.MemWf.taskEnd (h : s.MemWf) {k} : (s.taskEnd k).MemWf := by
  dsimp only [State.taskEnd]
  split
  · exact h
  · refine h.ite ?_
    split
    · exact h.farGangEnd
    · split
      · exact h
      · exact h.modGraph.gangEnd.ite h.endNode

theorem State.MemWf.append (h : s.MemWf) {ch a blk part tag sup far k} : (s.append ch a blk part tag sup far k).MemWf :=
  (h.sliceSet.sliceSet.ite h.sliceSet.sliceSet).sliceSet.sliceSet.update

theorem State.MemWf.unlink (h : s.MemWf) {mine} : (s.unlink mine).MemWf := by
  dsimp only [State.unlink]
  refine State.MemWf.update (h.foldl fun s o h => h.ite ?_)
  cases List.head? _ with
  | none => exact h.sliceSet.sliceSet.sliceSet.ite h.sliceSet.sliceSet
  | some x => exact (h.sliceSet.sliceSet.sliceSet.ite h.sliceSet.sliceSet).sliceSet

theorem State.MemWf.unlinkOwn (h : s.MemWf) {b} : (s.unlinkOwn b).MemWf := h.unlink.foldl fun _ _ h => h.send

theorem State.MemWf.reportStop (h : s.MemWf) {b k tag code} : (s.reportStop b k tag code).MemWf := by
  dsimp only [State.reportStop]
  split
  · exact h.markEntry.blockErr
  · exact h.blockErr

theorem State.MemWf.stopChain (h : s.MemWf) {o code} : (s.stopChain o code).MemWf := by
  dsimp only [State.stopChain]
  refine .foldl (.event ?_) fun _ _ h => h.endNode
  split
  · split
    · exact h.sliceSet.update.send
    · exact h.sliceSet.update
  · exact h.sliceSet.update.reportStop

theorem State.MemWf.recordSeq (h : s.MemWf) {n ch} : (State.recordSeq n s ch).MemWf := by
  induction n generalizing s with
  | zero => exact h
  | succ n ih => exact (ih h.sliceSet.update).ite h

theorem State.MemWf.completeEntry (h : s.MemWf) {ch id} : (s.completeEntry ch id).MemWf := by
  refine h.update.recordSeq.foldl fun s x h => .ite ?_ h
  split
  · exact h.endNode
  · exact h

/-! ### Blocks (06 R170, 05 R156, 08 R216 to R219) -/

theorem State.MemWf.placeOn (h : s.MemWf) {k core recs gang} : (s.placeOn k core recs gang).MemWf := by
  dsimp only [State.placeOn]
  split
  · exact h
  · exact h.update.bump.modTask.update.modPart

theorem State.MemWf.place (h : s.MemWf) {k gang} (e : s.place k gang = some t) : t.MemWf := by
  dsimp only [State.place] at e
  split at e
  · cases e
  · split at e
    · cases e
    · split at e
      · cases e
      · obtain ⟨c, -, rfl⟩ := Option.map_eq_some_iff.1 e
        exact h.placeOn

theorem State.MemWf.placeAll (h : s.MemWf) {k gang n} : (State.placeAll k gang n s).MemWf := by
  induction n generalizing s with
  | zero => exact h
  | succ n ih =>
    dsimp only [State.placeAll]
    split
    · exact ih (h.place ‹_›)
    · exact h

theorem State.MemWf.freeUnits (h : s.MemWf) {b} : (s.freeUnits b).MemWf := h
theorem State.MemWf.reap (h : s.MemWf) {b t} : (s.reap b t).MemWf := by
  dsimp only [State.reap]
  split
  · exact h
  · refine h.ite ?_
    split
    · exact h.modBlk.commit.ite h.modBlk
    · exact h.modBlk

theorem State.MemWf.completion (h : s.MemWf) {b B K} : (s.completion b B K).MemWf := h.ite h.arriveAt
theorem State.MemWf.gone (h : s.MemWf) {b k} : (s.gone b k).MemWf := h.update.freeUnits.modTask.taskEnd
theorem State.MemWf.sendAbort (h : s.MemWf) {ms g a} : (s.sendAbort ms g a).MemWf := h.foldl fun _ _ h => h.update.ite h.send
theorem State.MemWf.abortOwn (h : s.MemWf) {b} : (s.abortOwn b).MemWf := h.foldl fun _ _ h => h.sendAbort.ite h

theorem State.MemWf.leaveGuards (h : s.MemWf) {b} : (s.leaveGuards b).MemWf := by
  dsimp only [State.leaveGuards]
  split
  · exact h
  · refine h.foldl fun s T h => h.foldl fun s p h => ?_
    split
    · exact h.waiters
    · exact h.waiters
    · exact h

theorem State.MemWf.endBlock (h : s.MemWf) {b} : (s.endBlock b).MemWf := by
  dsimp only [State.endBlock]
  split
  · exact h
  · refine h.ite (h.writeBack.ite ?_)
    split
    · exact h.writeBack.gone
    · exact h.writeBack.completion.gone

theorem State.MemWf.kill (h : s.MemWf) {b code detail inHandler} : (s.kill b code detail inHandler).MemWf := by
  dsimp only [State.kill]
  split
  · exact h
  · split
    · exact h.update
    · have h2 := (h.leaveGuards (b := b)).freeUnits (b := b)
      refine State.MemWf.endBlock (.abortOwn (.event (.ite ?_ (.ite ?_ (.waWrite ?_)))))
      · exact (h2.modBlk.foldl fun _ _ h => h.drain).blockErr
      · exact (h2.modBlk.foldl fun _ _ h => h.drain).blockErr.modTask
      · exact (h2.modBlk.foldl fun _ _ h => h.drain).blockErr.modTask

theorem State.MemWf.attemptUp (h : s.MemWf) {g} : (s.attemptUp g).MemWf := h.sliceSet

theorem State.MemWf.relaunch (h : s.MemWf) {b code detail} : (s.relaunch b code detail).MemWf := by
  dsimp only [State.relaunch]
  split
  · exact h
  · split
    · exact h
    · next B _ _ _ _ =>
      have hmarked : ∀ f g, (((((((s.leaveGuards b).unlinkOwn b).freeUnits b).bump.modBlk b f).blockErr b
          (some (code, detail)) 0).modBlk b g).blockErr b none 0).MemWf :=
        fun _ _ => h.leaveGuards.unlinkOwn.freeUnits.bump.modBlk.blockErr.modBlk.blockErr
      have hdropped : ∀ f g c p, State.MemWf (if B.records.isEmpty then _ else State.invalidate _ c p) :=
        fun f g _ _ => (hmarked f g).ite (hmarked f g).invalidate
      exact (hdropped ..).ite ((hdropped ..).attemptUp.ite (hdropped ..).send)

theorem State.MemWf.contain (h : s.MemWf) {b code detail} : (s.contain b code detail).MemWf := by
  dsimp only [State.contain]
  split
  · exact h
  · exact h.relaunch.ite h.kill

theorem State.MemWf.corrected (h : s.MemWf) {core n} : (s.corrected core n).MemWf := h
theorem State.MemWf.correctSlice (h : s.MemWf) {core a n} : (s.correctSlice core a n).2.MemWf := by
  dsimp only [State.correctSlice]
  split
  · exact h
  · exact h.updateMem.corrected

end

section
variable {s t : State} {c : Ctx} {i : Instr}

/-! ### What an effect and an instruction answer -/

/-- A state that an effect answers has its memories in canonical form. -/
def Res.MemWf : Res → Prop
  | .done s | .went s | .park s => s.MemWf
  | .stall | .trap _ => True

/-- A state that an instruction or a step answers has its memories in canonical form. -/
def NextWf : Host.Outcome State Fault Refusal → Prop
  | .next s => s.MemWf
  | .fault _ | .refused _ => True

theorem Res.MemWf.done (h : s.MemWf) : (Res.done s).MemWf := h
theorem Res.MemWf.went (h : s.MemWf) : (Res.went s).MemWf := h
theorem Res.MemWf.park (h : s.MemWf) : (Res.park s).MemWf := h
theorem Res.MemWf.trap {r} : (Res.trap r).MemWf := trivial
theorem NextWf.next (h : s.MemWf) : NextWf (.next s) := h

theorem Res.MemWf.ite {p} [Decidable p] {a b : Res} (h : a.MemWf) (k : b.MemWf) : (if p then a else b).MemWf := by
  split
  · exact h
  · exact k

theorem NextWf.ite {p} [Decidable p] {a b} (h : NextWf a) (k : NextWf b) : NextWf (if p then a else b) := by
  split
  · exact h
  · exact k

theorem Res.MemWf.map {r : Res} {f : State → State} (h : r.MemWf) (hf : ∀ s, s.MemWf → (f s).MemWf) : (r.map f).MemWf := by
  cases r with
  | done s => exact hf s h
  | went s => exact hf s h
  | park s => exact hf s h
  | stall => trivial
  | trap => trivial

/-! ### Issue and faults (10 R262, 08 R221) -/

theorem State.MemWf.setS (h : s.MemWf) {r x} : (s.setS c r x).MemWf := h
theorem State.MemWf.setG (h : s.MemWf) {k x} : (s.setG c k x).MemWf := h
theorem State.MemWf.setC (h : s.MemWf) {k x} : (s.setC c k x).MemWf := h

theorem State.MemWf.takeFault (h : s.MemWf) {b t e r pc retry skip} : (s.takeFault b t e r pc retry skip).MemWf := by
  dsimp only [State.takeFault]
  refine h.contain.ite ?_
  split
  · split
    · exact h.modTrp.ite h.kill
    · exact h.kill.ite (h.modTrp.ite h.kill)
  · exact h

theorem State.MemWf.prune (h : s.MemWf) {b t m} : (s.prune b t m).MemWf := h

theorem State.MemWf.settleTrp (h : s.MemWf) {b t} : (s.settleTrp b t).MemWf := by
  dsimp only [State.settleTrp]
  split
  · exact h
  · refine h.modTrp.prune.reap.ite (.ite ?_ h.modTrp.prune)
    split
    · exact h.modTrp.prune
    · split
      · exact h.modTrp.prune
      · split
        · exact h.modTrp.prune.takeFault
        · exact h.modTrp.prune

theorem State.MemWf.stepEnds (h : s.MemWf) {b t e own} : (s.stepEnds b t e own).MemWf := by
  dsimp only [State.stepEnds]
  split
  · exact h
  · split
    · exact h
    · split
      · split
        · exact h.modTrp
        · exact h.ite h.modTrp
      · exact h

theorem State.MemWf.pipeCheck (h : s.MemWf) {cor} (e : s.pipeCheck c i = .ok (cor, t)) : t.MemWf := by
  dsimp only [State.pipeCheck] at e
  repeat' split at e
  all_goals cases e
  all_goals exact h

theorem State.MemWf.readFlips (h : s.MemWf) : (s.readFlips c i).2.MemWf := by
  dsimp only [State.readFlips]
  split
  · exact h
  · exact h.onTrp.corrected

theorem State.MemWf.raiseFault (h : s.MemWf) {r pc} : (s.raiseFault c r pc).MemWf := (h.onTrp.modBlk.ite h.onTrp).takeFault
theorem State.MemWf.advance (h : s.MemWf) : (s.advance c i).MemWf := h
theorem State.MemWf.noIssue (h : s.MemWf) : s.noIssue.MemWf := h

theorem State.MemWf.finish (h : s.MemWf) {r : Res} (hr : r.MemWf) : (s.finish c i r).MemWf := by
  cases r with
  | done t => exact hr
  | went t => exact (State.MemWf.onTrp (s := t) hr).settleTrp.stepEnds
  | park t => exact hr
  | stall => exact h
  | trap r => exact h.raiseFault

/-- A word whose effect keeps the form keeps it, also where it does not come to its effect. -/
theorem State.MemWf.issueWord (h : s.MemWf) {eff} (heff : ∀ c s, s.MemWf → (eff c s).MemWf) : NextWf (s.issueWord i eff) := by
  dsimp only [State.issueWord]
  split
  · trivial
  · split
    · exact h.raiseFault
    · refine .ite h.noIssue (.ite (h.finish h.parkPages) ?_)
      split
      · exact h.raiseFault
      · split
        · exact h.raiseFault
        · next c _ _ _ _ _ _ cor sp hsp =>
          have h1 := ((h.pipeCheck hsp).readFlips (c := c) (i := i)).onTrp (c := c) (f := fun T => T.openRun i c.e c.sp.pc)
          have hr := heff (c.opened i) _ h1
          split
          · exact h.noIssue
          · refine h1.finish ?_
            split
            · exact hr.map fun _ h => h.raise
            · exact hr

theorem State.MemWf.raiseMet {met : Bool × State} (h : s.MemWf) (k : met.2.MemWf) : (s.raiseMet c met).MemWf := k.raise.ite h
theorem State.MemWf.meetFlips (h : s.MemWf) {a n} : (s.meetFlips c a n).MemWf := h.raiseMet h.correctSlice

theorem State.MemWf.pipePass (h : s.MemWf) {m} : (s.pipePass c m).MemWf := by
  dsimp only [State.pipePass]
  split
  · exact h.modCore.ite h
  · exact h

theorem Ctx.popWait_memWf (h : s.MemWf) {m r} (e : c.popWait i m s = some r) : r.MemWf := by
  dsimp only [Ctx.popWait] at e
  repeat' split at e
  all_goals cases e
  · trivial
  · exact h.onSplit

/-- The shared shape of the lane instructions (12 R296). -/
theorem State.MemWf.laneFx (h : s.MemWf) {d f} : (laneFx i d f c s).MemWf := by
  dsimp only [Machine.laneFx]
  split
  · exact Ctx.popWait_memWf h ‹_›
  · exact h.onTrp.raise.pipePass

theorem State.MemWf.uniFx (h : s.MemWf) {d f} : (uniFx d f c s).MemWf := h.setS

/-! ### Guards, fences and commits (13 R344 to R349) -/

theorem State.MemWf.expose (h : s.MemWf) : (s.expose c).MemWf := h
theorem State.MemWf.atGuard (h : s.MemWf) {b g op f} (hf : (f s).MemWf) : (s.atGuard b g op f).MemWf := hf.ite h.send
theorem State.MemWf.startRelease (h : s.MemWf) {b rs act} : (s.startRelease b rs act).MemWf := h.seal.commit.bump.modBlk

theorem State.MemWf.readSlice (h : s.MemWf) {g ps} (e : s.readSlice c g ps = some t) : t.MemWf := by
  dsimp only [State.readSlice] at e
  split at e
  · cases e
  · cases e
    exact h.foldl fun _ _ h => h.meetFlips

theorem State.MemWf.readBound (h : s.MemWf) {g ps} (e : s.readBound c g ps = some t) : t.MemWf := by
  dsimp only [State.readBound] at e
  split at e
  · cases e
  · exact h.readSlice e

theorem State.MemWf.guardFx (h : s.MemWf) {f right numbered ps act} (hact : ∀ r s, s.MemWf → (act r c s).MemWf) :
    (guardFx f right numbered ps act c s).MemWf := by
  dsimp only [Machine.guardFx]
  split
  · trivial
  · refine .ite trivial ?_
    split
    · trivial
    · exact hact _ _ (h.readSlice ‹_›)

theorem execArrive_memWf (h : s.MemWf) {f} : NextWf (execArrive f s) := h.issueWord fun c s h => by
  dsimp only
  split
  · trivial
  · refine .ite trivial (.ite ?_ (.ite trivial ?_))
    · split
      · trivial
      · exact (h.readBound ‹_›).startRelease
    · split
      · trivial
      · exact (h.readSlice ‹_›).arriveAt.expose

theorem execExpect_memWf (h : s.MemWf) {f} : NextWf (execExpect f s) :=
  h.issueWord fun _ _ h => h.guardFx fun _ _ h => .ite trivial h.expectAt.expose
theorem execGflg_memWf (h : s.MemWf) {f} : NextWf (execGflg f s) :=
  h.issueWord fun _ _ h => h.guardFx fun _ _ h => (h.atGuard h.guardFlags).expose
theorem execGinit_memWf (h : s.MemWf) {f} : NextWf (execGinit f s) :=
  h.issueWord fun _ _ h => h.guardFx fun _ _ h => by
    dsimp only
    refine .ite .trap (.ite (.park h.drainRange) (.done (.expose (.farGuard (.atGuard h.drainRange ?_)))))
    exact h.drainRange.initGuard

theorem State.MemWf.addBind (h : s.MemWf) {g x} : (s.addBind g x).MemWf := h.ite h.sliceSet.sliceSet
theorem State.MemWf.dropBind (h : s.MemWf) {g x} : (s.dropBind g x).MemWf := (h.foldl fun _ _ h => h.sliceSet).sliceSet

theorem execGbind_memWf (h : s.MemWf) {f} : NextWf (execGbind f s) :=
  h.issueWord fun _ _ h => h.guardFx fun _ _ h => by
    dsimp only
    split
    · trivial
    · exact .ite trivial (.ite trivial (h.atGuard h.addBind).expose)

theorem execGunb_memWf (h : s.MemWf) {f} : NextWf (execGunb f s) :=
  h.issueWord fun _ _ h => h.guardFx fun _ _ h => by
    dsimp only
    split
    · trivial
    · exact .ite trivial (h.atGuard h.dropBind).expose

theorem execWait_memWf (h : s.MemWf) {f} : NextWf (execWait f s) := h.issueWord fun _ _ h => by
  dsimp only
  split
  · trivial
  · refine .ite trivial ?_
    split
    · trivial
    · exact .ite (h.readBound ‹_›).acquire (h.readBound ‹_›).waiters.onSplit

theorem execTryw_memWf (h : s.MemWf) {f} : NextWf (execTryw f s) := h.issueWord fun _ _ h => by
  dsimp only
  split
  · trivial
  · refine .ite trivial ?_
    split
    · trivial
    · exact .ite (h.readBound ‹_›).acquire.setG (.ite (h.readBound ‹_›).setG (h.readBound ‹_›).waiters.onSplit)

theorem State.MemWf.unwait (h : s.MemWf) {b t e g gate} : (s.unwait b t e g gate).MemWf := h.waiters.modSplit.modTrp
theorem State.MemWf.acquireFor (h : s.MemWf) {b g} : (s.acquireFor b g).MemWf := by
  dsimp only [State.acquireFor]
  split
  · split
    · exact h.acquire
    · exact h
  · exact h

theorem execGuardWake_memWf (h : s.MemWf) {b t e} : NextWf (execGuardWake b t e s) := by
  dsimp only [execGuardWake]
  split
  · exact .ite h.contain (.ite h.acquireFor.unwait.tock h.tock)
  · exact .ite h.contain (.ite h.acquireFor.unwait.tock h.tock)
  · exact h.modSplit
  · exact h

theorem execTrywTimeout_memWf (h : s.MemWf) {b t e} : NextWf (execTrywTimeout b t e s) := by
  dsimp only [execTrywTimeout]
  split
  · exact .ite h.unwait h
  · exact h

theorem execFence_memWf (h : s.MemWf) {f} : NextWf (execFence f s) :=
  h.issueWord fun _ _ h => State.MemWf.ite h.modBlk.invalidate h.modBlk

theorem execCommit_memWf (h : s.MemWf) {f} : NextWf (execCommit f s) := h.issueWord fun _ _ h => by
  dsimp only
  split
  · trivial
  · exact .ite h.commit h.commit.onSplit

theorem execStoreEntryDrain_memWf (h : s.MemWf) {b id} : NextWf (execStoreEntryDrain b id s) := by
  dsimp only [execStoreEntryDrain]
  split
  · exact h
  · split
    · exact h.fenceBack
    · exact .ite h.drain h

/-! ### Bins, pod time, revocation (06 R172 to R177, 11 R292 to R295) -/

theorem State.MemWf.modBin (h : s.MemWf) {core n f} : (s.modBin core n f).MemWf := h.modCore
theorem State.MemWf.binSpill (h : s.MemWf) {B n} : (s.binSpill B n).MemWf := h.foldl fun _ _ h => h.waWrite

theorem State.MemWf.binLaunch (h : s.MemWf) {core b n} (e : s.binLaunch core b n = some t) : t.MemWf := by
  dsimp only [State.binLaunch] at e
  split at e
  · cases e
  · split at e
    · cases e
    · split at e
      · cases e
      · obtain ⟨_, -, rfl⟩ := Option.map_eq_some_iff.1 e
        exact h.modBin.invalidate.placeOn

theorem State.MemWf.binFill (h : s.MemWf) {core b n} : (State.binFill core b n s).MemWf := by
  induction n generalizing s with
  | zero => exact h
  | succ n ih =>
    dsimp only [State.binFill]
    split
    · refine .ite ?_ h
      split
      · exact ih (h.binLaunch ‹_›)
      · exact h
    · exact h

theorem State.MemWf.binAccept (h : s.MemWf) {core b xs} : (s.binAccept core b xs).MemWf := by
  dsimp only [State.binAccept]
  split
  · exact h
  · exact h.modBin.binSpill.binFill

theorem execPost_memWf (h : s.MemWf) {f} : NextWf (execPost f s) := h.issueWord fun _ _ h => by
  dsimp only
  split
  · trivial
  · exact .ite trivial (.ite trivial (.ite h.commit.drainAll.writeBack (.ite h.commit.drainAll.writeBack
      h.commit.drainAll.writeBack.binAccept.onSplit)))

theorem execPostCompletion_memWf (h : s.MemWf) {b t e} : NextWf (execPostCompletion b t e s) := h.modSplit

theorem execBintake_memWf (h : s.MemWf) {f} : NextWf (execBintake f s) := h.issueWord fun _ _ h => by
  dsimp only
  split
  · trivial
  · refine .ite trivial (.ite trivial ?_)
    split
    · trivial
    · exact State.MemWf.expose (h.modBin.onTrp.onSplit.setS.ite h.modBin.onTrp.onSplit.setS.invalidate)

theorem execBinTimer_memWf (h : s.MemWf) {core bin} : NextWf (execBinTimer core bin s) := by
  dsimp only [execBinTimer]
  split
  · exact h
  · split
    · exact h
    · exact .ite h (h.orElse fun _ e => h.binLaunch e)

theorem State.MemWf.disarm (h : s.MemWf) {k} : (s.disarm k).MemWf := by
  dsimp only [State.disarm]
  split
  · exact h.update
  · split
    · exact h.update.modTask
    · split
      · exact h.update.modTask.endNode
      · exact h.update.modTask

theorem execBinDrain_memWf (h : s.MemWf) {core bin} : NextWf (execBinDrain core bin s) := by
  dsimp only [execBinDrain]
  split
  · exact h
  · exact .ite (h.orElse fun _ e => h.binLaunch e) (.ite h.disarm h)

theorem execClkrd_memWf (h : s.MemWf) {f} : NextWf (execClkrd f s) := h.issueWord fun _ _ h => h.setS

theorem State.MemWf.clearHolders (h : s.MemWf) {part obj page} : (s.clearHolders part obj page).2.MemWf :=
  .foldlPair h fun _ _ h => h.devRaw

theorem execOtinv_memWf (h : s.MemWf) {f} : NextWf (execOtinv f s) := h.issueWord fun _ _ h => by
  dsimp only
  refine .ite .trap (.ite .trap (.ite .trap (.ite
    (.ite .trap (.ite (.done h.expose) (.went (.expose (.onSplit (.bump (.update (.foldlPair h fun _ _ h => ?_))))))))
    (.went h.devRaw.update.bump.onSplit.expose))))
  exact h.clearHolders

theorem execShootdown_memWf (h : s.MemWf) {id target} : NextWf (execShootdown id target s) := by
  dsimp only [execShootdown]
  split
  · exact h
  · exact .ite h (.ite h.update.modCore (.ite h.updateMem h.update))

theorem execOtinvCompletion_memWf (h : s.MemWf) {id} : NextWf (execOtinvCompletion id s) := by
  dsimp only [execOtinvCompletion]
  split
  · exact h
  · exact .ite h h.update.modSplit

end

section
variable {s t : State} {c : Ctx} {i : Instr}

/-! ### Loads and stores (13 R338 to R341) -/

/-- A fold of operations that may answer nothing, each of which keeps the form. -/
theorem State.MemWf.foldlBind {α β} {g : β × State → α → Option (β × State)} {xs : List α} {x y : β × State}
    (h : x.2.MemWf) (hg : ∀ x a y, x.2.MemWf → g x a = some y → y.2.MemWf)
    (e : xs.foldl (fun r a => r.bind fun x => g x a) (some x) = some y) : y.2.MemWf := by
  have none_foldl : ∀ xs : List α, xs.foldl (fun (r : Option (β × State)) a => r.bind fun x => g x a) none = none := by
    intro xs
    induction xs with
    | nil => rfl
    | cons a r ih => exact ih
  induction xs generalizing x with
  | nil => cases e; exact h
  | cons a r ih =>
    rw [List.foldl_cons, Option.bind_some] at e
    cases hx : g x a with
    | none => rw [hx, none_foldl] at e; cases e
    | some z => rw [hx] at e; exact ih (hg x a z h hx) e

theorem State.MemWf.touch (h : s.MemWf) {core k w} : (s.touch core k w).MemWf := h.translate

theorem State.MemWf.correctHome (h : s.MemWf) {core k n} : (s.correctHome core k n).2.MemWf := by
  dsimp only [State.correctHome]
  split
  · exact h
  · exact h.updateMem.corrected

theorem State.MemWf.correctBulk (h : s.MemWf) {core k n} : (s.correctBulk core k n).2.MemWf := by
  have h1 : (if s.held core k n then (false, s) else s.correctHome core k n).2.MemWf := by
    split
    · exact h
    · exact h.correctHome
  dsimp only [State.correctBulk]
  split
  · exact h1
  · exact h1.modCore.corrected

theorem State.MemWf.loadBytes (h : s.MemWf) {b core sp a n bs} (e : s.loadBytes b core sp a n = some (bs, t)) : t.MemWf := by
  dsimp only [State.loadBytes] at e
  split at e
  · cases e; exact h
  · split at e
    · cases e; exact h
    · obtain ⟨⟨_, u⟩, hr, hu⟩ := Option.map_eq_some_iff.1 e
      cases hu
      exact h.bulkRead hr

theorem State.MemWf.loadLanes (h : s.MemWf) {b core L xs} (e : s.loadLanes b core L = some (xs, t)) : t.MemWf := by
  dsimp only [State.loadLanes] at e
  obtain ⟨q, hq, hp⟩ := Option.map_eq_some_iff.1 e
  have hw : q.2.MemWf := State.MemWf.foldlBind h (fun x a y hx he => by
    obtain ⟨⟨_, u⟩, hr, rfl⟩ := Option.map_eq_some_iff.1 he
    exact hx.loadBytes hr) hq
  split at hp
  all_goals
    cases hp
    exact hw

theorem State.MemWf.lostLoad (h : s.MemWf) {b t id L} : (s.lostLoad b t id L).MemWf := by
  dsimp only [State.lostLoad]
  split
  · exact h.blockErr.modTrp.modTrp
  · exact h.blockErr.modTrp.modTrp

theorem State.MemWf.returnLoad (h : s.MemWf) {b t id} : (s.returnLoad b t id).MemWf := by
  dsimp only [State.returnLoad]
  split
  · exact h
  · split
    · exact h
    · split
      · exact h
      · refine h.ite (h.contain.ite ?_)
        split
        · exact h.lostLoad.ite (h.ite h.lackEvents.modTrp)
        · split
          · exact (h.loadLanes ‹_›).modTrp.modTrp
          · exact (h.loadLanes ‹_›).modTrp.modTrp

theorem State.MemWf.pushAll (h : s.MemWf) {q m x} : (s.pushAll c q m x).MemWf := h.modTrp
theorem State.MemWf.loadNow (h : s.MemWf) {f words xs} : (s.loadNow c i f words xs).MemWf := by
  dsimp only [State.loadNow]
  split
  · exact h.pushAll
  · exact h.onTrp
theorem State.MemWf.popped (h : s.MemWf) {m} : (s.popped c i m).MemWf := h.onTrp
theorem State.MemWf.meetBulk (h : s.MemWf) {k n} : (s.meetBulk c k n).MemWf := h.raiseMet h.correctBulk

theorem State.MemWf.issueLoad (h : s.MemWf) {f L} : (s.issueLoad c i f L).MemWf := by
  dsimp only [State.issueLoad]
  refine .ite (.ite trivial ?_) (.done (.onTrp (.bump ?_)))
  · split
    · trivial
    · exact (h.loadLanes ‹_›).loadNow
  · split
    · exact h.pushAll
    · exact h

theorem State.MemWf.loadFx (h : s.MemWf) {f sp tr} : (State.loadFx i f sp tr c s).MemWf := by
  dsimp only [State.loadFx]
  split
  · exact Ctx.popWait_memWf h ‹_›
  · refine .ite (.park h.onSplit) ?_
    split
    · trivial
    · split
      · trivial
      · split
        · exact (h.popped.foldl fun _ _ h => h.meetFlips).issueLoad
        · split
          · trivial
          · have hgo : ∀ {here : List (Nat × Nat)} {L m}, ((here.foldl (fun s p =>
                if (s.meetBulk c p.2 f.msize).held c.blk.core p.2 f.msize then s.meetBulk c p.2 f.msize
                else (s.meetBulk c p.2 f.msize).touch c.blk.core p.2 false) (s.popped c i m)).issueLoad c i f L).MemWf :=
              (h.popped.foldl fun _ _ h => h.meetBulk.ite h.meetBulk.touch).issueLoad
            refine .ite hgo ?_
            split
            · trivial
            · next hs =>
              refine .park (.parkPages ?_)
              obtain ⟨-, hs⟩ | ⟨-, hs⟩ := ite_eq_iff.1 hs
              · cases hs; exact h
              · split at hs
                · next hd =>
                  cases hs
                  exact show (Res.done _).MemWf from hd ▸ hgo
                · cases hs

theorem State.MemWf.meetPriv (h : s.MemWf) {us} : (s.meetPriv c us).MemWf := by
  dsimp only [State.meetPriv]
  split
  · exact h
  · exact h.modBlk.corrected.raise

theorem State.MemWf.plainLoad (h : s.MemWf) {f len byte units} : (State.plainLoad i f len byte units c s).MemWf := by
  dsimp only [State.plainLoad]
  split
  · exact Ctx.popWait_memWf h ‹_›
  · refine .ite (.park h.onSplit) ?_
    split
    · trivial
    · exact h.popped.meetPriv.loadNow

theorem State.MemWf.overflow (h : s.MemWf) {b} : (s.overflow b).MemWf := s.overflow_keeps b h

theorem State.MemWf.storeRoom (h : s.MemWf) {b} (k : t.MemWf) : (s.storeRoom b t).1.MemWf := by
  dsimp only [State.storeRoom]
  split
  · split
    · exact h.overflow
    · exact k
  · exact k

theorem State.MemWf.storeFx (h : s.MemWf) {f sp parts} : (State.storeFx i f sp parts c s).MemWf := by
  dsimp only [State.storeFx]
  split
  · exact Ctx.popWait_memWf h ‹_›
  · split
    · trivial
    · refine .ite trivial ?_
      split
      · split
        · trivial
        · refine .ite (.done ?_) (.park ?_)
          all_goals exact h.storeRoom (h.popped.foldl fun _ _ h => h.bufPut)
      · split
        · trivial
        · refine .ite (.park ?_) (.ite (.done ?_) (.park (.parkPages (h.ite ?_))))
          all_goals exact h.storeRoom (h.popped.foldl fun _ _ h => h.touch.bufPut)

theorem execStl_memWf (h : s.MemWf) {f} : NextWf (execStl f s) := h.issueWord fun _ _ h => by
  dsimp only
  split
  · exact Ctx.popWait_memWf h ‹_›
  · split
    · trivial
    · exact h.popped.modBlk

theorem State.MemWf.fillLine (h : s.MemWf) {core k0 n k} (e : s.fillLine core k0 n k = some t) : t.MemWf :=
  s.fillLine_keeps core k0 n k t e h

theorem execPfb_memWf (h : s.MemWf) {f} : NextWf (execPfb f s) := h.issueWord fun _ _ h => by
  dsimp only
  split
  · exact Ctx.popWait_memWf h ‹_›
  · split
    · trivial
    · exact h.popped.foldl fun _ _ h => h.ite (h.orElse fun _ e => h.fillLine e)

/-! ### Atomics, CBDEC, QPUSH (13 R342, R343; 12 R317; 13 R328) -/

theorem State.MemWf.atomSlice (h : s.MemWf) {cas op t n a xs} : (s.atomSlice c cas op t n a xs).2.MemWf := h.sliceSet.ite h.send

theorem State.MemWf.atomBulk (h : s.MemWf) {cas op ty n k xs y} (e : s.atomBulk c cas op ty n k xs = some y) : y.2.MemWf := by
  dsimp only [State.atomBulk] at e
  split at e
  · cases e
  · split at e
    · cases e
    · next hr =>
      have h3 := h.writeBack.invalidate.keyRead hr
      split at e
      · cases e; exact h3.send
      · obtain ⟨u, hu, rfl⟩ := Option.map_eq_some_iff.1 e
        exact h3.keyWrite hu

theorem State.MemWf.atomFx (h : s.MemWf) {f sp cas ret} : (State.atomFx i f sp cas ret c s).MemWf := by
  dsimp only [State.atomFx]
  split
  · exact Ctx.popWait_memWf h ‹_›
  · split
    · trivial
    · refine .ite trivial ?_
      split
      · split
        · trivial
        · have hd : ∀ {xs : List (Nat × Nat)} {n}, (xs.foldl (fun s p => s.drainRange c.b .slice p.2 n) s).MemWf :=
            h.foldl fun _ _ h => h.drainRange
          refine .ite hd ?_
          split
          · trivial
          · have hm : ∀ {xs : List (Nat × Nat)} {n m},
                (xs.foldl (fun s p => s.meetFlips c p.2 n)
                  ((xs.foldl (fun s p => s.drainRange c.b .slice p.2 n) s).popped c i m)).MemWf :=
              hd.popped.foldl fun _ _ h => h.meetFlips
            exact .done ((hm.ite hm.modBlk).foldl fun _ _ h => h.atomSlice.onTrp.ite h.atomSlice)
      · split
        · trivial
        · have hd : ((s.commit c.b).drainAll c.b).MemWf := h.commit.drainAll
          refine .ite hd ?_
          split
          · trivial
          · refine .ite (.done ?_) (.park (.parkPages (hd.ite ?_)))
            all_goals
              refine .foldl (hd.popped.foldl fun _ _ h => h.meetBulk) fun s x h => ?_
              split
              · exact (h.atomBulk ‹_›).onTrp.ite (h.atomBulk ‹_›)
              · exact h

theorem execCbdec_memWf (h : s.MemWf) {f} : NextWf (execCbdec f s) := h.issueWord fun _ _ h => by
  dsimp only
  split
  · exact Ctx.popWait_memWf h ‹_›
  · split
    · trivial
    · split
      · trivial
      · exact .ite trivial (h.foldl fun _ _ h => h.meetFlips).laneFx

theorem execQpush_memWf (h : s.MemWf) {f} : NextWf (execQpush f s) := h.issueWord fun _ _ h => by
  dsimp only
  split
  · exact Ctx.popWait_memWf h ‹_›
  · exact .ite h.onSplit h.popped.pushAll

/-! ### Capabilities, channels and messages (14 R351 to R357, 07 R209) -/

theorem State.MemWf.waTouch (h : s.MemWf) {core part wa w} : (s.waTouch core part wa w).MemWf := h.ite h.touch
theorem State.MemWf.parkAt (h : s.MemWf) {ks w} : (s.parkAt c ks w).MemWf := h.parkPages

theorem execCld_memWf (h : s.MemWf) {f} : NextWf (execCld f s) := h.issueWord fun _ _ h => by
  dsimp only
  refine .ite h.parkAt (.ite trivial ?_)
  split
  · trivial
  · exact .done (.setC (h.waTouch.ite h.waTouch.modCore))

theorem execCnar_memWf (h : s.MemWf) {f} : NextWf (execCnar f s) := h.issueWord fun _ _ h => by
  dsimp only
  split
  · trivial
  · exact .ite trivial (.ite trivial h.setC)

theorem execCinf_memWf (h : s.MemWf) {f} : NextWf (execCinf f s) := h.issueWord fun _ _ h => by
  dsimp only
  split
  · trivial
  · exact h.setS

theorem execSend_memWf (h : s.MemWf) {f} : NextWf (execSend f s) := h.issueWord fun _ _ h => by
  dsimp only
  split
  · trivial
  · refine .ite .trap (.ite .trap (.ite .trap (.ite h.parkAt (.ite .trap (.done (.startRelease ?_))))))
    split
    · exact h.meetFlips.setC.waTouch.waWrite
    · exact h.meetFlips.setC

theorem execRecv_memWf (h : s.MemWf) {f} : NextWf (execRecv f s) := h.issueWord fun _ _ h => by
  dsimp only
  split
  · trivial
  · refine .ite h.parkAt (.ite h.parkAt (.ite .trap ?_))
    split
    · exact .ite (.park h.onSplit) (.done h.setS.expose)
    · refine .ite h.parkAt (.ite .trap (.ite .trap (.ite .trap (.ite (.done ?_) (.went ?_)))))
      · exact h.waTouch.waTouch.waWrite.sliceStore.setS.invalidate.expose
      · exact h.waTouch.waTouch.waWrite.sliceStore.setS.invalidate.expose.bump.onSplit

theorem execMessageArrival_memWf (h : s.MemWf) {m} : NextWf (execMessageArrival m s) := by
  dsimp only [execMessageArrival]
  refine .ite h (.ite (.ite h.update (.next h.update.send)) (.ite h ?_))
  split
  · exact h
  · exact .next h.update.waWrite.waWrite

theorem execMessageRefusal_memWf (h : s.MemWf) {m} : NextWf (execMessageRefusal m s) := by
  dsimp only [execMessageRefusal]
  refine .ite h (.next (.tock (.event (.blockErr ?_))))
  split
  · exact h.update.markEntry
  · exact h.update

theorem execReleaseArrival_memWf (h : s.MemWf) {b id} : NextWf (execReleaseArrival b id s) := by
  dsimp only [execReleaseArrival]
  split
  · exact h
  · split
    · refine .ite h (.ite h.releaseBack ?_)
      split
      · exact .next h.releaseBack.modBlk.arriveAt
      · exact .next h.releaseBack.modBlk.update
    · exact h

/-! ### Tiles (03 R95 to R97, 14 R374) -/

theorem State.MemWf.regenTile (h : s.MemWf) {u} : (s.regenTile u).MemWf := h

theorem State.MemWf.verifyTile (h : s.MemWf) {core u y} (e : s.verifyTile core u = some y) : y.2.MemWf := by
  dsimp only [State.verifyTile] at e
  obtain ⟨hslice, hdev, hcode⟩ := h
  split at e
  all_goals cases e
  · exact ⟨hslice, hdev, hcode⟩
  · exact ⟨hslice, hdev, hcode⟩
  · exact ⟨Memory.wf_write _ _ _ hslice, hdev, hcode⟩

theorem State.MemWf.verifyTiles (h : s.MemWf) {core a n fixed} (e : s.verifyTiles core a n = some (fixed, t)) : t.MemWf :=
  State.MemWf.foldlBind h (fun x a y hx he => by
    obtain ⟨z, hz, rfl⟩ := Option.map_eq_some_iff.1 he
    exact show z.2.MemWf from hx.verifyTile hz) e

theorem execCkgen_memWf (h : s.MemWf) {f} : NextWf (execCkgen f s) := h.issueWord fun _ _ h => by
  dsimp only
  split
  · trivial
  · exact .ite (.park h.drainRange) (.ite .trap (.done (.modBlk (h.drainRange.meetFlips.foldl fun _ _ h => h.regenTile))))

theorem execCkver_memWf (h : s.MemWf) {f} : NextWf (execCkver f s) := h.issueWord fun _ _ h => by
  dsimp only
  split
  · trivial
  · refine .ite .trap ?_
    split
    · trivial
    · exact .done ((h.meetFlips.verifyTiles ‹_›).raise.ite (h.meetFlips.verifyTiles ‹_›))

theorem execCkrd_memWf (h : s.MemWf) {f} : NextWf (execCkrd f s) := h.issueWord fun _ _ h => by
  dsimp only
  split
  · trivial
  · exact h.setS

end

section
variable {s t : State} {c : Ctx} {i : Instr}

/-! ### Control (01 R17 to R32, 11 R278 to R291) -/

theorem State.MemWf.goto (h : s.MemWf) {pc} : (s.goto c pc).MemWf := h.onSplit

theorem execTok_memWf (h : s.MemWf) {f} : NextWf (execTok f s) := h.issueWord fun _ _ h => .ite .trap (.done h.onTrp)

theorem execMeet_memWf (h : s.MemWf) {f} : NextWf (execMeet f s) := h.issueWord fun _ _ h => by
  dsimp only
  split
  · trivial
  · exact .ite .trap (.went h.onSplit)

theorem State.MemWf.call (h : s.MemWf) {target} : (s.call c target).MemWf := by
  dsimp only [State.call]
  split
  · trivial
  · exact h.onTrp.goto

theorem execRet_memWf (h : s.MemWf) {f} : NextWf (execRet f s) := h.issueWord fun _ _ h => by
  dsimp only
  split
  · trivial
  · exact h.onTrp

theorem execEret_memWf (h : s.MemWf) {f} : NextWf (execEret f s) := h.issueWord fun _ _ h => by
  split
  · exact .ite (.went h.onTrp) .trap
  · trivial

theorem execSwr_memWf (h : s.MemWf) {f} : NextWf (execSwr f s) := h.issueWord fun _ _ h => by
  dsimp only
  split
  · exact h.onSplit
  · exact h.onRegs
  · exact .ite .trap (.done h.onTrp)

/-! ### Population instances (01 R33 to R35, 13 R323 to R331) -/

theorem State.MemWf.modInst (h : s.MemWf) {b t block f} : (s.modInst b t block f).MemWf := h.modBlk.ite h.modTrp

theorem State.MemWf.joinInst (h : s.MemWf) {block mask act vals} : (s.joinInst c i block mask act vals).MemWf := by
  dsimp only [State.joinInst]
  refine .ite .trap (.ite .trap ?_)
  split
  · exact .ite (.went h.modInst.onSplit) (.park h.onSplit)
  · exact h.modInst.onSplit

theorem State.MemWf.closeInst (h : s.MemWf) {b t block pc} : (s.closeInst b t block pc).2.MemWf := by
  dsimp only [State.closeInst]
  split
  · exact h
  · exact h.modInst.foldl fun _ _ h => h.modTrp

theorem State.MemWf.failInst (h : s.MemWf) {b t I r} : (s.failInst b t I r).MemWf := by
  dsimp only [State.failInst]
  refine .ite (.contain (.closeInst ?_)) (.foldl (.closeInst ?_) fun _ _ h => h.takeFault)
  all_goals exact h.foldl fun _ _ h => h.modTrp

theorem State.MemWf.births (h : s.MemWf) {b L old e pc t xs} : (s.births b L old e pc t xs).MemWf := by
  dsimp only [State.births]
  split
  · exact h
  · exact (h.ite h.modBlk).modTrp

theorem State.MemWf.completeInst (h : s.MemWf) {b t I L old bs gone} : (s.completeInst b t I L old bs gone).MemWf := by
  dsimp only [State.completeInst]
  refine .foldl (.foldl (.foldl (.foldl (.foldl (.foldl h.closeInst ?_) ?_) ?_) ?_) ?_) ?_ <;> intro s x h
  · split
    · exact h.modBlk
    · exact h
  · split
    · exact h.modBlk.ite h
    · exact h
  · exact h.births
  · exact h.modTrp
  · exact h.settleTrp
  · exact h.stepEnds

/-! ### Cross-lane instructions (13 R322 to R327) -/

theorem State.MemWf.xlaneNow (h : s.MemWf) : (xlaneNow i c s).MemWf := by
  dsimp only [Machine.xlaneNow]
  split
  · split
    · exact h.onTrp
    · exact h.laneFx
  · exact h.setS.onTrp

theorem State.MemWf.xlaneFx (h : s.MemWf) : (xlaneFx i c s).MemWf := by
  rcases hx : i.xscope c with ⟨mask, block⟩
  simp only [Machine.xlaneFx, hx]
  split
  · trivial
  · split
    · exact Ctx.popWait_memWf h ‹_›
    · exact h.xlaneNow.ite h.joinInst

/-! ### Relation instructions (13 R329 to R337) -/

/-- A state that a part of the effect of joined splits answers has its memories in canonical form. -/
def OkWf {α} : Except PopErr (α × State) → Prop
  | .ok y => y.2.MemWf
  | .error _ => True

/-- A part of the effect of joined splits keeps the memories in canonical form. -/
def PopWf {α} (m : PopM α) : Prop := ∀ s, s.MemWf → OkWf (m s)

variable {α β : Type}

theorem OkWf.ofEq {x : Except PopErr (α × State)} {y} (h : OkWf x) (e : x = .ok y) : y.2.MemWf := by
  rwa [e] at h

theorem OkWf.ite {p} [Decidable p] {x y : Except PopErr (α × State)} (hx : OkWf x) (hy : OkWf y) : OkWf (if p then x else y) := by
  split
  · exact hx
  · exact hy

theorem OkWf.bind {x : Except PopErr (α × State)} {f : α → PopM β} (hx : OkWf x) (hf : ∀ x, PopWf (f x)) :
    OkWf (x.bind fun y => f y.1 y.2) := by
  cases x with
  | error => trivial
  | ok y => exact hf y.1 y.2 hx

theorem PopWf.pure {x : α} : PopWf (pure x : PopM α) := fun _ h => h
theorem PopWf.get : PopWf (get : PopM State) := fun _ h => h
theorem PopWf.fail {code detail} : PopWf (popFail code detail : PopM α) := fun _ _ => trivial
theorem PopWf.modify {f : State → State} (hf : ∀ s, s.MemWf → (f s).MemWf) : PopWf (modify f : PopM PUnit) := hf
theorem PopWf.bind {m : PopM α} {f : α → PopM β} (hm : PopWf m) (hf : ∀ x, PopWf (f x)) : PopWf (m >>= f) :=
  fun s h => (hm s h).bind hf

theorem PopWf.ite {p} [Decidable p] {m n : PopM α} (hm : PopWf m) (hn : PopWf n) : PopWf (if p then m else n) := by
  split
  · exact hm
  · exact hn

theorem PopWf.mapM {xs : List α} {f : α → PopM β} (hf : ∀ x, PopWf (f x)) : PopWf (xs.mapM f) := by
  induction xs with
  | nil => rw [List.mapM_nil]; exact .pure
  | cons x r ih =>
    rw [List.mapM_cons]
    exact (hf x).bind fun _ => ih.bind fun _ => .pure

theorem State.MemWf.eachArrived (h : s.MemWf) {b I f} : (s.eachArrived b I f).MemWf := h.foldl fun _ _ h => h.ite h.modTrp
theorem State.MemWf.instFlags (h : s.MemWf) {b I fl} : (s.instFlags b I fl).MemWf := h.eachArrived

theorem groupFx_memWf {f b cols I} : PopWf (groupFx f b cols I) := fun _ h =>
  State.MemWf.instFlags (.foldl (.foldl h fun _ _ h => h.modTrp) fun _ _ h => h.modTrp)

theorem Rel.read_memWf {o : Rel} {off} : PopWf (o.read off) := fun s h => by
  have hmet : (match o.space with
      | .slice => s.correctSlice o.core (o.place s off) 4
      | .bulk => s.correctBulk o.core (o.place s off) 4).2.MemWf := by
    split
    · exact h.correctSlice
    · exact h.correctBulk
  dsimp only [Rel.read]
  refine .ite trivial (.ite trivial ?_)
  split
  · next he =>
    refine State.MemWf.loadBytes (.ite (.foldl hmet fun _ _ h => h.modTrp) h) he
  · split <;> trivial

theorem Rel.write_memWf {o : Rel} {off x} : PopWf (o.write off x) := fun s h => by
  dsimp only [Rel.write]
  refine .ite trivial ?_
  split
  · exact .ite trivial (.ite trivial h.bufStore)
  · split
    · trivial
    · trivial
    · trivial
    · exact .ite trivial h.touch.bufStore

theorem relOpen_memWf {b cN rights I} : PopWf (relOpen b cN rights I) := fun s h => by
  dsimp only [relOpen]
  split
  · trivial
  · split
    · trivial
    · split
      · trivial
      · refine .ite trivial (.ite trivial ?_)
        exact PopWf.bind (.mapM fun _ => Rel.read_memWf) (fun _ => .ite .fail (.ite .fail .pure)) s h

theorem Rel.insert_memWf {o : Rel} {k key payload} : PopWf (o.insert k key payload) := by
  dsimp only [Rel.insert]
  refine Rel.write_memWf.bind fun _ => Rel.write_memWf.bind fun _ => .ite (Rel.write_memWf.bind fun _ => ?_) ?_
  all_goals
    refine .bind (.mapM fun _ => Rel.write_memWf) fun _ => Rel.read_memWf.bind fun _ =>
      .ite (Rel.write_memWf.bind fun _ => ?_) (Rel.read_memWf.bind fun _ => Rel.write_memWf.bind fun _ => ?_)
    all_goals exact Rel.write_memWf.bind fun _ => Rel.write_memWf

theorem buildFx_memWf {f b I} : PopWf (buildFx f b I) := by
  unfold buildFx
  refine PopWf.get.bind fun _ => relOpen_memWf.bind fun _ => .ite .fail (.ite .fail ?_)
  exact .bind (.mapM fun _ => Rel.insert_memWf) fun _ => .pure

theorem Rel.walk_memWf {o : Rel} {key n link} : PopWf (o.walk key n link) := by
  induction n generalizing link with
  | zero => exact .pure
  | succ n ih =>
    dsimp only [Rel.walk]
    refine .ite .pure (Rel.read_memWf.bind fun _ => .ite (Rel.read_memWf.bind fun _ => ?_) (PopWf.pure.bind fun _ => ?_))
    all_goals exact Rel.read_memWf.bind fun _ => ih.bind fun _ => .pure

theorem Rel.probe_memWf {o : Rel} {left key from'} : PopWf (o.probe left key from') := by
  dsimp only [Rel.probe]
  split
  · exact PopWf.pure.bind fun _ => Rel.walk_memWf.bind fun _ => .pure
  · exact Rel.read_memWf.bind fun _ => Rel.walk_memWf.bind fun _ => .pure

theorem joinFx_memWf {f b L I} : PopWf (joinFx f b L I) := by
  dsimp only [joinFx]
  refine PopWf.get.bind fun _ => relOpen_memWf.bind fun _ => .ite .fail (.ite .fail
    (.bind (.mapM fun _ => Rel.probe_memWf.bind fun _ => .pure) fun _ => .bind (.mapM fun x => ?_) fun _ =>
      .bind (.modify fun _ h => ?_) fun _ => .bind (.modify fun _ h => ?_) fun _ => .pure))
  · split
    · exact .bind (.mapM fun _ => Rel.read_memWf) fun _ => .pure
    · exact PopWf.pure.bind fun _ => .pure
  · exact (h.foldl fun _ _ h => h.modTrp).modBlk
  · exact h.foldl fun _ _ h => h.modTrp

theorem expandFx_memWf {f b L I} : PopWf (expandFx f b L I) := fun s h => by
  dsimp only [expandFx]
  split
  · trivial
  · refine .ite trivial ?_
    exact h.foldl fun _ _ h => h.modTrp

theorem repackFx_memWf {b L I} : PopWf (repackFx b L I) := fun _ h => h
theorem rcountFx_memWf {f b I} : PopWf (rcountFx f b I) := fun _ h => h.eachArrived
theorem xinstFx_memWf {b I} : PopWf (xinstFx b I) := fun _ h =>
  State.MemWf.instFlags (.foldl h fun _ _ h => h.modTrp)

theorem Inst.effect_memWf {I : Inst} {b K} : PopWf (I.effect b K) := by
  unfold Inst.effect
  split
  · exact groupFx_memWf
  · exact buildFx_memWf
  · exact joinFx_memWf
  · exact expandFx_memWf
  · exact repackFx_memWf
  · exact rcountFx_memWf
  · exact xinstFx_memWf

theorem State.MemWf.relFx (h : s.MemWf) {f bar} : (relFx i f bar c s).MemWf := .ite .trap h.joinInst
theorem State.MemWf.dropCursor (h : s.MemWf) {keep} : (s.dropCursor c keep).MemWf := h.modBlk

theorem execJoin_memWf (h : s.MemWf) {f} : NextWf (execJoin f s) := h.issueWord fun _ _ h => .ite .trap h.dropCursor.relFx

theorem State.MemWf.runInst (h : s.MemWf) {b t' I} (e : s.runInst b t' I = .ok t) : t.MemWf := by
  dsimp only [State.runInst] at e
  split at e
  · cases e; exact h
  · split at e
    · cases e; exact h
    · split at e
      · cases e
      · next hx =>
        cases e
        exact ((Inst.effect_memWf s h).ofEq hx).completeInst

theorem State.MemWf.lackPage (h : s.MemWf) {b t I k w} : (s.lackPage b t I k w).MemWf := h.event.modInst

theorem execPopulationExecute_memWf (h : s.MemWf) {b sc} : NextWf (execPopulationExecute b sc s) := by
  dsimp only [execPopulationExecute]
  split
  · refine .ite h ?_
    split
    · exact h.failInst
    · exact h.lackPage
    · exact h.overflow
    · exact h.modInst
  · exact h

theorem execPopulationComplete_memWf (h : s.MemWf) {b sc} : NextWf (execPopulationComplete b sc s) := by
  dsimp only [execPopulationComplete]
  split
  · refine .ite h ?_
    split
    · exact h.failInst
    · exact h.lackPage
    · exact h.overflow
    · exact (h.runInst ‹_›).tock
  · exact h

theorem execCollstallClose_memWf (h : s.MemWf) {b sc} : NextWf (execCollstallClose b sc s) := by
  dsimp only [execCollstallClose]
  split
  · split
    · exact h.failInst
    · exact h
  · exact h

theorem execQdryDeadlock_memWf (h : s.MemWf) {b t} : NextWf (execQdryDeadlock b t s) := by
  dsimp only [execQdryDeadlock]
  split
  · exact h
  · refine .ite h ?_
    split
    · exact h
    · split
      · exact h
      · split
        · exact h
        · exact h.takeFault

theorem execQueueWake_memWf (h : s.MemWf) {b t e} : NextWf (execQueueWake b t e s) := by
  dsimp only [execQueueWake]
  split
  · exact .ite h.modSplit h
  · exact h

end

section
variable {s t : State} {c : Ctx} {i : Instr}

/-- A state that a value gives, where there is one. -/
theorem State.MemWf.elim {α} {o : Option α} {f : α → State} (h : s.MemWf) (hf : ∀ x, (f x).MemWf) : (o.elim s f).MemWf := by
  cases o with
  | none => exact h
  | some x => exact hf x

/-! ### Engines (04 R119 to R131, 08 R223, 14 R358 to R362) -/

theorem State.MemWf.engRead (h : s.MemWf) {cached core p n bs} (e : s.engRead cached core p n = some (bs, t)) : t.MemWf := by
  dsimp only [State.engRead] at e
  split at e
  · cases e; exact h.correctSlice
  · split at e
    · exact h.correctBulk.bulkRead e
    · obtain ⟨r, hr, hx⟩ := Option.map_eq_some_iff.1 e
      cases hx
      exact (h.keyRead hr).correctHome

theorem State.MemWf.takeHead (h : s.MemWf) {o} : (s.takeHead o).MemWf := h.sliceSet.update
theorem State.MemWf.failGroup (h : s.MemWf) {r} : (s.failGroup r).MemWf := by
  dsimp only [State.failGroup]
  split
  · exact h
  · exact h.ite (h.sliceSet.event.ite h.sliceSet)

theorem State.MemWf.stopEntry (h : s.MemWf) {r code} : (s.stopEntry r code).MemWf := h.stopChain.failGroup.sendAbort.ite h.stopChain

/-- A tile verified where the source is in slice space, else nothing done. -/
theorem State.MemWf.verifySource (h : s.MemWf) {p} [Decidable p] {core a n fixed}
    (e : (if p then s.verifyTiles core a n else some (false, s)) = some (fixed, t)) : t.MemWf := by
  split at e
  · exact h.verifyTiles e
  · cases e; exact h

theorem State.MemWf.readMine (h : s.MemWf) {r bs fixed} (e : s.readMine r = some (.ok (bs, fixed, t))) : t.MemWf := by
  dsimp only [State.readMine] at e
  split at e
  · cases e; exact h
  · split at e
    · cases e
    · split at e
      · cases e
      · obtain ⟨x, hx, hy⟩ := Option.map_eq_some_iff.1 e
        cases hy
        exact (h.verifySource ‹_›).engRead hx

theorem State.MemWf.passSubmission (h : s.MemWf) {r} : (s.passSubmission r).MemWf := by
  dsimp only [State.passSubmission]
  split
  · exact h
  · exact h.modPart

theorem State.MemWf.readLists (h : s.MemWf) {o op e} : (s.readLists o op e).MemWf := by
  dsimp only [State.readLists]
  split
  · exact h
  · refine h.foldl fun s x h => h.orElse fun t ht => ?_
    obtain ⟨y, hy, rfl⟩ := Option.map_eq_some_iff.1 ht
    exact h.engRead hy

theorem State.MemWf.startEntry (h : s.MemWf) {ch op e} : (s.startEntry ch op e).MemWf := by
  dsimp only [State.startEntry]
  split
  · exact h
  · refine h.ite ?_
    split
    · exact h.tock
    · exact h.takeHead.stopEntry.tock
    · split
      · exact h
      · exact h.takeHead.stopEntry.tock
      · refine .ite (State.MemWf.passSubmission (State.MemWf.update ?_)) (State.MemWf.update ?_)
        all_goals exact (h.readMine ‹_›).readLists.takeHead.tock.bump

theorem State.MemWf.resolve (h : s.MemWf) {r} : (s.resolve r).MemWf := h.update

theorem State.MemWf.pieceData (h : s.MemWf) {r row off n bs fixed} (e : s.pieceData r row off n = some (.ok (bs, fixed, t))) :
    t.MemWf := by
  dsimp only [State.pieceData] at e
  split at e
  · cases e; exact h
  · cases e; exact h
  · cases e; exact h
  · cases e; exact h
  · cases e; exact h
  · cases e; exact h
  · split at e
    · cases e
    · split at e
      · cases e
      · obtain ⟨x, hx, hy⟩ := Option.map_eq_some_iff.1 e
        cases hy
        exact (h.verifySource ‹_›).engRead hx

theorem State.MemWf.accept (h : s.MemWf) {r p bs f} (e : s.accept r p bs = some (.ok (f, t))) : t.MemWf := by
  dsimp only [State.accept] at e
  split at e
  · split at e
    · cases e; exact h.send
    · split at e
      · cases e
      · cases e; exact h.sliceWrite
  · split at e
    · cases e; exact h.send
    · split at e
      · cases e
      · obtain ⟨o, ho, hx⟩ := Option.bind_eq_some_iff.1 e
        obtain ⟨s1, hs1, hy⟩ := Option.map_eq_some_iff.1 hx
        cases hy
        refine State.MemWf.invalidate (State.MemWf.keyWrite ?_ hs1)
        split at ho
        · exact h.keyRead ho
        · cases ho; exact h

theorem State.MemWf.payGuard (h : s.MemWf) {id xs} : (s.payGuard id xs).MemWf := by
  dsimp only [State.payGuard]
  split
  · exact h
  · split
    · exact (State.MemWf.foldl h.update fun _ _ h => h.landAt).ite h.update
    · exact h.update

theorem State.MemWf.landed (h : s.MemWf) {id n fl} : (s.landed id n fl).MemWf := by
  dsimp only [State.landed]
  split
  · exact h
  · exact ((h.update.modCore.ite h.update).foldl fun _ _ h => h.regenTile).payGuard

theorem execEngineLanding_memWf (h : s.MemWf) {ch seq} : NextWf (execEngineLanding ch seq s) := by
  dsimp only [execEngineLanding]
  split
  · exact h
  · refine .ite h (.ite h.stopEntry.tock (.ite h.stopEntry.tock (.ite h ?_)))
    have h0 : ∀ r p [Decidable p], (if p then s.resolve r else s).MemWf := fun _ _ _ => h.resolve.ite h
    split
    · exact h
    · split
      · exact h.tock
      · exact (h0 ..).stopEntry.tock
      · next hp =>
        have h1 := (h0 ..).pieceData hp
        refine .ite h1.stopEntry.tock ?_
        split
        · exact (h0 ..).tock
        · exact h1.stopEntry.tock
        · next ha => exact .ite (h1.accept ha).landed.tock (h1.accept ha).update.tock

theorem State.MemWf.stopLanding (h : s.MemWf) {ch seq code} : (s.stopLanding ch seq code).MemWf := by
  dsimp only [State.stopLanding]
  split
  · exact h
  · exact h.stopEntry

theorem State.MemWf.landingBack (h : s.MemWf) {ch seq reply} : (s.landingBack ch seq reply).MemWf := by
  dsimp only [State.landingBack]
  split
  · exact h
  · exact h.stopEntry.ite (h.invalidate.ite h).landed

theorem execEntryCompletion_memWf (h : s.MemWf) {ch seq} : NextWf (execEntryCompletion ch seq s) := by
  dsimp only [execEntryCompletion]
  split
  · exact h
  · refine .ite h (.next (.completeEntry ?_))
    split
    · exact (h.landAt.ite h).arriveAt.ite (h.landAt.ite h)
    · exact h

theorem State.MemWf.abortHere (h : s.MemWf) {die g a} : (s.abortHere die g a).MemWf := by
  dsimp only [State.abortHere]
  split
  · exact h.stopChain.failGroup
  · exact h.elim fun _ => h.failGroup

theorem execEapp_memWf (h : s.MemWf) {f} : NextWf (execEapp f s) := h.issueWord fun _ _ h => by
  dsimp only
  split
  · trivial
  · refine .ite .trap (.ite .trap (.ite .trap (.ite (.park h.drainRange) (.ite ?_ ?_))))
    · split
      · trivial
      · exact .done (h.drainRange.readSlice ‹_›).append.setS
    · exact .done h.drainRange.modBlk.send.setS

theorem execEadv_memWf (h : s.MemWf) {f} : NextWf (execEadv f s) := h.issueWord fun _ _ h => by
  dsimp only
  split
  · trivial
  · split
    · trivial
    · next hr =>
      have h1 := h.readSlice hr
      exact .ite .trap (.ite (.done h1.send.expose) (.done (h1.sliceSet.ite h1).expose))

theorem execEseq_memWf (h : s.MemWf) {f} : NextWf (execEseq f s) := h.issueWord fun _ _ h => by
  dsimp only
  split
  · trivial
  · split
    · trivial
    · exact .done (h.readSlice ‹_›).setS

theorem execWprd_memWf (h : s.MemWf) {f} : NextWf (execWprd f s) := h.issueWord fun _ _ h => by
  dsimp only
  split
  · trivial
  · split
    · trivial
    · exact .ite .trap (.done (h.readSlice ‹_›).setS)

theorem State.MemWf.swapCopies (h : s.MemWf) {p} : (s.swapCopies p).MemWf := h.devRaw
theorem execPub_memWf (h : s.MemWf) {f} : NextWf (execPub f s) := h.issueWord fun _ _ h => by
  dsimp only
  split
  · trivial
  · exact .ite .trap (.went h.onSplit.expose)

theorem State.MemWf.tellSwap (h : s.MemWf) {b home part obj ps} : (s.tellSwap b home part obj ps).MemWf :=
  h.foldl fun _ _ h => h.send

theorem execPubSwap_memWf (h : s.MemWf) {b t e} : NextWf (execPubSwap b t e s) := by
  dsimp only [execPubSwap]
  split
  · refine .ite h ?_
    refine .ite (.next (State.MemWf.modSplit ?_)) (.next (State.MemWf.modSplit ?_))
    all_goals exact h.swapCopies.ite (h.swapCopies.send.ite h.swapCopies.tellSwap)
  · exact .ite h h.modSplit
  · exact h

end

section
variable {s t : State} {c : Ctx} {i : Instr}

/-! ### Submissions and nodes (06 R163 to R170, R178) -/

theorem State.MemWf.endSubmission (h : s.MemWf) {part src status} : (s.endSubmission part src status).MemWf := by
  dsimp only [State.endSubmission]
  split
  · exact h
  · split
    · exact h.waWrite
    · exact h.waWrite.update

theorem State.MemWf.popQueue (h : s.MemWf) {part x} : (s.popQueue part x).MemWf := h.modPart

theorem execGraphStart_memWf (h : s.MemWf) {part} : NextWf (execGraphStart part s) := by
  dsimp only [execGraphStart]
  split
  · exact h
  · split
    · exact h
    · split
      · exact h.popQueue
      · exact h
      · exact .ite h (.ite h.popQueue.endSubmission (.ite h (.next (State.MemWf.bump (State.MemWf.update h.popQueue)))))

theorem execGraphCompletion_memWf (h : s.MemWf) {g} : NextWf (execGraphCompletion g s) := by
  dsimp only [execGraphCompletion]
  split
  · exact h
  · refine .ite h (.next (.endSubmission (.updateMem ?_)))
    exact (h.foldl fun _ _ h => h.clearFar).foldl fun _ _ h => h.send

theorem State.MemWf.begin (h : s.MemWf) {g n} : (s.begin g n).MemWf := h.modGraph
theorem State.MemWf.failNode (h : s.MemWf) {g n code} : (s.failNode g n code).MemWf := h.endNode.tock
theorem State.MemWf.nodeFx (h : s.MemWf) {g n kind f} (hf : ∀ G s, s.MemWf → (f G s).MemWf) : NextWf (s.nodeFx g n kind f) := by
  dsimp only [State.nodeFx]
  split
  · exact h
  · exact .ite h (.ite h.begin.failNode (.next (hf _ _ h.begin)))

theorem State.MemWf.launchGuards (h : s.MemWf) {k K} : (s.launchGuards k K).MemWf :=
  h.foldl fun _ _ h => h.ite (h.send.farGuard.ite h.updateMem)

theorem State.MemWf.addTask (h : s.MemWf) {K} : (s.addTask K).2.MemWf := by
  dsimp only [State.addTask]
  exact State.MemWf.launchGuards (State.MemWf.bump h.update)

theorem State.MemWf.launchFx (h : s.MemWf) {g n kind f} (hf : ∀ G K s, s.MemWf → (f G K s).MemWf) :
    NextWf (s.launchFx g n kind f) := h.nodeFx fun _ _ k => by
  split
  · exact h
  · exact k.endNode.tock
  · exact hf _ _ _ k

theorem execKernelNode_memWf (h : s.MemWf) {g n} : NextWf (execKernelNode g n s) := by
  dsimp only [execKernelNode]
  split
  · exact h
  · exact .ite h.begin.failNode (h.launchFx fun _ _ _ h => h.addTask.placeAll)

theorem execBlockPlacement_memWf (h : s.MemWf) {task} : NextWf (execBlockPlacement task s) := by
  dsimp only [execBlockPlacement]
  split
  · exact h
  · exact .ite (.next (h.foldl fun _ _ h => h.binFill)) h.placeAll

theorem execCondNode_memWf (h : s.MemWf) {g n} : NextWf (execCondNode g n s) := h.nodeFx fun _ _ k => by
  split
  · exact h
  · exact k.failNode
  · exact k.endNode.tock

theorem State.MemWf.whileRead (h : s.MemWf) {g n G} (e : s.whileRead g n G = some t) : t.MemWf := by
  dsimp only [State.whileRead] at e
  obtain ⟨r, -, rfl⟩ := Option.map_eq_some_iff.1 e
  split
  · exact h.failNode
  · exact .ite h.modGraph.endNode.tock (.ite h.modGraph.endNode.tock h.modGraph.takeEdge.tock)

theorem execWhileNode_memWf (h : s.MemWf) {g n} : NextWf (execWhileNode g n s) :=
  h.nodeFx fun _ _ k => h.orElse fun _ e => k.whileRead e

theorem execWhileIteration_memWf (h : s.MemWf) {g n} : NextWf (execWhileIteration g n s) := by
  dsimp only [execWhileIteration]
  split
  · exact h
  · exact .ite h (.ite h.modGraph (.next (h.orElse fun _ e => h.whileRead e)))

theorem State.MemWf.copyEntry (h : s.MemWf) {ch part sup far task bs} : (s.copyEntry ch part sup far task bs).MemWf := by
  dsimp only [State.copyEntry]
  split
  · exact h.tock.sliceWrite.append.sliceSet
  · exact h.tock.sliceWrite.append.sliceSet.modPart

theorem execEngineNode_memWf (h : s.MemWf) {g n} : NextWf (execEngineNode g n s) := by
  dsimp only [execEngineNode]
  split
  · exact h
  · split
    · exact .ite h.tock (.ite h.endNode.tock h.failNode)
    · refine h.nodeFx fun _ _ k => k.endNode.ite (k.failNode.ite (h.ite ?_))
      split
      · exact k.failNode
      · refine .ite (k.failNode.ite (.modGraph ?_)) (.modGraph ?_)
        · exact k.foldl fun _ _ h => h.copyEntry
        · exact k.foldl fun _ _ h => h.send

theorem State.MemWf.tellGang (h : s.MemWf) {A m} : (s.tellGang A m).MemWf := h.foldl fun _ _ h => h.send
theorem State.MemWf.failGang (h : s.MemWf) {g n code detail A} : (s.failGang g n code detail A).MemWf :=
  State.MemWf.endNode (State.MemWf.tellGang (State.MemWf.updateMem (h.elim fun _ => h.clearFar)))

theorem execGangNode_memWf (h : s.MemWf) {g n} : NextWf (execGangNode g n s) := h.launchFx fun _ _ _ h => by
  dsimp only
  split
  · exact h.endNode.tock
  · exact h.failNode.ite (h.modGraph.tellGang.tock.ite h.modGraph.tellGang.tock.addTask.placeAll)

theorem State.MemWf.gangReply (h : s.MemWf) {g n pkg tick} : (s.gangReply g n pkg tick).MemWf := by
  dsimp only [State.gangReply]
  split
  · exact h
  · exact h.ite (h.modGraph.tellGang.ite h.modGraph)

theorem execGangReady_memWf (h : s.MemWf) {g n pkg tick} : NextWf (execGangReady g n pkg tick s) := by
  dsimp only [execGangReady]
  split
  · split
    · exact h
    · exact .ite h (.next (State.MemWf.send h.update))
  · exact .ite h.gangReply (.ite h h.gangReply)

theorem State.MemWf.freeGang (h : s.MemWf) {k} : (s.freeGang k).MemWf := h.update
theorem execGangStartTick_memWf (h : s.MemWf) {g n} : NextWf (execGangStartTick g n s) := by
  dsimp only [execGangStartTick]
  split
  · split
    · exact h
    · exact .ite h (.next (State.MemWf.freeGang h.update))
  · exact .ite h (.next (h.elim fun _ => h.freeGang).modGraph.gangEnd)

theorem execGangTimeout_memWf (h : s.MemWf) {g n pkg} : NextWf (execGangTimeout g n pkg s) := by
  dsimp only [execGangTimeout]
  split
  · exact h
  · exact .ite h h.failGang

theorem State.MemWf.gangMsg (h : s.MemWf) {src m} (e : s.gangMsg src m = some t) : t.MemWf := by
  dsimp only [State.gangMsg] at e
  split at e
  · obtain ⟨r, -, rfl⟩ := Option.map_eq_some_iff.1 e
    split
    · exact h.send
    · exact h.send.ite (.placeAll (State.MemWf.update h.addTask.bump))
  · cases e; exact h.gangReply
  · cases e; exact h.elim fun _ => h.failGang
  · cases e; exact h.elim fun _ => h.update
  · cases e; exact h.elim fun _ => h.dropGang
  · cases e; exact h.foldl fun _ _ h => h.dropGang
  · cases e; exact h.elim fun _ => h.modGraph.gangEnd

theorem execBinNode_memWf (h : s.MemWf) {g n} : NextWf (execBinNode g n s) := h.launchFx fun _ _ _ h => by
  dsimp only
  exact h.endNode.ite (h.endNode.ite (h.endNode.ite (h.addTask.foldl fun _ _ h => h.modCore)))

theorem execTroupePromotion_memWf (h : s.MemWf) {b t} : NextWf (execTroupePromotion b t s) := by
  dsimp only [execTroupePromotion]
  split
  · exact .ite h.modTrp h
  · exact h

theorem execPageReplay_memWf (h : s.MemWf) {b t e} : NextWf (execPageReplay b t e s) := by
  dsimp only [execPageReplay]
  refine .ite h.makeLate ?_
  split
  · exact .ite h.modSplit h
  · exact h

end

section
variable {s t : State} {c : Ctx} {i : Instr}

/-! ### Other packages, links and scrubbing (04 R115 to R117, 05 R158, 08 R214, R224) -/

/-- Bytes written to device memory, beside a change of anything but the bytes of the memories. -/
theorem State.MemWf.devWrite (h : s.MemWf) {cur tick fresh inputs blocks tasks cores graphs eng ctl codeLen guards tiles skew}
    {shadows slicePoison devPoison flips devFlips sidePoison sideFlips keys tlb a bs} :
    State.MemWf ⟨cur, tick, fresh, inputs, blocks, tasks, cores, graphs,
      ⟨s.mem.slice, Mem.write s.mem.dev a bs, s.mem.code, codeLen, guards, tiles, skew, shadows, slicePoison, devPoison, flips,
        devFlips, sidePoison, sideFlips, keys, tlb⟩, eng, ctl⟩ := by
  obtain ⟨hslice, hdev, hcode⟩ := h
  exact ⟨hslice, Memory.wf_write _ _ _ hdev, hcode⟩

theorem State.MemWf.publish (h : s.MemWf) : s.publish.MemWf := State.MemWf.foldl h fun _ _ h => h.ite h.devWrite

theorem State.MemWf.farApply (h : s.MemWf) {src p n f r} (e : s.farApply src p n f = some (r, t)) : t.MemWf := by
  dsimp only [State.farApply] at e
  split at e
  · split at e
    · cases e; exact h
    · split at e
      · cases e; exact h
      · cases e; exact h.sliceWrite
  · split at e
    · cases e; exact h
    · obtain ⟨x, hx, hy⟩ := Option.bind_eq_some_iff.1 e
      obtain ⟨u, hu, hz⟩ := Option.map_eq_some_iff.1 hy
      cases hz
      exact (h.homeRead hx).homeWrite hu

theorem State.MemWf.dropPeer (h : s.MemWf) {home obj} : (s.dropPeer home obj).MemWf := h.foldl fun _ _ h => h.invalidate
theorem State.MemWf.farBits (h : s.MemWf) {g k} : (s.farBits g k).MemWf := h.updateMem
theorem State.MemWf.unpoisoned (h : s.MemWf) {ps r x} (hr : r.2.MemWf) (e : s.unpoisoned ps r = some (x, t)) : t.MemWf := by
  dsimp only [State.unpoisoned] at e
  split at e
  · cases e; exact h
  · cases e; exact hr

theorem State.MemWf.farPub (h : s.MemWf) {src part obj r} (e : s.farPub src part obj = some (r, t)) : t.MemWf := by
  dsimp only [State.farPub] at e
  split at e
  · cases e
  · cases e; exact h.swapCopies

/-- A choice between an answer that leaves the state and one that an operation gives. -/
theorem State.MemWf.iteReply {p} [Decidable p] {a b : FabReply} (h : s.MemWf) (k : t.MemWf) :
    (if p then (a, s) else (b, t)).2.MemWf := by
  split
  · exact h
  · exact k

/-- A store that a guard bit may refuse. -/
theorem State.MemWf.farStore (h : s.MemWf) {p} [Decidable p] {a bs r} {d : FabReply}
    (e : (if p then some (d, s) else some ({}, s.sliceWrite a bs)) = some (r, t)) : t.MemWf := by
  split at e
  · cases e; exact h
  · cases e; exact h.sliceWrite

theorem State.MemWf.applyOp (h : s.MemWf) {src o r} (e : s.applyOp src o = some (r, t)) : t.MemWf := by
  cases o <;> dsimp only [State.applyOp] at e
  case store => exact h.farStore e
  case bulk =>
    obtain ⟨u, hu, hx⟩ := Option.map_eq_some_iff.1 e
    cases hx
    exact h.homeWrite hu
  case atomic => exact h.farApply e
  case reduce => exact h.farApply e
  case remade a red bs us =>
    obtain ⟨x, hx, hy⟩ := Option.map_eq_some_iff.1 e
    have hw : x.2.MemWf := by
      split at hx
      · exact h.farApply hx
      · exact h.farStore hx
    split at hy
    · cases hy; exact hw
    · cases hy; exact hw.foldl fun _ _ h => h.regenTile
  case arrive => exact h.unpoisoned h.arriveAt e
  case landed => cases e; exact h.landAt
  case expect => exact h.unpoisoned h.expectAt e
  case wait => cases e; exact h.waiters
  case attempt => cases e; exact h.attemptUp
  case swapped => cases e; exact h.dropPeer
  case pub => exact h.farPub e
  case ginit => exact h.unpoisoned (h.iteReply h.initGuard) e
  case guardBits => cases e; exact h.farBits
  case cleared => cases e; exact h.updateMem
  case gbind => exact h.unpoisoned (h.iteReply h.addBind) e
  case gunb => exact h.unpoisoned h.dropBind e
  case message => cases e; exact h.update
  case refusal => cases e; exact h.update
  case append => exact h.unpoisoned h.append e
  case advance => exact h.unpoisoned (h.iteReply (h.sliceSet.ite h)) e
  case stopped => cases e; exact h.reportStop
  case unlink => cases e; exact h.unlink
  case copied => cases e; exact h.copyEntry
  case abort => cases e; exact h.abortHere
  case gang =>
    obtain ⟨u, hu, hx⟩ := Option.map_eq_some_iff.1 e
    cases hx
    exact h.gangMsg hu

theorem State.MemWf.setSeq (h : s.MemWf) {src seq o} : (s.setSeq src seq o).MemWf := by
  dsimp only [State.setSeq]
  split
  · exact h.sliceSet
  · exact h.update

theorem State.MemWf.receive (h : s.MemWf) {src seq o} : (s.receive src seq o).MemWf := by
  dsimp only [State.receive]
  refine h.ite (.ite ?_ (State.MemWf.ite h (h.ite h.update)))
  split
  · exact (h.applyOp ‹_›).setSeq.update
  · exact h.ite h.update

theorem State.MemWf.replied (h : s.MemWf) {x reply} : (s.replied x reply).MemWf := by
  dsimp only [State.replied]
  split
  · exact h.stopLanding.ite h.landingBack
  · refine State.MemWf.ite (.contain (.ite (.blockErr ?_) (.ite (.blockErr ?_) ?_))) (.ite (.blockErr ?_) (.ite (.blockErr ?_) ?_))
    all_goals
      split
      · exact h.tellSwap
      · exact h

theorem execFabricAcknowledgement_memWf (h : s.MemWf) {dst seq} : NextWf (execFabricAcknowledgement dst seq s) := by
  dsimp only [execFabricAcknowledgement]
  split
  · exact h
  · exact .next (State.MemWf.tock (State.MemWf.wakeCommits (State.MemWf.replied h.update)))

theorem execLinkFailure_memWf (h : s.MemWf) {link} : NextWf (execLinkFailure link s) := by
  dsimp only [execLinkFailure]
  split
  · exact h
  · exact .ite h (.next (State.MemWf.tock (State.MemWf.publish (State.MemWf.event h.update))))

theorem execOperationAbandoned_memWf (h : s.MemWf) {dst seq} : NextWf (execOperationAbandoned dst seq s) := by
  dsimp only [execOperationAbandoned]
  split
  · exact h
  · refine .ite h (.next (State.MemWf.tock (State.MemWf.wakeCommits (State.MemWf.modBlk (State.MemWf.blockErr ?_)))))
    split
    · exact State.MemWf.stopLanding h.update
    · exact h.update

theorem execPatrolScrub_memWf (h : s.MemWf) {core} : NextWf (execPatrolScrub core s) := State.MemWf.corrected h.updateMem

end

/-- An execution leaves a state with its memories in canonical form: in what it answers (`P`), or where it stops. -/
def Exe.Ends {α : Type} (P : α → Prop) : Exe α → Prop
  | .ok x => P x
  | .wait s | .bad s _ _ => s.MemWf

/-- An execution that answers a state beside a value. -/
abbrev Exe.MemWf {α : Type} (x : Exe (α × State)) : Prop := x.Ends fun y => y.2.MemWf

section
variable {s t : State} {c : Ctx} {i : Instr} {α β : Type}

theorem Exe.Ends.bind {P : α → Prop} {Q : β → Prop} {x : Exe α} {f : α → Exe β} (hx : x.Ends P)
    (hf : ∀ y, P y → (f y).Ends Q) :
    (x.bind f).Ends Q := by
  cases x with
  | ok y => exact hf y hx
  | wait s => exact hx
  | bad s code d => exact hx

theorem Exe.Ends.ok {P : α → Prop} {x : α} (h : P x) : (Exe.ok x).Ends P := h
theorem Exe.Ends.wait {P : α → Prop} (h : s.MemWf) : (Exe.wait s : Exe α).Ends P := h
theorem Exe.Ends.bad {P : α → Prop} (h : s.MemWf) {code d} : (Exe.bad s code d : Exe α).Ends P := h
theorem Exe.Ends.ite {P : α → Prop} {p} [Decidable p] {x y : Exe α} (hx : x.Ends P) (hy : y.Ends P) :
    (if p then x else y).Ends P := by
  split
  · exact hx
  · exact hy

theorem Exe.Ends.each {f : State → α → Exe State} {xs : List α} (h : s.MemWf)
    (hf : ∀ s x, s.MemWf → (f s x).Ends State.MemWf) : (Exe.each f xs s).Ends State.MemWf := by
  induction xs generalizing s with
  | nil => exact h
  | cons x xs ih => exact (hf s x h).bind fun _ h => ih h

/-! ### Tiles and the spill region (03 R98 to R101) -/

theorem State.MemWf.modUnit (h : s.MemWf) {core f} : (s.modUnit core f).MemWf := h.modCore
theorem State.MemWf.modUnits (h : s.MemWf) {us : List α} {u : α → Nat} {f : α → MatUnit → MatUnit} :
    (us.foldl (fun s x => s.modUnit (u x) (f x)) s).MemWf := h.foldl fun _ _ h => h.modUnit

theorem State.MemWf.verifyUnit (h : s.MemWf) {core u slots fixed} (e : s.verifyUnit core u slots = some (fixed, t)) :
    t.MemWf := by
  dsimp only [State.verifyUnit] at e
  obtain ⟨r, -, hx⟩ := Option.map_eq_some_iff.1 e
  cases hx
  exact h.modUnit.corrected.ite h.modUnit

theorem State.MemWf.putHome (h : s.MemWf) {core b p bs} (e : s.putHome core b p bs = some t) : t.MemWf := by
  dsimp only [State.putHome] at e
  split at e
  · cases e; exact h.sliceStore
  · obtain ⟨u, hu, rfl⟩ := Option.map_eq_some_iff.1 e
    exact (h.keyWrite hu).invalidate

theorem State.MemWf.readSpill (h : s.MemWf) {core part ty t l} : (s.readSpill core part ty t l).MemWf := by
  dsimp only [State.readSpill]
  refine .ite (.bad h) ?_
  split
  · exact .wait h
  · exact .ok (h.engRead ‹_›)

theorem State.MemWf.writeSpill (h : s.MemWf) {core part b ty t' l xs} (e : s.writeSpill core part b ty t' l xs = some t) :
    t.MemWf := h.putHome e

theorem State.MemWf.loadLabel (h : s.MemWf) {core part b ty t l} :
    (s.loadLabel core part b ty t l).Ends fun x => x.2.2.MemWf := h.readSpill.bind fun ⟨_, s1⟩ h1 => by
  dsimp only
  split
  · exact .bad h1
  · exact .ok h1
  · split
    · exact .wait h
    · exact .ok (h1.writeSpill ‹_›).modUnit.corrected

theorem State.MemWf.slotAct (h : s.MemWf) {core part b a} : (State.slotAct core part b s a).Ends State.MemWf := by
  cases a with
  | clear t k => exact h.modUnit
  | spill t l k =>
    dsimp only [State.slotAct]
    split
    · exact .bad h
    · next hv =>
      split
      · exact .ok ((h.verifyUnit hv).writeSpill ‹_›).modUnit
      · exact .wait h
  | reload t l k => exact h.readSpill.bind fun ⟨_, _⟩ h1 => h1.modUnit

theorem State.MemWf.prepare (h : s.MemWf) {core part b ty plans acts} : (s.prepare core part b ty plans acts).Ends State.MemWf :=
  Exe.Ends.bind (.each h.modUnit fun _ _ h => h.slotAct) fun _ h => h.modUnit

/-! ### Operands (14 R367, R368) -/

theorem State.MemWf.matRead (h : s.MemWf) {core b p n bs} (e : s.matRead core b p n = some (bs, t)) : t.MemWf := by
  obtain ⟨y, hy, hx⟩ := Option.map_eq_some_iff.1 e
  cases hx
  exact h.engRead hy

theorem State.MemWf.readBlk (h : s.MemWf) {core part b r off f x} (e : s.readBlk core part b r off f = some (x, t)) : t.MemWf := by
  obtain ⟨y, hy, hx⟩ := Option.map_eq_some_iff.1 e
  cases hx
  exact h.matRead hy

theorem State.MemWf.readCb (h : s.MemWf) {core part b r tab off x} (e : s.readCb core part b r tab off = some (x, t)) :
    t.MemWf := by
  obtain ⟨y, hy, hx⟩ := Option.map_eq_some_iff.1 e
  cases hx
  exact h.matRead hy

theorem State.MemWf.source (h : s.MemWf) {core part b r off n} : (s.source core part b r off n).Ends State.MemWf := by
  dsimp only [State.source]
  refine .ite h (.ite h (.ite ?_ h))
  split
  · exact h
  · exact (h.verifyTiles ‹_›).correctSlice

theorem State.MemWf.loadBank (h : s.MemWf) {core blk M p q} : (s.loadBank core blk M p q).MemWf := by
  dsimp only [State.loadBank]
  refine (h.source.bind fun _ h => Exe.Ends.ite h.source (.ok h)).bind fun s1 h1 => ?_
  split
  · exact .wait h
  · next hf =>
    refine .ok (State.MemWf.foldlBind (x := ([], s1)) h1 (fun x a y hx e => ?_) hf)
    split at e
    · obtain ⟨z, hz, rfl⟩ := Option.map_eq_some_iff.1 e
      exact hx.readCb hz
    · obtain ⟨z, hz, rfl⟩ := Option.map_eq_some_iff.1 e
      exact hx.readBlk hz

/-! ### Issue (14 R350, R363 to R373) -/

theorem State.MemWf.matFx (h : s.MemWf) {joint g k} (hk : ∀ U s, s.MemWf → (k U c s).MemWf) : (matFx joint g k c s).MemWf := by
  dsimp only [Machine.matFx]
  exact .ite .trap (.ite .trap (.ite trivial (hk _ _ h)))

theorem State.MemWf.matNow (h : s.MemWf) {k} (hk : ∀ U s, s.MemWf → (k U c s).MemWf) : (matNow k c s).MemWf :=
  h.matFx fun _ _ h => .ite (hk _ _ h) trivial

theorem State.MemWf.planUnits (h : s.MemWf) {joint f} : (s.planUnits c joint f).MemWf := h.modUnits
theorem State.MemWf.enqueue (h : s.MemWf) {m f} : (s.enqueue c m f).MemWf := h.modUnit
theorem State.MemWf.issueProduct (h : s.MemWf) {f U joint rowBuf sparse} : (s.issueProduct c i f U joint rowBuf sparse).MemWf := by
  dsimp only [State.issueProduct]
  split
  · trivial
  · refine .ite h.enqueue ?_
    split
    · trivial
    · split
      · trivial
      · exact h.enqueue

theorem execMma_memWf (h : s.MemWf) {f} : NextWf (execMma f s) := h.issueWord fun _ _ h => h.matFx fun _ _ h => h.issueProduct
theorem execQmma_memWf (h : s.MemWf) {f} : NextWf (execQmma f s) := h.issueWord fun _ _ h => h.matFx fun _ _ h => h.issueProduct

/-- What the checks of a sparse row leave. -/
def SparseWf : Except Nat (Bool × State) → Prop
  | .ok x => x.2.MemWf
  | .error _ => True

theorem SparseWf.ofOk {x : Except Nat (Bool × State)} {fixed} (h : SparseWf x) (e : x = .ok (fixed, t)) : t.MemWf := by
  rwa [e] at h

/-- One range of a sparse region checked, after those before it. -/
theorem SparseWf.next {x : Except Nat (Bool × State)} (hx : SparseWf x) {f : Bool → State → Except Nat (Bool × State)}
    (hf : ∀ b s, s.MemWf → SparseWf (f b s)) :
    SparseWf (match x with
      | .error k => .error k
      | .ok (fixed, s) => f fixed s) := by
  cases x with
  | error k => trivial
  | ok y => exact hf y.1 y.2 hx

theorem State.MemWf.sparsePart (h : s.MemWf) {core b r off n fixed} :
    SparseWf (if off + n > r.size then .ok (fixed, s)
      else if s.placePoison (s.bufOf b) core .slice (s.capSlice r off) n then .error 0x16
      else match s.verifyTiles core (s.capSlice r off) n with
        | none => .error 0x0D
        | some y => .ok (fixed || y.1 || (y.2.correctSlice core (s.capSlice r off) n).1,
          (y.2.correctSlice core (s.capSlice r off) n).2)) := by
  split
  · exact h
  · split
    · trivial
    · split
      · trivial
      · exact (h.verifyTiles ‹_›).correctSlice

theorem State.MemWf.sparseSource (h : s.MemWf) {core b r f nb rows} : SparseWf (s.sparseSource core b r f nb rows) := by
  dsimp only [State.sparseSource]
  refine List.foldlRecOn rows _ (motive := SparseWf) h fun x hx i _ => ?_
  refine SparseWf.next (SparseWf.next (SparseWf.next hx fun _ _ h => ?_) fun _ _ h => ?_) fun _ _ h => ?_
  all_goals exact h.sparsePart

theorem State.MemWf.stopValid (h : s.MemWf) {nb lo rows m} (e : s.stopValid c nb lo rows m = some t) : t.MemWf := by
  dsimp only [State.stopValid] at e
  split at e
  · cases e
  · cases e; exact h.modUnit

theorem execMmas_memWf (h : s.MemWf) {f} : NextWf (execMmas f s) := h.issueWord fun _ _ h => h.matFx fun U s h => by
  dsimp only
  split
  · trivial
  · split
    · trivial
    · refine .ite trivial (.ite h.issueProduct ?_)
      split
      · trivial
      · next hs =>
        have h1 := h.sparseSource.ofOk hs
        split
        · trivial
        · split
          · exact .park ((h1.raise.ite h1).stopValid ‹_›)
          · exact (h1.raise.ite h1).modUnit.issueProduct

theorem execMldb_memWf (h : s.MemWf) {f} : NextWf (execMldb f s) := h.issueWord fun _ _ h => h.matFx fun _ _ h => by
  dsimp only
  refine .ite .trap ?_
  split
  · trivial
  · exact h.planUnits.enqueue

theorem execMbsw_memWf (h : s.MemWf) {f} : NextWf (execMbsw f s) :=
  h.issueWord fun _ _ h => h.matFx fun _ _ h => h.planUnits.enqueue

theorem execMlda_memWf (h : s.MemWf) {f} : NextWf (execMlda f s) := h.issueWord fun _ _ h => h.matFx fun _ _ h => by
  dsimp only
  refine .ite .trap ?_
  split
  · trivial
  · refine .ite .trap ?_
    split
    · trivial
    · split
      · trivial
      · exact h.planUnits.enqueue

theorem execScacc_memWf (h : s.MemWf) {f} : NextWf (execScacc f s) := h.issueWord fun _ _ h => h.matFx fun _ _ h => by
  dsimp only
  split
  · trivial
  · split
    · trivial
    · split
      · trivial
      · split
        · trivial
        · exact h.enqueue

theorem execMwr_memWf (h : s.MemWf) {f} : NextWf (execMwr f s) := h.issueWord fun _ _ h => h.matFx fun _ _ h => by
  dsimp only
  refine .ite .trap ?_
  split
  · trivial
  · split
    · trivial
    · exact h.enqueue

theorem execMclr_memWf (h : s.MemWf) {f} : NextWf (execMclr f s) := h.issueWord fun _ _ h => h.matFx fun _ _ h => h.enqueue

theorem State.MemWf.labelVals (h : s.MemWf) {core part b t l} : (s.labelVals core part b t l).Ends fun x => x.2.2.MemWf := by
  dsimp only [State.labelVals]
  split
  · exact h
  · exact h.loadLabel
  · exact h

theorem Exe.Ends.ofOk {P : α → Prop} {x : Exe α} {y : α} (h : x.Ends P) (e : x = .ok y) : P y := by rwa [e] at h
theorem Exe.Ends.ofWait {P : α → Prop} {x : Exe α} (h : x.Ends P) (e : x = .wait s) : s.MemWf := by rwa [e] at h
theorem Exe.Ends.ofBad {P : α → Prop} {x : Exe α} {code d} (h : x.Ends P) (e : x = .bad s code d) : s.MemWf := by rwa [e] at h

theorem execMrd_memWf (h : s.MemWf) {f} : NextWf (execMrd f s) := h.issueWord fun _ _ h => h.matNow fun _ _ h => by
  dsimp only
  refine .ite .trap ?_
  split
  · trivial
  · next hv =>
    split
    · trivial
    · split
      · trivial
      · trivial
      · next hl =>
        have h2 := ((h.verifyUnit hv).labelVals).ofOk hl
        exact .done (h2.raise.ite h2).onTrp

theorem execSlrd_memWf (h : s.MemWf) {f} : NextWf (execSlrd f s) := h.issueWord fun _ _ h => h.matNow fun _ _ h => by
  dsimp only
  split
  · trivial
  · next hv =>
    have h1 := h.verifyUnit hv
    exact .done (h1.raise.ite h1).setS

theorem execBind_memWf (h : s.MemWf) {f} : NextWf (execBind f s) := h.issueWord fun _ _ h => h.matFx fun _ _ h => by
  dsimp only
  split
  · trivial
  · exact .ite .trap h.expose.enqueue

theorem execSlfl_memWf (h : s.MemWf) {f} : NextWf (execSlfl f s) := h.issueWord fun _ _ h => h.matFx fun _ _ h => by
  dsimp only
  split
  · trivial
  · exact h.expose.enqueue

theorem execMacq_memWf (h : s.MemWf) {f} : NextWf (execMacq f s) := h.issueWord fun _ _ h => by
  dsimp only
  refine .ite .trap ?_
  split
  · trivial
  · exact .went h.modUnits.onSplit

theorem execMrel_memWf (h : s.MemWf) {f} : NextWf (execMrel f s) := h.issueWord fun _ _ h => h.matNow fun _ _ h => .done h.modUnits

theorem execMacqGrant_memWf (h : s.MemWf) {core} : NextWf (execMacqGrant core s) := by
  dsimp only [execMacqGrant]
  split
  · exact h
  · split
    · exact h.modUnit
    · exact .ite h h.modUnits.modSplit

end

section
variable {s t : State} {c : Ctx} {i : Instr} {α β : Type}

/-! ### Execution of the matrix unit (03 R78 to R102, 14 R350) -/

/-- An execution of the unit leaves a state in canonical form, beside its flags. -/
abbrev Exe.Runs (x : Exe (State × Flags)) : Prop := x.Ends fun y => y.1.MemWf

theorem State.MemWf.lateFlags (h : s.MemWf) {b t f} : (s.lateFlags b t f).MemWf := by
  dsimp only [State.lateFlags]
  split
  · exact h.modTrp
  · exact h.modBlk

theorem State.MemWf.settleBlks (h : s.MemWf) {us bs} : (s.settleBlks us bs).MemWf :=
  h.foldl fun _ _ h => h.modUnit.ite h.modUnit.corrected

theorem State.MemWf.runProduct (h : s.MemWf) {core part m f joint sparse on w} :
    (s.runProduct core part m f joint sparse on w).Runs := by
  dsimp only [State.runProduct]
  refine .ite h (Exe.Ends.bind (.ite (.ok h) h.prepare) fun s1 h1 => ?_)
  split
  · split
    · exact .bad h1.settleBlks.modUnit
    · exact .bad h1.settleBlks.modUnit
  · split
    · exact .ok h1.settleBlks.modUnit
    · exact .ok h1.settleBlks.modUnit

theorem State.MemWf.readScales (h : s.MemWf) {core part b r ks} : (s.readScales core part b r ks).MemWf := by
  induction ks generalizing s with
  | nil => exact h
  | cons k ks ih =>
    refine (ih h).bind fun ⟨_, _⟩ h1 => h1.source.bind fun _ h2 => ?_
    split
    · exact .wait h
    · next hr => exact .ok (h2.matRead hr)

theorem State.MemWf.runScacc (h : s.MemWf) {core part m f w} : (s.runScacc core part m f w).Runs := by
  dsimp only [State.runScacc]
  exact .ite h (h.readScales.bind fun ⟨_, _⟩ h => h.readScales.bind fun ⟨_, _⟩ h =>
    Exe.Ends.bind (.ite h.prepare (.ok h)) fun _ h => .ok h.modUnit)

theorem State.MemWf.putRow (h : s.MemWf) {b a bs} : (s.putRow b a bs).MemWf := h.sliceWrite.ite h.send
theorem State.MemWf.putMix (h : s.MemWf) {b ty d rows} : (s.putMix b ty d rows).MemWf := by
  dsimp only [State.putMix]
  refine .ite ?_ (.foldl ?_ fun _ _ h => h.regenTile)
  all_goals exact h.foldl fun _ _ h => h.foldl fun _ _ h => h.putRow

theorem State.MemWf.manyLabels (h : s.MemWf) {core part b t ls} :
    (s.manyLabels core part b t ls).Ends fun x => x.2.2.MemWf := by
  induction ls generalizing s with
  | nil => exact h
  | cons l ls ih => exact h.labelVals.bind fun ⟨_, _, _⟩ h => (ih h).bind fun ⟨_, _, _⟩ h => h

theorem State.MemWf.runBind (h : s.MemWf) {core part m f w} : (s.runBind core part m f w).Runs := by
  dsimp only [State.runBind]
  -- With its length a variable the unifier does not evaluate the reading of the coefficients.
  generalize 2048 = n
  refine .ite h (h.source.bind fun _ h => ?_)
  split
  · exact .bad h
  · next hv => exact (h.verifyUnit hv).manyLabels.bind fun ⟨_, _, _⟩ h => .ok h.putMix

theorem State.MemWf.runSlfl (h : s.MemWf) {core part m f} : (s.runSlfl core part m f).Runs :=
  h.labelVals.bind fun ⟨_, _, _⟩ h => .ok h.putMix.modUnit

theorem State.MemWf.runMlda (h : s.MemWf) {core part m f} : (s.runMlda core part m f).Runs := by
  dsimp only [State.runMlda]
  refine Exe.Ends.bind (.each h fun _ _ h => h.source) fun s1 h1 => ?_
  split
  · exact .wait h
  · next hf =>
    refine .ok (State.MemWf.modUnits (State.MemWf.foldlBind (x := ([], s1)) h1 (fun x a y hx e => ?_) hf))
    obtain ⟨z, hz, rfl⟩ := Option.map_eq_some_iff.1 e
    exact hx.readBlk hz

theorem State.MemWf.runMldb (h : s.MemWf) {core part m f} : (s.runMldb core part m f).Runs :=
  Exe.Ends.bind (.each h fun _ _ h => h.loadBank.bind fun _ h => .ok h.modUnit) fun _ h => .ok h

theorem State.MemWf.runMwr (h : s.MemWf) {core part m f} : (s.runMwr core part m f).Runs := h.prepare.bind fun _ h => .ok h.modUnit

theorem State.MemWf.runMat (h : s.MemWf) {core part m on w} : (s.runMat core part m on w).Runs := by
  dsimp only [State.runMat]
  split
  · exact h.runMldb
  · exact .ok h.modUnits
  · exact h.runMlda
  · exact h.runProduct
  · exact h.runProduct
  · exact h.runProduct
  · exact h.runScacc
  · exact h.runMwr
  · exact .ok h.modUnit
  · exact h.runBind
  · exact h.runSlfl
  · exact .ok h

theorem State.MemWf.counting (h : s.MemWf) {core f} (hf : ∀ s, s.MemWf → (f s).Runs) : (s.counting core f).Runs := by
  dsimp only [State.counting]
  have h1 := hf _ (h.modCore (c := core) (f := fun C => { C with cor := 0 }))
  split
  · next e => exact .ok (h1.ofOk e).modCore.corrected
  · next e => exact .wait (h1.ofWait e).modCore.corrected
  · next e => exact .bad (h1.ofBad e).modCore.corrected

theorem State.MemWf.haltUnit (h : s.MemWf) {core} : (s.haltUnit core).MemWf := by
  dsimp only [State.haltUnit]
  split
  · exact h
  · split
    · refine h.ite (h.modUnit.ite ?_)
      split
      · next e => exact ((h.counting fun _ h => h.runMat).ofOk e).modUnit
      · exact h
    · exact h

theorem State.MemWf.arriveG (h : s.MemWf) {b g f} : (s.arriveG b g f).MemWf := h.arriveAt.modBlk
theorem State.MemWf.matDone (h : s.MemWf) {core m} : (s.matDone core m).MemWf := by
  dsimp only [State.matDone]
  split
  · exact h.modUnit.lateFlags.arriveG.ite h.modUnit.lateFlags
  · exact h.modUnit.lateFlags

theorem execMatrixCompletion_memWf (h : s.MemWf) {core} : NextWf (execMatrixCompletion core s) := by
  dsimp only [execMatrixCompletion]
  split
  · exact h
  · split
    · exact h.modUnit
    · refine .ite h (.ite h.matDone.tock ?_)
      split
      · next e => exact ((h.counting fun _ h => h.runMat).ofWait e).tock
      · next e => exact ((h.counting fun _ h => h.runMat).ofBad e).contain.tock
      · next e =>
        have h1 := (h.counting fun _ h => h.runMat).ofOk e
        exact .ite h1.modUnit.tock h1.matDone.tock

theorem execMldbReplay_memWf (h : s.MemWf) {core} : NextWf (execMldbReplay core s) := by
  dsimp only [execMldbReplay]
  refine .ite h ?_
  have hr : ∀ f : State → Nat × MRec → Exe State, (∀ s x, s.MemWf → (f s x).Ends State.MemWf) → ∀ xs,
      (s.counting core fun s => (Exe.each f xs s).bind fun s1 => .ok (s1, 0)).Runs :=
    fun f hf xs => h.counting fun _ h => Exe.Ends.bind (.each h hf) fun _ h => .ok h
  split
  · next e => exact .next (((hr _ (fun _ _ h => h.loadBank.bind fun _ h => .ok h.modUnit) _).ofOk e).modBlk.modUnit)
  · exact h.tock
  · next e =>
    have h1 := (hr _ (fun _ _ h => h.loadBank.bind fun _ h => .ok h.modUnit) _).ofBad e
    refine .next (State.MemWf.modUnit ?_)
    split
    · exact h1.contain
    · exact h1

end

section
variable {s t : State} {c : Ctx} {i : Instr} {α β : Type}

/-! ### Host and Dycor (07 R212, R213; 08 R225 to R232; 09 R234 to R242) -/

theorem State.MemWf.modCtl (h : s.MemWf) {f} : (s.modCtl f).MemWf := h.update
theorem execEventRecord_memWf (h : s.MemWf) {src} : NextWf (execEventRecord src s) := by
  dsimp only [execEventRecord]
  split
  · exact h
  · refine .ite h ?_
    split
    · exact .next h.modCtl.waWrite.modPart
    · exact .next h.modCtl.modCtl

theorem execDoorbellWrite_memWf (h : s.MemWf) {part sup v} : NextWf (execDoorbellWrite part sup v s) := by
  dsimp only [execDoorbellWrite]
  split
  · exact h
  · exact .ite h (.ite h.modPart h.modPart)

theorem State.MemWf.alarmAt (h : s.MemWf) {level part} : (s.alarmAt level part).MemWf := h.modCtl.event.publish
theorem State.MemWf.haltUnits (h : s.MemWf) {part} : (s.haltUnits part).MemWf := h.foldl fun _ _ h => h.haltUnit
theorem State.MemWf.haltPart (h : s.MemWf) {part} : (s.haltPart part).MemWf := State.MemWf.modPart h.haltUnits.update
theorem State.MemWf.reply (h : s.MemWf) {status} : (s.reply status).MemWf := h.modCtl
theorem State.MemWf.answerHalts (h : s.MemWf) {hit} : (s.answerHalts hit).MemWf := State.MemWf.modCtl (h.reply.ite h)

/-- Slice space cleared, beside a change of anything but the bytes of the memories. -/
theorem State.MemWf.clear (h : s.MemWf) {cur tick fresh inputs blocks tasks cores graphs eng ctl codeLen guards tiles skew}
    {shadows slicePoison devPoison flips devFlips sidePoison sideFlips keys tlb} :
    State.MemWf ⟨cur, tick, fresh, inputs, blocks, tasks, cores, graphs,
      ⟨[], s.mem.dev, s.mem.code, codeLen, guards, tiles, skew, shadows, slicePoison, devPoison, flips, devFlips, sidePoison,
        sideFlips, keys, tlb⟩, eng, ctl⟩ := by
  obtain ⟨-, hdev, hcode⟩ := h
  exact ⟨rfl, hdev, hcode⟩

theorem State.MemWf.erase (h : s.MemWf) : s.erase.MemWf := h.clear
theorem State.MemWf.alarmFx (h : s.MemWf) {level part} : (s.alarmFx level part).MemWf := by
  dsimp only [State.alarmFx]
  refine h.alarmAt.ite (.ite ?_ (.publish (.erase ?_)))
  all_goals exact h.alarmAt.answerHalts.haltPart.modPart.modCtl

theorem State.MemWf.command (h : s.MemWf) {ses part f} (hf : ∀ s, s.MemWf → (f s).MemWf) : NextWf (s.command ses part f) := by
  dsimp only [State.command]
  exact .ite h (.ite (.next h.alarmAt.reply) (.ite h.reply (.next (hf s h))))

theorem State.MemWf.clearCores (h : s.MemWf) {cs} : (s.clearCores cs).MemWf := by
  obtain ⟨hslice, hdev, hcode⟩ := h
  exact ⟨Tab.wf_filter _ _ _ hslice, hdev, hcode⟩

theorem State.MemWf.form (h : s.MemWf) {p} : (s.form p).MemWf := by
  dsimp only [State.form]
  exact State.MemWf.updateMem (h.modCtl.ite h.modCtl.sliceWrite)

theorem execPartition_memWf (h : s.MemWf) {ses p} : NextWf (execPartition ses p s) := h.command fun _ h => by
  dsimp only
  exact h.reply.ite (h.reply.ite h.clearCores.modCtl.modCtl.form.modCtl.publish.reply)

theorem execKeyset_memWf (h : s.MemWf) {ses part slot key} : NextWf (execKeyset ses part slot key s) := h.command fun _ h => by
  dsimp only
  split
  · exact h.reply
  · refine h.reply.ite ?_
    split
    · exact h.modCtl.reply
    · exact h.modCtl.publish.reply

theorem execPreempt_memWf (h : s.MemWf) {ses part} : NextWf (execPreempt ses part s) := h.command fun _ h => by
  split
  · exact h.reply
  · exact h.reply.ite h.modPart

theorem execPreemptHaltComplete_memWf (h : s.MemWf) {part} : NextWf (execPreemptHaltComplete part s) := by
  dsimp only [execPreemptHaltComplete]
  split
  · exact h
  · exact .ite h.haltPart.reply h

theorem State.MemWf.saveTiles (h : s.MemWf) {core} : (s.saveTiles core).MemWf := h.foldl fun _ _ h => by
  split
  · next hv _ => exact (h.verifyUnit hv).modBlk
  · next hv _ => exact h.verifyUnit hv
  · exact h.contain
  · exact h

theorem State.MemWf.restored (h : s.MemWf) {b} : (s.restored b).MemWf := by
  dsimp only [State.restored]
  split
  · exact h
  · exact (h.ite h.modBlk.corrected).ite (h.ite h.modBlk.corrected).modBlk.contain

theorem State.MemWf.swapCore (h : s.MemWf) {core} : (s.swapCore core).MemWf := by
  dsimp only [State.swapCore]
  exact State.MemWf.foldl h.saveTiles.modCore.update fun _ _ h => h.restored

theorem execSwap_memWf (h : s.MemWf) {ses part} : NextWf (execSwap ses part s) := h.command fun _ h => by
  split
  · exact h.reply
  · exact h.reply.ite (h.foldl fun _ _ h => h.swapCore).reply

theorem execResume_memWf (h : s.MemWf) {ses part} : NextWf (execResume ses part s) := by
  dsimp only [execResume]
  refine .ite h (.ite h.alarmAt.reply ?_)
  split
  · exact h.reply
  · exact .ite h.reply h.modPart.reply

theorem execCapCmd_memWf (h : s.MemWf) {ses watts} : NextWf (execCapCmd ses watts s) :=
  h.command fun _ h => h.reply.ite h.modCtl.publish.reply

theorem execLinkCmd_memWf (h : s.MemWf) {ses link} : NextWf (execLinkCmd ses link s) := h.command fun _ h => by
  split
  · exact h.reply
  · exact h.modCtl.publish.reply.tock

theorem State.MemWf.goOn (h : s.MemWf) {b p} : (s.goOn b p).MemWf := State.MemWf.foldl h.modBlk fun _ _ h => h.settleTrp
theorem execDebugCmd_memWf (h : s.MemWf) {ses part o} : NextWf (execDebugCmd ses part o s) := h.command fun _ h => by
  split
  · exact h.reply
  · split
    · exact h.modPart.reply
    · exact (h.foldl fun _ _ h => h.goOn).modPart.reply
    · exact h.reply.ite h.modTrp.reply
    · exact h.reply.ite h.goOn.reply
    · exact h.reply.ite h.modBlk.reply

theorem execStepCommand_memWf (h : s.MemWf) {ses b t e} : NextWf (execStepCommand ses b t e s) := h.command fun _ h => by
  split
  · exact h.reply.ite h.modTrp.reply
  · exact h.reply

theorem State.MemWf.spdm (h : s.MemWf) {k ok} : NextWf (s.spdm k ok) := .ite h (.ite h.alarmAt h.modCtl)

theorem execClockSync_memWf (h : s.MemWf) {offset} : NextWf (execClockSync offset s) := .ite h h.modCtl.publish
theorem execTimeMasterTakeover_memWf (h : s.MemWf) {pkg} : NextWf (execTimeMasterTakeover pkg s) := .ite h.modCtl h
theorem execPowerStep_memWf (h : s.MemWf) {n watts} : NextWf (execPowerStep n watts s) := .ite h h.modCtl.publish
theorem execPowerGood_memWf (h : s.MemWf) : NextWf (execPowerGood s) := .ite h.modCtl h

theorem State.MemWf.endStage (h : s.MemWf) : s.endStage.MemWf := by
  dsimp only [State.endStage]
  split
  · exact h.modCtl
  · exact State.MemWf.modCtl h.clear
  · exact h.modCtl.tock
  · exact h.modCtl
  · exact h.modCtl.form.publish
  · exact h

theorem execBringupStageEnd_memWf (h : s.MemWf) {cause} : NextWf (execBringupStageEnd cause s) :=
  .ite h (.ite h.endStage h.alarmFx.modCtl)

/-! ### The solver (14 R375 to R381) -/

theorem execSqcfg_memWf (h : s.MemWf) {f} : NextWf (execSqcfg f s) := h.issueWord fun _ _ h => by
  dsimp only
  split
  · trivial
  · refine .ite .trap (.ite .trap ?_)
    split
    · trivial
    · exact .done h.meetFlips.modBlk

theorem State.MemWf.sqWrite (h : s.MemWf) {b r off xs} : (s.sqWrite b r off xs).MemWf := h.foldl fun _ _ h => h.bufStore
theorem State.MemWf.sqReady (h : s.MemWf) {v geom vecs C r} (e : s.sqReady c v geom vecs = .ok (C, r, t)) : t.MemWf := by
  dsimp only [State.sqReady] at e
  split at e
  · cases e
  · cases e
  · split at e
    · cases e
    · split at e
      · cases e
      · cases e
        exact h.foldl fun _ _ h => h.meetFlips

theorem State.MemWf.sqEach (h : s.MemWf) {v f k} (hf : ∀ s e x, s.MemWf → (f s e x).1.MemWf)
    (hk : ∀ s x, s.MemWf → (k s x).MemWf) : (s.sqEach c v f k).MemWf := by
  dsimp only [State.sqEach]
  have hall : ∀ es : List Nat, ∀ x : State × SqHold, x.1.MemWf → (es.foldl (fun (x : State × SqHold) e =>
      ((f x.1 e x.2).1, { (f x.1 e x.2).2 with next := (f x.1 e x.2).2.next + 1 })) x).1.MemWf := fun es x hx =>
    List.foldlRecOn es _ (motive := fun y : State × SqHold => y.1.MemWf) hx fun _ hy _ _ => hf _ _ _ hy
  exact .ite (.park (hall _ (s, _) h).onTrp) (.done (hk _ _ (hall _ (s, _) h).onTrp))

theorem State.MemWf.sqRunning (h : s.MemWf) {C r f e x} (hf : ∀ s q x, s.MemWf → (f s q x).1.MemWf) :
    (sqRunning c C r f s e x).1.MemWf := by
  dsimp only [Machine.sqRunning]
  split
  · exact h
  · exact hf _ _ _ h

theorem execSqload_memWf (h : s.MemWf) {f} : NextWf (execSqload f s) := h.issueWord fun _ _ h => by
  dsimp only
  split
  · trivial
  · refine .ite .trap ?_
    split
    · trivial
    · exact .ite .trap (State.MemWf.sqEach (h.foldl fun _ _ h => h.meetFlips).modBlk (fun _ _ _ h => h.sqWrite) fun _ _ h => h)

theorem State.MemWf.sqFlags {f : State → Sq → State × Flags} {q x} (h : (f s q).1.MemWf) : (sqFlags f s q x).1.MemWf := h
theorem State.MemWf.sqStage (h : s.MemWf) {j q} : (sqStage j s q).1.MemWf := by
  dsimp only [Machine.sqStage]
  exact h.sqWrite.sqWrite

theorem execSqstg_memWf (h : s.MemWf) {f} : NextWf (execSqstg f s) := h.issueWord fun _ _ h => by
  dsimp only
  split
  · trivial
  · refine (h.sqReady ‹_›).sqEach (fun _ _ _ h => h.sqRunning fun _ _ _ h => ?_) fun _ _ h => h.raise
    exact State.MemWf.sqFlags h.sqStage

theorem State.MemWf.sqDecide (h : s.MemWf) {q} : (sqDecide s q).1.MemWf := by
  dsimp only [Machine.sqDecide]
  exact (h.sqWrite.ite h).sqWrite

theorem State.MemWf.sqStep (h : s.MemWf) {q x} : (sqStep s q x).1.MemWf := by
  dsimp only [Machine.sqStep]
  exact h.sqDecide

theorem execSqdec_memWf (h : s.MemWf) {f} : NextWf (execSqdec f s) := h.issueWord fun _ _ h => by
  split
  · trivial
  · exact (h.sqReady ‹_›).sqEach (fun _ _ _ h => h.sqRunning fun _ _ _ h => h.sqStep) fun _ _ h => h.onTrp.setS.raise

theorem State.MemWf.sqPush (h : s.MemWf) {q} : (sqPush s q).1.MemWf := h.sqWrite.sqWrite
theorem State.MemWf.sqHistory (h : s.MemWf) {q} : (sqHistory s q).1.MemWf := by
  dsimp only [Machine.sqHistory]
  exact h.sqWrite.sqWrite

theorem execSqhis_memWf (h : s.MemWf) {f} : NextWf (execSqhis f s) := h.issueWord fun _ _ h => by
  split
  · trivial
  · refine (h.sqReady ‹_›).sqEach (fun _ _ _ h => h.sqRunning fun _ _ _ h => ?_) fun _ _ h => h.raise
    refine State.MemWf.sqFlags ?_
    split
    · exact h.sqHistory
    · exact h.sqPush

end

section
variable {s t : State} {c : Ctx} {i : Instr}

/-! ### Words of one form (11 R270 to R274, 12 R299 to R316) -/

theorem State.MemWf.fopFx (h : s.MemWf) {f g} : (fopFx i f g c s).MemWf := h.laneFx
theorem State.MemWf.f32Fx (h : s.MemWf) {f g} : (f32Fx i f g c s).MemWf := h.laneFx
theorem State.MemWf.fcmpFx (h : s.MemWf) {f} : (fcmpFx f c s).MemWf := h.laneFx
theorem State.MemWf.unaryFx (h : s.MemWf) {f g} : (unaryFx i f g c s).MemWf := h.laneFx
theorem State.MemWf.intFx (h : s.MemWf) {f g} : (intFx i f g c s).MemWf := h.laneFx
theorem State.MemWf.wordFx (h : s.MemWf) {f g} : (wordFx i f g c s).MemWf := h.laneFx
theorem State.MemWf.immFx (h : s.MemWf) {f t g} : (immFx i f t g c s).MemWf := h.laneFx
theorem State.MemWf.urFx (h : s.MemWf) {f g} : (urFx f g c s).MemWf := h.uniFx
theorem State.MemWf.uiFx (h : s.MemWf) {f g} : (uiFx f g c s).MemWf := h.uniFx
theorem State.MemWf.typedFx (h : s.MemWf) {f sat g} : (typedFx i f sat g c s).MemWf := by
  dsimp only [Machine.typedFx]
  exact h.laneFx

theorem State.MemWf.icmpFx (h : s.MemWf) {f} : (icmpFx f c s).MemWf := by
  dsimp only [Machine.icmpFx]
  exact h.laneFx

theorem State.MemWf.selFx (h : s.MemWf) {f} : (selFx f c s).MemWf := by
  dsimp only [Machine.selFx]
  exact h.laneFx

theorem State.MemWf.cvtFx (h : s.MemWf) {f} : (cvtFx f c s).MemWf := by
  dsimp only [Machine.cvtFx]
  exact h.laneFx

theorem State.MemWf.packFx (h : s.MemWf) {f} : (packFx f c s).MemWf := by
  dsimp only [Machine.packFx]
  exact h.laneFx

theorem State.MemWf.unpkFx (h : s.MemWf) {f} : (unpkFx f c s).MemWf := by
  dsimp only [Machine.unpkFx]
  exact h.laneFx

/-! ### Every instruction and event -/

/-- Every instruction and event keeps the memories in canonical form. -/
theorem exec_memWf (h : s.MemWf) : NextWf (exec i s) := by
  cases i with
  | iadd _ | isub _ | imul _ | imulh _ | imin _ | imax _ | and _ | or _ | xor _ | andn _ | shl _ | shr _ | sar _
  | popc _ | clz _ | brev _ | mov _ =>
    dsimp only [exec]
    exact h.issueWord fun _ _ h => h.intFx
  | faddF32 _ | fmulF32 _ | fminF32 _ | fmaxF32 _ =>
    dsimp only [exec]
    exact h.issueWord fun _ _ h => h.f32Fx
  | swizSel _ | swiz _ | shx _ | agree _ | ballot _ | elect _ | rank _ | peers _ | red _ | scan _ =>
    dsimp only [exec]
    exact h.issueWord fun _ _ h => h.xlaneFx
  | qpush _ => exact execQpush_memWf h
  | imulhTyped _ | iminTyped _ | imaxTyped _ | imad _ | iabs _ =>
    dsimp only [exec]
    exact h.issueWord fun _ _ h => h.typedFx
  | icmp _ =>
    dsimp only [exec]
    exact h.issueWord fun _ _ h => h.icmpFx
  | sel _ =>
    dsimp only [exec]
    exact h.issueWord fun _ _ h => h.selFx
  | lut3 _ | bfe _ | bfi _ | bsel _ =>
    dsimp only [exec]
    exact h.issueWord fun _ _ h => h.wordFx
  | movi _ | iaddi _ | andi _ | ori _ | xori _ | faddi _ | fmuli _ =>
    dsimp only [exec]
    exact h.issueWord fun _ _ h => h.immFx
  | fadd _ | fmul _ | ffma _ | fmin _ | fmax _ =>
    dsimp only [exec]
    exact h.issueWord fun _ _ h => h.fopFx
  | fcmp _ =>
    dsimp only [exec]
    exact h.issueWord fun _ _ h => h.fcmpFx
  | frnd _ | frcp _ | frsq _ | fsqrt _ | fexp2 _ | flog2 _ =>
    dsimp only [exec]
    exact h.issueWord fun _ _ h => h.unaryFx
  | fscl _ | fcls _ | qscl _ | qnt _ | salsel _ =>
    dsimp only [exec]
    exact h.issueWord fun _ _ h => h.laneFx
  | cvt _ =>
    dsimp only [exec]
    exact h.issueWord fun _ _ h => h.cvtFx
  | pack _ =>
    dsimp only [exec]
    exact h.issueWord fun _ _ h => h.packFx
  | unpk _ =>
    dsimp only [exec]
    exact h.issueWord fun _ _ h => h.unpkFx
  | cbdec _ => exact execCbdec_memWf h
  | ldl _ | ldk _ =>
    dsimp only [exec]
    exact h.issueWord fun _ _ h => h.plainLoad
  | stl _ => exact execStl_memWf h
  | lds _ | ldb _ | ldf _ =>
    dsimp only [exec]
    exact h.issueWord fun _ _ h => h.loadFx
  | sts _ | stb _ | stf _ =>
    dsimp only [exec]
    exact h.issueWord fun _ _ h => h.storeFx
  | pfb _ => exact execPfb_memWf h
  | ats _ | atb _ | cass _ | casb _ | reds _ | redb _ =>
    dsimp only [exec]
    exact h.issueWord fun _ _ h => h.atomFx
  | sadd _ | ssub _ | smul _ | smulh _ | sand _ | sor _ | sxor _ | sshl _ | sshr _ | ssar _ | smin _ | smax _ | smov _
  | spopc _ | sclz _ =>
    dsimp only [exec]
    exact h.issueWord fun _ _ h => h.urFx
  | scmp _ =>
    dsimp only [exec]
    exact h.issueWord fun _ _ h => .done h.setG
  | ssel _ | smovi _ | sbfe _ | vget _ =>
    dsimp only [exec]
    exact h.issueWord fun _ _ h => h.uniFx
  | saddI _ | sandI _ | sshlI _ | sshrI _ | smovI _ =>
    dsimp only [exec]
    exact h.issueWord fun _ _ h => h.uiFx
  | vput _ | yield _ =>
    dsimp only [exec]
    exact h.issueWord fun _ _ h => .done h.onTrp
  | bra _ =>
    dsimp only [exec]
    exact h.issueWord fun _ _ h => .went h.goto
  | brd _ =>
    dsimp only [exec]
    exact h.issueWord fun _ _ h => .went h.onTrp
  | tok _ => exact execTok_memWf h
  | meet _ => exact execMeet_memWf h
  | call _ | jmpx _ =>
    dsimp only [exec]
    exact h.issueWord fun _ _ h => .ite h.call (.went h.goto)
  | ret _ => exact execRet_memWf h
  | dbnz _ =>
    dsimp only [exec]
    exact h.issueWord fun _ _ h => .went h.onTrp.goto
  | exit _ =>
    dsimp only [exec]
    exact h.issueWord fun _ _ h => .went h.goto.onTrp
  | nop _ =>
    dsimp only [exec]
    exact h.issueWord fun _ _ h => .done h
  | trap _ =>
    dsimp only [exec]
    exact h.issueWord fun _ _ h => .trap
  | brk _ =>
    dsimp only [exec]
    exact h.issueWord fun _ _ h => .ite (.went h.goto.onTrp.modBlk) .trap
  | eret _ => exact execEret_memWf h
  | srd _ =>
    dsimp only [exec]
    exact h.issueWord fun _ _ h => .done h.setS
  | swr _ => exact execSwr_memWf h
  | post _ => exact execPost_memWf h
  | bintake _ => exact execBintake_memWf h
  | clkrd _ => exact execClkrd_memWf h
  | otinv _ => exact execOtinv_memWf h
  | ginit _ => exact execGinit_memWf h
  | arrive _ => exact execArrive_memWf h
  | wait _ => exact execWait_memWf h
  | tryw _ => exact execTryw_memWf h
  | expect _ => exact execExpect_memWf h
  | gbind _ => exact execGbind_memWf h
  | gunb _ => exact execGunb_memWf h
  | gflg _ => exact execGflg_memWf h
  | fence _ => exact execFence_memWf h
  | commit _ => exact execCommit_memWf h
  | group _ | build _ | rcount _ =>
    dsimp only [exec]
    exact h.issueWord fun _ _ h => h.relFx
  | join _ => exact execJoin_memWf h
  | expand _ | repack _ =>
    dsimp only [exec]
    exact h.issueWord fun _ _ h => h.dropCursor.relFx
  | cld _ => exact execCld_memWf h
  | cnar _ => exact execCnar_memWf h
  | cinf _ => exact execCinf_memWf h
  | cclr _ =>
    dsimp only [exec]
    exact h.issueWord fun _ _ h => .done h.setC
  | send _ => exact execSend_memWf h
  | recv _ => exact execRecv_memWf h
  | eapp _ => exact execEapp_memWf h
  | eadv _ => exact execEadv_memWf h
  | eseq _ => exact execEseq_memWf h
  | pub _ => exact execPub_memWf h
  | wprd _ => exact execWprd_memWf h
  | macq _ => exact execMacq_memWf h
  | mrel _ => exact execMrel_memWf h
  | mldb _ => exact execMldb_memWf h
  | mbsw _ => exact execMbsw_memWf h
  | mlda _ => exact execMlda_memWf h
  | mma _ => exact execMma_memWf h
  | qmma _ => exact execQmma_memWf h
  | mmas _ => exact execMmas_memWf h
  | scacc _ => exact execScacc_memWf h
  | mrd _ => exact execMrd_memWf h
  | mwr _ => exact execMwr_memWf h
  | mclr _ => exact execMclr_memWf h
  | bind _ => exact execBind_memWf h
  | slrd _ => exact execSlrd_memWf h
  | slfl _ => exact execSlfl_memWf h
  | ckgen _ => exact execCkgen_memWf h
  | ckver _ => exact execCkver_memWf h
  | ckrd _ => exact execCkrd_memWf h
  | sqcfg _ => exact execSqcfg_memWf h
  | sqload _ => exact execSqload_memWf h
  | sqstg _ => exact execSqstg_memWf h
  | sqdec _ => exact execSqdec_memWf h
  | sqhis _ => exact execSqhis_memWf h
  | entryNop _ _ | copy _ _ | copy2d _ _ | fill _ _ | gather _ _ | gatherm _ _ | scatadd _ _ | allred _ _ | rscat _ _
  | allgath _ _ | bcast _ _ | submit _ _ =>
    dsimp only [exec]
    exact h.startEntry
  | engineLanding _ _ => exact execEngineLanding_memWf h
  | entryCompletion _ _ => exact execEntryCompletion_memWf h
  | abortToken _ _ _ => exact h.abortHere
  | storeEntryDrain _ _ => exact execStoreEntryDrain_memWf h
  | releaseArrival _ _ => exact execReleaseArrival_memWf h
  | loadReturn _ _ _ => exact h.returnLoad
  | guardWake _ _ _ => exact execGuardWake_memWf h
  | trywTimeout _ _ _ => exact execTrywTimeout_memWf h
  | remoteArrival _ _ _ | fabricOperation _ _ _ => exact h.receive.tock
  | fabricAcknowledgement _ _ => exact execFabricAcknowledgement_memWf h
  | linkFailure _ => exact execLinkFailure_memWf h
  | operationAbandoned _ _ => exact execOperationAbandoned_memWf h
  | patrolScrub _ => exact execPatrolScrub_memWf h
  | pageReplay _ _ _ => exact execPageReplay_memWf h
  | shootdown _ _ => exact execShootdown_memWf h
  | otinvCompletion _ => exact execOtinvCompletion_memWf h
  | pubSwap _ _ _ => exact execPubSwap_memWf h
  | messageArrival _ => exact execMessageArrival_memWf h
  | messageRefusal _ => exact execMessageRefusal_memWf h
  | postCompletion _ _ _ => exact execPostCompletion_memWf h
  | binTimer _ _ => exact execBinTimer_memWf h
  | binDrain _ _ => exact execBinDrain_memWf h
  | blockPlacement _ => exact execBlockPlacement_memWf h
  | blockEnd _ => exact h.endBlock
  | troupePromotion _ _ => exact execTroupePromotion_memWf h
  | yieldEnd _ _ => exact h.modTrp
  | queueWake _ _ _ => exact execQueueWake_memWf h
  | qdryDeadlock _ _ => exact execQdryDeadlock_memWf h
  | populationExecute _ _ => exact execPopulationExecute_memWf h
  | populationComplete _ _ => exact execPopulationComplete_memWf h
  | collstallClose _ _ => exact execCollstallClose_memWf h
  | macqGrant _ => exact execMacqGrant_memWf h
  | matrixCompletion _ => exact execMatrixCompletion_memWf h
  | mldbReplay _ => exact execMldbReplay_memWf h
  | graphStart _ => exact execGraphStart_memWf h
  | graphCompletion _ => exact execGraphCompletion_memWf h
  | kernelNode _ _ => exact execKernelNode_memWf h
  | condNode _ _ => exact execCondNode_memWf h
  | whileNode _ _ => exact execWhileNode_memWf h
  | whileIteration _ _ => exact execWhileIteration_memWf h
  | engineNode _ _ => exact execEngineNode_memWf h
  | gangNode _ _ => exact execGangNode_memWf h
  | gangReady _ _ _ _ => exact execGangReady_memWf h
  | gangStartTick _ _ => exact execGangStartTick_memWf h
  | gangTimeout _ _ _ => exact execGangTimeout_memWf h
  | binNode _ _ => exact execBinNode_memWf h
  | eventRecord _ => exact execEventRecord_memWf h
  | preemptHaltComplete _ => exact execPreemptHaltComplete_memWf h
  | linkFlitError _ | meshBeatError _ _ => exact h.update
  | doorbellWrite _ _ _ => exact execDoorbellWrite_memWf h
  | partition _ _ => exact execPartition_memWf h
  | keyset _ _ _ _ => exact execKeyset_memWf h
  | preempt _ _ => exact execPreempt_memWf h
  | swap _ _ => exact execSwap_memWf h
  | resume _ _ => exact execResume_memWf h
  | capCmd _ _ => exact execCapCmd_memWf h
  | debugCmd _ _ _ => exact execDebugCmd_memWf h
  | stepCommand _ _ _ _ => exact execStepCommand_memWf h
  | linkCmd _ _ => exact execLinkCmd_memWf h
  | getVersion _ | getCapabilities _ | negotiateAlgorithms _ | getDigests _ | getCertificate _ | challenge _
  | getMeasurements _ | keyExchange _ | finish _ =>
    dsimp only [exec]
    exact h.spdm
  | securityAlarm _ _ => exact h.alarmFx
  | clockSync _ => exact execClockSync_memWf h
  | timeMasterTakeover _ => exact execTimeMasterTakeover_memWf h
  | powerStep _ _ => exact execPowerStep_memWf h
  | powerGood => exact execPowerGood_memWf h
  | bringupStageEnd _ => exact execBringupStageEnd_memWf h

/-! ### Moves and steps (06 R179 to R183) -/

theorem State.MemWf.pass (h : s.MemWf) : s.pass.MemWf := h.update
theorem State.MemWf.stir (h : s.MemWf) : s.stir.MemWf := h.update
theorem State.MemWf.endCycle (h : s.MemWf) {core} : (s.endCycle core).MemWf := h.update
theorem State.MemWf.takeSlot (h : s.MemWf) {core slot cycle p skipped} : (s.takeSlot core slot cycle p skipped).MemWf := by
  dsimp only [State.takeSlot]
  exact (h.endCycle.ite h).modCore

theorem State.MemWf.holdSlot (h : s.MemWf) {core slot r} : (s.holdSlot core slot r).MemWf := h.modCore.ite h

theorem State.MemWf.enter (h : s.MemWf) {m} : (s.enter m).MemWf := by
  cases m with
  | event i => exact h.pass.stir
  | input i => exact h.pass.stir.update
  | issue core slot cycle r skipped => exact h.pass.takeSlot.update
  | again core slot cycle p skipped => exact h.pass.takeSlot.stir

/-- What is owed is kept at the core: memory stays as the word left it. -/
theorem State.MemWf.oweAgain (h : t.MemWf) {core slot r} : (s.oweAgain core slot r t).MemWf := by
  dsimp only [State.oweAgain]
  split
  · exact h
  · split
    · exact h
    · split
      · exact h
      · exact h.modCore

theorem State.MemWf.leave (h : s.MemWf) (k : t.MemWf) {m} : (s.leave m t).MemWf := by
  cases m with
  | event i => exact k
  | input i => exact k
  | issue core slot cycle r skipped => exact h.pass.modCore.ite k.holdSlot.oweAgain.stir
  | again core slot cycle p skipped => exact k

theorem State.MemWf.issue (h : s.MemWf) : NextWf s.issue := by
  dsimp only [State.issue]
  split
  · exact h
  · split
    · exact h.raiseFault
    · exact exec_memWf h

theorem State.MemWf.act (h : s.MemWf) {m} : NextWf (s.act m) := by
  cases m with
  | event i => exact exec_memWf h
  | input i => exact exec_memWf h
  | issue core slot cycle r skipped => exact h.issue
  | again core slot cycle p skipped => exact h

/-- Every step keeps the memories in canonical form. -/
theorem step_memWf (h : s.MemWf) : NextWf (step s) := by
  dsimp only [step]
  split
  · exact h.pass
  · next m _ =>
    have hm := (h.enter (m := m)).act (m := m)
    split
    · next e => exact h.leave (by rwa [e] at hm)
    · exact hm

end

/-- Settles O5: every operation that writes a memory writes bytes, takes bytes out or clears it, and each of those keeps the
form; the operations keep it together, through every instruction and event up to `step`. -/
theorem stepKeepsMemoryCanonical : Obligations.StepKeepsMemoryCanonical := by
  unfold Obligations.StepKeepsMemoryCanonical
  intro s t h e
  have hs := step_memWf h
  rwa [e] at hs

end Sys2Proof.Machine

/-! PROOFS. The statement of 07 about translation by a page entry and the mark in its companion (O31). -/
namespace Sys2Proof.Machine

/-! ### Page entries (07 R202, R203) -/

/-- A page entry that breaks a rule of its fields reads as absent. -/
theorem pageAbsent_of_fields {pe sh : Nat} (h : bit pe 0 = false ∨ bits pe 11 2 ≠ 0 ∨ bits pe 63 48 ≠ 0 ∨ bits pe 47 46 = 3 ∨
    bits pe 47 12 * 4096 % 2 ^ sh ≠ 0) : pageAbsent pe sh = true := by
  rcases h with h | h | h | h | h
  all_goals simp [pageAbsent, h]

/-- The memory a frame lies in is named by its two highest bits. -/
theorem frame_eq (pe : Nat) : bits pe 47 12 * 4096 = 2 ^ 46 * bits pe 47 46 + bits pe 47 12 * 4096 % 2 ^ 46 := by
  simp only [bits]
  omega

/-- A page entry whose fields keep their rules, with a frame within its memory, does not read as absent. -/
theorem pageAbsent_eq_false {pe sh : Nat} (hp : bit pe 0 = true) (hlow : bits pe 11 2 = 0) (hhigh : bits pe 63 48 = 0)
    (halign : bits pe 47 12 * 4096 % 2 ^ sh = 0)
    (hmem : bits pe 47 46 = 2 ∨ bits pe 47 46 = 0 ∧ bits pe 47 12 * 4096 + 2 ^ sh ≤ 192 * 2 ^ 30 ∨
      bits pe 47 46 = 1 ∧ bits pe 47 12 * 4096 - 2 ^ 46 + 2 ^ sh ≤ 2 ^ 40) : pageAbsent pe sh = false := by
  have hframe := frame_eq pe
  rcases hmem with hk | ⟨hk, hend⟩ | ⟨hk, hend⟩
  · simp [pageAbsent, hp, hlow, hhigh, halign, hk]
  · have hfits : bits pe 47 12 * 4096 % 2 ^ 46 + 2 ^ sh ≤ 192 * 2 ^ 30 := by omega
    simpa [pageAbsent, hp, hlow, hhigh, halign, hk] using hfits
  · have hfits : bits pe 47 12 * 4096 % 2 ^ 46 + 2 ^ sh ≤ 2 ^ 40 := by omega
    simpa [pageAbsent, hp, hlow, hhigh, halign, hk] using hfits

/-! ### The companion (07 R204) -/

/-- A byte of a system structure takes a mark and every other byte of device memory stays. -/
theorem State.get_devRaw_mark (s : State) (ca x : Nat) (m : Byte) :
    Tab.get 0#8 (s.devRaw ca 1 ((BitVec.ofNat 8 (s.devNat ca 1) ||| m).toNat)).mem.dev x =
      if x = ca then Tab.get 0#8 s.mem.dev ca ||| m else Tab.get 0#8 s.mem.dev x := by
  have hold : BitVec.ofNat 8 (s.devNat ca 1) = Tab.get 0#8 s.mem.dev ca := by simp [State.devNat, Mem.read, leNat]
  simp only [State.devRaw_mem, Mem.get_write, hold, leBytes, List.length_cons, List.length_nil, BitVec.ofNat_toNat, BitVec.setWidth_eq]
  by_cases hx : x = ca
  · subst hx; simp
  · rw [if_neg (by omega), if_neg hx]

/-! ### Translation (07 R204) -/

section
variable {s : State} {who part obj copy off : Nat} {write : Bool}

theorem State.translate_bounds (h : (s.obj part obj).size * 4096 ≤ off) : s.translate who part obj copy off write = (.bounds, s) :=
  if_pos h

theorem State.translate_noKey (h : off < (s.obj part obj).size * 4096) (hkey : s.keyServes part (s.obj part obj) = false) :
    s.translate who part obj copy off write = (.noKey, s) := by
  rw [State.translate, if_neg (by omega), if_pos (by simp [hkey])]

theorem State.translate_far (h : off < (s.obj part obj).size * 4096) (hkey : s.keyServes part (s.obj part obj) = true)
    (ht : (s.obj part obj).tier = 3) : s.translate who part obj copy off write =
      (.far (bits (s.obj part obj).root 5 0) (bits (s.obj part obj).root 29 6), s) := by
  rw [State.translate, if_neg (by omega), if_neg (by simp [hkey]), if_pos ht]

/-- The page entry of an offset of a copy of an object. -/
def State.pageEntry (s : State) (part obj copy off : Nat) : Nat :=
  s.devNat ((s.obj part obj).array copy + 8 * (off / 2 ^ pageBits (s.obj part obj).psz)) 8

/-- The device address at which a page entry places an offset. -/
def pagePlace (o : Obj) (pe off : Nat) : Nat := bits pe 47 12 * 4096 + off % 2 ^ pageBits o.psz

/-- The state after a walk by requester `who`: the companion byte at `ca` is marked and the translation is cached. -/
def State.walked (s : State) (who ca key : Nat) (e : Tlb) : State :=
  let s1 := s.devRaw ca 1 ((BitVec.ofNat 8 (s.devNat ca 1) ||| (1#8 <<< (who % 8))).toNat)
  { s1 with mem := { s1.mem with tlb := s1.mem.tlb.put key e } }

/-- What a translation that is not cached does. -/
theorem State.translate_walk (h : off < (s.obj part obj).size * 4096) (hkey : s.keyServes part (s.obj part obj) = true)
    (ht : (s.obj part obj).tier ≠ 3)
    (hc : s.mem.tlb.find (tlbKey who part obj copy (off / 2 ^ pageBits (s.obj part obj).psz)) = none) :
    s.translate who part obj copy off write =
      if pageAbsent (s.pageEntry part obj copy off) (pageBits (s.obj part obj).psz) then (.absent, s)
      else if write && (!bit (s.pageEntry part obj copy off) 1 ||
        s.statusAt (pagePlace (s.obj part obj) (s.pageEntry part obj copy off) off)) then (.notWritable, s)
      else if who = ioAsks then (.dev (pagePlace (s.obj part obj) (s.pageEntry part obj copy off) off), s)
      else (.dev (pagePlace (s.obj part obj) (s.pageEntry part obj copy off) off),
        s.walked who ((s.obj part obj).companion copy (off / 2 ^ pageBits (s.obj part obj).psz) + who / 8)
          (tlbKey who part obj copy (off / 2 ^ pageBits (s.obj part obj).psz))
          ⟨bits (s.pageEntry part obj copy off) 47 12 * 4096, bit (s.pageEntry part obj copy off) 1⟩) := by
  rw [State.translate, if_neg (by omega), if_neg (by simp [hkey]), if_neg ht]
  dsimp only
  rw [hc]
  rfl

/-- A walk sets the requester's bit in the companion and changes no other byte of device memory. -/
theorem State.get_walked (s : State) (who ca key : Nat) (e : Tlb) (x : Nat) :
    Tab.get 0#8 (s.walked who ca key e).mem.dev x =
      if x = ca then Tab.get 0#8 s.mem.dev ca ||| (1#8 <<< (who % 8)) else Tab.get 0#8 s.mem.dev x :=
  s.get_devRaw_mark ca x _

end

/-- Settles O31, by the answer of a translation in each case (`translate_bounds`, `_noKey`, `_far`, `_walk`) and, of a walk,
by what marking the companion's byte changes (`get_walked`). -/
theorem translationMarksTheCompanion : Obligations.TranslationMarksTheCompanion := by
  unfold Obligations.TranslationMarksTheCompanion
  intro s who part obj copy off write o page pe frame size place r
  refine ⟨State.translate_bounds, State.translate_noKey, State.translate_far, fun hoff hkey ht hc => ?_⟩
  have hr : r = _ := State.translate_walk (write := write) hoff hkey ht hc
  refine ⟨fun hbad => hr.trans (if_pos (pageAbsent_of_fields hbad)), fun hp hlow hhigh halign hmem => ?_⟩
  have hpresent : ¬ pageAbsent pe (pageBits o.psz) = true := by
    rw [pageAbsent_eq_false hp hlow hhigh halign hmem]
    decide
  replace hr := hr.trans (if_neg hpresent)
  refine ⟨fun hw hno => ?_, fun hok => ?_⟩
  · have hdenied : (write && (!bit pe 1 || s.statusAt place)) = true := by
      rcases hno with hno | hno
      · rw [hw, hno]; rfl
      · rw [hw, hno, Bool.or_true]; rfl
    exact hr.trans (if_pos hdenied)
  · have hallowed : ¬ (write && (!bit pe 1 || s.statusAt place)) = true := by
      rcases hok with hw | ⟨hbit, hst⟩
      · simp only [hw, Bool.false_and, Bool.false_eq_true, not_false_eq_true]
      · simp only [hbit, hst, Bool.not_true, Bool.or_false, Bool.and_false, Bool.false_eq_true, not_false_eq_true]
    replace hr := hr.trans (if_neg hallowed)
    by_cases hio : who = ioAsks
    · rw [if_pos hio] at hr
      exact ⟨by rw [hr]; rfl, by rw [hr], by rw [hr], fun _ => by rw [hr], fun hne => absurd hio hne⟩
    · rw [if_neg hio] at hr
      refine ⟨by rw [hr]; rfl, by rw [hr]; rfl, by rw [hr]; rfl, fun h => absurd h hio, fun _ => ⟨fun a ha => ?_, ?_⟩⟩
      · rw [hr, State.get_walked, if_neg ha]
      · rw [hr, State.get_walked, if_pos rfl]

end Sys2Proof.Machine

/-! PROOFS. The statement of 07 and 09 about event records, doorbells and alarms (O59) fails: a record goes to the port as any
write of the hardware does, and there it waits behind an earlier write of the same bytes that waits for its page (07 R205). The
write that waits posts an event, so that the arbiter's list is not the old one without the record's. -/
namespace Sys2Proof.Machine

/-- An event of partition 0. -/
def ringEvent : Event := ⟨9, 5, 1, 0, 0, 0⟩

/-- Partition 0 with its object 1, one present and writable page, as its event ring of 4 records; an event to record; and an
earlier write of the hardware to the first byte of the ring, which still waits. -/
def ringWaits : State where
  mem := { dev := Mem.write (Mem.write [] 32 (leBytes 32 (1 + 2 * 1 + 512 * 1 + 2 ^ 64 * 0x1000 + 2 ^ 192))) 0x1000 (leBytes 8 0x4003) }
  eng := { late := [⟨0, 2 ^ 40, [], [0]⟩] }
  ctl := { parts := [(0, { cfg := { loadPart with events := 2 ^ 40, eventCap := 4 } })], events := [ringEvent] }

/-- The ring has a free slot, in memory that can be written. -/
theorem ringWaits_room : ringWaits.eventRoom ringEvent = true := by decide +kernel

/-- The record is taken and its write waits: the event of that is posted. -/
theorem ringWaits_posts : ∃ u, exec (.eventRecord 9) ringWaits = .next u ∧ u.ctl.events.length = 1 :=
  ⟨_, rfl, by decide +kernel⟩

/-- Refutes O59: in `ringWaits` the event posted by the record's waiting write stands in the arbiter's list, which the statement
says is empty. -/
theorem not_eventsDoorbellsAndAlarms : ¬ Obligations.EventsDoorbellsAndAlarms := by
  unfold Obligations.EventsDoorbellsAndAlarms
  rintro ⟨hrecord, -, -⟩
  obtain ⟨-, hroom⟩ := hrecord ringWaits 9 ringEvent rfl
  obtain ⟨u, hu, -, hevents, -⟩ := hroom ringWaits_room
  obtain ⟨v, hv, hposted⟩ := ringWaits_posts
  rw [hu] at hv
  cases hv
  rw [hevents] at hposted
  exact absurd hposted (by decide)

end Sys2Proof.Machine

/-! PROOFS. The statement of 08 about faults (O8): what the end of a block and its drained stores leave as they were, what a
killed and a relaunched block are, and what a fault makes of the split that raises it. -/

namespace Sys2Proof.Machine

/-! ## What the hardware records -/

/-- `t` is `s` but for memory, operations more on their way, writes that wait, and events more. -/
structure Recorded (s t : State) : Prop extends Written s t where
  events : s.ctl.events ⊆ t.ctl.events

theorem Recorded.rfl {s : State} : Recorded s s := ⟨.rfl, fun _ h => h⟩

theorem Recorded.trans {s t u : State} (h : Recorded s t) (k : Recorded t u) : Recorded s u :=
  ⟨h.toWritten.trans k.toWritten, fun _ hx => k.events (h.events hx)⟩

theorem Recorded.of_ctl {s t : State} (h : Written s t) (hctl : t.ctl = s.ctl) : Recorded s t :=
  ⟨h, hctl ▸ fun _ hx => hx⟩

theorem Recorded.send (s : State) (dst b : Nat) (op : FabOp) : Recorded s (s.send dst b op) :=
  .of_ctl (.sendAs ..) (Eq.refl _)

theorem Recorded.sliceWrite (s : State) (a : Nat) (bs : List Byte) : Recorded s (s.sliceWrite a bs) :=
  .of_ctl (.ofMem _) (Eq.refl _)

theorem Recorded.sliceSet (s : State) (a n x : Nat) : Recorded s (s.sliceSet a n x) := .sliceWrite ..

theorem Recorded.foldl {α : Type} {f : State → α → State} (xs : List α) (h : ∀ s x, Recorded s (f s x)) (s : State) :
    Recorded s (xs.foldl f s) :=
  List.foldlRecOn xs f (motive := Recorded s) .rfl fun _ ht x _ => ht.trans (h _ x)

theorem State.devWrite_ctl (s : State) (key a : Nat) (bs : List Byte) : (s.devWrite key a bs).ctl = s.ctl := by
  refine foldl_reading_stays (obs := State.ctl) (xs := unitsOf 128 a bs.length) (fun t u _ => ?_) s
  unfold State.rekey
  split <;> rfl

theorem State.setD_ctl (s : State) (part obj copy off : Nat) : (s.setD part obj copy off).ctl = s.ctl := by
  unfold State.setD
  dsimp only
  split <;> rfl

theorem State.homeWrite_ctl {s t : State} {who part obj copy off b : Nat} {bs : List Byte}
    (h : s.homeWrite who part obj copy off b bs = some t) : t.ctl = s.ctl := by
  unfold State.homeWrite at h
  rw [Option.map_eq_some_iff] at h
  obtain ⟨⟨k, t'⟩, h, rfl⟩ := h
  refine foldl_option_rel (R := fun s t => t.ctl = s.ctl) (fun h k => k.trans h) (fun _ => rfl) (fun {k s x k' t} h => ?_)
    rfl h
  have hctl := (s.translate_fetched who part obj copy x.1 true).only.ctl
  dsimp only at h
  split at h
  case h_1 a s1 ht =>
    cases h
    rw [ht] at hctl
    exact ((State.setD_ctl ..).trans (s1.devWrite_ctl ..)).trans hctl
  case h_2 ht =>
    cases h
    rw [ht] at hctl
    exact hctl
  case h_3 => cases h

theorem State.homeWrite_recorded {s t : State} {who part obj copy off b : Nat} {bs : List Byte}
    (h : s.homeWrite who part obj copy off b bs = some t) : Recorded s t :=
  .of_ctl (State.homeWrite_written h) (State.homeWrite_ctl h)

theorem State.writeLate_recorded (s : State) (x : Late) : Recorded s (s.writeLate x) :=
  ⟨s.writeLate_written x, List.subset_append_left _ _⟩

theorem State.waWrite_recorded (s : State) (part wa : Nat) (bs : List Byte) : Recorded s (s.waWrite part wa bs) := by
  simp only [State.waWrite]
  split
  · exact .rfl
  split
  · unfold State.sliceStore
    split
    · exact .sliceWrite ..
    · exact .send ..
  split
  · exact .rfl
  split
  · exact s.writeLate_recorded _
  · cases h : s.homeWrite ioAsks part (bits wa 63 40) ((s.obj part (bits wa 63 40)).copy false) (bits wa 39 0) 0 bs with
    | none => exact s.writeLate_recorded _
    | some t => exact State.homeWrite_recorded h

theorem State.waiters_recorded (s : State) (b g : Nat) (up : Bool) : Recorded s (s.waiters b g up) := by
  unfold State.waiters
  split
  · exact .send ..
  · exact .sliceSet ..

theorem State.leaveGuards_recorded (s : State) (b : Nat) : Recorded s (s.leaveGuards b) := by
  unfold State.leaveGuards
  split
  · exact .rfl
  · refine .foldl _ (fun s T => .foldl _ (fun s p => ?_) s) s
    split
    · exact s.waiters_recorded ..
    · exact s.waiters_recorded ..
    · exact .rfl

theorem State.arriveAt_ctl (s : State) (b g n : Nat) (f : BitVec 16) : (s.arriveAt b g n f).ctl = s.ctl := by
  have hset (t : State) (G : GState) : (t.setGuard g G).ctl = t.ctl := (congrArg State.ctl (OnlySliceData.setGuard t g G) :)
  have hflags : (if f &&& 0x03FF#16 = 0 then s else s.guardFlags g f).ctl = s.ctl := by
    split
    · rfl
    · exact (congrArg State.ctl (OnlySliceData.sliceSet s (g + 16) 2 _) :)
  unfold State.arriveAt
  split
  · dsimp only
    split
    · exact hflags
    · exact (hset _ _).trans hflags
  · rfl

theorem State.completion_recorded (s : State) (b : Nat) (B : Block) (K : Task) : Recorded s (s.completion b B K) := by
  refine .of_ctl (s.completion_leaves b B K).1 ?_
  unfold State.completion
  split
  · rfl
  · exact s.arriveAt_ctl ..

/-! ## Error words (08 R220) -/

/-- The error word of a block once a code with its detail, or none, and flags are set in it. -/
def Block.marked (B : Block) (code : Option (Nat × Nat)) (flags : Word) : Word :=
  (code.elim B.err fun x => B.coded x.1 x.2) ||| flags

/-- Setting a block's error word changes the block by it; the word is written in the task error array too. -/
theorem State.blockErr_recorded {s : State} {b : Nat} {B : Block} (hB : s.blocks.find b = some B)
    (code : Option (Nat × Nat)) (flags : Word) :
    Recorded (s.modBlk b fun B' => { B' with err := B.marked code flags }) (s.blockErr b code flags) := by
  cases hK : s.tasks.find B.task with
  | none =>
    have heq : s.blockErr b code flags = s.modBlk b fun B' => { B' with err := B.marked code flags } := by
      simp only [State.blockErr, hB, hK]
      cases code <;> rfl
    exact heq ▸ .rfl
  | some K =>
    have heq : s.blockErr b code flags = if K.launch.errors = 0 then s.modBlk b fun B' => { B' with err := B.marked code flags }
        else (s.modBlk b fun B' => { B' with err := B.marked code flags }).waWrite K.part
          (K.launch.errors + 4 * (B.id + 1)) (leBytes 4 (B.marked code flags).toNat) := by
      simp only [State.blockErr, hB, hK]
      cases code <;> rfl
    rw [heq]
    split
    · exact .rfl
    · exact State.waWrite_recorded ..

theorem State.blockErr_of_none {s : State} {b : Nat} (hB : s.blocks.find b = none) (code : Option (Nat × Nat))
    (flags : Word) : s.blockErr b code flags = s := by
  simp only [State.blockErr, hB]

/-! ## What getting home leaves of a block and of all else -/

/-- A block as it stands but for its error word. -/
def State.plain (s : State) (b : Nat) : Option Block := (s.blocks.find b).map fun B => { B with err := 0 }

theorem State.plain_congr {s t : State} {b : Nat} (h : t.blocks.find b = s.blocks.find b) : t.plain b = s.plain b := by
  rw [State.plain, State.plain, h]

/-- What becomes of a block of which no troupe is left as its stores get home: it loses stores and separators, and may take
another error word. -/
structure Block.Ebbs (B B' : Block) : Prop where
  rest : { B' with err := B.err, buf := B.buf, fences := B.fences, troupes := B.troupes } = B
  buf : B'.buf ⊆ B.buf
  troupes : B.troupes = [] → B'.troupes = []

theorem Block.Ebbs.rfl {B : Block} : B.Ebbs B := ⟨Eq.refl _, fun _ h => h, fun h => h⟩

theorem Block.Ebbs.trans {B C D : Block} (h : B.Ebbs C) (k : C.Ebbs D) : B.Ebbs D where
  rest := Eq.trans (congrArg (fun x : Block =>
    { x with err := B.err, buf := B.buf, fences := B.fences, troupes := B.troupes }) k.rest) h.rest
  buf _ hx := h.buf (k.buf hx)
  troupes hB := k.troupes (h.troupes hB)

/-- From `s` to `t` tasks are as they were, events at most more, other blocks as they were but for error words; block `b`,
where it stands, has at most lost stores that got home, and comes back nowhere. -/
structure Spares (b : Nat) (s t : State) : Prop where
  tasks : t.tasks = s.tasks
  events : s.ctl.events ⊆ t.ctl.events
  other : ∀ j, j ≠ b → t.plain j = s.plain j
  own : ∀ B, s.blocks.find b = some B → ∃ B', t.blocks.find b = some B' ∧ B.Ebbs B'
  away : s.blocks.find b = none → t.blocks.find b = none

section Spares
variable {b : Nat} {s t u : State}

theorem Spares.of_blocks (hblocks : t.blocks = s.blocks) (htasks : t.tasks = s.tasks)
    (hevents : s.ctl.events ⊆ t.ctl.events) : Spares b s t :=
  ⟨htasks, hevents, fun _ _ => State.plain_congr (hblocks ▸ rfl), fun B hB => ⟨B, hblocks ▸ hB, .rfl⟩,
    fun hB => hblocks ▸ hB⟩

theorem Spares.rfl : Spares b s s := .of_blocks (Eq.refl _) (Eq.refl _) fun _ h => h

theorem Spares.trans (h : Spares b s t) (k : Spares b t u) : Spares b s u where
  tasks := k.tasks.trans h.tasks
  events _ hx := k.events (h.events hx)
  other j hj := (k.other j hj).trans (h.other j hj)
  own B hB := by
    obtain ⟨C, hC, hBC⟩ := h.own B hB
    obtain ⟨D, hD, hCD⟩ := k.own C hC
    exact ⟨D, hD, hBC.trans hCD⟩
  away hB := k.away (h.away hB)

theorem Recorded.spares (h : Recorded s t) : Spares b s t := .of_blocks h.blocks h.tasks h.events

theorem Spares.foldl {α : Type} {f : State → α → State} (xs : List α) (h : ∀ s x, Spares b s (f s x)) (s : State) :
    Spares b s (xs.foldl f s) :=
  List.foldlRecOn xs f (motive := Spares b s) .rfl fun _ ht x _ => ht.trans (h _ x)

theorem Spares.modBlk {f : Block → Block} (hf : ∀ B : Block, B.Ebbs (f B)) : Spares b s (s.modBlk b f) where
  tasks := Eq.refl _
  events _ hx := hx
  other j hj := State.plain_congr (by rw [State.modBlk_find, if_neg hj])
  own B hB := ⟨f B, by rw [State.modBlk_find, if_pos (Eq.refl _), hB, Option.map_some], hf B⟩
  away hB := by rw [State.modBlk_find, if_pos (Eq.refl _), hB, Option.map_none]

/-- A change of cores is none of blocks, tasks or events. -/
theorem Spares.modCore (s : State) (k : Nat) (f : Core → Core) : Spares b s (s.modCore k f) :=
  .of_blocks (Eq.refl _) (Eq.refl _) fun _ h => h

theorem Spares.tock (s : State) : Spares b s s.tock := .of_blocks (Eq.refl _) (Eq.refl _) fun _ h => h

theorem Spares.event (s : State) (code unit part detail : Nat) : Spares b s (s.event code unit part detail) :=
  .of_blocks (Eq.refl _) (Eq.refl _) (List.subset_append_left _ _)

/-- A new error word of any block. -/
theorem Spares.setErr (s : State) (j : Nat) (w : Word) : Spares b s (s.modBlk j fun B => { B with err := w }) := by
  by_cases hj : j = b
  · subst hj
    exact .modBlk fun B => ⟨Eq.refl _, fun _ h => h, fun h => h⟩
  · refine ⟨Eq.refl _, fun _ h => h, fun i _ => ?_, fun B hB => ⟨B, ?_, .rfl⟩, fun hB => ?_⟩
    · simp only [State.plain, State.modBlk_find]
      split
      · rw [Option.map_map]; rfl
      · rfl
    · rw [State.modBlk_find, if_neg (Ne.symm hj), hB]
    · rw [State.modBlk_find, if_neg (Ne.symm hj), hB]

theorem Spares.blockErr (s : State) (j : Nat) (code : Option (Nat × Nat)) (flags : Word) :
    Spares b s (s.blockErr j code flags) := by
  cases hB : s.blocks.find j with
  | none =>
    rw [State.blockErr_of_none hB]
    exact .rfl
  | some B => exact (Spares.setErr s j _).trans (State.blockErr_recorded hB code flags).spares

/-! ### Write-backs, evictions and drains (04 R109, 05 R137) -/

theorem Spares.lacking (s : State) (core k : Nat) : Spares b s (s.lacking core k) := by
  simp only [State.lacking]
  split
  · exact .rfl
  · exact (Spares.modCore s core _).trans (.event ..)

theorem Spares.carryPoison (s : State) (core k n : Nat) : Spares b s (s.carryPoison core k n) := by
  unfold State.carryPoison
  split
  · exact .of_blocks (Eq.refl _) (Eq.refl _) fun _ h => h
  · exact .rfl

theorem Spares.writeBack (s : State) (core : Nat) (p : Nat → CByte → Bool) : Spares b s (s.writeBack core p).2 := by
  unfold State.writeBack
  refine List.foldlRecOn _ _ (motive := fun x : Bool × State => Spares b s x.2) .rfl fun x hx run _ => ?_
  obtain ⟨ok, u⟩ := x
  obtain ⟨k, j, bs⟩ := run
  refine Spares.trans hx ?_
  dsimp only
  split
  · dsimp only
    exact (Spares.modCore u core _).trans (.blockErr ..)
  cases hw : u.keyWrite core j k bs with
  | none =>
    dsimp only
    split
    · exact .lacking ..
    · exact .rfl
  | some v =>
    dsimp only
    exact (State.homeWrite_recorded hw).spares.trans ((Spares.carryPoison v core k _).trans (.modCore ..))

theorem Spares.evict (s : State) (core : Nat) (inUse : Nat → Bool) : Spares b s (s.evict core inUse) := by
  unfold State.evict
  dsimp only
  split
  · exact .rfl
  · exact ((Spares.tock s).trans (.writeBack ..)).trans (.modCore ..)

theorem Spares.cacheStore (s : State) (core j k : Nat) (bs : List Byte) : Spares b s (s.cacheStore core j k bs) :=
  (Spares.modCore s core _).trans (.evict ..)

theorem Spares.drainStore (s : State) (j a : Nat) (bs : List Byte) (ent epoch : Nat) :
    Spares b s (s.drainStore j a bs ent epoch) := by
  unfold State.drainStore
  split
  · exact (Recorded.sliceWrite ..).spares
  · exact .of_blocks (Eq.refl _) (Eq.refl _) fun _ h => h

theorem Spares.wakeCommits (s : State) : Spares b s (s.wakeCommits b) := by
  rw [State.wakeCommits_eq]
  refine .modBlk fun B => ⟨Eq.refl _, fun _ h => h, fun hB => ?_⟩
  rw [State.wokenBlk, hB]
  rfl

/-- A store that leaves the buffer, and separators that are no longer owed a write-back. -/
theorem Spares.dropEntry (s : State) (id : Nat) (p : Nat → Bool) :
    Spares b s (s.modBlk b fun B => { B with buf := B.buf.del id, fences := B.fences.filter p }) :=
  .modBlk fun _ => ⟨Eq.refl _, fun _ h => (List.mem_filter.1 h).1, fun h => h⟩

theorem Spares.drain (s : State) (id : Nat) : Spares b s (s.drain b id) := by
  unfold State.drain
  split
  · exact .rfl
  next B hB =>
  split
  · exact .rfl
  next e he =>
  have hback : Spares b s
      (if (B.fences.any (· < e.epoch)) = true then s.writeBack B.core fun _ c => c.by b else (true, s)).2 := by
    split
    · exact .writeBack ..
    · exact .rfl
  dsimp only
  generalize (if (B.fences.any (· < e.epoch)) = true then s.writeBack B.core fun _ c => c.by b else (true, s)) = w at hback ⊢
  obtain ⟨ok, s1⟩ := w
  dsimp only at hback ⊢
  split
  · exact hback
  refine (hback.trans (.dropEntry s1 id fun f => !decide (f < e.epoch))).trans (Spares.trans ?_ (.wakeCommits _))
  split
  · have hstores (s : State) : Spares b s (e.runs.foldl (fun (s : State) x => s.cacheStore B.core b x.1 x.2) s) :=
      .foldl _ (fun s _ => .cacheStore ..) s
    split
    · exact (hstores _).trans (.writeBack ..)
    · exact hstores _
  · split
    · exact .blockErr ..
    · exact .foldl _ (fun s _ => .drainStore ..) _

/-! ### Abort tokens, completion arrivals and the ends of nodes (08 R223, 05 R156, 06 R166) -/

theorem Spares.send (s : State) (dst j : Nat) (op : FabOp) : Spares b s (s.send dst j op) := (Recorded.send ..).spares

theorem Spares.sendAbort (s : State) (ms : List (Nat × Nat)) (group attempt : Nat) :
    Spares b s (s.sendAbort ms group attempt) := by
  refine .foldl _ (fun s m => ?_) s
  split
  · exact .of_blocks (Eq.refl _) (Eq.refl _) fun _ h => h
  · exact .send ..

theorem Spares.abortOwn (s : State) (j : Nat) : Spares b s (s.abortOwn j) := by
  refine .foldl _ (fun s r => ?_) s
  split
  · exact .sendAbort ..
  · exact .rfl

theorem Spares.modGraph (s : State) (g : Nat) (f : Graph → Graph) : Spares b s (s.modGraph g f) :=
  .of_blocks (Eq.refl _) (Eq.refl _) fun _ h => h

theorem Spares.nodeCode (s : State) (G : Graph) (n code detail : Nat) : Spares b s (s.nodeCode G n code detail) :=
  (s.waWrite_recorded ..).spares

theorem Spares.takeEdge (s : State) (g src dst : Nat) : Spares b s (s.takeEdge g src dst) := by
  unfold State.takeEdge
  split
  · exact .rfl
  dsimp only
  split
  · exact .rfl
  split
  · exact .rfl
  split
  · exact (Spares.nodeCode ..).trans (.modGraph ..)
  · exact .modGraph ..

theorem Spares.endNode (s : State) (g n code detail dst : Nat) : Spares b s (s.endNode g n code detail dst) := by
  cases hG : s.graphs.find g with
  | none => simp only [State.endNode, hG]; exact .rfl
  | some G =>
    rw [State.endNode_eq hG]
    have hclosed : Spares b s ((s.nodeCode G n code detail).modGraph g (Graph.closed n)) :=
      (Spares.nodeCode ..).trans (.modGraph ..)
    dsimp only
    split
    · exact hclosed.trans (.takeEdge ..)
    split
    · exact hclosed.trans (.modGraph ..)
    · exact hclosed.trans (.takeEdge ..)

theorem Spares.gangEnd (s : State) (g n : Nat) : Spares b s (s.gangEnd g n) := by
  unfold State.gangEnd
  split
  · exact .rfl
  split
  · exact .rfl
  split
  · exact .rfl
  · exact .endNode ..

theorem Spares.taskEnd (s : State) (k : Nat) : Spares b s (s.taskEnd k) := by
  unfold State.taskEnd State.farGangEnd
  split
  · exact .rfl
  split
  · exact .rfl
  split
  · split
    · exact .rfl
    · exact .send ..
  split
  · exact .rfl
  split
  · exact (Spares.modGraph ..).trans (.gangEnd ..)
  · exact .endNode ..

end Spares

end Sys2Proof.Machine

namespace Sys2Proof.Machine

/-! ## The end of a killed block (08 R219) -/

/-- A cache of which no byte satisfies a predicate has no run of such bytes. -/
theorem dirtyRuns_eq_nil {p : Nat → CByte → Bool} {c : Tab CByte} (h : ∀ x ∈ c, p x.1 x.2 = false) :
    dirtyRuns p c = [] := by
  induction c with
  | nil => rfl
  | cons x r ih =>
    obtain ⟨k, y⟩ := x
    rw [dirtyRuns, ih fun x hx => h x (List.mem_cons_of_mem _ hx), h (k, y) (List.mem_cons_self ..)]
    cases y.dirty <;> rfl

/-- A block that dirtied no line of a cache has nothing to write back from it. -/
theorem State.writeBack_of_clean {s : State} {core b : Nat} (h : ∀ x ∈ (s.core core).cache, x.2.by b = false) :
    s.writeBack core (fun _ c => c.by b) = (true, s) := by
  rw [State.writeBack, dirtyRuns_eq_nil h]
  rfl

/-- What a block that is to end still waits for: stores in its buffer, releases, operations on their way to other packages,
matrix instructions, lines of its core's cache. -/
def State.Waits (s t : State) (b : Nat) (B : Block) : Prop :=
  B.troupes ≠ [] ∨ B.buf ≠ [] ∨ B.releases ≠ [] ∨ t.unacked b (fun _ => true) = true ∨
    (∃ x ∈ t.cores, ∃ q ∈ x.2.mat.queue, q.b = b) ∨ ∃ x ∈ (s.core B.core).cache, x.2.by b = true

/-- `t` is `s` with block `b` away and counted in its task `k`. -/
structure Leaves (s t : State) (b k : Nat) : Prop where
  find : t.blocks.find b = none
  other : ∀ j, j ≠ b → t.plain j = s.plain j
  tasks : t.tasks = s.tasks.mod k fun K => { K with ended := K.ended + 1 }
  events : s.ctl.events ⊆ t.ctl.events

theorem Leaves.gone (s : State) (b k : Nat) : Leaves s (s.gone b k) b k := by
  have hend : Spares b (s.without b k) (s.gone b k) := .taskEnd ..
  refine ⟨hend.away ?_, fun j hj => (hend.other j hj).trans (State.plain_congr ?_), hend.tasks, hend.events⟩
  · exact (Tab.find_del ..).trans (if_pos rfl)
  · exact (Tab.find_del ..).trans (if_neg hj)

theorem Leaves.after {s t u : State} {b k : Nat} (h : Spares b s t) (l : Leaves t u b k) : Leaves s u b k :=
  ⟨l.find, fun j hj => (l.other j hj).trans (h.other j hj), h.tasks ▸ l.tasks, fun _ hx => l.events (h.events hx)⟩

/-- The end of a block: something of it is still on its way, and it stays, or it is gone. -/
theorem State.endBlock_waits_or_leaves {s : State} {b : Nat} {B : Block} (hB : s.blocks.find b = some B) :
    (Spares b s (s.endBlock b) ∧ s.Waits (s.endBlock b) b B) ∨ Leaves s (s.endBlock b) b B.task := by
  have hback : Spares b s (s.writeBack B.core fun _ c => c.by b).2 := .writeBack ..
  have hclean : (s.writeBack B.core fun _ c => c.by b).1 = false → ∃ x ∈ (s.core B.core).cache, x.2.by b = true := by
    intro hfail
    by_contra hnone
    rw [State.writeBack_of_clean fun x hx => Bool.eq_false_iff.2 fun h => hnone ⟨x, hx, h⟩] at hfail
    cases hfail
  unfold State.endBlock
  rw [hB]
  dsimp only
  generalize s.writeBack B.core (fun _ c => c.by b) = w at hback hclean ⊢
  obtain ⟨ok, u⟩ := w
  dsimp only at hback hclean ⊢
  split
  case isTrue hends =>
    refine .inl ⟨.rfl, ?_⟩
    simp only [State.ending, Bool.not_eq_true', Bool.and_eq_false_iff, List.isEmpty_eq_false_iff, Bool.not_eq_false',
      List.any_eq_true, decide_eq_true_eq] at hends
    obtain (((h | h) | h) | h) | ⟨x, hx, q, hq, hqb⟩ := hends
    · exact .inl h
    · exact .inr (.inl h)
    · exact .inr (.inr (.inl h))
    · exact .inr (.inr (.inr (.inl h)))
    · exact .inr (.inr (.inr (.inr (.inl ⟨x, hx, q, hq, hqb⟩))))
  case isFalse =>
    split
    case isTrue hheld =>
      refine .inl ⟨hback, ?_⟩
      simp only [Bool.or_eq_true, Bool.not_eq_true'] at hheld
      obtain h | h := hheld
      · exact .inr (.inr (.inr (.inr (.inr (hclean h)))))
      · exact .inr (.inr (.inr (.inl h)))
    case isFalse =>
      refine .inr (.after hback ?_)
      split
      · exact .gone ..
      · exact .after (State.completion_recorded ..).spares (.gone ..)

/-! ## Killing a block (08 R219) -/

/-- A killed block: no troupe is left and nothing it holds but the stores that were committed. -/
def Block.doomed (code : Nat) (B : Block) : Block := { B with
  buf := B.buf.filter fun e => e.2.committed, nf := B.flags, troupes := [], inst := none, cursor := none, releases := []
  window := false, killed := some code }

/-- The state in which a block is killed, before its committed stores drain. -/
def State.doom (s : State) (b code : Nat) : State := ((s.leaveGuards b).freeUnits b).modBlk b (Block.doomed code)

/-- The same once those stores that may have drained, and the block's error word is set. -/
def State.drained (s : State) (b code detail : Nat) (inHandler : Bool) (B : Block) : State :=
  ((B.buf.filter fun e => e.2.committed).foldl (fun s e => s.drain b e.1) (s.doom b code)).blockErr b
    (some (code, detail)) (if inHandler then 0x4400#32 else 0x400#32)

/-- A task takes the code and the block of its first kill; its error array holds the word too. -/
def State.taskErr (s : State) (k code id : Nat) (K : Task) : State :=
  if K.err ≠ 0 then s
  else
    let w := BitVec.ofNat 32 (code + 256 * id)
    let t := s.modTask k fun K => { K with err := w }
    if K.launch.errors = 0 then t else t.waWrite K.part K.launch.errors (leBytes 4 w.toNat)

/-- The state of a kill before the block's end. -/
def State.dying (s : State) (b code detail : Nat) (inHandler : Bool) (B : Block) (K : Task) : State :=
  (((s.drained b code detail inHandler B).taskErr B.task code B.id K).event 5 B.core K.part (codeDetail s.tick code)).abortOwn b

/-- What stays of a killed block, and of all else, up to the end of the block: other blocks as they were but for error
words, the block with at most the stores that were committed, and, where none was, the lines of the caches. -/
structure Dooms (s t : State) (b code : Nat) (B : Block) : Prop where
  other : ∀ j, j ≠ b → t.plain j = s.plain j
  own : ∃ B', t.blocks.find b = some B' ∧ (B.doomed code).Ebbs B'
  cache : (∀ x ∈ B.buf, x.2.committed = false) → ∀ k, (t.core k).cache = (s.core k).cache

/-- A killed block that is gone and counted, or that waits without a troupe for what it had committed or sent. -/
structure Killed (s t : State) (b code : Nat) (B : Block) (K : Task) : Prop where
  event : ∃ e, e ∈ t.ctl.events ∧ e.code = 5 ∧ e.detail % 256 = code % 256
  other : ∀ j, j ≠ b → t.plain j = s.plain j
  task : ∃ L, t.tasks.find B.task = some L ∧
    L.err = (if K.err ≠ 0 then K.err else BitVec.ofNat 32 (code + 256 * B.id)) ∧
    ((t.blocks.find b = none ∧ L.ended = K.ended + 1) ∨
      ∃ B', t.blocks.find b = some B' ∧ L.ended = K.ended ∧ B'.killed = some code ∧ B'.troupes = [] ∧ B'.inst = none ∧
        B'.releases = [] ∧ B'.window = false ∧ (∀ x ∈ B'.buf, x.2.committed = true) ∧
        ((∃ x ∈ B.buf, x.2.committed = true) ∨ t.unacked b (fun _ => true) = true ∨
          (∃ x ∈ t.cores, ∃ q ∈ x.2.mat.queue, q.b = b) ∨ ∃ x ∈ (s.core B.core).cache, x.2.by b = true))

section Kill
variable {s t u : State} {b code : Nat} {B : Block} {K : Task}

theorem Dooms.after (h : Dooms s t b code B) (k : Spares b t u)
    (hcache : (∀ x ∈ B.buf, x.2.committed = false) → u.cores = t.cores) : Dooms s u b code B where
  other j hj := (k.other j hj).trans (h.other j hj)
  own := by
    obtain ⟨C, hC, hBC⟩ := h.own
    obtain ⟨D, hD, hCD⟩ := k.own C hC
    exact ⟨D, hD, hBC.trans hCD⟩
  cache hnone j := by rw [State.core, hcache hnone]; exact h.cache hnone j

/-- What a block's units are freed of is not in the caches. -/
theorem State.freeUnits_cache (s : State) (b k : Nat) : ((s.freeUnits b).core k).cache = (s.core k).cache := by
  have hfind : (s.freeUnits b).cores.find k = (s.cores.find k).map (Core.freed b) := Tab.find_map s.cores (Core.freed b) k
  rw [State.core, State.core, Tab.get_eq, Tab.get_eq, hfind]
  cases s.cores.find k <;> rfl

theorem State.doom_find (hB : s.blocks.find b = some B) (code : Nat) :
    (s.doom b code).blocks.find b = some (B.doomed code) := by
  rw [State.doom, State.modBlk_find, if_pos rfl,
    show ((s.leaveGuards b).freeUnits b).blocks = s.blocks from (s.leaveGuards_recorded b).blocks, hB, Option.map_some]

theorem Dooms.doom (hB : s.blocks.find b = some B) (code : Nat) : Dooms s (s.doom b code) b code B where
  other j hj := State.plain_congr (by
    rw [State.doom, State.modBlk_find, if_neg hj,
      show ((s.leaveGuards b).freeUnits b).blocks = s.blocks from (s.leaveGuards_recorded b).blocks])
  own := ⟨_, State.doom_find hB code, .rfl⟩
  cache _ k := ((s.leaveGuards b).freeUnits_cache b k).trans
    (congrArg (fun cs : Tab Core => (cs.get {} k).cache) (s.leaveGuards_recorded b).cores :)

theorem Spares.drained (s : State) (b code detail : Nat) (inHandler : Bool) (B : Block) :
    Spares b (s.doom b code) (s.drained b code detail inHandler B) :=
  (Spares.foldl _ (fun s _ => .drain s _) _).trans (.blockErr ..)

theorem State.drained_tasks (s : State) (b code detail : Nat) (inHandler : Bool) (B : Block) :
    (s.drained b code detail inHandler B).tasks = s.tasks :=
  (Spares.drained s b code detail inHandler B).tasks.trans (s.leaveGuards_recorded b).tasks

theorem Dooms.drained (hB : s.blocks.find b = some B) (code detail : Nat) (inHandler : Bool) :
    Dooms s (s.drained b code detail inHandler B) b code B := by
  refine (Dooms.doom hB code).after (.drained ..) fun hnone => ?_
  have hnil : (B.buf.filter fun e => e.2.committed) = [] :=
    List.filter_eq_nil_iff.2 fun x hx => Bool.eq_false_iff.1 (hnone x hx)
  rw [State.drained, hnil]
  exact (State.blockErr_recorded (State.doom_find hB code) _ _).cores

/-- The error word of a task changes by its first kill. -/
theorem State.taskErr_tasks (s : State) (k code id : Nat) (K : Task) : (s.taskErr k code id K).tasks =
    if K.err ≠ 0 then s.tasks else s.tasks.mod k fun K => { K with err := BitVec.ofNat 32 (code + 256 * id) } := by
  unfold State.taskErr
  split
  · rfl
  · dsimp only
    split
    · rfl
    · exact (State.waWrite_recorded ..).tasks

theorem State.taskErr_recorded (s : State) (k code id : Nat) (K : Task) :
    Recorded { s with tasks := (s.taskErr k code id K).tasks } (s.taskErr k code id K) := by
  rw [State.taskErr_tasks]
  unfold State.taskErr
  split
  · exact .rfl
  · dsimp only
    split
    · exact .rfl
    · exact State.waWrite_recorded ..

theorem State.abortOwn_cores (s : State) (b : Nat) : (s.abortOwn b).cores = s.cores := by
  refine foldl_reading_stays (obs := State.cores) (fun s r _ => ?_) s
  split
  · refine foldl_reading_stays (obs := State.cores) (fun s m _ => ?_) s
    split <;> rfl
  · rfl

theorem State.kill_eq (hB : s.blocks.find b = some B) (hK : s.tasks.find B.task = some K) (code detail : Nat)
    (inHandler : Bool) : s.kill b code detail inHandler = (s.dying b code detail inHandler B K).endBlock b := by
  unfold State.kill
  simp only [hB, hK]
  rfl

theorem Dooms.dying (hB : s.blocks.find b = some B) (code detail : Nat) (inHandler : Bool) (K : Task) :
    Dooms s (s.dying b code detail inHandler B K) b code B := by
  have hdrained := Dooms.drained hB code detail inHandler
  have herr := (s.drained b code detail inHandler B).taskErr_recorded B.task code B.id K
  have htask : Dooms s ((s.drained b code detail inHandler B).taskErr B.task code B.id K) b code B :=
    ⟨fun j hj => (State.plain_congr (herr.blocks ▸ rfl)).trans (hdrained.other j hj), herr.blocks ▸ hdrained.own,
      fun hnone j => by rw [State.core, herr.cores]; exact hdrained.cache hnone j⟩
  exact (htask.after (.event ..) fun _ => rfl).after (.abortOwn ..) fun _ => State.abortOwn_cores ..

theorem State.dying_task (hK : s.tasks.find B.task = some K) (b code detail : Nat) (inHandler : Bool) :
    (s.dying b code detail inHandler B K).tasks.find B.task = some { K with
      err := if K.err ≠ 0 then K.err else BitVec.ofNat 32 (code + 256 * B.id) } := by
  have htasks : (s.dying b code detail inHandler B K).tasks =
      ((s.drained b code detail inHandler B).taskErr B.task code B.id K).tasks :=
    (Spares.abortOwn (b := b) ..).tasks
  rw [htasks, State.taskErr_tasks, State.drained_tasks]
  split
  · exact hK
  · rw [Tab.find_mod_same, hK, Option.map_some]

/-- The event of a kill holds its code. -/
theorem State.dying_event (s : State) (b code detail : Nat) (inHandler : Bool) (B : Block) (K : Task) :
    ∃ e, e ∈ (s.dying b code detail inHandler B K).ctl.events ∧ e.code = 5 ∧ e.detail % 256 = code % 256 :=
  ⟨_, (Spares.abortOwn (b := b) ..).events (List.mem_append_right _ (List.mem_singleton_self _)), rfl, by
    simp only [codeDetail]; omega⟩

/-- A block that is killed, and what is left of it. -/
theorem State.kill_killed (hB : s.blocks.find b = some B) (hK : s.tasks.find B.task = some K) (code detail : Nat)
    (inHandler : Bool) : Killed s (s.kill b code detail inHandler) b code B K := by
  rw [State.kill_eq hB hK]
  have hdooms := Dooms.dying hB code detail inHandler K
  have htask := State.dying_task hK b code detail inHandler
  obtain ⟨e, he, hcode, hdetail⟩ := s.dying_event b code detail inHandler B K
  generalize s.dying b code detail inHandler B K = u at hdooms htask he ⊢
  obtain ⟨B', hB', hebbs⟩ := hdooms.own
  have hsame : B'.task = B.task := (congrArg Block.task hebbs.rest :)
  obtain ⟨hspares, hwaits⟩ | hleaves := State.endBlock_waits_or_leaves hB'
  · refine ⟨⟨e, hspares.events he, hcode, hdetail⟩, fun j hj => (hspares.other j hj).trans (hdooms.other j hj),
      _, hspares.tasks ▸ htask, rfl, .inr ?_⟩
    obtain ⟨B'', hB'', hebbs'⟩ := hspares.own B' hB'
    have hall := hebbs.trans hebbs'
    have hbuf {x : Nat × BufEntry} (hx : x ∈ (B.doomed code).buf) : x ∈ B.buf ∧ x.2.committed = true := List.mem_filter.1 hx
    refine ⟨B'', hB'', rfl, (congrArg Block.killed hall.rest :), hall.troupes rfl, (congrArg Block.inst hall.rest :),
      (congrArg Block.releases hall.rest :), (congrArg Block.window hall.rest :), fun x hx => (hbuf (hall.buf hx)).2, ?_⟩
    obtain h | h | h | h | h | ⟨x, hx, hby⟩ := hwaits
    · exact absurd (hebbs.troupes rfl) h
    · obtain ⟨x, hx⟩ := List.exists_mem_of_ne_nil _ h
      exact .inl ⟨x, hbuf (hebbs.buf hx)⟩
    · exact absurd (congrArg Block.releases hebbs.rest :) h
    · exact .inr (.inl h)
    · exact .inr (.inr (.inl h))
    · by_cases hcommitted : ∃ x ∈ B.buf, x.2.committed = true
      · exact .inl hcommitted
      · have hcache := hdooms.cache (fun y hy => Bool.eq_false_iff.2 fun h => hcommitted ⟨y, hy, h⟩) B.core
        rw [show B'.core = B.core from (congrArg Block.core hebbs.rest :), hcache] at hx
        exact .inr (.inr (.inr ⟨x, hx, hby⟩))
  · have hcounted := congrArg (Tab.find · B.task) hleaves.tasks
    rw [hsame, Tab.find_mod_same, htask, Option.map_some] at hcounted
    exact ⟨⟨e, hleaves.events he, hcode, hdetail⟩, fun j hj => (hleaves.other j hj).trans (hdooms.other j hj),
      _, hcounted, rfl, .inl ⟨hleaves.find, rfl⟩⟩

end Kill

end Sys2Proof.Machine

namespace Sys2Proof.Machine

/-! ## Relaunching a block (08 R218) -/

/-- Setting a block's error word changes it there, and no other block. -/
theorem State.blockErr_find {s : State} {b : Nat} {B : Block} (hB : s.blocks.find b = some B)
    (code : Option (Nat × Nat)) (flags : Word) :
    (s.blockErr b code flags).blocks.find b = some { B with err := B.marked code flags } := by
  rw [(State.blockErr_recorded hB code flags).blocks, State.modBlk_blocks, Tab.find_mod_same, hB, Option.map_some]

theorem State.blockErr_find_other (s : State) {b j : Nat} (hj : j ≠ b) (code : Option (Nat × Nat)) (flags : Word) :
    (s.blockErr b code flags).blocks.find j = s.blocks.find j := by
  cases hB : s.blocks.find b with
  | none => rw [State.blockErr_of_none hB]
  | some B => rw [(State.blockErr_recorded hB code flags).blocks, State.modBlk_blocks, Tab.find_mod_other _ _ hj]

theorem Block.marked_none (B : Block) : B.marked none 0 = B.err := BitVec.or_zero
theorem Block.marked_code (B : Block) (code detail : Nat) : B.marked (some (code, detail)) 0 = B.coded code detail :=
  BitVec.or_zero

/-- The low byte of an error word is the code set in it. -/
theorem Block.coded_low (B : Block) (code detail : Nat) : (B.coded code detail).toNat % 256 = code % 256 := by
  have hlow : (B.coded code detail).setWidth 8 = BitVec.ofNat 8 code := by
    rw [Block.coded, BitVec.setWidth_or, BitVec.setWidth_and, BitVec.setWidth_ofNat_of_le (by decide),
      BitVec.setWidth_ofNat_of_le (by decide), show BitVec.ofNat 8 0x0000FF00 = 0#8 from rfl, BitVec.and_zero, BitVec.zero_or]
    exact BitVec.eq_of_toNat_eq (by simp only [BitVec.toNat_ofNat]; omega)
  simpa using congrArg BitVec.toNat hlow

/-- An error word with the number of attempts in its field (08 Table 8.2). -/
def withAttempts (w : Word) (n : Nat) : Word := (w &&& 0xFFFFE7FF#32) ||| BitVec.ofNat 32 (2048 * n)

theorem withAttempts_low (w : Word) (n : Nat) : (withAttempts w n).toNat % 256 = w.toNat % 256 := by
  have hzero : BitVec.ofNat 8 (2048 * n) = 0#8 := BitVec.eq_of_toNat_eq (by simp only [BitVec.toNat_ofNat]; omega)
  have hlow : (withAttempts w n).setWidth 8 = w.setWidth 8 := by
    simp only [withAttempts, BitVec.setWidth_or, BitVec.setWidth_and,
      BitVec.setWidth_ofNat_of_le (show 8 ≤ 32 by decide), hzero, BitVec.or_zero]
    exact BitVec.and_allOnes
  simpa using congrArg BitVec.toNat hlow

/-- A block whose error word takes the number of its attempts. -/
def Block.counted (B : Block) : Block := { B with err := withAttempts B.err B.attempts }

theorem State.unlink_blocks (s : State) (mine : Owner → Bool) : (s.unlink mine).blocks = s.blocks := by
  refine foldl_reading_stays (obs := State.blocks) (fun s o _ => ?_) s
  dsimp only
  split
  · rfl
  · have hlast (u : State) (last : Option Owner) :
        (last.elim u fun x => u.sliceSet (x.entry + 56) 8 0).blocks = u.blocks := by cases last <;> rfl
    refine (hlast _ _).trans ?_
    split <;> rfl

theorem State.unlinkOwn_blocks (s : State) (b : Nat) : (s.unlinkOwn b).blocks = s.blocks :=
  (OnlySent.foldl _ (fun s _ => .send s _ _ _) _).blocks.trans (s.unlink_blocks _)

/-- A block at its fresh start, with its id, its error word and what it has used of its attempts. -/
def State.restart (s : State) (B : Block) (K : Task) (core : Nat) : Block :=
  { mkBlock K.launch B.task B.id core s.fresh (if B.records.isEmpty then none else some B.records) with
    err := B.err, attempts := B.attempts + 1, quads := Marks.add B.quads (quadOf core), stopBit := B.stopBit,
    cwpBase := (s.core core).cwp }

/-- The state in which a block has started again, its error word still as it was. -/
def State.restarted (s : State) (b : Nat) (B : Block) (K : Task) : State :=
  (((s.leaveGuards b).unlinkOwn b).freeUnits b).bump.modBlk b fun _ => s.restart B K (s.relaunchCore B K)

section Relaunch
variable {s : State} {b : Nat} {B : Block} {K : Task}

theorem State.restarted_blocks (s : State) (b : Nat) (B : Block) (K : Task) :
    (s.restarted b B K).blocks = s.blocks.mod b fun _ => s.restart B K (s.relaunchCore B K) :=
  congrArg (fun bs : Tab Block => bs.mod b fun _ => s.restart B K (s.relaunchCore B K))
    (((s.leaveGuards b).unlinkOwn_blocks b).trans (s.leaveGuards_recorded b).blocks)

/-- A relaunched block is its fresh start with code, detail and attempts in its error word; no other block changes. -/
theorem State.relaunch_blocks (hB : s.blocks.find b = some B) (hK : s.tasks.find B.task = some K)
    (hrecords : B.records = []) (code detail : Nat) :
    (∃ w : Word, w.toNat % 256 = code % 256 ∧
      (s.relaunch b code detail).blocks.find b = some { s.restart B K (s.relaunchCore B K) with err := w }) ∧
    ∀ j, j ≠ b → (s.relaunch b code detail).blocks.find j = s.blocks.find j := by
  let marked := (s.restarted b B K).blockErr b (some (code, detail)) 0
  let counted := marked.modBlk b Block.counted
  let told := counted.blockErr b none 0
  have hblocks : (s.relaunch b code detail).blocks = told.blocks := by
    have hlast (u : State) : (if K.guard = 0 then u else if u.here K.guard then u.attemptUp K.guard
        else u.send (pkgOfSlice K.guard) b (.attempt K.guard)).blocks = u.blocks := by
      split
      · rfl
      · split
        · exact State.sliceSet_blocks ..
        · rfl
    unfold State.relaunch
    simp only [hB, hK]
    refine (hlast _).trans ?_
    rw [if_pos (by rw [hrecords]; rfl)]
    rfl
  have hfind : (s.restarted b B K).blocks.find b = some (s.restart B K (s.relaunchCore B K)) := by
    rw [State.restarted_blocks, Tab.find_mod_same, hB, Option.map_some]
  have hmarked := State.blockErr_find hfind (some (code, detail)) 0
  have hcounted : counted.blocks.find b = some (Block.counted _) :=
    (Tab.find_mod_same marked.blocks b Block.counted).trans (congrArg (Option.map Block.counted) hmarked)
  have htold := State.blockErr_find hcounted none 0
  refine ⟨⟨_, ?_, hblocks ▸ htold⟩, fun j hj => ?_⟩
  · rw [Block.marked_none]
    refine (withAttempts_low ..).trans ?_
    dsimp only
    rw [Block.marked_code]
    exact Block.coded_low ..
  · rw [hblocks]
    calc told.blocks.find j
      _ = counted.blocks.find j := State.blockErr_find_other _ hj _ _
      _ = marked.blocks.find j := Tab.find_mod_other _ _ hj
      _ = (s.restarted b B K).blocks.find j := State.blockErr_find_other _ hj _ _
      _ = s.blocks.find j := by rw [State.restarted_blocks, Tab.find_mod_other _ _ hj]

/-- A troupe of a block that starts anew, with a row in each lane, stands at the kernel's entry. -/
theorem State.restart_troupe (hrecords : B.records = []) {core k : Nat} {T : Troupe}
    (hT : (s.restart B K core).troupes.find k = some T) : T.regs = {} ∧ T.lm = 0xFFFFFFFF#32 ∧ T.run = none := by
  have hmem := Tab.mem_of_find hT
  simp only [State.restart, hrecords, List.isEmpty_nil, if_true, mkBlock_troupes, List.mem_append] at hmem
  obtain h | h := hmem
  · obtain ⟨t, -, he⟩ := List.mem_map.1 h
    cases he
    exact ⟨rfl, rfl, rfl⟩
  · split at h
    · obtain ⟨t, -, he⟩ := List.mem_map.1 h
      cases he
      exact ⟨rfl, rfl, rfl⟩
    · cases h

end Relaunch

end Sys2Proof.Machine

namespace Sys2Proof.Machine

/-! ## The split that raises a fault (08 R221, R222) -/

/-- An abandoned run gives back the registers it found and its split's first word. -/
theorem Troupe.abandon_eq (T : Troupe) (e : Nat) : T.abandon e = { T with
    regs := (T.run.map fun R => { R.saved with nf := T.regs.nf }).getD T.regs
    poison := (T.run.map Run.poison).getD T.poison
    flips := (T.run.map Run.flips).getD T.flips
    run := none
    splits := T.splits.mod e fun S => { S with pc := (T.run.map Run.first).getD S.pc } } := by
  unfold Troupe.abandon
  cases hr : T.run with
  | none =>
    obtain ⟨⟩ := T
    cases hr
    exact congrArg (fun splits => Troupe.mk _ _ _ _ _ _ _ splits _ _ _ _ _ _ _ _ _ _ _ _ _ _ _ _ _ _)
      (Tab.mod_id ..).symm
  | some r => rfl

/-- A troupe of which a split faults: its run is abandoned, and the step command that let it issue has ended. -/
def Troupe.faulted (e : Nat) (T : Troupe) : Troupe := { T.abandon e with stepping := none }

/-- A block whose operation that could not be delivered has faulted (08 R224). -/
def Block.notified (B : Block) : Block := { B with unreach := none }

/-- The state in which a fault of the issuing split is taken. -/
def State.faulted (s : State) (c : Ctx) (r : Raise) : State :=
  let u := s.onTrp c (Troupe.faulted c.e)
  if r.code = 0x17 then u.modBlk c.b Block.notified else u

/-- Where ERET skips to: past the run that goes on at the fault, or one word on where nothing can be read there. -/
def State.skipOf (s : State) (c : Ctx) : Word :=
  let skip := BitVec.ofNat 32
    (s.runEnd c.task (s.mem.codeLen.get 0 (2 ^ 24 * c.task.part + c.task.launch.code)) c.first.toNat)
  if skip = c.first then c.first + 1 else skip

theorem State.raiseFault_eq (s : State) (c : Ctx) (r : Raise) (pc : Word) : s.raiseFault c r pc =
    (s.faulted c r).takeFault c.b c.t c.e r pc c.first (s.skipOf c) := rfl

theorem wordsOf_eq (w : Word) : wordsOf w = 1 ∨ wordsOf w = 2 := by
  unfold wordsOf
  repeat' split
  all_goals simp

/-- Outside a run, ERET skips past the word that faults. -/
theorem State.skipOf_of_word {s : State} {c : Ctx} {w : Word} (hrun : c.trp.run = none)
    (hw : s.codeWord c.task c.sp.pc.toNat = some w) (hlast : w.getLsbD 30 = false) :
    s.skipOf c = c.sp.pc + BitVec.ofNat 32 (wordsOf w) := by
  have hfirst : c.first = c.sp.pc := by rw [Ctx.first, hrun]; rfl
  have hin : c.sp.pc.toNat < s.mem.codeLen.get 0 (2 ^ 24 * c.task.part + c.task.launch.code) := by
    by_contra hout
    simp only [State.codeWord, hout, if_false] at hw
    cases hw
  obtain ⟨n, hn⟩ := Nat.exists_eq_add_of_lt hin
  have hend : s.runEnd c.task (s.mem.codeLen.get 0 (2 ^ 24 * c.task.part + c.task.launch.code)) c.sp.pc.toNat =
      c.sp.pc.toNat + wordsOf w := by
    rw [hn, State.runEnd, hw]
    simp only [hlast, Bool.false_eq_true, if_false]
  have hskip : BitVec.ofNat 32 (c.sp.pc.toNat + wordsOf w) = c.sp.pc + BitVec.ofNat 32 (wordsOf w) := by
    rw [BitVec.ofNat_add, BitVec.ofNat_toNat, BitVec.setWidth_eq]
  have hmoves : c.sp.pc + BitVec.ofNat 32 (wordsOf w) ≠ c.sp.pc := by
    obtain h | h := wordsOf_eq w <;> rw [h] <;> bv_omega
  unfold State.skipOf
  dsimp only
  rw [hfirst, hend, hskip, if_neg hmoves]

/-- The `flt` word holds its fields side by side (01 Table 1.3). -/
theorem fltWord_toNat (f : Flt) (e : Nat) : (fltWord f e).toNat =
    f.code % 256 + f.lane % 32 * 2 ^ 8 + e % 8 * 2 ^ 13 + f.pc.toNat * 2 ^ 16 + f.detail % 2 ^ 16 * 2 ^ 48 := by
  have hpc := f.pc.isLt
  rw [fltWord, BitVec.toNat_ofNat]
  omega

section Faulted
variable {s : State} {c : Ctx} {r : Raise} {pc : Word}

theorem State.faulted_of_reachable (hr : r.code ≠ 0x17) :
    s.faulted c r = s.onTrp c (Troupe.faulted c.e) := if_neg hr

theorem State.faulted_tasks (s : State) (c : Ctx) (r : Raise) : (s.faulted c r).tasks = s.tasks := by
  unfold State.faulted
  dsimp only
  split <;> rfl

theorem State.faulted_cores (s : State) (c : Ctx) (r : Raise) : (s.faulted c r).cores = s.cores := by
  unfold State.faulted
  dsimp only
  split <;> rfl

theorem State.faulted_find_other (s : State) (c : Ctx) (r : Raise) {j : Nat} (hj : j ≠ c.b) :
    (s.faulted c r).blocks.find j = s.blocks.find j := by
  have htrp : (s.onTrp c (Troupe.faulted c.e)).blocks.find j = s.blocks.find j := (State.modBlk_find ..).trans (if_neg hj)
  unfold State.faulted
  dsimp only
  split
  · exact (State.modBlk_find ..).trans ((if_neg hj).trans htrp)
  · exact htrp

/-- The block in which a fault is taken is as it was but for the troupe, and the operation it could not deliver. -/
theorem State.faulted_find (h : s.focus? = some c) (r : Raise) : ∃ B, (s.faulted c r).blocks.find c.b = some B ∧
    { B with troupes := c.blk.troupes, unreach := c.blk.unreach } = c.blk ∧
    B.troupes.find c.t = some (c.trp.faulted c.e) := by
  obtain ⟨hB, hT, -, -⟩ := State.focus?_holds h
  have hfind := State.onTrp_find (c := c) hB (Troupe.faulted c.e)
  have htrp : (c.blk.troupes.mod c.t (Troupe.faulted c.e)).find c.t = some (c.trp.faulted c.e) := by
    rw [Tab.find_mod_same, hT, Option.map_some]
  unfold State.faulted
  dsimp only
  split
  · have hnotified : ((s.onTrp c (Troupe.faulted c.e)).modBlk c.b Block.notified).blocks.find c.b = some (Block.notified _) :=
      (Tab.find_mod_same ..).trans (congrArg (Option.map Block.notified) hfind)
    exact ⟨_, hnotified, rfl, htrp⟩
  · exact ⟨_, hfind, rfl, htrp⟩

/-- The issuing split once its run is abandoned. -/
theorem Ctx.faulted_split (h : s.focus? = some c) :
    (c.trp.faulted c.e).splits.find c.e = some { c.sp with pc := c.first } := by
  rw [Troupe.faulted, Troupe.abandon_eq, Tab.find_mod_same, State.focus?_splits s c h, Option.map_some]
  rfl

end Faulted

section
variable (T : Troupe) (e : Nat)

theorem Troupe.faulted_split_other {T : Troupe} {e x : Nat} (hx : x ≠ e) :
    (T.faulted e).splits.find x = T.splits.find x := by
  rw [Troupe.faulted, Troupe.abandon_eq, Tab.find_mod_other _ _ hx]

@[simp] theorem Troupe.faulted_handler : (T.faulted e).handler = T.handler := by rw [Troupe.faulted, Troupe.abandon_eq]
@[simp] theorem Troupe.faulted_held : (T.faulted e).held = T.held := by rw [Troupe.faulted, Troupe.abandon_eq]
@[simp] theorem Troupe.faulted_flt : (T.faulted e).flt = T.flt := by rw [Troupe.faulted, Troupe.abandon_eq]
@[simp] theorem Troupe.faulted_lm : (T.faulted e).lm = T.lm := by rw [Troupe.faulted, Troupe.abandon_eq]
@[simp] theorem Troupe.faulted_q : (T.faulted e).q = T.q := by rw [Troupe.faulted, Troupe.abandon_eq]
@[simp] theorem Troupe.faulted_run : (T.faulted e).run = none := by rw [Troupe.faulted, Troupe.abandon_eq]
@[simp] theorem Troupe.faulted_regs : (T.faulted e).regs =
    (T.run.map fun R => { R.saved with nf := T.regs.nf }).getD T.regs := by rw [Troupe.faulted, Troupe.abandon_eq]

end

/-! ## What a fault does (08 R216 to R221) -/

/-- The codes of the uncorrectable errors: POISON, MCHK and CKSUM. -/
def Raise.contained (r : Raise) : Prop := r.code = 0x16 ∨ r.code = 0x0C ∨ r.code = 0x0D

theorem State.contain_relaunches {u : State} {b : Nat} {B : Block} (hB : u.blocks.find b = some B) (hopen : B.window = true)
    (hleft : B.attempts < 3) (code detail : Nat) : u.contain b code detail = u.relaunch b code detail := by
  simp [State.contain, hB, hopen, hleft]

theorem State.contain_kills {u : State} {b : Nat} {B : Block} (hB : u.blocks.find b = some B)
    (hshut : B.window = false ∨ 3 ≤ B.attempts) (code detail : Nat) :
    u.contain b code detail = u.kill b code detail false := by
  obtain h | h := hshut <;> simp [State.contain, hB, h]

theorem Raise.contained_iff (r : Raise) : (r.code = 0x16 || r.code = 0x0C || r.code = 0x0D) = true ↔ r.contained := by
  simp [Raise.contained, or_assoc]

section Take
variable {u : State} {b t e : Nat} {B : Block} {T : Troupe} {K : Task} {r : Raise} (pc retry skip : Word)

theorem State.takeFault_contained (hr : r.contained) :
    u.takeFault b t e r pc retry skip = u.contain b r.code r.detail :=
  if_pos (r.contained_iff.2 hr)

variable (hr : ¬ r.contained) (hB : u.blocks.find b = some B) (hT : B.troupes.find t = some T)
  (hK : u.tasks.find B.task = some K)
include hr hB hT hK

theorem State.takeFault_delivered (hh : T.handler = none) (htrp : K.launch.trp = true) :
    u.takeFault b t e r pc retry skip = u.modTrp b t fun T =>
      T.deliver e ⟨r.code, r.lane, r.detail, pc⟩ retry skip (BitVec.ofNat 32 K.launch.trap) := by
  simp [State.takeFault, r.contained_iff, hr, State.trp?_of_find hB hT, hB, hK, hh, htrp]

theorem State.takeFault_held {h : Handler} (hh : T.handler = some h) (he : h.entry ≠ e) (htrp : K.launch.trp = true) :
    u.takeFault b t e r pc retry skip = u.modTrp b t fun T => T.hold e ⟨r.code, r.lane, r.detail, pc⟩ retry skip := by
  simp [State.takeFault, r.contained_iff, hr, State.trp?_of_find hB hT, hB, hK, hh, he, htrp]

theorem State.takeFault_unhandled (hh : ∀ h, T.handler = some h → h.entry ≠ e) (htrp : K.launch.trp = false) :
    u.takeFault b t e r pc retry skip = u.kill b r.code r.detail false := by
  cases hH : T.handler with
  | none => simp [State.takeFault, r.contained_iff, hr, State.trp?_of_find hB hT, hB, hK, hH, htrp]
  | some h => simp [State.takeFault, r.contained_iff, hr, State.trp?_of_find hB hT, hB, hK, hH, hh h hH, htrp]

theorem State.takeFault_inHandler {h : Handler} (hh : T.handler = some h) (he : h.entry = e) :
    u.takeFault b t e r pc retry skip = u.kill b r.code r.detail true := by
  simp [State.takeFault, r.contained_iff, hr, State.trp?_of_find hB hT, hB, hK, hh, he]

end Take

end Sys2Proof.Machine

namespace Sys2Proof.Machine

/-! ## The clauses of O8 -/

/-- What a fault that kills its block leaves: the event, the other blocks, the task's error word, and the block gone or
waiting for what it had committed or sent (08 R219, R220). -/
def State.KillEnds (s t : State) (c : Ctx) (r : Raise) (inHandler : Bool) : Prop :=
  (∃ e, e ∈ t.ctl.events ∧ e.code = 5 ∧ e.detail % 256 = r.code % 256 ∧ (inHandler = true → c.trp.handler.isSome = true)) ∧
  ((∀ x ∈ s.eng.gangs, x.2.task ≠ c.blk.task) → (∀ b, b ≠ c.b → t.plain b = s.plain b) ∧
    ∃ K, t.tasks.find c.blk.task = some K ∧
      K.err = (if c.task.err ≠ 0 then c.task.err else BitVec.ofNat 32 (r.code + 256 * c.blk.id)) ∧
      ((t.blocks.find c.b = none ∧ K.ended = c.task.ended + 1) ∨
        ∃ B, t.blocks.find c.b = some B ∧ K.ended = c.task.ended ∧ B.killed = some r.code ∧ B.troupes = [] ∧
          B.inst = none ∧ B.releases = [] ∧ B.window = false ∧ (∀ x ∈ B.buf, x.2.committed = true) ∧
          ((∃ x ∈ c.blk.buf, x.2.committed = true) ∨ t.unacked c.b (fun _ => true) = true ∨
            (∃ x ∈ t.cores, ∃ q ∈ x.2.mat.queue, q.b = c.b) ∨
            ∃ x ∈ (s.core c.blk.core).cache, x.2.by c.b = true)))

theorem Troupe.deliver_split_other {T : Troupe} {e x : Nat} (hx : x ≠ e) (f : Flt) (retry skip trap : Word) :
    (T.deliver e f retry skip trap).splits.find x = T.splits.find x := by
  rw [Troupe.deliver, Tab.find_mod_other _ _ hx]

section Clauses
variable {s : State} {c : Ctx} {r : Raise} (h : s.focus? = some c)
include h

/-- The block in which a fault is taken, with its task. -/
theorem State.faulted_block (r : Raise) : ∃ B, (s.faulted c r).blocks.find c.b = some B ∧
    { B with troupes := c.blk.troupes, unreach := c.blk.unreach } = c.blk ∧
    B.troupes.find c.t = some (c.trp.faulted c.e) ∧ (s.faulted c r).tasks.find B.task = some c.task := by
  obtain ⟨-, -, hK, -⟩ := State.focus?_holds h
  obtain ⟨B, hB, hrest, hT⟩ := State.faulted_find h r
  refine ⟨B, hB, hrest, hT, ?_⟩
  rw [State.faulted_tasks, show B.task = c.blk.task from (congrArg Block.task hrest :), hK]

/-- A kill of the block in which a fault is taken is one of the block as it was before the fault. -/
theorem State.faulted_killed (inHandler : Bool) (hin : inHandler = true → c.trp.handler.isSome = true) :
    s.KillEnds ((s.faulted c r).kill c.b r.code r.detail inHandler) c r inHandler := by
  obtain ⟨B, hB, hrest, -, hK⟩ := State.faulted_block h r
  have htask : B.task = c.blk.task := (congrArg Block.task hrest :)
  have hid : B.id = c.blk.id := (congrArg Block.id hrest :)
  have hbuf : B.buf = c.blk.buf := (congrArg Block.buf hrest :)
  have hcore : (s.faulted c r).core B.core = s.core c.blk.core := by
    rw [State.core, State.faulted_cores, show B.core = c.blk.core from (congrArg Block.core hrest :)]
    rfl
  have hkilled := State.kill_killed hB hK r.code r.detail inHandler
  generalize (s.faulted c r).kill c.b r.code r.detail inHandler = t at hkilled ⊢
  obtain ⟨⟨e, he, hcode, hdetail⟩, hother, L, hL, herr, hleft⟩ := hkilled
  rw [htask] at hL
  rw [hid] at herr
  rw [hbuf, hcore] at hleft
  exact ⟨⟨e, he, hcode, hdetail, hin⟩, fun _ =>
    ⟨fun b hb => (hother b hb).trans (State.plain_congr (s.faulted_find_other c r hb)), L, hL, herr, hleft⟩⟩

/-- Clause of O8 about the delivery of a fault to the handler. -/
theorem State.raiseFault_delivers (hr : ¬ r.contained) (hreach : r.code ≠ 0x17) (hh : c.trp.handler = none)
    (htrp : c.task.launch.trp = true) (pc : Word) : OnlyTroupe s (s.raiseFault c r pc) c
      ((c.trp.faulted c.e).deliver c.e ⟨r.code, r.lane, r.detail, pc⟩ c.first (s.skipOf c)
        (BitVec.ofNat 32 c.task.launch.trap)) := by
  obtain ⟨B, hB, -, hT, hK⟩ := State.faulted_block h r
  rw [State.raiseFault_eq, State.takeFault_delivered _ _ _ hr hB hT hK (by rw [Troupe.faulted_handler, hh]) htrp,
    State.faulted_of_reachable hreach, State.onTrp, State.modTrp_modTrp]
  exact OnlyTroupe.of_onTrp s c _ h

/-- Clause of O8 about a fault held while another split is in the handler. -/
theorem State.raiseFault_holds (hr : ¬ r.contained) (hreach : r.code ≠ 0x17) {H : Handler} (hh : c.trp.handler = some H)
    (he : H.entry ≠ c.e) (htrp : c.task.launch.trp = true) (pc : Word) : OnlyTroupe s (s.raiseFault c r pc) c
      ((c.trp.faulted c.e).hold c.e ⟨r.code, r.lane, r.detail, pc⟩ c.first (s.skipOf c)) := by
  obtain ⟨B, hB, -, hT, hK⟩ := State.faulted_block h r
  rw [State.raiseFault_eq, State.takeFault_held _ _ _ hr hB hT hK (by rw [Troupe.faulted_handler, hh]) he htrp,
    State.faulted_of_reachable hreach, State.onTrp, State.modTrp_modTrp]
  exact OnlyTroupe.of_onTrp s c _ h

/-- A split whose fault is taken stands where the fault sends it. -/
theorem Ctx.faulted_sent (pc : Word) (w : Wait) :
    ((c.trp.faulted c.e).splits.mod c.e fun S => { S with pc := pc, wait := w, only := none }).find c.e =
      some { c.sp with pc := pc, wait := w, only := none } := by
  rw [Tab.find_mod_same, Ctx.faulted_split h, Option.map_some]

/-- Clauses of O8 about a fault that no handler takes: the kernel has none, or the split is in it. -/
theorem State.raiseFault_kills (hr : ¬ r.contained) (hh : ∀ H, c.trp.handler = some H → H.entry ≠ c.e)
    (htrp : c.task.launch.trp = false) (pc : Word) : s.KillEnds (s.raiseFault c r pc) c r false := by
  obtain ⟨B, hB, -, hT, hK⟩ := State.faulted_block h r
  rw [State.raiseFault_eq, State.takeFault_unhandled _ _ _ hr hB hT hK (by rwa [Troupe.faulted_handler]) htrp]
  exact State.faulted_killed h false nofun

theorem State.raiseFault_kills_inHandler (hr : ¬ r.contained) {H : Handler} (hh : c.trp.handler = some H) (he : H.entry = c.e)
    (pc : Word) : s.KillEnds (s.raiseFault c r pc) c r true := by
  obtain ⟨B, hB, -, hT, hK⟩ := State.faulted_block h r
  rw [State.raiseFault_eq, State.takeFault_inHandler _ _ _ hr hB hT hK (by rw [Troupe.faulted_handler, hh]) he]
  exact State.faulted_killed h true fun _ => by rw [hh]; rfl

/-- Clause of O8 about an uncorrectable error past the relaunch window, or after three attempts. -/
theorem State.raiseFault_contains_kills (hr : r.contained) (hshut : c.blk.window = false ∨ 3 ≤ c.blk.attempts) (pc : Word) :
    s.KillEnds (s.raiseFault c r pc) c r false := by
  obtain ⟨B, hB, hrest, -, -⟩ := State.faulted_block h r
  have hwindow : B.window = c.blk.window := (congrArg Block.window hrest :)
  have hattempts : B.attempts = c.blk.attempts := (congrArg Block.attempts hrest :)
  rw [State.raiseFault_eq, State.takeFault_contained _ _ _ hr, State.contain_kills hB (by rwa [hwindow, hattempts])]
  exact State.faulted_killed h false nofun

/-- Clause of O8 about an uncorrectable error within the relaunch window. -/
theorem State.raiseFault_relaunches (hr : r.contained) (hopen : c.blk.window = true) (hleft : c.blk.attempts < 3)
    (hrecords : c.blk.records = []) (pc : Word) :
    ∃ B, (s.raiseFault c r pc).blocks.find c.b = some B ∧ B.id = c.blk.id ∧ B.task = c.blk.task ∧
      B.attempts = c.blk.attempts + 1 ∧ B.buf = [] ∧ B.window = true ∧ B.err.toNat % 256 = r.code % 256 ∧ B.inst = none ∧
      B.priv = [] ∧ (∀ k T, B.troupes.find k = some T → T.regs = {} ∧ T.lm = 0xFFFFFFFF#32 ∧ T.run = none) ∧
      ∀ b, b ≠ c.b → (s.raiseFault c r pc).blocks.find b = s.blocks.find b := by
  obtain ⟨B, hB, hrest, -, hK⟩ := State.faulted_block h r
  have hopen' : B.window = true := (congrArg Block.window hrest :).trans hopen
  have hattempts : B.attempts = c.blk.attempts := (congrArg Block.attempts hrest :)
  have hrecords' : B.records = [] := (congrArg Block.records hrest :).trans hrecords
  obtain ⟨⟨w, hw, hfind⟩, hother⟩ := State.relaunch_blocks hB hK hrecords' r.code r.detail
  rw [State.raiseFault_eq, State.takeFault_contained _ _ _ hr, State.contain_relaunches hB hopen' (hattempts ▸ hleft)]
  exact ⟨_, hfind, (congrArg Block.id hrest :), (congrArg Block.task hrest :),
    congrArg (· + 1) hattempts, rfl, rfl, hw, rfl, rfl,
    fun k T hT => State.restart_troupe hrecords' (core := (s.faulted c r).relaunchCore B c.task) hT,
    fun b hb => (hother b hb).trans (s.faulted_find_other c r hb)⟩

end Clauses

end Sys2Proof.Machine

namespace Sys2Proof

open Machine

/-- Settles O8: by the code of the fault, the troupe's handler state and the block's relaunch window. -/
theorem faultsAreDeliveredHeldOrEndTheBlock : Obligations.FaultsAreDeliveredHeldOrEndTheBlock := by
  unfold Obligations.FaultsAreDeliveredHeldOrEndTheBlock
  intro s c r pc h
  refine ⟨fun hr hreach hh htrp => ?_, fun hr hreach H hh he htrp => ?_, fun hr hh htrp => ?_, fun hr H hh he => ?_,
    fun hr hshut => ?_, fun hr hopen hleft hrecords => ?_⟩
  · refine ⟨_, _, State.raiseFault_delivers h hr hreach hh htrp pc, Ctx.faulted_sent h _ _, fun e he => ?_, rfl,
      fun w => State.skipOf_of_word, fltWord_toNat _ _, ⟨Troupe.faulted_run _ _, Troupe.faulted_regs _ _⟩,
      Troupe.faulted_lm _ _, Troupe.faulted_q _ _⟩
    exact (Troupe.deliver_split_other he ..).trans (Troupe.faulted_split_other he)
  · exact ⟨_, _, State.raiseFault_holds h hr hreach hh he htrp pc, Ctx.faulted_sent h _ _,
      congrArg (· ++ _) (Troupe.faulted_held _ _), fun w => State.skipOf_of_word,
      (Troupe.faulted_handler _ _).trans hh, Troupe.faulted_flt _ _, Troupe.faulted_run _ _, Troupe.faulted_regs _ _⟩
  · exact State.raiseFault_kills h hr hh htrp pc
  · exact State.raiseFault_kills_inHandler h hr hh he pc
  · exact State.raiseFault_contains_kills h hr hshut pc
  · exact State.raiseFault_relaunches h hr hopen hleft hrecords pc

end Sys2Proof
